-- ==== Sys2Proof/Word.lean ====
section
/-! DEFINITION. The word types of the part and their plainest arithmetic (R6, R7). -/

namespace Sys2Proof

/-- A byte. -/
abbrev Byte := BitVec 8

/-- A 32-bit control register value (R9). -/
abbrev W32 := BitVec 32

/-- A 64-bit general register, token value or ring entry. -/
abbrev W64 := BitVec 64

/-- A 256-bit vector register, memory word or pipeline command. -/
abbrev W256 := BitVec 256

end Sys2Proof
end

