-- ==== Sys2Proof/Machine/Types.lean ====
section
/-! DEFINITION. The data types that the commands and the state share: charges of the admission ledger,
events, answers to a requester, kinds of memory outcome. -/

namespace Sys2Proof.Machine

/-- Who holds charges on the admission ledger (R26): a programme, an output of a compositor, a head,
a context of a sluice, a transmit queue of a port, the twin unit. -/
inductive Holder where
  | pgm (k : Nat)
  | cmpOut (c o : Nat)
  | head (n : Nat)
  | sluCtx (n c : Nat)
  | txq (port q : Nat)
  | twin
  deriving DecidableEq, Repr

/-- Worst-case charges: (ledger entry, amount) pairs, each entry at most once (R28). -/
abbrev Charge := List (Nat × Nat)

/-- A change submitted to the ledger (R26, R30): the submitting source, who will hold the charges, and
the charges of the new configuration. -/
structure Submission where
  src : Nat
  holder : Holder
  charge : Charge
  deriving DecidableEq, Repr

/-- An event record before it is packed into the 32 bytes of table INT-1. -/
structure EventRec where
  seq : BitVec 32
  code : BitVec 16
  src : Nat
  fi : Bool
  notime : Bool
  hold : Bool
  time : BitVec 64
  secx : BitVec 16
  payload : BitVec 112
  deriving DecidableEq, Repr

/-- One item of an event's payload with the width R389 gives it: unsigned, signed, or an exact bit
pattern. -/
inductive PItem where
  | u (bytes value : Nat)
  | i (bytes : Nat) (value : Int)
  deriving DecidableEq, Repr

/-- What the last access of a requester returned to it. -/
inductive Answer where
  /-- the data of a read that completed, `bytes` long -/
  | data (bytes : Nat) (value : W256)
  /-- a poison indication (R122), or the EP completion of R467 -/
  | poison
  /-- an address error (R40), or the Unsupported Request completion of R466 -/
  | addrErr
  /-- a write that completed -/
  | written
  /-- a write that ended with a poison error (R123) -/
  | writePoison
  deriving DecidableEq, Repr

/-- How the read of one 32-byte word ends (table MEM-2, R134). `unc` tells an uncorrectable word from
one that holds the poison mark. -/
inductive RdRes where
  | ok (d : W256)
  | poison (unc : Bool)
  | addrErr
  deriving DecidableEq, Repr

/-- How the write of one word, or part of one, ends (R123, R134). -/
inductive WrRes where
  | ok
  | poison (unc : Bool)
  | addrErr
  deriving DecidableEq, Repr

/-- The result of decoding one half of a code word (R118), with the syndrome. -/
inductive HalfRes where
  | clean
  | poisonMark
  | corrected
  | uncorrectable
  deriving DecidableEq, Repr

/-- A coded picture of an access unit as its syntax has it (R234, R239, R246). A reference picture has names: its POC in HEVC, its
frame_num in AVC (−1 − LongTermFrameIdx for a long-term one), the slots that hold it in AV1. -/
structure AuPic where
  /-- general_profile_idc, seq_profile or profile_idc; whether it keeps to the tools and formats of that profile; the level -/
  profile : Nat
  tools : Bool := true
  level : Nat := 0
  /-- coded and cropped size, format (0 = 4:2:0, 1 = 4:2:2, 2 = monochrome), code points -/
  codedW : Nat
  codedH : Nat
  cropX : Nat
  cropY : Nat
  w : Nat
  h : Nat
  fmt : Nat
  bits10 : Bool
  cp : Nat
  tc : Nat
  mc : Nat
  full : Bool
  rap : Bool
  /-- the names that it predicts from, L0 index 0 or LAST first, and the blocks of them: place in that list, plane, group, block -/
  refs : List Int := []
  reads : List (Nat × Nat × Nat × Nat) := []
  /-- the names that its reference picture set keeps; those that its marking drops; the sliding window's size -/
  retain : Option (List Int) := none
  unmark : List Int := []
  slide : Option Nat := none
  /-- the names that it takes when it is decoded: none for one that nothing refers to -/
  names : List Int := []
  /-- frame_num, its modulus, whether gaps in it are allowed -/
  num : Nat := 0
  maxNum : Nat := 0
  gaps : Bool := true
  /-- the decoding process itself generates the pictures that its reference picture set lacks (H.265 clause 8.3.3) -/
  fills : Bool := false
  /-- place in output order; whether it is output; whether it ends what came before, and discards what of it was not output -/
  order : Int := 0
  show_ : Bool := true
  clears : Bool := false
  noPrior : Bool := false
  /-- the limits of the output process: pictures that wait, latency, pictures held -/
  reorder : Nat := 0
  latency : Option Nat := none
  buffering : Nat := 0
  /-- a field (true: the top one), and whether it may complete the frame of the field before it -/
  field : Option Bool := none
  second : Bool := false
  interlaced : Bool
  topFirst : Bool
  /-- film grain, and its parameters -/
  grain : Bool
  grainSet : Nat := 0
  deriving DecidableEq, Repr

/-- A decode error (R244): its byte offset in the unit, the frame of the unit that it is in, and the luma rectangles (x, y, width,
height) that the rest of its slice or tile covers. -/
structure AuErr where
  off : Nat
  frame : Nat
  lost : List (Nat × Nat × Nat × Nat)
  deriving DecidableEq, Repr

/-- What an access unit codes, in order: a picture, or in AV1 a held frame shown again, with the slots that it then takes. -/
inductive AuItem where
  | frame (p : AuPic)
  | again (slot : Int) (takes : List Int)
  deriving DecidableEq, Repr

/-- What the parsing of an access unit yields (R234, R244): what it codes, and its decode errors. -/
structure AuInfo where
  items : List AuItem
  errors : List AuErr
  deriving DecidableEq, Repr, Inhabited

/-- What a fetch of a 64 × 64 area of a reference returned (R159, R160): the reference, the area's column and row, and the blocks
read of each plane, as block number and its 256 samples. -/
structure RefArea where
  r : Nat
  X : Nat
  Y : Nat
  luma : List (Nat × List Nat)
  cb : List (Nat × List Nat)
  cr : List (Nat × List Nat)
  deriving DecidableEq, Repr

/-- What the coding of a row depends on (R23): the descriptor, the block and the regions in force, the picture's type and its
place after its random-access picture, the row, the context saved at the end of the row above (R165), whether it is a cap-floor
row, and its input samples. -/
structure RowIn where
  desc : BitVec 1536
  blk : BitVec 512
  roi : BitVec 1024
  rap : Bool
  m : Nat
  row : Nat
  ctx : Nat
  floor : Bool
  luma : List (List (BitVec 10))
  chroma : List (List (BitVec 10))
  deriving DecidableEq, Repr

/-- What the coding of a CTU depends on: its row, its column, its quality QP and the QpY or qindex that its delta starts from, whether
it is a minimum CTU and whether it must be intra, its final vector for each reference in quarter samples, its fine window and far
patches, the bytes of the CTUs before it. -/
structure CtuIn where
  row : RowIn
  col : Nat
  q : Nat
  pred : Nat
  min : Bool
  intra : Bool
  mvs : List (Int × Int)
  areas : List RefArea
  before : List (List Byte)
  deriving DecidableEq, Repr

/-- What the coding of a CTU comes to: its bytes, whether it has a coded residual, whether it is one
64 × 64 block, whether every block is intra. -/
structure CtuChoice where
  bytes : List Byte
  coded : Bool
  whole : Bool
  intra : Bool
  deriving DecidableEq, Repr, Inhabited

/-- A candidate of the mode decision (R162, R195): its SSE, the probabilities, as fractions, of its bins or symbols in the entropy state
at the row's start, what it comes to. -/
structure CtuMode where
  sse : Nat
  bins : List (Nat × Nat)
  code : CtuChoice
  deriving DecidableEq, Repr, Inhabited

/-- One channel's sample as the source carries it: its group g and its channel c of that group, from 1 (an AES3 subframe is a
channel of group 1), whether it violates the biphase code, whether it carries Z, and its audio, V, U, C and error bits of table
AUD-1. -/
structure AudSub where
  g : Nat
  c : Nat
  viol : Bool
  z : Bool
  word : BitVec 28
  deriving DecidableEq, Repr

/-- A sample frame as a capture unit's source delivers it (R342): whether its preambles are valid, the SCLK cycles that it spans,
and the channels that it carries, in their order on the line. -/
structure AudFrame where
  valid : Bool
  sclk : Nat
  subs : List AudSub
  deriving DecidableEq, Repr

/-- The number of a channel: channel c of group g is 4 (g - 1) + c - 1 (R341). -/
def AudSub.chan (x : AudSub) : Nat := 4 * (x.g - 1) + x.c - 1

/-- What a frame carries of a channel. -/
def AudFrame.word (f : AudFrame) (c : Nat) : Option (BitVec 28) := (f.subs.find? fun x => x.chan == c).map (·.word)

/-- The lowest-numbered channel pair that a frame carries. -/
def AudFrame.pair (f : AudFrame) : Option Nat := (f.subs.map fun x => x.chan / 2).min?

/-- Whether a frame is a block boundary: a sample of its lowest-numbered pair carries Z (R342). -/
def AudFrame.z (f : AudFrame) : Bool := f.subs.any fun x => x.z && f.pair == some (x.chan / 2)

end Sys2Proof.Machine
end

