-- ==== Sys2Proof/Syntax.lean ====
section
/-! DEFINITION. The commands of the part: one constructor for each row of spec/opcode_table.json, with the
operands that the row's rules give it.

A Glidel instruction carries the rake that executes it and the fields of its encoding (R57 to R60); a write that
starts an action carries the requester's source ID (table INT-2) and the value written; an event of a
unit carries the unit's instance and what the world outside supplies; a pipeline command carries
its 32 bytes. -/

namespace Sys2Proof

set_option genSizeOfSpec false

/-- A command (one row of the table of operations). -/
inductive Instr where
  /-- R12. A write to a register that has no row of its own updates its fields according to their access codes. -/
  | registerWrite (req addr : Nat) (val : BitVec 32)
  /-- R10. A register access that is not a naturally aligned 32-bit access completes without effect, and a read of this kind returns 0. -/
  | unalignedAccess (req addr : Nat) (write : Bool)
  /-- R11. An access to an offset with no register inside a subsystem window reads 0 or has no effect when written. -/
  | unimplementedAccess (req addr : Nat) (write : Bool)
  /-- R12. A read of an RC field returns its value and then clears it, while a set in the same cycle remains. -/
  | readClear (req addr : Nat)
  /-- R15. A read of a _LO register returns the live low half and latches the high half for that requester. -/
  | pairLoRead (req addr : Nat)
  /-- R15. A read of a _HI register returns the half that the requester's last _LO read latched, or the live value when there is no such read. -/
  | pairHiRead (req addr : Nat)
  /-- R15. A write to a _LO register is held for that requester and does not take effect. -/
  | pairLoWrite (req addr : Nat) (val : BitVec 32)
  /-- R15. A write to a _HI register commits the held lower half, or the live lower half, together with the written upper half in one cycle. -/
  | pairHiWrite (req addr : Nat) (val : BitVec 32)
  /-- R30. The ledger decides the first waiting submission in an FCLK, and accepts or refuses it against the entries it raises. -/
  | admissionDecide (arrivals : List Machine.Submission)
  /-- R37. Once the entry 52 limit has covered the full used value for 1 s, the part reverses the steps, one programme at a time with the lowest programme number first. -/
  | precedenceReverse
  /-- R61. Writes ra + rb modulo 2^64 to rd. -/
  | add (rk : Nat) (pg : BitVec 3) (pn : Bool) (rd ra rb : BitVec 5)
  /-- R61. Writes ra − rb modulo 2^64 to rd. -/
  | sub (rk : Nat) (pg : BitVec 3) (pn : Bool) (rd ra rb : BitVec 5)
  /-- R61. Writes ra and rb to rd. -/
  | and (rk : Nat) (pg : BitVec 3) (pn : Bool) (rd ra rb : BitVec 5)
  /-- R61. Writes ra or rb to rd. -/
  | or (rk : Nat) (pg : BitVec 3) (pn : Bool) (rd ra rb : BitVec 5)
  /-- R61. Writes ra xor rb to rd. -/
  | xor (rk : Nat) (pg : BitVec 3) (pn : Bool) (rd ra rb : BitVec 5)
  /-- R61. Writes ra and not rb to rd. -/
  | andn (rk : Nat) (pg : BitVec 3) (pn : Bool) (rd ra rb : BitVec 5)
  /-- R61. Shifts ra left by rb[5:0] into rd. -/
  | sll (rk : Nat) (pg : BitVec 3) (pn : Bool) (rd ra rb : BitVec 5)
  /-- R61. Shifts ra logically right by rb[5:0] into rd. -/
  | srl (rk : Nat) (pg : BitVec 3) (pn : Bool) (rd ra rb : BitVec 5)
  /-- R61. Shifts ra arithmetically right by rb[5:0] into rd. -/
  | sra (rk : Nat) (pg : BitVec 3) (pn : Bool) (rd ra rb : BitVec 5)
  /-- R61. Writes the signed minimum of ra and rb to rd. -/
  | min (rk : Nat) (pg : BitVec 3) (pn : Bool) (rd ra rb : BitVec 5)
  /-- R61. Writes the signed maximum of ra and rb to rd. -/
  | max (rk : Nat) (pg : BitVec 3) (pn : Bool) (rd ra rb : BitVec 5)
  /-- R61. Writes the unsigned minimum of ra and rb to rd. -/
  | minu (rk : Nat) (pg : BitVec 3) (pn : Bool) (rd ra rb : BitVec 5)
  /-- R61. Writes the unsigned maximum of ra and rb to rd. -/
  | maxu (rk : Nat) (pg : BitVec 3) (pn : Bool) (rd ra rb : BitVec 5)
  /-- R61. Writes the number of leading zeros of ra to rd. -/
  | clz (rk : Nat) (pg : BitVec 3) (pn : Bool) (rd ra : BitVec 5)
  /-- R61. Writes the number of 1 bits in ra to rd. -/
  | popc (rk : Nat) (pg : BitVec 3) (pn : Bool) (rd ra : BitVec 5)
  /-- R61. Writes ra with its eight bytes reversed to rd. -/
  | bswap (rk : Nat) (pg : BitVec 3) (pn : Bool) (rd ra : BitVec 5)
  /-- R62. Jumps to ra[15:0], or raises the instruction-fetch fault on a bad target. -/
  | jr (rk : Nat) (pg : BitVec 3) (pn : Bool) (ra : BitVec 5)
  /-- R62. Writes PC + 4 to rd and jumps to ra[15:0]. -/
  | jalr (rk : Nat) (pg : BitVec 3) (pn : Bool) (rd ra : BitVec 5)
  /-- R62. Sets predicate rd to ra = rb. -/
  | cmpeq (rk : Nat) (pg : BitVec 3) (pn : Bool) (pd : BitVec 3) (ra rb : BitVec 5)
  /-- R62. Sets predicate rd to ra ≠ rb. -/
  | cmpne (rk : Nat) (pg : BitVec 3) (pn : Bool) (pd : BitVec 3) (ra rb : BitVec 5)
  /-- R62. Sets predicate rd to the signed comparison ra < rb. -/
  | cmplt (rk : Nat) (pg : BitVec 3) (pn : Bool) (pd : BitVec 3) (ra rb : BitVec 5)
  /-- R62. Sets predicate rd to the signed comparison ra ≥ rb. -/
  | cmpge (rk : Nat) (pg : BitVec 3) (pn : Bool) (pd : BitVec 3) (ra rb : BitVec 5)
  /-- R62. Sets predicate rd to the unsigned comparison ra < rb. -/
  | cmpltu (rk : Nat) (pg : BitVec 3) (pn : Bool) (pd : BitVec 3) (ra rb : BitVec 5)
  /-- R62. Sets predicate rd to the unsigned comparison ra ≥ rb. -/
  | cmpgeu (rk : Nat) (pg : BitVec 3) (pn : Bool) (pd : BitVec 3) (ra rb : BitVec 5)
  /-- R62. Sets predicate rd to p(ra) and p(rb). -/
  | pand (rk : Nat) (pg : BitVec 3) (pn : Bool) (pd pa pb : BitVec 3)
  /-- R62. Sets predicate rd to p(ra) or p(rb). -/
  | por (rk : Nat) (pg : BitVec 3) (pn : Bool) (pd pa pb : BitVec 3)
  /-- R62. Sets predicate rd to p(ra) xor p(rb). -/
  | pxor (rk : Nat) (pg : BitVec 3) (pn : Bool) (pd pa pb : BitVec 3)
  /-- R62. Sets predicate rd to p(ra) and not p(rb). -/
  | pandn (rk : Nat) (pg : BitVec 3) (pn : Bool) (pd pa pb : BitVec 3)
  /-- R62. Copies predicates p7 to p0 into bits [7:0] of g(rd). -/
  | pget (rk : Nat) (pg : BitVec 3) (pn : Bool) (rd : BitVec 5)
  /-- R62. Sets predicates p1 to p7 from bits [7:1] of g(ra). -/
  | pset (rk : Nat) (pg : BitVec 3) (pn : Bool) (ra : BitVec 5)
  /-- R62. Writes the low 64 bits of ra × rb to rd. -/
  | mul (rk : Nat) (pg : BitVec 3) (pn : Bool) (rd ra rb : BitVec 5)
  /-- R62. Writes the high 64 bits of the unsigned product to rd. -/
  | mulhu (rk : Nat) (pg : BitVec 3) (pn : Bool) (rd ra rb : BitVec 5)
  /-- R62. Writes the high 64 bits of the signed product to rd. -/
  | mulhs (rk : Nat) (pg : BitVec 3) (pn : Bool) (rd ra rb : BitVec 5)
  /-- R63. Writes the unsigned quotient to rd, with all ones for a divisor of 0 and no fault. -/
  | divu (rk : Nat) (pg : BitVec 3) (pn : Bool) (rd ra rb : BitVec 5)
  /-- R63. Writes the signed quotient, truncated toward zero, to rd, with the results of table ISA-8 for special cases. -/
  | divs (rk : Nat) (pg : BitVec 3) (pn : Bool) (rd ra rb : BitVec 5)
  /-- R63. Writes the unsigned remainder to rd, or ra for a divisor of 0. -/
  | remu (rk : Nat) (pg : BitVec 3) (pn : Bool) (rd ra rb : BitVec 5)
  /-- R63. Writes the signed remainder, with the sign of ra, to rd. -/
  | rems (rk : Nat) (pg : BitVec 3) (pn : Bool) (rd ra rb : BitVec 5)
  /-- R59. Writes ra + sext(imm12) to rd. -/
  | addi (rk : Nat) (pg : BitVec 3) (pn : Bool) (rd ra : BitVec 5) (imm : BitVec 12)
  /-- R59. Writes ra and zext(imm12) to rd. -/
  | andi (rk : Nat) (pg : BitVec 3) (pn : Bool) (rd ra : BitVec 5) (imm : BitVec 12)
  /-- R59. Writes ra or zext(imm12) to rd. -/
  | ori (rk : Nat) (pg : BitVec 3) (pn : Bool) (rd ra : BitVec 5) (imm : BitVec 12)
  /-- R59. Writes ra xor zext(imm12) to rd. -/
  | xori (rk : Nat) (pg : BitVec 3) (pn : Bool) (rd ra : BitVec 5) (imm : BitVec 12)
  /-- R59. Shifts ra left by imm12[5:0] into rd. -/
  | slli (rk : Nat) (pg : BitVec 3) (pn : Bool) (rd ra : BitVec 5) (sh : BitVec 6)
  /-- R59. Shifts ra logically right by an immediate into rd. -/
  | srli (rk : Nat) (pg : BitVec 3) (pn : Bool) (rd ra : BitVec 5) (sh : BitVec 6)
  /-- R59. Shifts ra arithmetically right by an immediate into rd. -/
  | srai (rk : Nat) (pg : BitVec 3) (pn : Bool) (rd ra : BitVec 5) (sh : BitVec 6)
  /-- R59. Sets a predicate to ra = sext(imm12). -/
  | cmpeqi (rk : Nat) (pg : BitVec 3) (pn : Bool) (pd : BitVec 3) (ra : BitVec 5) (imm : BitVec 12)
  /-- R59. Sets a predicate to the signed comparison ra < sext(imm12). -/
  | cmplti (rk : Nat) (pg : BitVec 3) (pn : Bool) (pd : BitVec 3) (ra : BitVec 5) (imm : BitVec 12)
  /-- R59. Sets a predicate to the unsigned comparison ra < sext(imm12). -/
  | cmpltui (rk : Nat) (pg : BitVec 3) (pn : Bool) (pd : BitVec 3) (ra : BitVec 5) (imm : BitVec 12)
  /-- R60. Sets rd to sext(imm16) shifted left by s. -/
  | imh (rk : Nat) (pg : BitVec 3) (pn : Bool) (rd : BitVec 5) (sh : BitVec 2) (imm : BitVec 16)
  /-- R60. ORs zext(imm16) shifted left by s into rd. -/
  | orh (rk : Nat) (pg : BitVec 3) (pn : Bool) (rd : BitVec 5) (sh : BitVec 2) (imm : BitVec 16)
  /-- R62. Branches to PC + 4 × sext(off22), or raises the instruction-fetch fault on a target outside the store. -/
  | br (rk : Nat) (pg : BitVec 3) (pn : Bool) (off : BitVec 22)
  /-- R62. Writes PC + 4 to g31 and branches as BR does. -/
  | call (rk : Nat) (pg : BitVec 3) (pn : Bool) (off : BitVec 22)
  /-- R66. Loads 2^SZ bytes from scratch or device space into rd, after the checks of R65. -/
  | ld (rk : Nat) (pg : BitVec 3) (pn : Bool) (rd ra : BitVec 5) (sp : Bool) (sz : BitVec 2) (sx : Bool) (off : BitVec 8)
  /-- R66. Stores the low 2^SZ bytes of rd to scratch, or posts the store to device space. -/
  | st (rk : Nat) (pg : BitVec 3) (pn : Bool) (rd ra : BitVec 5) (sp : Bool) (sz : BitVec 2) (off : BitVec 8)
  /-- R66. Loads 32 bytes into a vector register. -/
  | ldv (rk : Nat) (pg : BitVec 3) (pn : Bool) (wd : BitVec 4) (ra : BitVec 5) (sp : Bool) (off : BitVec 8)
  /-- R66. Stores the 32 bytes of a vector register. -/
  | stv (rk : Nat) (pg : BitVec 3) (pn : Bool) (wd : BitVec 4) (ra : BitVec 5) (sp : Bool) (off : BitVec 8)
  /-- R69. Atomically adds rb to a memory word and returns the old value in rd. -/
  | aadd (rk : Nat) (pg : BitVec 3) (pn : Bool) (rd ra rb : BitVec 5) (sp : Bool)
  /-- R69. Atomically exchanges a memory word with rb. -/
  | aswap (rk : Nat) (pg : BitVec 3) (pn : Bool) (rd ra rb : BitVec 5) (sp : Bool)
  /-- R69. Atomically compares a memory word with rd and swaps in rb when they are equal. -/
  | acas (rk : Nat) (pg : BitVec 3) (pn : Bool) (rd ra rb : BitVec 5) (sp : Bool)
  /-- R69. Atomically ANDs rb into a memory word. -/
  | aand (rk : Nat) (pg : BitVec 3) (pn : Bool) (rd ra rb : BitVec 5) (sp : Bool)
  /-- R69. Atomically ORs rb into a memory word. -/
  | aor (rk : Nat) (pg : BitVec 3) (pn : Bool) (rd ra rb : BitVec 5) (sp : Bool)
  /-- R69. Atomically writes the unsigned maximum of a memory word and rb. -/
  | amaxu (rk : Nat) (pg : BitVec 3) (pn : Bool) (rd ra rb : BitVec 5) (sp : Bool)
  /-- R69. Atomically writes the unsigned minimum of a memory word and rb. -/
  | aminu (rk : Nat) (pg : BitVec 3) (pn : Bool) (rd ra rb : BitVec 5) (sp : Bool)
  /-- R70. Adds vector lanes with wrapping. -/
  | vadd (rk : Nat) (pg : BitVec 3) (pn : Bool) (wd wa wb : BitVec 4) (lt : BitVec 2)
  /-- R70. Subtracts vector lanes with wrapping. -/
  | vsub (rk : Nat) (pg : BitVec 3) (pn : Bool) (wd wa wb : BitVec 4) (lt : BitVec 2)
  /-- R70. Adds vector lanes with signed saturation. -/
  | vadds (rk : Nat) (pg : BitVec 3) (pn : Bool) (wd wa wb : BitVec 4) (lt : BitVec 2)
  /-- R70. Adds vector lanes with unsigned saturation. -/
  | vaddus (rk : Nat) (pg : BitVec 3) (pn : Bool) (wd wa wb : BitVec 4) (lt : BitVec 2)
  /-- R70. Subtracts vector lanes with signed saturation. -/
  | vsubs (rk : Nat) (pg : BitVec 3) (pn : Bool) (wd wa wb : BitVec 4) (lt : BitVec 2)
  /-- R70. Subtracts vector lanes with unsigned saturation at 0. -/
  | vsubus (rk : Nat) (pg : BitVec 3) (pn : Bool) (wd wa wb : BitVec 4) (lt : BitVec 2)
  /-- R70. Multiplies vector lanes and keeps the low lane-width bits. -/
  | vmul (rk : Nat) (pg : BitVec 3) (pn : Bool) (wd wa wb : BitVec 4) (lt : BitVec 2)
  /-- R70. Writes the signed minimum of each pair of lanes. -/
  | vmin (rk : Nat) (pg : BitVec 3) (pn : Bool) (wd wa wb : BitVec 4) (lt : BitVec 2)
  /-- R70. Writes the signed maximum of each pair of lanes. -/
  | vmax (rk : Nat) (pg : BitVec 3) (pn : Bool) (wd wa wb : BitVec 4) (lt : BitVec 2)
  /-- R70. Writes the unsigned minimum of each pair of lanes. -/
  | vminu (rk : Nat) (pg : BitVec 3) (pn : Bool) (wd wa wb : BitVec 4) (lt : BitVec 2)
  /-- R70. Writes the unsigned maximum of each pair of lanes. -/
  | vmaxu (rk : Nat) (pg : BitVec 3) (pn : Bool) (wd wa wb : BitVec 4) (lt : BitVec 2)
  /-- R70. Writes the rounded unsigned average of each pair of lanes. -/
  | vavgu (rk : Nat) (pg : BitVec 3) (pn : Bool) (wd wa wb : BitVec 4) (lt : BitVec 2)
  /-- R70. Writes the unsigned absolute difference of each pair of lanes. -/
  | vabsdu (rk : Nat) (pg : BitVec 3) (pn : Bool) (wd wa wb : BitVec 4) (lt : BitVec 2)
  /-- R70. Computes the bitwise AND of two vectors. -/
  | vand (rk : Nat) (pg : BitVec 3) (pn : Bool) (wd wa wb : BitVec 4)
  /-- R70. Computes the bitwise OR of two vectors. -/
  | vor (rk : Nat) (pg : BitVec 3) (pn : Bool) (wd wa wb : BitVec 4)
  /-- R70. Computes the bitwise XOR of two vectors. -/
  | vxor (rk : Nat) (pg : BitVec 3) (pn : Bool) (wd wa wb : BitVec 4)
  /-- R70. Selects bits from wa or wb under the mask in wd. -/
  | vsel (rk : Nat) (pg : BitVec 3) (pn : Bool) (wd wa wb : BitVec 4)
  /-- R70. Sets each lane to all ones where the two lanes are equal. -/
  | vcmpeq (rk : Nat) (pg : BitVec 3) (pn : Bool) (wd wa wb : BitVec 4) (lt : BitVec 2)
  /-- R70. Sets each lane to all ones where lane a is greater than lane b, signed. -/
  | vcmpgt (rk : Nat) (pg : BitVec 3) (pn : Bool) (wd wa wb : BitVec 4) (lt : BitVec 2)
  /-- R70. Sets each lane to all ones where lane a is greater than lane b, unsigned. -/
  | vcmpgtu (rk : Nat) (pg : BitVec 3) (pn : Bool) (wd wa wb : BitVec 4) (lt : BitVec 2)
  /-- R70. Sums the absolute byte differences into 64-bit lane 0. -/
  | vsad (rk : Nat) (pg : BitVec 3) (pn : Bool) (wd wa wb : BitVec 4)
  /-- R70. Sums the lanes of wa into 64-bit lane 0. -/
  | vhsum (rk : Nat) (pg : BitVec 3) (pn : Bool) (wd wa : BitVec 4) (lt : BitVec 2)
  /-- R70. Shifts each lane left. -/
  | vsll (rk : Nat) (pg : BitVec 3) (pn : Bool) (wd wa wb : BitVec 4) (lt : BitVec 2)
  /-- R70. Shifts each lane logically right. -/
  | vsrl (rk : Nat) (pg : BitVec 3) (pn : Bool) (wd wa wb : BitVec 4) (lt : BitVec 2)
  /-- R70. Shifts each lane arithmetically right. -/
  | vsra (rk : Nat) (pg : BitVec 3) (pn : Bool) (wd wa wb : BitVec 4) (lt : BitVec 2)
  /-- R70. Permutes the bytes of wa under control of wb. -/
  | vperm (rk : Nat) (pg : BitVec 3) (pn : Bool) (wd wa wb : BitVec 4)
  /-- R70. Copies g(ra) into every lane of a vector. -/
  | vsplat (rk : Nat) (pg : BitVec 3) (pn : Bool) (wd : BitVec 4) (ra : BitVec 5) (lt : BitVec 2)
  /-- R70. Inserts g(ra) into one lane of a vector. -/
  | vins (rk : Nat) (pg : BitVec 3) (pn : Bool) (wd : BitVec 4) (ra lane : BitVec 5) (lt : BitVec 2)
  /-- R70. Extracts one lane into g(rd), zero-extended. -/
  | vext (rk : Nat) (pg : BitVec 3) (pn : Bool) (rd : BitVec 5) (wa : BitVec 4) (lane : BitVec 5) (lt : BitVec 2)
  /-- R70. Extracts one lane into g(rd), sign-extended. -/
  | vexts (rk : Nat) (pg : BitVec 3) (pn : Bool) (rd : BitVec 5) (wa : BitVec 4) (lane : BitVec 5) (lt : BitVec 2)
  /-- R71. Adds a token to the outbox after checking the destination format. -/
  | tsend (rk : Nat) (pg : BitVec 3) (pn : Bool) (ra rb : BitVec 5)
  /-- R93. Adds a delayed token to the outbox, counted from the commit point. -/
  | tdelay (rk : Nat) (pg : BitVec 3) (pn : Bool) (rd ra rb : BitVec 5)
  /-- R71. Adds a cancel request to the outbox. -/
  | tcancel (rk : Nat) (pg : BitVec 3) (pn : Bool) (ra : BitVec 5)
  /-- R92. Adds an arm request with a slot descriptor to the outbox. -/
  | tarm (rk : Nat) (pg : BitVec 3) (pn : Bool) (ra rb : BitVec 5)
  /-- R71. Adds a flow release for the task's own flow to the outbox. -/
  | frel (rk : Nat) (pg : BitVec 3) (pn : Bool) (ra rb : BitVec 5)
  /-- R71. Adds a program-defined event to the outbox. -/
  | evpost (rk : Nat) (pg : BitVec 3) (pn : Bool) (ra : BitVec 5) (wb : BitVec 4)
  /-- R74. Stops issue for the task and starts its commit, which waits for every device write of the task to complete. -/
  | tend (rk : Nat) (pg : BitVec 3) (pn : Bool)
  /-- R77. Ends the task without commit, as a class P fault with cause 0x0C. -/
  | tfail (rk : Nat) (pg : BitVec 3) (pn : Bool) (ra : BitVec 5)
  /-- R72. Adds a 32-byte pipeline command for a command queue to the outbox. -/
  | pcmd (rk : Nat) (pg : BitVec 3) (pn : Bool) (ra : BitVec 5) (wb : BitVec 4)
  /-- R59. Does nothing. -/
  | nop (rk : Nat) (pg : BitVec 3) (pn : Bool)
  /-- R68. Waits until every earlier device write of the rake has completed, and takes any pending store fault. -/
  | fence (rk : Nat) (pg : BitVec 3) (pn : Bool)
  /-- R52. Halts the rake when debug is effective, and raises fault 0x0B otherwise. -/
  | brk (rk : Nat) (pg : BitVec 3) (pn : Bool)
  /-- R78. Reads a system register into rd. -/
  | srd (rk : Nat) (pg : BitVec 3) (pn : Bool) (rd : BitVec 5) (num : BitVec 12)
  /-- R78. Writes ra to a writable system register. -/
  | swr (rk : Nat) (pg : BitVec 3) (pn : Bool) (ra : BitVec 5) (num : BitVec 12)
  /-- R59. An illegal encoding raises the illegal-instruction fault whatever its guard. -/
  | illegalInstruction (rk : Nat) (word : BitVec 32)
  /-- R68. A device load completes, and its data, or a precise fault for poison or an address error, reaches the rake. -/
  | deviceLoadReturn (rk : Nat)
  /-- R68. An error arrives for a posted device store and is taken as that store's fault. -/
  | storeFault (rk : Nat)
  /-- R74. Once the task's writes have completed, the outbox moves to the tally, the commit point is recorded, the slot becomes FREE and the rake becomes free. -/
  | taskCommit (rk : Nat)
  /-- R75. A committed outbox entry is delivered to its consumer in program order once its queue has room. -/
  | outboxDelivery (pos : Nat)
  /-- R513. A task's run time exceeds BUDGET × 1,024 ECLK, and the rake raises fault 0x0A. -/
  | watchdogFault (rk : Nat)
  /-- R512. A rake self-check failure is a class M fault, and it retires the rake. -/
  | selfCheckFailure (rk : Nat) (storeError : Bool)
  /-- R49. An image load has written the whole bank, and the rake enters IDLE or the state its command requires. -/
  | imageLoadComplete (rk : Nat)
  /-- R87. An image read completes as an address error, the load stops, the rake enters EMPTY and position-load-failed is posted. -/
  | positionLoadFailed (rk addr : Nat)
  /-- R87. RK_CMD LOAD loads a position's image, or every EMPTY position's, draining a running task first. -/
  | rkLoad (req : Nat) (val : BitVec 32)
  /-- R514. RK_CMD SWAP moves a position to the lowest-numbered spare rake and returns the old rake to SPARE. -/
  | rkSwap (req : Nat) (val : BitVec 32)
  /-- R51. RK_CMD RETIRE moves a SPARE rake to RETIRED. -/
  | rkRetire (req : Nat) (val : BitVec 32)
  /-- R51. RK_CMD RESTORE returns a RETIRED rake to SPARE. -/
  | rkRestore (req : Nat) (val : BitVec 32)
  /-- R52. RK_CTRL.RESUME returns a halted rake to RUN at the instruction after the BRK. -/
  | resume (req rk : Nat) (val : BitVec 32)
  /-- R96. The tally arms a FREE slot with a descriptor, assigning a flow position when INFLOW is 1. -/
  | armRequest (src : Nat) (target desc : BitVec 64)
  /-- R97. The tally receives a token for a port of a slot and fills that port, or drops the token. -/
  | token (src : Nat) (dest value : BitVec 64)
  /-- R107. The tally handles a cancel, which frees a WAIT or READY slot or reports on a slot in RUN. -/
  | cancelRequest (src : Nat) (target : BitVec 64)
  /-- R100. In the last FCLK of its due tick, a delayed token takes effect in list order. -/
  | delayedTokenDue
  /-- R101. A due timeout marks a waiting slot timed-out, so that it dispatches at TENTRY with the ports filled so far. -/
  | timeoutTaken
  /-- R105. The tally dispatches the highest-priority dispatchable slot to an IDLE position, and sets the registers of R106. -/
  | taskDispatch
  /-- R109. Once every earlier position has been settled, a flow position delivers its stored entries to the flow target and the release counter advances. -/
  | flowRelease (flow : Nat)
  /-- R111. In its turn, a flow position whose task ended without commit is skipped, and the release counter advances. -/
  | flowSkip (flow : Nat)
  /-- R110. Setting TLY_FLOW_CFG.EN reserves flow store entries and zeroes the counters, or is refused under R110. -/
  | flowEnable (req : Nat) (val : BitVec 32)
  /-- R110. Clearing EN disables the flow, unless it still holds positions. -/
  | flowDisable (req : Nat) (val : BitVec 32)
  /-- R103. A TLY_TICK write takes effect at the next tick boundary, or sets BADTICK when out of range. -/
  | tickPeriodWrite (req : Nat) (val : BitVec 32)
  /-- R118. A controller reads a word and decodes each half as clean, corrected, poison-marked or uncorrectable. -/
  | memoryRead (req addr : Nat)
  /-- R123. A partial write is a read, a merge and a write, and a poisoned or uncorrectable word becomes the poison pattern. -/
  | partialWrite (req addr : Nat) (mask : BitVec 32) (data : BitVec 256)
  /-- R143. A whole 32-byte word is written as a new code word. -/
  | wholeWordWrite (req addr : Nat) (data : BitVec 256)
  /-- R143. Writing 1 to _INJ.ARM arms a unit's injection. -/
  | injArm (req : Nat) (bank : Bool) (n : Nat) (val : BitVec 32)
  /-- R125. Every LEAK ms, the bucket subtracts 1 from a non-zero COUNT. -/
  | bucketLeak (bank : Bool) (n : Nat)
  /-- R125. A write of LEAK restarts the leak timer, and a THRESH below COUNT lowers COUNT. -/
  | eccCfgWrite (req : Nat) (bank : Bool) (n : Nat) (val : BitVec 32)
  /-- R128. At its paced interval, the harrow reads the next word, skipping units that are not running. -/
  | harrowRead
  /-- R130. A pass not complete at the end of its period sets LATE. -/
  | harrowPassLate
  /-- R128. Setting HRW_CTRL.EN starts a new pass from the lowest address. -/
  | hrwEnable (req : Nat) (val : BitVec 32)
  /-- R128. Clearing EN stops the harrow after the word in progress. -/
  | hrwDisable (req : Nat) (val : BitVec 32)
  /-- R128. A new SECONDS applies from the next pass, and an out-of-range value has no effect. -/
  | hrwPeriodWrite (req : Nat) (val : BitVec 32)
  /-- R131. A bank that has filled every word with the poison pattern enters ON. -/
  | bankFillComplete (n : Nat)
  /-- R134. A bank in WAKE enters ON 40 µs later with its contents unchanged. -/
  | bankWakeComplete (n : Nat)
  /-- R139. The first set of MC_CTRL.EN enters INIT and starts the 1 ms intervals. -/
  | mcEnable (req n : Nat) (val : BitVec 32)
  /-- R139. A controller that has poisoned its 2 GiB enters RUN. -/
  | mcInitComplete (n : Nat)
  /-- R138. At the start of each 1 ms interval, a controller reads stack temperature and resets its parity count. -/
  | mcIntervalStart (n : Nat) (temp : BitVec 8)
  /-- R140. A command-address parity error is counted, and the 17th within an interval sets HALF. -/
  | caParityError (n : Nat)
  /-- R140. A host write of MC_CTRL.HALF moves the controller to or from half rate. -/
  | mcHalfWrite (req n : Nat) (val : BitVec 32)
  /-- R137. A calibration write while EN is 1 has no effect and sets CALLOCK. -/
  | mcCalWrite (req n : Nat) (lat : Bool) (val : BitVec 32)
  /-- R142. An access with no PHY response within 10 µs ends with poison, and access-timeout is posted. -/
  | accessTimeout (req addr : Nat) (write : Bool)
  /-- R201. When a row becomes eligible, the pan plans its row QP and projection from the basis state. -/
  | rowPlan (k : Nat)
  /-- R148. Among eligible rows, the pan starts the row with the earliest commit deadline in IN. -/
  | rowStart (n : Nat)
  /-- R206. EC codes a CTU and checks the row's guard limit. -/
  | ctuEncode (k : Nat)
  /-- R159. A fine-window column fetch completes, and the next CTU may enter FMS. -/
  | referenceFetchReturn (k : Nat)
  /-- R151. In memory input mode, the pan reads a row into a free ring row. -/
  | inputRowRead (k : Nat)
  /-- R165. Once the row has left CW and its predecessor has committed, and its rings have room, the row commits by the steps of table PAN-6. -/
  | rowCommit (k : Nat)
  /-- R171. A row not committed at its abandon point is coded again in deadline mode. -/
  | abandonPoint (k : Nat)
  /-- R183. Validates a descriptor, submits the charges and makes an IDLE programme ACTIVE. -/
  | activate (n : Nat) (cmd : BitVec 256)
  /-- R184. Accepts a new descriptor for an ACTIVE programme, to apply from a named picture. -/
  | modify (n : Nat) (cmd : BitVec 256)
  /-- R185. Makes the programme code up to a named picture and then stop. -/
  | panStop (n : Nat) (cmd : BitVec 256)
  /-- R186. Supplies a picture's time T and options, and is accepted while fewer than 4 pictures are outstanding. -/
  | picture (n : Nat) (cmd : BitVec 256)
  /-- R188. Supplies a rate and quality block to apply from the next picture in queue order. -/
  | rate (n : Nat) (cmd : BitVec 256)
  /-- R186. With no PICTURE command by the expected abandon point, the picture is coded in deadline mode and picture-late is posted. -/
  | pictureLate (k : Nat)
  /-- R236. Reads a stream descriptor, submits the charges and opens a context. -/
  | sluOpen (n ctx : Nat) (cmd : BitVec 256)
  /-- R244. Decodes one access unit, or rejects it. -/
  | sluDecode (n ctx : Nat) (cmd : BitVec 256)
  /-- R238. Outputs every decoded picture, as at end of stream. -/
  | sluFlush (n ctx : Nat) (cmd : BitVec 256)
  /-- R238. Closes the context at once, discards pictures not yet output, and releases its charges. -/
  | sluClose (n ctx : Nat) (cmd : BitVec 256)
  /-- R239. A due picture is copied to its output buffer once the consumer allows. -/
  | pictureOutput (n ctx : Nat)
  /-- R253. Reads and checks an output descriptor into the staged set. -/
  | stageOut (n q : Nat) (cmd : BitVec 256)
  /-- R253. Reads and checks a layer descriptor into the staged set. -/
  | stageLayer (n q : Nat) (cmd : BitVec 256)
  /-- R253. Reads and checks a signature table into the staged set. -/
  | stageSig (n q : Nat) (cmd : BitVec 256)
  /-- R254. Forms and checks a candidate configuration, makes it pending, and empties the staged set. -/
  | cmpCommit (n q : Nat) (cmd : BitVec 256)
  /-- R256. Copies a colour block into a colour slot and marks it loaded. -/
  | loadColour (n q : Nat) (cmd : BitVec 256)
  /-- R258. Records a buffer for a layer, to be latched at the next frame boundary. -/
  | cmpPresent (n q : Nat) (cmd : BitVec 256)
  /-- R257. Composes and delivers one band of an output once it is executable. -/
  | cmpBand (n q : Nat) (cmd : BitVec 256)
  /-- R284. Checks and charges a timing, which takes effect at the end of the current frame or at once. -/
  | setTiming (n : Nat) (cmd : BitVec 256)
  /-- R287. Accepts a plane descriptor, to apply at the next content frame boundary. -/
  | setPlane (n : Nat) (cmd : BitVec 256)
  /-- R283. Moves the head to STOPPING and to OFF at the end of the frame. -/
  | headStop (n : Nat) (cmd : BitVec 256)
  /-- R288. Names a surface for a plane, and completes when the surface is latched or superseded. -/
  | headPresent (n : Nat) (cmd : BitVec 256)
  /-- R285. At line 0, a new timing or plane configuration applies, surfaces latch, and the counter, flip record and token update. -/
  | frameBoundary (n : Nat)
  /-- R298. An active line's pixels leave as line packets or as SDI data. -/
  | activeLine (n : Nat)
  /-- R293. A plane fetch returns into the scan buffer. -/
  | scanFetchReturn (n p : Nat)
  /-- R294. Pixels whose fetch has not returned when due are transparent, and scan-late is posted. -/
  | scanLate (n p : Nat)
  /-- R295. A TE edge held for 16 PCLK is counted and paces the next frame start. -/
  | teEdge (n : Nat) (level : Bool)
  /-- R295. With no edge after TE_WAIT lines, the frame starts anyway and te-timeout is posted. -/
  | teTimeout (n : Nat)
  /-- R305. A received frame is checked, classified and handed to its receive flow. -/
  | frameReceived (port link : Nat) (frame : List (BitVec 8)) (fcs : BitVec 32)
  /-- R309. A band not complete TMO µs after a later arrival, or after the last packet, closes incomplete. -/
  | bandTimeout (flow : Nat) (idle : Bool)
  /-- R303. An Ethernet link goes up or down, and link-change is posted. -/
  | ethLinkChange (port link : Nat) (up : Bool)
  /-- R302. A write of ETH_CFG.MODE brings a port up in a mode, or takes it down. -/
  | ethModeWrite (req n : Nat) (val : BitVec 32)
  /-- R306. Reads and checks a receive flow descriptor and enables the flow. -/
  | rxfEnable (req : Nat) (val : BitVec 32)
  /-- R306. Disables a receive flow at once. -/
  | rxfDisable (req : Nat) (val : BitVec 32)
  /-- R311. A flow release's run of descriptors is copied into a transmit queue once the queue has room. -/
  | txRelease (port q : Nat)
  /-- R315. An eligible head packet of the highest class starts on its link when its gate and the guard band allow. -/
  | packetStart (port link : Nat)
  /-- R325. Poison in frame data being sent ends the frame with an inverted FCS, and tx-poison-abort is posted. -/
  | txPoisonAbort (port link : Nat)
  /-- R313. Opens or changes a transmit queue from a queue descriptor and submits its charge. -/
  | openQ (req n : Nat) (val : BitVec 32)
  /-- R313. Makes a queue CLOSING at once. -/
  | closeQ (req n : Nat) (val : BitVec 32)
  /-- R321. Installs a gate list to start at BASE, or at the next cycle after the margin. -/
  | gate (req n : Nat) (val : BitVec 32)
  /-- R319. Loads an SRTP context from a record and a key slot. -/
  | srtpLoad (req n : Nat) (val : BitVec 32)
  /-- R321. A pending gate list replaces the list in operation at its start time. -/
  | gateListStart (port : Nat)
  /-- R320. The next gate entry of the cycle takes effect. -/
  | gateEntryChange (port : Nat)
  /-- R323. Every PERIOD µs the scheduler writes a snapshot of all its queues. -/
  | queueSample (port : Nat)
  /-- R330. Sets the time to the operand when VALID is 0, and posts time-loaded. -/
  | timeLoad
  /-- R330. Adds a bounded offset to the time, cancels any slew, and posts time-stepped. -/
  | timeStep
  /-- R330. Sets a bounded slew residual to be absorbed over the following ticks. -/
  | timeSlew
  /-- R330. Clears VALID so that the next LOAD is accepted. -/
  | timeInvalidate
  /-- R330. The tick that absorbs the last residual ends the slew and posts slew-done. -/
  | slewDone
  /-- R328. A TIM_INC_HI write commits an increment within ±1,000 ppm, or sets BADINC. -/
  | incWrite (req : Nat) (val : BitVec 32)
  /-- R328. A TIM_HINC_HI write commits a holdover increment within range, or sets BADINC. -/
  | hincWrite (req : Nat) (val : BitVec 32)
  /-- R327. A read of TIM_NOW_NS returns the live nanoseconds and latches FRAC and SEC. -/
  | timeNowRead (req : Nat)
  /-- R336. A read of TIM_TXTS_ID removes the head timestamp entry and latches its time. -/
  | txtsRead (req port : Nat)
  /-- R338. Setting EN starts a timed output at its first due edge. -/
  | toutEnable (req n : Nat) (val : BitVec 32)
  /-- R337. At an edge time, the pin asserts for its tick count and COUNT increments. -/
  | toutEdge (n : Nat)
  /-- R337. After its tick count, the pin deasserts, and a once-mode output clears EN. -/
  | toutPulseEnd (n : Nat)
  /-- R342. A capture unit receives one sample frame from its source. -/
  | audioFrame (n : Nat) (f : Machine.AudFrame)
  /-- R342. A missing preamble or biphase violations lose lock. -/
  | audioLockLoss (n : Nat)
  /-- R344. Setting AUD_IN_CFG.EN starts capture and sets PROD to 0. -/
  | captureEnable (req n : Nat) (val : BitVec 32)
  /-- R348. Clearing EN completes the open word with filler and stops capture. -/
  | captureDisable (req n : Nat) (val : BitVec 32)
  /-- R345. An AUD_IN_MASK write becomes pending until the next boundary. -/
  | maskWrite (req n : Nat) (val : BitVec 32)
  /-- R350. Setting AUD_OUT_CFG.EN starts playout at frame 0 and sets CONS to 0. -/
  | playoutEnable (req n : Nat) (val : BitVec 32)
  /-- R350. At its start time, frame k is sent from the ring entries. -/
  | playoutFrame (n : Nat)
  /-- R354. A PCMD descriptor reaches a channel and is queued, or completes with status 4. -/
  | dmaPcmd (n : Nat) (desc : BitVec 256)
  /-- R354. A DMA_SUBMIT_HI write starts the read of a descriptor, or is ignored and sets DROPPED. -/
  | dmaSubmit (req n : Nat) (val : BitVec 32)
  /-- R354. A submitted descriptor read completes and is queued, or posts dma-error. -/
  | dmaSubmitRead (n : Nat)
  /-- R358. A descriptor starts, latches its regions, and is checked and bounded, with its direction chosen. -/
  | dmaStart (n : Nat)
  /-- R360. A destination beat completes, and DONE advances. -/
  | dmaBeatDone (n : Nat)
  /-- R355. A descriptor ends with one status, and sends its token and event. -/
  | dmaComplete (n : Nat)
  /-- R364. Once issued beats drain for a power-down, the channel enters PAUSED and posts dma-paused. -/
  | dmaPaused (n : Nat)
  /-- R364. Once the domains are ON again, the channel resumes from DONE and posts dma-resumed. -/
  | dmaResumed (n : Nat)
  /-- R354. Setting DMA_CFG.EN enables the channel and clears DMA_COUNT. -/
  | dmaEnable (req n : Nat) (val : BitVec 32)
  /-- R366. Clearing EN drops the running and queued descriptors at once. -/
  | dmaDisable (req n : Nat) (val : BitVec 32)
  /-- R369. An LN_CFG write changes the quad mode and relocks its PLL, or sets DENIED. -/
  | laneModeWrite (req q : Nat) (val : BitVec 32)
  /-- R369. The lane PLL locks in the new mode, and READY sets. -/
  | laneReady (q : Nat)
  /-- R376. An SLP receiver gains or loses marker lock, and lane-lock is posted. -/
  | laneLock (q l : Nat) (lock : Bool) (errs : Nat)
  /-- R378. A transmit FIR write is accepted, or sets DENIED. -/
  | laneFirWrite (req q l : Nat) (val : BitVec 32)
  /-- R379. A sleep write puts a transmitter or receiver to sleep or wakes it, or sets DENIED. -/
  | laneSleepWrite (req q l : Nat) (val : BitVec 32)
  /-- R383. Reads a capture descriptor and enables video capture on a lane. -/
  | sdiCaptureEnable (req q : Nat) (val : BitVec 32)
  /-- R383. Disables a lane's video capture. -/
  | sdiCaptureDisable (req q : Nat) (val : BitVec 32)
  /-- R382. A lane locks to an SDI raster. -/
  | sdiLockAcquired (q l errs : Nat)
  /-- R382. No timing reference within 2 line periods loses lock. -/
  | sdiLockLoss (q l errs : Nat)
  /-- R384. A received frame starts in the next buffer, and f increments. -/
  | sdiFrameStart (q l w h : Nat)
  /-- R384. A complete SDI band passes its signature to the twin unit and sends its token. -/
  | sdiBandClose (q l : Nat) (samples : List (BitVec 10))
  /-- R385. While unlocked, at t + P the stage repeats the last complete frame's bands and posts sdi-repeat. -/
  | sdiRepeat (q l : Nat)
  /-- R470. The event router takes a record and writes it to its PF ring and to any VF ring. -/
  | eventRoute (src : Nat) (masked maskedVf : Bool)
  /-- R472. When HOLD µs have passed, a deferred message is sent. -/
  | msixHoldExpiry (fn ring : Nat) (masked : Bool)
  /-- R399. Setting CHK_CFG.EN starts a unit from the next block, or sets BAD. -/
  | chkEnable (req n : Nat) (val : BitVec 32)
  /-- R399. Clearing EN discards the block in progress. -/
  | chkDisable (req n : Nat) (val : BitVec 32)
  /-- R400. A block starts, its fold is fixed, and its table entry is read. -/
  | chkBlockStart (n : Nat)
  /-- R400. A block's CRC is compared and ends as match, mismatch, incomplete or table-poisoned. -/
  | chkBlockEnd (n : Nat)
  /-- R429. Setting TWN_CTRL.EN enters PAIRING, or sets DENIED. -/
  | twinEnable (req : Nat) (val : BitVec 32)
  /-- R404. Clearing EN returns the twin unit to SOLO and unmutes. -/
  | twinDisable (req : Nat) (val : BitVec 32)
  /-- R411. Every 50 µs the unit sends a HEARTBEAT and a pulse on HB_OUT. -/
  | heartbeatSend
  /-- R411. A HEARTBEAT message from the peer is received, and it drives pairing and contention. -/
  | heartbeat (words : List (BitVec 64))
  /-- R411. A pulse on HB_IN is classified by its width as an active or non-active heartbeat. -/
  | hbPulse (ns : Nat)
  /-- R412. 200 µs without a heartbeat from an ACTIVE peer triggers takeover. -/
  | heartbeatLost
  /-- R404. With no peer heartbeat 200 µs after entering PAIRING, the part becomes ACTIVE. -/
  | pairingTimeout
  /-- R406. After the peer has been in STANDBY for 200 µs, the winner becomes ACTIVE. -/
  | standbyContention
  /-- R410. The sluice link comes up, and an ISOLATED part returns to STANDBY. -/
  | sluiceLinkUp
  /-- R410. The sluice link goes down, and link-change is posted. -/
  | sluiceLinkDown
  /-- R414. A peer band signature is received, and the held band is released or repaired under table TWN-4. -/
  | inSig (words : List (BitVec 64))
  /-- R414. A band held RWAIT µs without agreement is released as it stands. -/
  | bandHoldTimeout
  /-- R415. The part answers with REPAIR_DATA, or with REPAIR_NAK when too late. -/
  | repairReq (words : List (BitVec 64))
  /-- R415. Repair bytes are written into the local band buffer. -/
  | repairData (words : List (BitVec 64))
  /-- R415. A refused repair releases the band as it stands. -/
  | repairNak (words : List (BitVec 64))
  /-- R417. The standby compares the active's row signature with its own under table TWN-6. -/
  | outSig (words : List (BitVec 64))
  /-- R417. An active OUT_SIG missing 200 µs after the standby's commit counts as differing. -/
  | outSigTimeout
  /-- R419. SWITCH µs after the takeover decision, the twin set is unmuted. -/
  | unmute
  /-- R419. An ACTIVE part that receives ROLE TAKE enters STANDBY, mutes and clears SYNC. -/
  | roleTake (words : List (BitVec 64))
  /-- R420. A STANDBY part that receives ROLE YIELD takes over at once. -/
  | roleYield (words : List (BitVec 64))
  /-- R428. A secondary in ACTIVE answers a planned switch request with SWITCH_ACK. -/
  | switchReq (words : List (BitVec 64))
  /-- R428. The primary receives the acknowledgement of a planned switch time. -/
  | switchAck (words : List (BitVec 64))
  /-- R428. At the switch time, the roles exchange and SYNC bits are kept. -/
  | plannedSwitch
  /-- R428. A primary warm-ready for HOLDOFF s sends SWITCH_REQ. -/
  | revertHoldoff
  /-- R428. With no SWITCH_ACK within 1 ms, revert is posted with result 2. -/
  | revertTimeout
  /-- R423. A write of KICK restarts the twin watchdog period. -/
  | wdogKick (req : Nat) (val : BitVec 32)
  /-- R423. A missed kick makes an ACTIVE part yield, mute and stop heartbeats, and posts wdog. -/
  | wdogExpiry
  /-- R425. TWN_CMD SYNC starts a state copy transaction from the sync list, or sets CMDERR. -/
  | twnSync (req : Nat) (val : BitVec 32)
  /-- R427. TWN_CMD ABORT ends the open transaction and sends SYNC_ABORT. -/
  | twnAbort (req : Nat) (val : BitVec 32)
  /-- R425. With AUTO set, the active starts a transaction for unsynchronised programmes. -/
  | autoSync
  /-- R425. The standby clears the mask's SYNC bits and marks its sync pictures. -/
  | syncOpen (words : List (BitVec 64))
  /-- R425. The standby stages a received state record. -/
  | syncState (words : List (BitVec 64))
  /-- R425. The standby stages received segment bytes. -/
  | syncSeg (words : List (BitVec 64))
  /-- R425. Once every bulk message has been sent, the active sends SYNC_COMMIT. -/
  | syncCommitSend
  /-- R425. With its counts met, the standby installs segments and state records and sets SYNC. -/
  | syncCommit (words : List (BitVec 64))
  /-- R427. Counts not met within 50 µs end the transaction without commit. -/
  | syncCommitTimeout
  /-- R427. A received SYNC_ABORT discards the staged data. -/
  | syncAbort (words : List (BitVec 64))
  /-- R485. Device reset is released, registers take their reset values, banks fill and reset-done is posted. -/
  | deviceResetRelease (bootSel : BitVec 2)
  /-- R437. Both image headers have been read, and the order of trial is chosen. -/
  | headersRead (sfdp : Bool) (a b : List (BitVec 8))
  /-- R436. An image signature check completes. -/
  | signatureVerified
  /-- R436. An image payload is staged and its hash checked. -/
  | payloadStaged (payload : List (BitVec 8))
  /-- R439. SEC_BOOT_CMD.GO checks and starts the host-staged image, or sets GOREF. -/
  | bootGo (req : Nat) (val : BitVec 32)
  /-- R441. SVC_REQ_N low for 1 s makes presence true. -/
  | presenceTrue
  /-- R441. The first high level counted ends presence. -/
  | presenceEnd
  /-- R442. Blows a root key hash and then VALID in a blank slot. -/
  | provisionRootKey (req : Nat) (val : BitVec 32) (words : Option Nat)
  /-- R442. Revokes a usable root key slot. -/
  | revokeRootKey (req : Nat) (val : BitVec 32) (words : Option Nat)
  /-- R442. Raises the SVN minimum or blows the PREF fuse. -/
  | programFuse (req : Nat) (val : BitVec 32) (words : Option Nat)
  /-- R442. Sets the twin preference or runs a switchover. -/
  | twinRoleChange (req : Nat) (val : BitVec 32) (words : Option Nat)
  /-- R444. Loads a key store slot from the requester's key buffer. -/
  | keyLoad (req : Nat) (val : BitVec 32)
  /-- R444. Zeroises a key store slot. -/
  | keyErase (req : Nat) (val : BitVec 32)
  /-- R446. Two mismatched samples open the loop, and the part zeroises, relocks debug and posts tamper. -/
  | tamperLoopOpen
  /-- R448. Selects the 32-bit identification register. -/
  | idcode
  /-- R448. Selects the boundary register for sampling. -/
  | samplePreload (pins preload : List Bool)
  /-- R448. Drives the balls from the boundary register. -/
  | extest (pins drive : List Bool)
  /-- R448. Selects the 1-bit bypass register. -/
  | bypass
  /-- R449. The first capture draws a nonce and returns the challenge. -/
  | dbgChal
  /-- R449. At Update-DR, a valid response under presence zeroises and unlocks debug. -/
  | dbgResp (qx qy r sg : BitVec 384)
  /-- R449. Relocks debug access. -/
  | dbgLock (bit : Bool)
  /-- R448. Performs a device access as source 0x004 while debug is unlocked. -/
  | dbgAp (addr : Nat) (write : Bool) (data : BitVec 32)
  /-- R449. A write of SEC_STAT.LOCK relocks debug. -/
  | debugRelock (req : Nat) (val : BitVec 32)
  /-- R452. A counter wraps modulo 2^48, sets OVF, and posts counter-overflow when INT is 1. -/
  | counterOverflow (set i : Nat)
  /-- R458. Every PERIOD µs, every counter is captured and written as a snapshot. -/
  | pmuSnapshot (busy : Bool)
  /-- R459. Setting PMU_TAG.EN reseeds the LFSR and starts tagging. -/
  | tagEnable (req n : Nat) (val : BitVec 32)
  /-- R460. A tagged instruction completes, and a tag record is written. -/
  | tagRecord (rk : Nat) (full : Bool)
  /-- R466. A BAR read returns data, an Unsupported Request completion, or EP data for poison. -/
  | barRead (fn bar off len : Nat)
  /-- R467. A BAR write reaches memory or registers, or is discarded. -/
  | barWrite (fn bar off len : Nat) (data : BitVec 256) (ep : Bool)
  /-- R468. A write of HST_DB_VAL_HI rings a doorbell with the committed destination and value. -/
  | doorbell (fn : Nat) (val : BitVec 32)
  /-- R469. A held doorbell reaches the tally as a token, or is refused. -/
  | doorbellDeliver (fn : Nat)
  /-- R473. A VF reset discards its doorbells, disables its ring, drops its DMA channels and posts vf-reset. -/
  | vfFlr (v : Nat)
  /-- R473. A PF reset clears VF Enable and resets every VF and the PF page. -/
  | pfFlr
  /-- R473. The PCIe link changes state, and host-link is posted. -/
  | hostLinkChange (speed width numvf : Nat)
  /-- R486. PERST_N resets the host port only, or the device when PERST_DEV is 1. -/
  | perst
  /-- R470. A write of HST_ROUTE with SET sets the route of a source. -/
  | routeSet (req : Nat) (val : BitVec 32)
  /-- R471. Setting HST_RING_CFG.EN enables an event ring and zeroes its indices. -/
  | ringEnable (fn req : Nat) (val : BitVec 32)
  /-- R478. A lost REFCLK switches the reference to the holdover oscillator, sets HOLD and LOSS, and posts refclk-lost. -/
  | refclkLost (cause count : Nat)
  /-- R476. Two good windows make REFCLK valid, and refclk-valid is posted. -/
  | refclkValid (count : Nat)
  /-- R476. REFCLK valid for 1 ms sets REFOK, and refclk-valid is posted. -/
  | refokSet
  /-- R479. CLK_CMD.RETURN moves the reference back to REFCLK, or is refused. -/
  | refclkReturn (req : Nat) (val : BitVec 32) (lossNow : Bool)
  /-- R480. A feed outside its limits for 2 µs is disconnected, LOST is set and feed-change is posted. -/
  | feedLost (f : Nat) (above : Bool)
  /-- R480. A feed within its limits for 10 ms becomes good. -/
  | feedGood (f : Nat)
  /-- R482. Loss of VSTBY resets the always-on domain and the whole part. -/
  | vstbyLost
  /-- R484. VSTBY good for 2 ms with the root PLL locked ends the always-on reset. -/
  | alwaysOnResetRelease (refclkValid : Bool)
  /-- R483. SYS_RST_N low for 1 µs causes device reset. -/
  | sysRst
  /-- R483. CLK_RST_CMD GO with the key causes device reset 1 µs later. -/
  | softwareReset (req : Nat) (val : BitVec 32)
  /-- R484. The root PLL out of lock for 1 µs causes device reset and clears VALID. -/
  | pllFault
  /-- R491. Ten consecutive samples at or above 110 °C take the thermal trip reset. -/
  | thermalTrip
  /-- R491. Every 1 ms the junction sensors are read, and the hottest is shown. -/
  | temperatureReading (temp : BitVec 8)
  /-- R487. A PWR_REQ write checks the domain and starts its transition, or is refused. -/
  | powerRequest (req : Nat) (val : BitVec 32)
  /-- R487. A domain transition completes, and domain-change is posted. -/
  | powerTransitionDone (domain : Nat)
  /-- R327. In every TCLK tick the time base advances device time by the increment in force and adds the slew term of any slew in progress. -/
  | timeBaseTick
  /-- R99. Every TLY_TICK.PERIOD FCLK the tally tick counter advances, and a pending PERIOD write takes effect at that boundary. -/
  | tickBoundary
  /-- R379. A woken transmitter starts sending valid bits, or a woken receiver recovers its clock, and TXUP or RXUP sets. -/
  | laneWakeComplete (q l : Nat) (rx : Bool)
  /-- R381. In test mode a receiver seeds its PRBS31 checker from the first 31 received bits and locks, then counts mismatching bits in ERRS. -/
  | prbs31CheckerLock (q l : Nat) (bits : List Bool)
  /-- R446. The tamper loop samples match again, LOOP clears, and TAMPER may then be cleared. -/
  | tamperLoopClosed
  deriving DecidableEq, Repr

end Sys2Proof
end

