-- ==== Sys2Proof/WellFormed.lean ====
section
/-! DEFINITION. Which commands are well formed: every unit instance exists (table SCO-6), every guard is one the
encoding admits, and a Glidel instruction's fields are ones that R59 does not call illegal. -/

namespace Sys2Proof

/-- A guard that an encoding admits: PG = 0 with PN = 1 is illegal (R59). -/
def guardOk (pg : BitVec 3) (pn : Bool) : Bool := !(pg == 0 && pn)

/-- A lane index below the lane count of LT (table ISA-11). -/
def laneOk (lt : BitVec 2) (lane : BitVec 5) : Bool := decide (lane.toNat < 32 / 2 ^ lt.toNat)

/-- The system registers that SRD reads (table ISA-15). -/
def sysReadable (num : BitVec 12) : Bool :=
  [0x000, 0x001, 0x002, 0x003, 0x004, 0x008, 0x009, 0x010, 0x011, 0x018, 0x019, 0x01A, 0x020].contains num.toNat

/-- A 32-byte-aligned address of the 48-bit device address space (R38, R113). -/
def wordAddr (a : Nat) : Bool := a % 32 == 0 && decide (a < 2 ^ 48)

/-- An address in the control register windows (table ARC-8). -/
def regWindow (a : Nat) : Bool := decide (0x003000000000 ≤ a) && decide (a < 0x003017000000)

/-- An access of 1 to 32 bytes within a BAR that a function has (table HST-1). -/
def barFits (fn bar off len : Nat) : Bool :=
  decide (fn < 65) && len != 0 && decide (len < 33) &&
    (if fn == 0 then
      (bar == 0 && decide (off + len ≤ 2 ^ 29)) || (bar == 2 && decide (off + len ≤ 2 ^ 35)) ||
        (bar == 4 && decide (off + len ≤ 2 ^ 28))
    else (bar == 0 && decide (off + len ≤ 2 ^ 16)) || (bar == 2 && decide (off + len ≤ 2 ^ 30)))

/-- A field of a 64-bit word as a number. -/
def wordField (w : BitVec 64) (hi lo : Nat) : Nat := w.toNat / 2 ^ lo % 2 ^ (hi - lo + 1)

/-- A token destination: ports 0 to 3, and 0 in the bits that table TLY-1 reserves (R94). -/
def destOk (d : BitVec 64) : Bool := wordField d 16 14 < 4 && wordField d 23 17 == 0 && wordField d 63 32 == 0

/-- A slot descriptor of a legal format: at most four operands, bit 55 clear, a position pinned to below 96 (R92). -/
def slotDescOk (d : BitVec 64) : Bool :=
  decide (wordField d 30 28 < 5) && wordField d 55 55 == 0 && !(wordField d 36 36 == 1 && decide (95 < wordField d 43 37))

/-- Whether a command is well formed. SWR never is: table ISA-15 lists no register that may be written (R78). -/
def Instr.wf : Instr → Bool
  | .registerWrite _ addr _ => regWindow addr
  | .unalignedAccess _ addr _ => regWindow addr
  | .unimplementedAccess _ addr _ => regWindow addr
  | .readClear _ addr => regWindow addr
  | .pairLoRead _ addr => regWindow addr
  | .pairHiRead _ addr => regWindow addr
  | .pairLoWrite _ addr _ => regWindow addr
  | .pairHiWrite _ addr _ => regWindow addr
  | .admissionDecide _ => true
  | .precedenceReverse => true
  | .add rk pg pn rd ra rb => decide (rk < 104) && guardOk pg pn && !(pg == 0 && rd == 0 && ra == 0 && rb == 0)
  | .sub rk pg pn _ _ _ => decide (rk < 104) && guardOk pg pn
  | .and rk pg pn _ _ _ => decide (rk < 104) && guardOk pg pn
  | .or rk pg pn _ _ _ => decide (rk < 104) && guardOk pg pn
  | .xor rk pg pn _ _ _ => decide (rk < 104) && guardOk pg pn
  | .andn rk pg pn _ _ _ => decide (rk < 104) && guardOk pg pn
  | .sll rk pg pn _ _ _ => decide (rk < 104) && guardOk pg pn
  | .srl rk pg pn _ _ _ => decide (rk < 104) && guardOk pg pn
  | .sra rk pg pn _ _ _ => decide (rk < 104) && guardOk pg pn
  | .min rk pg pn _ _ _ => decide (rk < 104) && guardOk pg pn
  | .max rk pg pn _ _ _ => decide (rk < 104) && guardOk pg pn
  | .minu rk pg pn _ _ _ => decide (rk < 104) && guardOk pg pn
  | .maxu rk pg pn _ _ _ => decide (rk < 104) && guardOk pg pn
  | .clz rk pg pn _ _ => decide (rk < 104) && guardOk pg pn
  | .popc rk pg pn _ _ => decide (rk < 104) && guardOk pg pn
  | .bswap rk pg pn _ _ => decide (rk < 104) && guardOk pg pn
  | .jr rk pg pn _ => decide (rk < 104) && guardOk pg pn
  | .jalr rk pg pn _ _ => decide (rk < 104) && guardOk pg pn
  | .cmpeq rk pg pn _ _ _ => decide (rk < 104) && guardOk pg pn
  | .cmpne rk pg pn _ _ _ => decide (rk < 104) && guardOk pg pn
  | .cmplt rk pg pn _ _ _ => decide (rk < 104) && guardOk pg pn
  | .cmpge rk pg pn _ _ _ => decide (rk < 104) && guardOk pg pn
  | .cmpltu rk pg pn _ _ _ => decide (rk < 104) && guardOk pg pn
  | .cmpgeu rk pg pn _ _ _ => decide (rk < 104) && guardOk pg pn
  | .pand rk pg pn _ _ _ => decide (rk < 104) && guardOk pg pn
  | .por rk pg pn _ _ _ => decide (rk < 104) && guardOk pg pn
  | .pxor rk pg pn _ _ _ => decide (rk < 104) && guardOk pg pn
  | .pandn rk pg pn _ _ _ => decide (rk < 104) && guardOk pg pn
  | .pget rk pg pn _ => decide (rk < 104) && guardOk pg pn
  | .pset rk pg pn _ => decide (rk < 104) && guardOk pg pn
  | .mul rk pg pn _ _ _ => decide (rk < 104) && guardOk pg pn
  | .mulhu rk pg pn _ _ _ => decide (rk < 104) && guardOk pg pn
  | .mulhs rk pg pn _ _ _ => decide (rk < 104) && guardOk pg pn
  | .divu rk pg pn _ _ _ => decide (rk < 104) && guardOk pg pn
  | .divs rk pg pn _ _ _ => decide (rk < 104) && guardOk pg pn
  | .remu rk pg pn _ _ _ => decide (rk < 104) && guardOk pg pn
  | .rems rk pg pn _ _ _ => decide (rk < 104) && guardOk pg pn
  | .addi rk pg pn _ _ _ => decide (rk < 104) && guardOk pg pn
  | .andi rk pg pn _ _ _ => decide (rk < 104) && guardOk pg pn
  | .ori rk pg pn _ _ _ => decide (rk < 104) && guardOk pg pn
  | .xori rk pg pn _ _ _ => decide (rk < 104) && guardOk pg pn
  | .slli rk pg pn _ _ _ => decide (rk < 104) && guardOk pg pn
  | .srli rk pg pn _ _ _ => decide (rk < 104) && guardOk pg pn
  | .srai rk pg pn _ _ _ => decide (rk < 104) && guardOk pg pn
  | .cmpeqi rk pg pn _ _ _ => decide (rk < 104) && guardOk pg pn
  | .cmplti rk pg pn _ _ _ => decide (rk < 104) && guardOk pg pn
  | .cmpltui rk pg pn _ _ _ => decide (rk < 104) && guardOk pg pn
  | .imh rk pg pn _ _ _ => decide (rk < 104) && guardOk pg pn
  | .orh rk pg pn _ _ _ => decide (rk < 104) && guardOk pg pn
  | .br rk pg pn _ => decide (rk < 104) && guardOk pg pn
  | .call rk pg pn _ => decide (rk < 104) && guardOk pg pn
  | .ld rk pg pn _ _ _ sz sx _ => decide (rk < 104) && guardOk pg pn && !(sx && sz == 3)
  | .st rk pg pn _ _ _ _ _ => decide (rk < 104) && guardOk pg pn
  | .ldv rk pg pn _ _ _ _ => decide (rk < 104) && guardOk pg pn
  | .stv rk pg pn _ _ _ _ => decide (rk < 104) && guardOk pg pn
  | .aadd rk pg pn _ _ _ _ => decide (rk < 104) && guardOk pg pn
  | .aswap rk pg pn _ _ _ _ => decide (rk < 104) && guardOk pg pn
  | .acas rk pg pn _ _ _ _ => decide (rk < 104) && guardOk pg pn
  | .aand rk pg pn _ _ _ _ => decide (rk < 104) && guardOk pg pn
  | .aor rk pg pn _ _ _ _ => decide (rk < 104) && guardOk pg pn
  | .amaxu rk pg pn _ _ _ _ => decide (rk < 104) && guardOk pg pn
  | .aminu rk pg pn _ _ _ _ => decide (rk < 104) && guardOk pg pn
  | .vadd rk pg pn _ _ _ _ => decide (rk < 104) && guardOk pg pn
  | .vsub rk pg pn _ _ _ _ => decide (rk < 104) && guardOk pg pn
  | .vadds rk pg pn _ _ _ _ => decide (rk < 104) && guardOk pg pn
  | .vaddus rk pg pn _ _ _ _ => decide (rk < 104) && guardOk pg pn
  | .vsubs rk pg pn _ _ _ _ => decide (rk < 104) && guardOk pg pn
  | .vsubus rk pg pn _ _ _ _ => decide (rk < 104) && guardOk pg pn
  | .vmul rk pg pn _ _ _ _ => decide (rk < 104) && guardOk pg pn
  | .vmin rk pg pn _ _ _ _ => decide (rk < 104) && guardOk pg pn
  | .vmax rk pg pn _ _ _ _ => decide (rk < 104) && guardOk pg pn
  | .vminu rk pg pn _ _ _ _ => decide (rk < 104) && guardOk pg pn
  | .vmaxu rk pg pn _ _ _ _ => decide (rk < 104) && guardOk pg pn
  | .vavgu rk pg pn _ _ _ _ => decide (rk < 104) && guardOk pg pn
  | .vabsdu rk pg pn _ _ _ _ => decide (rk < 104) && guardOk pg pn
  | .vand rk pg pn _ _ _ => decide (rk < 104) && guardOk pg pn
  | .vor rk pg pn _ _ _ => decide (rk < 104) && guardOk pg pn
  | .vxor rk pg pn _ _ _ => decide (rk < 104) && guardOk pg pn
  | .vsel rk pg pn _ _ _ => decide (rk < 104) && guardOk pg pn
  | .vcmpeq rk pg pn _ _ _ _ => decide (rk < 104) && guardOk pg pn
  | .vcmpgt rk pg pn _ _ _ _ => decide (rk < 104) && guardOk pg pn
  | .vcmpgtu rk pg pn _ _ _ _ => decide (rk < 104) && guardOk pg pn
  | .vsad rk pg pn _ _ _ => decide (rk < 104) && guardOk pg pn
  | .vhsum rk pg pn _ _ _ => decide (rk < 104) && guardOk pg pn
  | .vsll rk pg pn _ _ _ _ => decide (rk < 104) && guardOk pg pn
  | .vsrl rk pg pn _ _ _ _ => decide (rk < 104) && guardOk pg pn
  | .vsra rk pg pn _ _ _ _ => decide (rk < 104) && guardOk pg pn
  | .vperm rk pg pn _ _ _ => decide (rk < 104) && guardOk pg pn
  | .vsplat rk pg pn _ _ _ => decide (rk < 104) && guardOk pg pn
  | .vins rk pg pn _ _ lane lt => decide (rk < 104) && guardOk pg pn && laneOk lt lane
  | .vext rk pg pn _ _ lane lt => decide (rk < 104) && guardOk pg pn && laneOk lt lane
  | .vexts rk pg pn _ _ lane lt => decide (rk < 104) && guardOk pg pn && laneOk lt lane
  | .tsend rk pg pn _ _ => decide (rk < 104) && guardOk pg pn
  | .tdelay rk pg pn _ _ _ => decide (rk < 104) && guardOk pg pn
  | .tcancel rk pg pn _ => decide (rk < 104) && guardOk pg pn
  | .tarm rk pg pn _ _ => decide (rk < 104) && guardOk pg pn
  | .frel rk pg pn _ _ => decide (rk < 104) && guardOk pg pn
  | .evpost rk pg pn _ _ => decide (rk < 104) && guardOk pg pn
  | .tend rk pg pn => decide (rk < 104) && guardOk pg pn
  | .tfail rk pg pn _ => decide (rk < 104) && guardOk pg pn
  | .pcmd rk pg pn _ _ => decide (rk < 104) && guardOk pg pn
  | .nop rk pg pn => decide (rk < 104) && guardOk pg pn
  | .fence rk pg pn => decide (rk < 104) && guardOk pg pn
  | .brk rk pg pn => decide (rk < 104) && guardOk pg pn
  | .srd rk pg pn _ num => decide (rk < 104) && guardOk pg pn && sysReadable num
  | .swr _ _ _ _ _ => false
  | .illegalInstruction rk _ => decide (rk < 104)
  | .deviceLoadReturn rk => decide (rk < 104)
  | .storeFault rk => decide (rk < 104)
  | .taskCommit rk => decide (rk < 104)
  | .outboxDelivery pos => decide (pos < 96)
  | .watchdogFault rk => decide (rk < 104)
  | .selfCheckFailure rk _ => decide (rk < 104)
  | .imageLoadComplete rk => decide (rk < 104)
  | .positionLoadFailed rk _ => decide (rk < 104)
  | .rkLoad _ _ => true
  | .rkSwap _ _ => true
  | .rkRetire _ _ => true
  | .rkRestore _ _ => true
  | .resume _ rk _ => decide (rk < 104)
  | .armRequest _ target desc => wordField target 63 14 == 0 && slotDescOk desc
  | .token _ dest _ => destOk dest
  | .cancelRequest _ target => wordField target 23 14 == 0 && wordField target 63 32 == 0
  | .delayedTokenDue => true
  | .timeoutTaken => true
  | .taskDispatch => true
  | .flowRelease flow => decide (flow < 1024)
  | .flowSkip flow => decide (flow < 1024)
  | .flowEnable _ _ => true
  | .flowDisable _ _ => true
  | .tickPeriodWrite _ _ => true
  | .memoryRead _ addr => wordAddr addr
  | .partialWrite _ addr _ _ => wordAddr addr
  | .wholeWordWrite _ addr _ => wordAddr addr
  | .injArm _ bank n _ => decide (n < (if bank then 146 else 16))
  | .bucketLeak bank n => decide (n < (if bank then 146 else 16))
  | .eccCfgWrite _ bank n _ => decide (n < (if bank then 146 else 16))
  | .harrowRead => true
  | .harrowPassLate => true
  | .hrwEnable _ _ => true
  | .hrwDisable _ _ => true
  | .hrwPeriodWrite _ _ => true
  | .bankFillComplete n => decide (n < 146)
  | .bankWakeComplete n => decide (n < 146)
  | .mcEnable _ n _ => decide (n < 16)
  | .mcInitComplete n => decide (n < 16)
  | .mcIntervalStart n _ => decide (n < 16)
  | .caParityError n => decide (n < 16)
  | .mcHalfWrite _ n _ => decide (n < 16)
  | .mcCalWrite _ n _ _ => decide (n < 16)
  | .accessTimeout _ addr _ => wordAddr addr
  | .rowPlan k => decide (k < 64)
  | .rowStart n => decide (n < 16)
  | .ctuEncode k => decide (k < 64)
  | .referenceFetchReturn k => decide (k < 64)
  | .inputRowRead k => decide (k < 64)
  | .rowCommit k => decide (k < 64)
  | .abandonPoint k => decide (k < 64)
  | .activate n _ => decide (n < 16)
  | .modify n _ => decide (n < 16)
  | .panStop n _ => decide (n < 16)
  | .picture n _ => decide (n < 64)
  | .rate n _ => decide (n < 64)
  | .pictureLate k => decide (k < 64)
  | .sluOpen n ctx _ => decide (n < 4) && decide (ctx < 8)
  | .sluDecode n ctx _ => decide (n < 4) && decide (ctx < 8)
  | .sluFlush n ctx _ => decide (n < 4) && decide (ctx < 8)
  | .sluClose n ctx _ => decide (n < 4) && decide (ctx < 8)
  | .pictureOutput n ctx => decide (n < 4) && decide (ctx < 8)
  | .stageOut n q _ => decide (n < 8) && decide (q < 8)
  | .stageLayer n q _ => decide (n < 8) && decide (q < 8)
  | .stageSig n q _ => decide (n < 8) && decide (q < 8)
  | .cmpCommit n q _ => decide (n < 8) && decide (q < 8)
  | .loadColour n q _ => decide (n < 8) && decide (q < 8)
  | .cmpPresent n q _ => decide (n < 8) && decide (q < 8)
  | .cmpBand n q _ => decide (n < 8) && decide (q < 8)
  | .setTiming n _ => decide (n < 4)
  | .setPlane n _ => decide (n < 4)
  | .headStop n _ => decide (n < 4)
  | .headPresent n _ => decide (n < 4)
  | .frameBoundary n => decide (n < 4)
  | .activeLine n => decide (n < 4)
  | .scanFetchReturn n p => decide (n < 4) && decide (p < 4)
  | .scanLate n p => decide (n < 4) && decide (p < 4)
  | .teEdge n _ => decide (n < 4)
  | .teTimeout n => decide (n < 4)
  | .frameReceived port link _ _ => decide (port < 8) && decide (link < 4)
  | .bandTimeout flow _ => decide (flow < 1024)
  | .ethLinkChange port link _ => decide (port < 8) && decide (link < 4)
  | .ethModeWrite _ n _ => decide (n < 8)
  | .rxfEnable _ _ => true
  | .rxfDisable _ _ => true
  | .txRelease port q => decide (port < 8) && decide (q < 512)
  | .packetStart port link => decide (port < 8) && decide (link < 4)
  | .txPoisonAbort port link => decide (port < 8) && decide (link < 4)
  | .openQ _ n _ => decide (n < 8)
  | .closeQ _ n _ => decide (n < 8)
  | .gate _ n _ => decide (n < 8)
  | .srtpLoad _ n _ => decide (n < 8)
  | .gateListStart port => decide (port < 8)
  | .gateEntryChange port => decide (port < 8)
  | .queueSample port => decide (port < 8)
  | .timeLoad => true
  | .timeStep => true
  | .timeSlew => true
  | .timeInvalidate => true
  | .slewDone => true
  | .incWrite _ _ => true
  | .hincWrite _ _ => true
  | .timeNowRead _ => true
  | .txtsRead _ port => decide (port < 8)
  | .toutEnable _ n _ => decide (n < 8)
  | .toutEdge n => decide (n < 8)
  | .toutPulseEnd n => decide (n < 8)
  | .audioFrame n _ => decide (n < 16)
  | .audioLockLoss n => decide (n < 16)
  | .captureEnable _ n _ => decide (n < 16)
  | .captureDisable _ n _ => decide (n < 16)
  | .maskWrite _ n _ => decide (n < 16)
  | .playoutEnable _ n _ => decide (n < 16)
  | .playoutFrame n => decide (n < 16)
  | .dmaPcmd n _ => decide (n < 32)
  | .dmaSubmit _ n _ => decide (n < 32)
  | .dmaSubmitRead n => decide (n < 32)
  | .dmaStart n => decide (n < 32)
  | .dmaBeatDone n => decide (n < 32)
  | .dmaComplete n => decide (n < 32)
  | .dmaPaused n => decide (n < 32)
  | .dmaResumed n => decide (n < 32)
  | .dmaEnable _ n _ => decide (n < 32)
  | .dmaDisable _ n _ => decide (n < 32)
  | .laneModeWrite _ q _ => decide (q < 16)
  | .laneReady q => decide (q < 16)
  | .laneLock q l _ _ => decide (q < 16) && decide (l < 4)
  | .laneFirWrite _ q l _ => decide (q < 16) && decide (l < 4)
  | .laneSleepWrite _ q l _ => decide (q < 16) && decide (l < 4)
  | .sdiCaptureEnable _ q _ => (q == 14 || q == 15)
  | .sdiCaptureDisable _ q _ => (q == 14 || q == 15)
  | .sdiLockAcquired q l _ => (q == 14 || q == 15) && decide (l < 4)
  | .sdiLockLoss q l _ => (q == 14 || q == 15) && decide (l < 4)
  | .sdiFrameStart q l _ _ => (q == 14 || q == 15) && decide (l < 4)
  | .sdiBandClose q l _ => (q == 14 || q == 15) && decide (l < 4)
  | .sdiRepeat q l => (q == 14 || q == 15) && decide (l < 4)
  | .eventRoute _ _ _ => true
  | .msixHoldExpiry fn ring _ => decide (fn < 65) && decide (ring < 32) && (fn == 0 || ring == 0)
  | .chkEnable _ n _ => decide (n < 32)
  | .chkDisable _ n _ => decide (n < 32)
  | .chkBlockStart n => decide (n < 32)
  | .chkBlockEnd n => decide (n < 32)
  | .twinEnable _ _ => true
  | .twinDisable _ _ => true
  | .heartbeatSend => true
  | .heartbeat _ => true
  | .hbPulse _ => true
  | .heartbeatLost => true
  | .pairingTimeout => true
  | .standbyContention => true
  | .sluiceLinkUp => true
  | .sluiceLinkDown => true
  | .inSig _ => true
  | .bandHoldTimeout => true
  | .repairReq _ => true
  | .repairData _ => true
  | .repairNak _ => true
  | .outSig _ => true
  | .outSigTimeout => true
  | .unmute => true
  | .roleTake _ => true
  | .roleYield _ => true
  | .switchReq _ => true
  | .switchAck _ => true
  | .plannedSwitch => true
  | .revertHoldoff => true
  | .revertTimeout => true
  | .wdogKick _ _ => true
  | .wdogExpiry => true
  | .twnSync _ _ => true
  | .twnAbort _ _ => true
  | .autoSync => true
  | .syncOpen _ => true
  | .syncState _ => true
  | .syncSeg _ => true
  | .syncCommitSend => true
  | .syncCommit _ => true
  | .syncCommitTimeout => true
  | .syncAbort _ => true
  | .deviceResetRelease _ => true
  | .headersRead _ _ _ => true
  | .signatureVerified => true
  | .payloadStaged _ => true
  | .bootGo _ _ => true
  | .presenceTrue => true
  | .presenceEnd => true
  | .provisionRootKey _ _ _ => true
  | .revokeRootKey _ _ _ => true
  | .programFuse _ _ _ => true
  | .twinRoleChange _ _ _ => true
  | .keyLoad _ _ => true
  | .keyErase _ _ => true
  | .tamperLoopOpen => true
  | .idcode => true
  | .samplePreload _ _ => true
  | .extest _ _ => true
  | .bypass => true
  | .dbgChal => true
  | .dbgResp _ _ _ _ => true
  | .dbgLock _ => true
  | .dbgAp addr _ _ => decide (addr < 281474976710656)
  | .debugRelock _ _ => true
  | .counterOverflow _ _ => true
  | .pmuSnapshot _ => true
  | .tagEnable _ n _ => decide (n < 104)
  | .tagRecord rk _ => decide (rk < 104)
  | .barRead fn bar off len => barFits fn bar off len
  | .barWrite fn bar off len _ _ => barFits fn bar off len
  | .doorbell fn _ => decide (fn < 65)
  | .doorbellDeliver fn => decide (fn < 65)
  | .vfFlr v => v != 0 && decide (v < 65)
  | .pfFlr => true
  | .hostLinkChange speed width numvf => decide (speed < 6) && decide (width < 17) && decide (numvf < 65)
  | .perst => true
  | .routeSet _ _ => true
  | .ringEnable fn _ _ => decide (fn < 65)
  | .refclkLost _ _ => true
  | .refclkValid _ => true
  | .refokSet => true
  | .refclkReturn _ _ _ => true
  | .feedLost f _ => decide (f < 6)
  | .feedGood f => decide (f < 7)
  | .vstbyLost => true
  | .alwaysOnResetRelease _ => true
  | .sysRst => true
  | .softwareReset _ _ => true
  | .pllFault => true
  | .thermalTrip => true
  | .temperatureReading _ => true
  | .powerRequest _ _ => true
  | .powerTransitionDone domain => decide (domain < 148)
  | .timeBaseTick => true
  | .tickBoundary => true
  | .laneWakeComplete q l _ => decide (q < 16) && decide (l < 4)
  | .prbs31CheckerLock q l _ => decide (q < 16) && decide (l < 4)
  | .tamperLoopClosed => true

end Sys2Proof
end

