-- ==== Sys2Proof/Decode.lean ====
section
/-! DEFINITION. Decoding. The table of operations gives no row any bits, so no word spells a command
(`decodeTableWord`). The Glidel instructions, which rakes execute, do have encodings (R57 to R78): `decodeGlidel`
reads a 32-bit word as the command of the rake that executes it, and `encodeGlidel`, written from the same tables, gives a
command's word. -/

namespace Sys2Proof

/-- The command that a word spells by the bits of the table of operations: none, since no row has bits. -/
def decodeTableWord (_nbits _w : Nat) : Option Instr := none

/-! ### Fields of the six formats (table ISA-4) -/

/-- Bits [hi:lo] of an instruction word. -/
def fieldOf (w : W32) (hi lo : Nat) : Nat := w.toNat / 2 ^ lo % 2 ^ (hi - lo + 1)

/-- Format A, OP 0x00: scalar register functions (table ISA-6). -/
def decodeScalar (rk : Nat) (pg : BitVec 3) (pn : Bool) (rd ra rb : BitVec 5) (fn : Nat) : Option Instr :=
  match fn with
  | 0x00 => some (.add rk pg pn rd ra rb)
  | 0x01 => some (.sub rk pg pn rd ra rb)
  | 0x02 => some (.and rk pg pn rd ra rb)
  | 0x03 => some (.or rk pg pn rd ra rb)
  | 0x04 => some (.xor rk pg pn rd ra rb)
  | 0x05 => some (.andn rk pg pn rd ra rb)
  | 0x06 => some (.sll rk pg pn rd ra rb)
  | 0x07 => some (.srl rk pg pn rd ra rb)
  | 0x08 => some (.sra rk pg pn rd ra rb)
  | 0x09 => some (.min rk pg pn rd ra rb)
  | 0x0A => some (.max rk pg pn rd ra rb)
  | 0x0B => some (.minu rk pg pn rd ra rb)
  | 0x0C => some (.maxu rk pg pn rd ra rb)
  | 0x0D => if rb = 0 then some (.clz rk pg pn rd ra) else none
  | 0x0E => if rb = 0 then some (.popc rk pg pn rd ra) else none
  | 0x0F => if rb = 0 then some (.bswap rk pg pn rd ra) else none
  | _ => none

/-- OP 0x16: register jumps (table ISA-6). -/
def decodeJump (rk : Nat) (pg : BitVec 3) (pn : Bool) (rd ra rb : BitVec 5) (fn : Nat) : Option Instr :=
  match fn with
  | 0x00 => if rd = 0 ∧ rb = 0 then some (.jr rk pg pn ra) else none
  | 0x01 => if rb = 0 then some (.jalr rk pg pn rd ra) else none
  | _ => none

/-- The predicate number of a register field whose bits [4:3] must be 0. -/
def predOf (r : BitVec 5) : Option (BitVec 3) :=
  if r.extractLsb' 3 2 = 0 then some (r.extractLsb' 0 3) else none

/-- OP 0x01: compare and predicate functions (table ISA-7). -/
def decodePred (rk : Nat) (pg : BitVec 3) (pn : Bool) (rd ra rb : BitVec 5) (fn : Nat) : Option Instr :=
  match fn with
  | 0x00 => (predOf rd).map (fun pd => .cmpeq rk pg pn pd ra rb)
  | 0x01 => (predOf rd).map (fun pd => .cmpne rk pg pn pd ra rb)
  | 0x02 => (predOf rd).map (fun pd => .cmplt rk pg pn pd ra rb)
  | 0x03 => (predOf rd).map (fun pd => .cmpge rk pg pn pd ra rb)
  | 0x04 => (predOf rd).map (fun pd => .cmpltu rk pg pn pd ra rb)
  | 0x05 => (predOf rd).map (fun pd => .cmpgeu rk pg pn pd ra rb)
  | 0x08 => (predOf rd).bind (fun pd => (predOf ra).bind (fun pa => (predOf rb).map (fun pb => .pand rk pg pn pd pa pb)))
  | 0x09 => (predOf rd).bind (fun pd => (predOf ra).bind (fun pa => (predOf rb).map (fun pb => .por rk pg pn pd pa pb)))
  | 0x0A => (predOf rd).bind (fun pd => (predOf ra).bind (fun pa => (predOf rb).map (fun pb => .pxor rk pg pn pd pa pb)))
  | 0x0B => (predOf rd).bind (fun pd => (predOf ra).bind (fun pa => (predOf rb).map (fun pb => .pandn rk pg pn pd pa pb)))
  | 0x0C => if ra = 0 ∧ rb = 0 then some (.pget rk pg pn rd) else none
  | 0x0D => if rd = 0 ∧ rb = 0 then some (.pset rk pg pn ra) else none
  | _ => none

/-- OP 0x02: multiply and divide functions (table ISA-8). -/
def decodeMul (rk : Nat) (pg : BitVec 3) (pn : Bool) (rd ra rb : BitVec 5) (fn : Nat) : Option Instr :=
  match fn with
  | 0x00 => some (.mul rk pg pn rd ra rb)
  | 0x01 => some (.mulhu rk pg pn rd ra rb)
  | 0x02 => some (.mulhs rk pg pn rd ra rb)
  | 0x04 => some (.divu rk pg pn rd ra rb)
  | 0x05 => some (.divs rk pg pn rd ra rb)
  | 0x06 => some (.remu rk pg pn rd ra rb)
  | 0x07 => some (.rems rk pg pn rd ra rb)
  | _ => none

/-- OP 0x1C: atomics (table ISA-9); fn[6] is the space bit, fn[5:3] must be 0. -/
def decodeAtomic (rk : Nat) (pg : BitVec 3) (pn : Bool) (rd ra rb : BitVec 5) (fn : Nat) : Option Instr :=
  let sp : Bool := fn / 64 == 1
  match fn % 64 with
  | 0 => some (.aadd rk pg pn rd ra rb sp)
  | 1 => some (.aswap rk pg pn rd ra rb sp)
  | 2 => some (.acas rk pg pn rd ra rb sp)
  | 3 => some (.aand rk pg pn rd ra rb sp)
  | 4 => some (.aor rk pg pn rd ra rb sp)
  | 5 => some (.amaxu rk pg pn rd ra rb sp)
  | 6 => some (.aminu rk pg pn rd ra rb sp)
  | _ => none

/-- OP 0x20: vector ALU (table ISA-10). -/
def decodeVector (rk : Nat) (pg : BitVec 3) (pn : Bool) (wd wa wb : BitVec 4) (lt : BitVec 2) (fn : Nat) : Option Instr :=
  match fn with
  | 0x00 => some (.vadd rk pg pn wd wa wb lt)
  | 0x01 => some (.vsub rk pg pn wd wa wb lt)
  | 0x02 => some (.vadds rk pg pn wd wa wb lt)
  | 0x03 => some (.vaddus rk pg pn wd wa wb lt)
  | 0x04 => some (.vsubs rk pg pn wd wa wb lt)
  | 0x05 => some (.vsubus rk pg pn wd wa wb lt)
  | 0x06 => some (.vmul rk pg pn wd wa wb lt)
  | 0x08 => some (.vmin rk pg pn wd wa wb lt)
  | 0x09 => some (.vmax rk pg pn wd wa wb lt)
  | 0x0A => some (.vminu rk pg pn wd wa wb lt)
  | 0x0B => some (.vmaxu rk pg pn wd wa wb lt)
  | 0x0C => some (.vavgu rk pg pn wd wa wb lt)
  | 0x0D => some (.vabsdu rk pg pn wd wa wb lt)
  | 0x10 => if lt = 0 then some (.vand rk pg pn wd wa wb) else none
  | 0x11 => if lt = 0 then some (.vor rk pg pn wd wa wb) else none
  | 0x12 => if lt = 0 then some (.vxor rk pg pn wd wa wb) else none
  | 0x13 => if lt = 0 then some (.vsel rk pg pn wd wa wb) else none
  | 0x18 => some (.vcmpeq rk pg pn wd wa wb lt)
  | 0x19 => some (.vcmpgt rk pg pn wd wa wb lt)
  | 0x1A => some (.vcmpgtu rk pg pn wd wa wb lt)
  | 0x20 => if lt = 0 then some (.vsad rk pg pn wd wa wb) else none
  | 0x21 => if wb = 0 then some (.vhsum rk pg pn wd wa lt) else none
  | 0x28 => some (.vsll rk pg pn wd wa wb lt)
  | 0x29 => some (.vsrl rk pg pn wd wa wb lt)
  | 0x2A => some (.vsra rk pg pn wd wa wb lt)
  | 0x30 => if lt = 0 then some (.vperm rk pg pn wd wa wb) else none
  | _ => none

/-- The number of a vector register in a 5-bit field whose bit 4 must be 0. -/
def wregOf (r : BitVec 5) : Option (BitVec 4) :=
  if r.extractLsb' 4 1 = 0 then some (r.extractLsb' 0 4) else none

/-- OP 0x21: vector moves (table ISA-11); fn[1:0] is LT, and a lane at or above the lane count is illegal. -/
def decodeMove (rk : Nat) (pg : BitVec 3) (pn : Bool) (rd ra rb : BitVec 5) (fn : Nat) : Option Instr :=
  let lt : BitVec 2 := BitVec.ofNat 2 fn
  match fn / 4 with
  | 0 => if rb = 0 then (wregOf rd).map (fun wd => .vsplat rk pg pn wd ra lt) else none
  | 1 => if laneOk lt rb then (wregOf rd).map (fun wd => .vins rk pg pn wd ra rb lt) else none
  | 2 => if laneOk lt rb then (wregOf ra).map (fun wa => .vext rk pg pn rd wa rb lt) else none
  | 3 => if laneOk lt rb then (wregOf ra).map (fun wa => .vexts rk pg pn rd wa rb lt) else none
  | _ => none

/-- OP 0x28 and 0x2C: token, task and pipeline-command functions (table ISA-12). -/
def decodeToken (rk : Nat) (pg : BitVec 3) (pn : Bool) (rd ra rb : BitVec 5) (fn : Nat) : Option Instr :=
  match fn with
  | 0x00 => if rd = 0 then some (.tsend rk pg pn ra rb) else none
  | 0x01 => some (.tdelay rk pg pn rd ra rb)
  | 0x02 => if rd = 0 ∧ rb = 0 then some (.tcancel rk pg pn ra) else none
  | 0x03 => if rd = 0 then some (.tarm rk pg pn ra rb) else none
  | 0x04 => if rd = 0 then some (.frel rk pg pn ra rb) else none
  | 0x05 => if rd = 0 then (wregOf rb).map (fun wb => .evpost rk pg pn ra wb) else none
  | 0x10 => if rd = 0 ∧ ra = 0 ∧ rb = 0 then some (.tend rk pg pn) else none
  | 0x11 => if rd = 0 ∧ rb = 0 then some (.tfail rk pg pn ra) else none
  | _ => none

/-- OP 0x30: system functions (table ISA-13). -/
def decodeSystem (rk : Nat) (pg : BitVec 3) (pn : Bool) (rd ra rb : BitVec 5) (fn : Nat) : Option Instr :=
  if rd = 0 ∧ ra = 0 ∧ rb = 0 then
    match fn with
    | 0x00 => some (.nop rk pg pn)
    | 0x01 => some (.fence rk pg pn)
    | 0x02 => some (.brk rk pg pn)
    | _ => none
  else none

/-- The command that a Glidel word spells on rake rk; none for an illegal encoding (R59). -/
def decodeGlidel (rk : Nat) (w : W32) : Option Instr :=
  let op := fieldOf w 31 26
  let pg : BitVec 3 := w.extractLsb' 23 3
  let pn : Bool := w.getLsbD 22
  let rd : BitVec 5 := w.extractLsb' 17 5
  let ra : BitVec 5 := w.extractLsb' 12 5
  let rb : BitVec 5 := w.extractLsb' 7 5
  let fn := fieldOf w 6 0
  let imm : BitVec 12 := w.extractLsb' 0 12
  let sh : BitVec 6 := w.extractLsb' 0 6
  let shOk : Prop := w.extractLsb' 6 6 = (0 : BitVec 6)
  let sp : Bool := w.getLsbD 11
  let sz : BitVec 2 := w.extractLsb' 9 2
  let sx : Bool := w.getLsbD 8
  let off : BitVec 8 := w.extractLsb' 0 8
  if w = 0 ∨ (pg = 0 ∧ pn = true) then none
  else match op with
  | 0x00 => decodeScalar rk pg pn rd ra rb fn
  | 0x01 => decodePred rk pg pn rd ra rb fn
  | 0x02 => decodeMul rk pg pn rd ra rb fn
  | 0x04 => some (.addi rk pg pn rd ra imm)
  | 0x05 => some (.andi rk pg pn rd ra imm)
  | 0x06 => some (.ori rk pg pn rd ra imm)
  | 0x07 => some (.xori rk pg pn rd ra imm)
  | 0x08 => if shOk then some (.slli rk pg pn rd ra sh) else none
  | 0x09 => if shOk then some (.srli rk pg pn rd ra sh) else none
  | 0x0A => if shOk then some (.srai rk pg pn rd ra sh) else none
  | 0x0B => (predOf rd).map (fun pd => .cmpeqi rk pg pn pd ra imm)
  | 0x0C => (predOf rd).map (fun pd => .cmplti rk pg pn pd ra imm)
  | 0x0D => (predOf rd).map (fun pd => .cmpltui rk pg pn pd ra imm)
  | 0x10 | 0x11 | 0x12 | 0x13 =>
    let s : BitVec 2 := w.extractLsb' 26 2
    let imm16 : BitVec 16 := w.extractLsb' 0 16
    if w.getLsbD 16 then some (.orh rk pg pn rd s imm16) else some (.imh rk pg pn rd s imm16)
  | 0x14 => some (.br rk pg pn (w.extractLsb' 0 22))
  | 0x15 => some (.call rk pg pn (w.extractLsb' 0 22))
  | 0x16 => decodeJump rk pg pn rd ra rb fn
  | 0x18 => if sx = true ∧ sz = 3 then none else some (.ld rk pg pn rd ra sp sz sx off)
  | 0x19 => if sx then none else some (.st rk pg pn rd ra sp sz off)
  | 0x1A => if sx = true ∨ sz ≠ 0 then none else (wregOf rd).map (fun wd => .ldv rk pg pn wd ra sp off)
  | 0x1B => if sx = true ∨ sz ≠ 0 then none else (wregOf rd).map (fun wd => .stv rk pg pn wd ra sp off)
  | 0x1C => decodeAtomic rk pg pn rd ra rb fn
  | 0x20 => decodeVector rk pg pn (w.extractLsb' 18 4) (w.extractLsb' 14 4) (w.extractLsb' 10 4) (w.extractLsb' 8 2)
      (fieldOf w 7 0)
  | 0x21 => decodeMove rk pg pn rd ra rb fn
  | 0x28 => decodeToken rk pg pn rd ra rb fn
  | 0x2C => if rd = 0 ∧ fn = 0 then (wregOf rb).map (fun wb => .pcmd rk pg pn ra wb) else none
  | 0x30 => decodeSystem rk pg pn rd ra rb fn
  | 0x31 => if sysReadable imm then some (.srd rk pg pn rd imm) else none
  | _ => none

/-! ### The encoder, from the same tables -/

/-- The guard and opcode bits of a word (R57). -/
def encHead (op : BitVec 6) (pg : BitVec 3) (pn : Bool) (rest : BitVec 22) : W32 :=
  op ++ pg ++ (BitVec.ofBool pn) ++ rest

/-- Format A. -/
def encA (op : BitVec 6) (pg : BitVec 3) (pn : Bool) (rd ra rb : BitVec 5) (fn : BitVec 7) : W32 :=
  encHead op pg pn (rd ++ ra ++ rb ++ fn)

/-- Format B. -/
def encB (op : BitVec 6) (pg : BitVec 3) (pn : Bool) (rd ra : BitVec 5) (imm : BitVec 12) : W32 :=
  encHead op pg pn (rd ++ ra ++ imm)

/-- Format C. -/
def encC (s : BitVec 2) (pg : BitVec 3) (pn : Bool) (rd : BitVec 5) (k : Bool) (imm : BitVec 16) : W32 :=
  encHead ((0b0100#4 : BitVec 4) ++ s) pg pn (rd ++ BitVec.ofBool k ++ imm)

/-- Format E. -/
def encE (op : BitVec 6) (pg : BitVec 3) (pn : Bool) (rd ra : BitVec 5) (sp : Bool) (sz : BitVec 2) (sx : Bool)
    (off : BitVec 8) : W32 :=
  encHead op pg pn (rd ++ ra ++ BitVec.ofBool sp ++ sz ++ BitVec.ofBool sx ++ off)

/-- Format F. -/
def encF (pg : BitVec 3) (pn : Bool) (wd wa wb : BitVec 4) (lt : BitVec 2) (fn : BitVec 8) : W32 :=
  encHead 0x20#6 pg pn (wd ++ wa ++ wb ++ lt ++ fn)

/-- A predicate number in a 5-bit field. -/
def pf (p : BitVec 3) : BitVec 5 := (0#2) ++ p

/-- A vector register number in a 5-bit field. -/
def wf5 (w : BitVec 4) : BitVec 5 := (0#1) ++ w

/-- The word of a Glidel instruction (R57 to R78); none for a command that is no Glidel instruction. -/
def encodeGlidel : Instr → Option W32
  | .add _ pg pn rd ra rb => some (encA 0x00#6 pg pn rd ra rb 0x00#7)
  | .sub _ pg pn rd ra rb => some (encA 0x00#6 pg pn rd ra rb 0x01#7)
  | .and _ pg pn rd ra rb => some (encA 0x00#6 pg pn rd ra rb 0x02#7)
  | .or _ pg pn rd ra rb => some (encA 0x00#6 pg pn rd ra rb 0x03#7)
  | .xor _ pg pn rd ra rb => some (encA 0x00#6 pg pn rd ra rb 0x04#7)
  | .andn _ pg pn rd ra rb => some (encA 0x00#6 pg pn rd ra rb 0x05#7)
  | .sll _ pg pn rd ra rb => some (encA 0x00#6 pg pn rd ra rb 0x06#7)
  | .srl _ pg pn rd ra rb => some (encA 0x00#6 pg pn rd ra rb 0x07#7)
  | .sra _ pg pn rd ra rb => some (encA 0x00#6 pg pn rd ra rb 0x08#7)
  | .min _ pg pn rd ra rb => some (encA 0x00#6 pg pn rd ra rb 0x09#7)
  | .max _ pg pn rd ra rb => some (encA 0x00#6 pg pn rd ra rb 0x0A#7)
  | .minu _ pg pn rd ra rb => some (encA 0x00#6 pg pn rd ra rb 0x0B#7)
  | .maxu _ pg pn rd ra rb => some (encA 0x00#6 pg pn rd ra rb 0x0C#7)
  | .clz _ pg pn rd ra => some (encA 0x00#6 pg pn rd ra 0 0x0D#7)
  | .popc _ pg pn rd ra => some (encA 0x00#6 pg pn rd ra 0 0x0E#7)
  | .bswap _ pg pn rd ra => some (encA 0x00#6 pg pn rd ra 0 0x0F#7)
  | .jr _ pg pn ra => some (encA 0x16#6 pg pn 0 ra 0 0x00#7)
  | .jalr _ pg pn rd ra => some (encA 0x16#6 pg pn rd ra 0 0x01#7)
  | .cmpeq _ pg pn pd ra rb => some (encA 0x01#6 pg pn (pf pd) ra rb 0x00#7)
  | .cmpne _ pg pn pd ra rb => some (encA 0x01#6 pg pn (pf pd) ra rb 0x01#7)
  | .cmplt _ pg pn pd ra rb => some (encA 0x01#6 pg pn (pf pd) ra rb 0x02#7)
  | .cmpge _ pg pn pd ra rb => some (encA 0x01#6 pg pn (pf pd) ra rb 0x03#7)
  | .cmpltu _ pg pn pd ra rb => some (encA 0x01#6 pg pn (pf pd) ra rb 0x04#7)
  | .cmpgeu _ pg pn pd ra rb => some (encA 0x01#6 pg pn (pf pd) ra rb 0x05#7)
  | .pand _ pg pn pd pa pb => some (encA 0x01#6 pg pn (pf pd) (pf pa) (pf pb) 0x08#7)
  | .por _ pg pn pd pa pb => some (encA 0x01#6 pg pn (pf pd) (pf pa) (pf pb) 0x09#7)
  | .pxor _ pg pn pd pa pb => some (encA 0x01#6 pg pn (pf pd) (pf pa) (pf pb) 0x0A#7)
  | .pandn _ pg pn pd pa pb => some (encA 0x01#6 pg pn (pf pd) (pf pa) (pf pb) 0x0B#7)
  | .pget _ pg pn rd => some (encA 0x01#6 pg pn rd 0 0 0x0C#7)
  | .pset _ pg pn ra => some (encA 0x01#6 pg pn 0 ra 0 0x0D#7)
  | .mul _ pg pn rd ra rb => some (encA 0x02#6 pg pn rd ra rb 0x00#7)
  | .mulhu _ pg pn rd ra rb => some (encA 0x02#6 pg pn rd ra rb 0x01#7)
  | .mulhs _ pg pn rd ra rb => some (encA 0x02#6 pg pn rd ra rb 0x02#7)
  | .divu _ pg pn rd ra rb => some (encA 0x02#6 pg pn rd ra rb 0x04#7)
  | .divs _ pg pn rd ra rb => some (encA 0x02#6 pg pn rd ra rb 0x05#7)
  | .remu _ pg pn rd ra rb => some (encA 0x02#6 pg pn rd ra rb 0x06#7)
  | .rems _ pg pn rd ra rb => some (encA 0x02#6 pg pn rd ra rb 0x07#7)
  | .addi _ pg pn rd ra imm => some (encB 0x04#6 pg pn rd ra imm)
  | .andi _ pg pn rd ra imm => some (encB 0x05#6 pg pn rd ra imm)
  | .ori _ pg pn rd ra imm => some (encB 0x06#6 pg pn rd ra imm)
  | .xori _ pg pn rd ra imm => some (encB 0x07#6 pg pn rd ra imm)
  | .slli _ pg pn rd ra sh => some (encB 0x08#6 pg pn rd ra ((0#6) ++ sh))
  | .srli _ pg pn rd ra sh => some (encB 0x09#6 pg pn rd ra ((0#6) ++ sh))
  | .srai _ pg pn rd ra sh => some (encB 0x0A#6 pg pn rd ra ((0#6) ++ sh))
  | .cmpeqi _ pg pn pd ra imm => some (encB 0x0B#6 pg pn (pf pd) ra imm)
  | .cmplti _ pg pn pd ra imm => some (encB 0x0C#6 pg pn (pf pd) ra imm)
  | .cmpltui _ pg pn pd ra imm => some (encB 0x0D#6 pg pn (pf pd) ra imm)
  | .imh _ pg pn rd s imm => some (encC s pg pn rd false imm)
  | .orh _ pg pn rd s imm => some (encC s pg pn rd true imm)
  | .br _ pg pn off => some (encHead 0x14#6 pg pn off)
  | .call _ pg pn off => some (encHead 0x15#6 pg pn off)
  | .ld _ pg pn rd ra sp sz sx off => some (encE 0x18#6 pg pn rd ra sp sz sx off)
  | .st _ pg pn rd ra sp sz off => some (encE 0x19#6 pg pn rd ra sp sz false off)
  | .ldv _ pg pn wd ra sp off => some (encE 0x1A#6 pg pn (wf5 wd) ra sp 0 false off)
  | .stv _ pg pn wd ra sp off => some (encE 0x1B#6 pg pn (wf5 wd) ra sp 0 false off)
  | .aadd _ pg pn rd ra rb sp => some (encA 0x1C#6 pg pn rd ra rb (BitVec.ofBool sp ++ 0#6))
  | .aswap _ pg pn rd ra rb sp => some (encA 0x1C#6 pg pn rd ra rb (BitVec.ofBool sp ++ 1#6))
  | .acas _ pg pn rd ra rb sp => some (encA 0x1C#6 pg pn rd ra rb (BitVec.ofBool sp ++ 2#6))
  | .aand _ pg pn rd ra rb sp => some (encA 0x1C#6 pg pn rd ra rb (BitVec.ofBool sp ++ 3#6))
  | .aor _ pg pn rd ra rb sp => some (encA 0x1C#6 pg pn rd ra rb (BitVec.ofBool sp ++ 4#6))
  | .amaxu _ pg pn rd ra rb sp => some (encA 0x1C#6 pg pn rd ra rb (BitVec.ofBool sp ++ 5#6))
  | .aminu _ pg pn rd ra rb sp => some (encA 0x1C#6 pg pn rd ra rb (BitVec.ofBool sp ++ 6#6))
  | .vadd _ pg pn wd wa wb lt => some (encF pg pn wd wa wb lt 0x00#8)
  | .vsub _ pg pn wd wa wb lt => some (encF pg pn wd wa wb lt 0x01#8)
  | .vadds _ pg pn wd wa wb lt => some (encF pg pn wd wa wb lt 0x02#8)
  | .vaddus _ pg pn wd wa wb lt => some (encF pg pn wd wa wb lt 0x03#8)
  | .vsubs _ pg pn wd wa wb lt => some (encF pg pn wd wa wb lt 0x04#8)
  | .vsubus _ pg pn wd wa wb lt => some (encF pg pn wd wa wb lt 0x05#8)
  | .vmul _ pg pn wd wa wb lt => some (encF pg pn wd wa wb lt 0x06#8)
  | .vmin _ pg pn wd wa wb lt => some (encF pg pn wd wa wb lt 0x08#8)
  | .vmax _ pg pn wd wa wb lt => some (encF pg pn wd wa wb lt 0x09#8)
  | .vminu _ pg pn wd wa wb lt => some (encF pg pn wd wa wb lt 0x0A#8)
  | .vmaxu _ pg pn wd wa wb lt => some (encF pg pn wd wa wb lt 0x0B#8)
  | .vavgu _ pg pn wd wa wb lt => some (encF pg pn wd wa wb lt 0x0C#8)
  | .vabsdu _ pg pn wd wa wb lt => some (encF pg pn wd wa wb lt 0x0D#8)
  | .vand _ pg pn wd wa wb => some (encF pg pn wd wa wb 0 0x10#8)
  | .vor _ pg pn wd wa wb => some (encF pg pn wd wa wb 0 0x11#8)
  | .vxor _ pg pn wd wa wb => some (encF pg pn wd wa wb 0 0x12#8)
  | .vsel _ pg pn wd wa wb => some (encF pg pn wd wa wb 0 0x13#8)
  | .vcmpeq _ pg pn wd wa wb lt => some (encF pg pn wd wa wb lt 0x18#8)
  | .vcmpgt _ pg pn wd wa wb lt => some (encF pg pn wd wa wb lt 0x19#8)
  | .vcmpgtu _ pg pn wd wa wb lt => some (encF pg pn wd wa wb lt 0x1A#8)
  | .vsad _ pg pn wd wa wb => some (encF pg pn wd wa wb 0 0x20#8)
  | .vhsum _ pg pn wd wa lt => some (encF pg pn wd wa 0 lt 0x21#8)
  | .vsll _ pg pn wd wa wb lt => some (encF pg pn wd wa wb lt 0x28#8)
  | .vsrl _ pg pn wd wa wb lt => some (encF pg pn wd wa wb lt 0x29#8)
  | .vsra _ pg pn wd wa wb lt => some (encF pg pn wd wa wb lt 0x2A#8)
  | .vperm _ pg pn wd wa wb => some (encF pg pn wd wa wb 0 0x30#8)
  | .vsplat _ pg pn wd ra lt => some (encA 0x21#6 pg pn (wf5 wd) ra 0 (0#5 ++ lt))
  | .vins _ pg pn wd ra lane lt => some (encA 0x21#6 pg pn (wf5 wd) ra lane (1#5 ++ lt))
  | .vext _ pg pn rd wa lane lt => some (encA 0x21#6 pg pn rd (wf5 wa) lane (2#5 ++ lt))
  | .vexts _ pg pn rd wa lane lt => some (encA 0x21#6 pg pn rd (wf5 wa) lane (3#5 ++ lt))
  | .tsend _ pg pn ra rb => some (encA 0x28#6 pg pn 0 ra rb 0x00#7)
  | .tdelay _ pg pn rd ra rb => some (encA 0x28#6 pg pn rd ra rb 0x01#7)
  | .tcancel _ pg pn ra => some (encA 0x28#6 pg pn 0 ra 0 0x02#7)
  | .tarm _ pg pn ra rb => some (encA 0x28#6 pg pn 0 ra rb 0x03#7)
  | .frel _ pg pn ra rb => some (encA 0x28#6 pg pn 0 ra rb 0x04#7)
  | .evpost _ pg pn ra wb => some (encA 0x28#6 pg pn 0 ra (wf5 wb) 0x05#7)
  | .tend _ pg pn => some (encA 0x28#6 pg pn 0 0 0 0x10#7)
  | .tfail _ pg pn ra => some (encA 0x28#6 pg pn 0 ra 0 0x11#7)
  | .pcmd _ pg pn ra wb => some (encA 0x2C#6 pg pn 0 ra (wf5 wb) 0x00#7)
  | .nop _ pg pn => some (encA 0x30#6 pg pn 0 0 0 0x00#7)
  | .fence _ pg pn => some (encA 0x30#6 pg pn 0 0 0 0x01#7)
  | .brk _ pg pn => some (encA 0x30#6 pg pn 0 0 0 0x02#7)
  | .srd _ pg pn rd num => some (encB 0x31#6 pg pn rd 0 num)
  | .swr _ pg pn ra num => some (encB 0x32#6 pg pn 0 ra num)
  | _ => none

end Sys2Proof
end

