-- ==== Sys2Proof/Config.lean ====
section
/-! DEFINITION. What one part fixes and the values the spec leaves open. A constant here has no body, so
nothing in Lean can evaluate it and a statement about it holds whatever its value is. -/

namespace Sys2Proof.Config

/-- A value the spec leaves open, `w` bits wide: the `n`-th such value drawn in a run. State holds
the count of the values drawn (`State.freeCtr`); log entry 1. -/
opaque freeValue (w : Nat) : Nat → BitVec w

/-- The part's 64-bit identifier, fused in manufacture (TWN_UID, R404). -/
opaque uid : BitVec 64

/-- The salt that an SRTP suite takes from a key slot whose salt has not the length of the suite's, which the spec leaves open
(R319, R444; log entry 16): by suite, the length given, the salt. -/
opaque srtpSalt (suite saltLen : Nat) (salt : BitVec 112) : BitVec 112

/-- The idle words that an SLP lane of a quad sends before its n-th packet: time fixes them, which the model does not count (R375;
log entry 78). -/
opaque idleWords (quad lane n : Nat) : Nat

/-- The PCLK by which a head's vertical blanking is extended before frame f of a paced timing (R295; log entry 79). -/
opaque paceClocks (head f : Nat) : Nat

/-- The payload identifier of ST 352 on a link of an SDI timing (R299; log entry 80): the timing and the lane. -/
opaque sdiIdent (timing : BitVec 512) (lane : Nat) : BitVec 32

/-- The line number that an SDI link carries with its line y (R299; log entry 80). -/
opaque sdiNumber (timing : BitVec 512) (y : Nat) : BitVec 11

/-- The line CRCs that an SDI link carries, from its line number and samples (R299; log entry 80). -/
opaque sdiCrcs (timing : BitVec 512) (number : BitVec 11) (luma cb cr : List Nat) : BitVec 36

/-! What the mode candidates, the transforms and the entropy coder of a pan yield is a function of the row's inputs and of the context
saved at the row above, and of nothing else (R23, R178); which function, the spec does not say (log entry 24). -/

/-- The candidates of a CTU's mode decision, in the order of tables PAN-4 and PAN-5: intra before inter, larger blocks first. -/
opaque ctuModes : Machine.CtuIn → List Machine.CtuMode

/-- The termination and alignment of a row, after the bytes of its CTUs. -/
opaque rowTail : Machine.RowIn → List (List Byte) → List Byte

/-- The entropy state and reconstruction context that a row leaves to the row below (R165). -/
opaque rowContext : Machine.RowIn → List (List Byte) → List Machine.RefArea → Nat

/-- A reconstructed sample of the lines that a row makes final, from the context that the row leaves: plane, x, y. -/
opaque reconSample (ctx plane x y : Nat) : BitVec 10

/-- The probabilities, as fractions, of the coded values of the bins or symbols of a vector's difference, as the entropy state at
the row's start holds them (R195): context, CTU column, reference, vector in quarter samples. -/
opaque vectorBins (ctx col r : Nat) (mv : Int × Int) : List (Nat × Nat)

/-- The scale that turns the sum of the magnitudes of an 8 × 8 Hadamard transform into a SATD (R162; log entry 104). -/
opaque satdOf (sum : Nat) : Nat

/-- The deblocking levels and CDEF strengths of an AV1 frame (R220; log entry 105): descriptor, picture, base_q_idx. -/
opaque av1Filters (desc : BitVec 1536) (pic qidx : Nat) : BitVec 256

/-- The bits of frame_width_bits_minus_1 and its like beyond the fewest (R220; log entry 105): the size coded. -/
opaque av1SizeBits (size : Nat) : Nat

/-- The code of the width of the one tile column of an AV1 picture wider than 64 superblocks, for which the syntax has none (R220;
log entry 105). -/
opaque av1WideColumn (width : Nat) : BitVec 6

/-! The syntax and the decoding processes of ITU-T H.265, H.264 and AV1 are those standards' (R234; log entry 24): functions of the
unit's bytes and of what the units before it left. -/

/-- What an access unit's bytes code: codec, the parser's state, the bytes. -/
opaque auParse (codec parse : Nat) (unit : List Byte) : Machine.AuInfo

/-- The parser's state after a unit: parameter sets, and in AV1 what the reference slots carry beside samples. -/
opaque auNext (codec parse : Nat) (unit : List Byte) : Nat

/-- A sample of picture i of a unit, from the blocks of its references that it predicts from: plane, x, y. -/
opaque auSample (codec parse : Nat) (unit : List Byte) (i : Nat) (blocks : List (List Nat)) (plane x y : Nat) : BitVec 10

/-- An output sample with film grain (R239): grain parameters, plane, x, y, the sample and the luma sample at its place. -/
opaque grainSample (set plane x y v luma : Nat) : BitVec 10

end Sys2Proof.Config
end

