-- ==== Sys2Proof/Machine/Frac.lean ====
section
/-! DEFINITION. Exact non-negative fractions, in which the pans keep picture times (R168, R186): plain data that a
comparison by cross-multiplication reads. -/

namespace Sys2Proof.Machine

/-- The fraction num / den. -/
structure Frac where
  num : Nat := 0
  den : Nat := 1
  deriving DecidableEq, Repr

/-- A fraction in lowest terms. -/
def Frac.mk' (num den : Nat) : Frac := ⟨num / Nat.gcd num den, den / Nat.gcd num den⟩

/-- A whole number. -/
def Frac.ofNat (n : Nat) : Frac := ⟨n, 1⟩

/-- Sum. -/
def Frac.add (a b : Frac) : Frac := Frac.mk' (a.num * b.den + b.num * a.den) (a.den * b.den)

/-- A fraction times a whole number. -/
def Frac.times (a : Frac) (n : Nat) : Frac := Frac.mk' (a.num * n) a.den

/-- A fraction divided by a whole number. -/
def Frac.part (a : Frac) (n : Nat) : Frac := Frac.mk' a.num (a.den * n)

/-- Difference, 0 where it would be negative. -/
def Frac.sub (a b : Frac) : Frac := Frac.mk' (a.num * b.den - b.num * a.den) (a.den * b.den)

/-- Distance. -/
def Frac.dist (a b : Frac) : Frac :=
  Frac.mk' ((a.num * b.den - b.num * a.den) + (b.num * a.den - a.num * b.den)) (a.den * b.den)

/-- Comparison. -/
def Frac.lt (a b : Frac) : Bool := decide (a.num * b.den < b.num * a.den)

/-- The whole part. -/
def Frac.floor (a : Frac) : Nat := a.num / a.den

end Sys2Proof.Machine
end

