-- ==== Sys2Proof/Machine/Regs.lean ====
section
/-! DEFINITION. The control registers of the part: their names, where each lies in its subsystem
window (R9, table ARC-9), its reset value, and the bits and access code of every field that is
not reserved (R12, R16). The two lists at the end are the field tables of the chapters, register by
register; the tag of each table stands beside its register. -/

namespace Sys2Proof.Machine

/-- Access codes of table SCO-5; a bit no field covers is RSV. -/
inductive Access where
  | ro | rw | wo | w1c | w1s | rc
  deriving DecidableEq, Repr

/-- The registers of the part, by the names of their headings. -/
inductive Reg where
  | HST_ADM_SEL
  | HST_ADM_LIMIT
  | HST_ADM_USED
  | HST_ADM_LAST
  | RK_STATE
  | RK_CTRL
  | RK_FAULT
  | RK_FAULT_PC
  | RK_FAULT_ADDR_LO
  | RK_FAULT_ADDR_HI
  | RK_CMD
  | RK_CMD_STAT
  | RK_IMG_BASE
  | RK_WDOG
  | RK_SPARES
  | TLY_CTRL
  | TLY_TICK
  | TLY_TICKCNT_LO
  | TLY_TICKCNT_HI
  | TLY_STAT
  | TLY_OCC
  | TLY_FLOW_SEL
  | TLY_FLOW_CFG
  | TLY_FLOW_TGT_LO
  | TLY_FLOW_TGT_HI
  | TLY_FLOW_POS
  | TLY_FLOW_RING
  | MC_CTRL
  | MC_STAT
  | MC_CAL_SEL
  | MC_CAL_VAL
  | MC_CAL_LAT
  | MC_ECC_CFG
  | MC_ECC_BKT
  | MC_ECC_WORD
  | MC_INJ_WORD
  | MC_INJ
  | BNK_STAT
  | BNK_ECC_CFG
  | BNK_ECC_BKT
  | BNK_ECC_WORD
  | BNK_INJ_WORD
  | BNK_INJ
  | HRW_CTRL
  | HRW_PERIOD
  | HRW_STAT
  | PAN_STAT
  | PAN_CMD_STAT
  | PAN_PGM_STATE
  | PAN_PGM_DESC_LO
  | PAN_PGM_DESC_HI
  | PAN_PGM_PIC
  | PAN_PGM_ROW
  | PAN_PGM_ROLL
  | PAN_PGM_RRING
  | PAN_PGM_BSCONS
  | PAN_PGM_QP
  | PAN_PGM_BUCKET
  | PAN_PGM_LADDER
  | SLU_STAT
  | SLU_CMD_STAT
  | SLU_STR_SEL
  | SLU_STR_STATE
  | SLU_STR_RRING
  | SLU_STR_ERR
  | CMP_STAT
  | CMP_CMD_STAT
  | CMP_OUT_SEL
  | CMP_OUT_STATE
  | CMP_OUT_FRAME
  | CMP_OUT_SIG
  | CMP_LAYER_LATE
  | DH_STAT
  | DH_CMD_STAT
  | DH_FRAME
  | DH_FLIP_NS
  | DH_FLIP_SEC
  | DH_FLIP_FRM
  | DH_TE
  | DH_ERR
  | ETH_CFG
  | ETH_STAT
  | ETH_CNT_SEL
  | ETH_CNT_LO
  | ETH_CNT_HI
  | ETH_RXF_ADDR_LO
  | ETH_RXF_ADDR_HI
  | ETH_RXF_CMD
  | ETH_RXF_STAT
  | ETH_RXF_SEL
  | ETH_RXF_RING
  | ETH_RXF_ERR
  | TSH_CTRL
  | TSH_CMD
  | TSH_ADDR_LO
  | TSH_ADDR_HI
  | TSH_CMD_STAT
  | TSH_GATE
  | TSH_SMP_CFG
  | TSH_SMP_BASE_LO
  | TSH_SMP_BASE_HI
  | TSH_SMP_CNT
  | TSH_Q_SEL
  | TSH_Q_STAT
  | TIM_CFG
  | TIM_INC_LO
  | TIM_INC_HI
  | TIM_HINC_LO
  | TIM_HINC_HI
  | TIM_NOW_NS
  | TIM_NOW_FRAC
  | TIM_NOW_SEC_LO
  | TIM_NOW_SEC_HI
  | TIM_OP_NS
  | TIM_OP_SEC_LO
  | TIM_OP_SEC_HI
  | TIM_OP_CMD
  | TIM_STAT
  | TIM_SLEW_REM
  | TIM_TXTS_ID
  | TIM_TXTS_NS
  | TIM_TXTS_SEC
  | TIM_TXTS_STAT
  | TIM_LAT
  | TIM_TOUT_CTRL
  | TIM_TOUT_START_NS
  | TIM_TOUT_START_SEC_LO
  | TIM_TOUT_START_SEC_HI
  | TIM_TOUT_FR_NUM
  | TIM_TOUT_FR_DEN
  | TIM_TOUT_WIDTH
  | TIM_TOUT_COUNT
  | AUD_IN_CFG
  | AUD_IN_MASK
  | AUD_IN_BASE_LO
  | AUD_IN_BASE_HI
  | AUD_IN_RING
  | AUD_IN_STAT
  | AUD_OUT_CFG
  | AUD_OUT_START_LO
  | AUD_OUT_START_HI
  | AUD_OUT_BASE_LO
  | AUD_OUT_BASE_HI
  | AUD_OUT_RING
  | AUD_OUT_STAT
  | DMA_CFG
  | DMA_STAT
  | DMA_DONE
  | DMA_COUNT
  | DMA_SUBMIT_LO
  | DMA_SUBMIT_HI
  | DMA_RGN_SEL
  | DMA_RGN_BASE
  | DMA_RGN_END
  | DMA_RGN_CFG
  | LN_CFG
  | LN_SDI_ADDR_LO
  | LN_SDI_ADDR_HI
  | LN_SDI_CMD
  | LN_SDI_STAT
  | LN_LANE_CTRL
  | LN_LANE_FIR
  | LN_LANE_STAT
  | LN_LANE_EQ
  | EVT_SEL
  | EVT_SEQ
  | EVT_LOST
  | EVT_STAT
  | CHK_CFG
  | CHK_INST
  | CHK_EXP_LO
  | CHK_EXP_HI
  | CHK_TBL_LO
  | CHK_TBL_HI
  | CHK_ALIVE
  | CHK_STAT
  | CHK_BLOCKS
  | CHK_LAST_LO
  | CHK_LAST_HI
  | CHK_MISBLK
  | CHK_PHASE
  | TWN_CTRL
  | TWN_CFG
  | TWN_WDOG
  | TWN_STAT
  | TWN_SYNC_LO
  | TWN_SYNC_HI
  | TWN_CMD
  | TWN_LIST_LO
  | TWN_LIST_HI
  | TWN_STAGE_LO
  | TWN_STAGE_HI
  | TWN_MUTE_SEL
  | TWN_MUTE
  | TWN_UID_LO
  | TWN_UID_HI
  | TWN_MUTED
  | TWN_ERR
  | SEC_BOOT_STAT
  | SEC_BOOT_CMD
  | SEC_FUSE
  | SEC_STAT
  | SEC_KEY_CMD
  | SEC_KEY_STAT
  | SEC_KEY_BUF
  | SEC_SVC_ADDR_LO
  | SEC_SVC_ADDR_HI
  | SEC_SVC_CMD
  | SEC_SVC_STAT
  | PMU_EVSEL
  | PMU_CNT_LO
  | PMU_CNT_HI
  | PMU_TAG
  | PMU_CTRL
  | PMU_DUMP_CFG
  | PMU_DUMP_BASE_LO
  | PMU_DUMP_BASE_HI
  | PMU_DUMP_CNT
  | PMU_TAG_RING
  | PMU_TAG_BASE_LO
  | PMU_TAG_BASE_HI
  | PMU_TAG_CNT
  | HST_ID
  | HST_STAT
  | HST_VF_SEL
  | HST_VF_SLOTS
  | HST_VF_WIN
  | HST_VF_DMA
  | HST_ROUTE
  | HST_DB_DEST_LO
  | HST_DB_DEST_HI
  | HST_DB_VAL_LO
  | HST_DB_VAL_HI
  | HST_DB_STAT
  | HST_RING_SEL
  | HST_RING_BASE_LO
  | HST_RING_BASE_HI
  | HST_RING_CFG
  | HST_RING_IDX
  | CLK_STAT
  | CLK_CMD
  | CLK_MON
  | CLK_RST_CFG
  | CLK_RST_CMD
  | CLK_RST_CAUSE
  | PWR_REQ
  | PWR_STAT
  | PWR_DOM_SEL
  | PWR_DOM_STATE
  | PWR_FEED
  | PWR_TEMP
  deriving DecidableEq, Repr

/-- How the copies of a register within one instance are told apart: one copy; one copy for each
requester; the copy that the requester's selector shows; one copy for each offset of a stride;
one copy for each PCIe function's page; or the words of each requester's key buffer. -/
inductive SubRule where
  | one
  | perReq
  | sel (selector : Reg)
  | stride (step count : Nat)
  | page
  | keyBuf
  deriving DecidableEq, Repr

/-- One field of a register. -/
structure RField where
  hi : Nat
  lo : Nat
  acc : Access
  deriving DecidableEq, Repr

/-- Where a register lies and what it is: window k of table ARC-9, offset, the instances that have it,
reset value, copies, fields. -/
structure RegDesc where
  win : Nat
  off : Nat
  insts : List (Nat × Nat)
  reset : BitVec 32
  sub : SubRule
  fields : List RField
  deriving DecidableEq, Repr

/-- A named field: the register and its bits. -/
structure Fld where
  reg : Reg
  hi : Nat
  lo : Nat
  deriving DecidableEq, Repr

/-- The descriptor of every register, from the chapters' register headings and field tables. -/
def Reg.desc : Reg → RegDesc
  | .HST_ADM_SEL => ⟨0, 0x8000, [(0, 0)], 0x0#32, .perReq, [⟨5, 0, .rw⟩]⟩ -- ARC-4
  | .HST_ADM_LIMIT => ⟨0, 0x8004, [(0, 0)], 0x1E6540#32, .sel .HST_ADM_SEL, [⟨31, 0, .ro⟩]⟩ -- ARC-5
  | .HST_ADM_USED => ⟨0, 0x8008, [(0, 0)], 0x0#32, .sel .HST_ADM_SEL, [⟨31, 0, .ro⟩]⟩ -- ARC-6
  | .HST_ADM_LAST => ⟨0, 0x800C, [(0, 0)], 0x0#32, .one, [⟨31, 31, .w1c⟩, ⟨19, 8, .ro⟩, ⟨5, 0, .ro⟩]⟩ -- ARC-7
  | .RK_STATE => ⟨6, 0x0, [(0, 103)], 0x0#32, .one, [⟨14, 8, .ro⟩, ⟨3, 0, .ro⟩]⟩ -- ISA-19
  | .RK_CTRL => ⟨6, 0x4, [(0, 103)], 0x0#32, .one, [⟨1, 1, .wo⟩, ⟨0, 0, .rw⟩]⟩ -- ISA-20
  | .RK_FAULT => ⟨6, 0x8, [(0, 103)], 0x0#32, .one, [⟨31, 16, .ro⟩, ⟨8, 8, .w1c⟩, ⟨7, 0, .ro⟩]⟩ -- ISA-21
  | .RK_FAULT_PC => ⟨6, 0xC, [(0, 103)], 0x0#32, .one, [⟨31, 30, .ro⟩, ⟨29, 16, .ro⟩, ⟨15, 0, .ro⟩]⟩ -- ISA-22
  | .RK_FAULT_ADDR_LO => ⟨6, 0x10, [(0, 103)], 0x0#32, .one, [⟨31, 0, .ro⟩]⟩ -- ISA-23
  | .RK_FAULT_ADDR_HI => ⟨6, 0x14, [(0, 103)], 0x0#32, .one, [⟨15, 0, .ro⟩]⟩ -- ISA-24
  | .RK_CMD => ⟨6, 0x8000, [(0, 0)], 0x0#32, .one, [⟨14, 8, .wo⟩, ⟨3, 0, .wo⟩]⟩ -- ISA-25
  | .RK_CMD_STAT => ⟨6, 0x8004, [(0, 0)], 0x0#32, .one, [⟨8, 8, .w1c⟩, ⟨2, 0, .ro⟩]⟩ -- ISA-26
  | .RK_IMG_BASE => ⟨6, 0x8008, [(0, 0)], 0x0#32, .one, [⟨15, 0, .rw⟩]⟩ -- ISA-27
  | .RK_WDOG => ⟨6, 0x800C, [(0, 0)], 0x61B#32, .one, [⟨23, 0, .rw⟩]⟩ -- ISA-28
  | .RK_SPARES => ⟨6, 0x8010, [(0, 0)], 0x8#32, .one, [⟨14, 8, .ro⟩, ⟨3, 0, .ro⟩]⟩ -- ISA-29
  | .TLY_CTRL => ⟨5, 0x0, [(0, 0)], 0x0#32, .one, [⟨0, 0, .rw⟩]⟩ -- TLY-5
  | .TLY_TICK => ⟨5, 0x4, [(0, 0)], 0x320#32, .one, [⟨19, 0, .rw⟩]⟩ -- TLY-6
  | .TLY_TICKCNT_LO => ⟨5, 0x8, [(0, 0)], 0x0#32, .one, [⟨31, 0, .ro⟩]⟩ -- TLY-7
  | .TLY_TICKCNT_HI => ⟨5, 0xC, [(0, 0)], 0x0#32, .one, [⟨31, 0, .ro⟩]⟩ -- TLY-8
  | .TLY_STAT => ⟨5, 0x10, [(0, 0)], 0x0#32, .one, [⟨5, 5, .w1c⟩, ⟨4, 4, .w1c⟩, ⟨3, 3, .w1c⟩, ⟨2, 2, .w1c⟩, ⟨1, 1, .w1c⟩, ⟨0, 0, .w1c⟩]⟩ -- TLY-9
  | .TLY_OCC => ⟨5, 0x14, [(0, 0)], 0x0#32, .one, [⟨30, 16, .ro⟩, ⟨15, 0, .ro⟩]⟩ -- TLY-10
  | .TLY_FLOW_SEL => ⟨5, 0x100, [(0, 0)], 0x0#32, .perReq, [⟨9, 0, .rw⟩]⟩ -- TLY-11
  | .TLY_FLOW_CFG => ⟨5, 0x104, [(0, 0)], 0x0#32, .sel .TLY_FLOW_SEL, [⟨31, 31, .w1c⟩, ⟨14, 8, .rw⟩, ⟨1, 1, .rw⟩, ⟨0, 0, .rw⟩]⟩ -- TLY-12
  | .TLY_FLOW_TGT_LO => ⟨5, 0x108, [(0, 0)], 0x0#32, .sel .TLY_FLOW_SEL, [⟨31, 0, .rw⟩]⟩ -- TLY-13
  | .TLY_FLOW_TGT_HI => ⟨5, 0x10C, [(0, 0)], 0x0#32, .sel .TLY_FLOW_SEL, [⟨31, 0, .rw⟩]⟩ -- TLY-14
  | .TLY_FLOW_POS => ⟨5, 0x110, [(0, 0)], 0x0#32, .sel .TLY_FLOW_SEL, [⟨31, 16, .ro⟩, ⟨15, 0, .ro⟩]⟩ -- TLY-15
  | .TLY_FLOW_RING => ⟨5, 0x114, [(0, 0)], 0x0#32, .sel .TLY_FLOW_SEL, [⟨31, 16, .rw⟩, ⟨15, 0, .ro⟩]⟩ -- TLY-16
  | .MC_CTRL => ⟨8, 0x0, [(0, 15)], 0x0#32, .one, [⟨1, 1, .rw⟩, ⟨0, 0, .rw⟩]⟩ -- MEM-8
  | .MC_STAT => ⟨8, 0x4, [(0, 15)], 0x0#32, .one, [⟨31, 16, .ro⟩, ⟨15, 8, .ro⟩, ⟨7, 7, .w1c⟩, ⟨6, 6, .ro⟩, ⟨5, 5, .ro⟩, ⟨2, 0, .ro⟩]⟩ -- MEM-9
  | .MC_CAL_SEL => ⟨8, 0x10, [(0, 15)], 0x0#32, .perReq, [⟨7, 0, .rw⟩]⟩ -- MEM-10
  | .MC_CAL_VAL => ⟨8, 0x14, [(0, 15)], 0x0#32, .sel .MC_CAL_SEL, [⟨15, 8, .rw⟩, ⟨7, 0, .rw⟩]⟩ -- MEM-11
  | .MC_CAL_LAT => ⟨8, 0x18, [(0, 15)], 0x0#32, .one, [⟨13, 8, .rw⟩, ⟨5, 0, .rw⟩]⟩ -- MEM-12
  | .MC_ECC_CFG => ⟨8, 0x20, [(0, 15)], 0xA0400#32, .one, [⟨31, 16, .rw⟩, ⟨15, 0, .rw⟩]⟩ -- MEM-13
  | .MC_ECC_BKT => ⟨8, 0x24, [(0, 15)], 0x0#32, .one, [⟨31, 31, .w1c⟩, ⟨15, 0, .ro⟩]⟩ -- MEM-14
  | .MC_ECC_WORD => ⟨8, 0x28, [(0, 15)], 0x0#32, .one, [⟨31, 31, .ro⟩, ⟨30, 30, .ro⟩, ⟨29, 0, .ro⟩]⟩ -- MEM-15
  | .MC_INJ_WORD => ⟨8, 0x30, [(0, 15)], 0x0#32, .one, [⟨29, 0, .rw⟩]⟩ -- MEM-16
  | .MC_INJ => ⟨8, 0x34, [(0, 15)], 0x0#32, .one, [⟨31, 31, .w1s⟩, ⟨21, 15, .rw⟩, ⟨14, 11, .rw⟩, ⟨10, 4, .rw⟩, ⟨3, 0, .rw⟩]⟩ -- MEM-17
  | .BNK_STAT => ⟨7, 0x0, [(0, 145)], 0x0#32, .one, [⟨31, 16, .ro⟩, ⟨2, 0, .ro⟩]⟩ -- MEM-18
  | .BNK_ECC_CFG => ⟨7, 0x4, [(0, 145)], 0xA0400#32, .one, [⟨31, 16, .rw⟩, ⟨15, 0, .rw⟩]⟩ -- MEM-19
  | .BNK_ECC_BKT => ⟨7, 0x8, [(0, 145)], 0x0#32, .one, [⟨31, 31, .w1c⟩, ⟨15, 0, .ro⟩]⟩ -- MEM-20
  | .BNK_ECC_WORD => ⟨7, 0xC, [(0, 145)], 0x0#32, .one, [⟨31, 31, .ro⟩, ⟨30, 30, .ro⟩, ⟨22, 0, .ro⟩]⟩ -- MEM-21
  | .BNK_INJ_WORD => ⟨7, 0x10, [(0, 145)], 0x0#32, .one, [⟨22, 0, .rw⟩]⟩ -- MEM-22
  | .BNK_INJ => ⟨7, 0x14, [(0, 145)], 0x0#32, .one, [⟨31, 31, .w1s⟩, ⟨21, 15, .rw⟩, ⟨14, 11, .rw⟩, ⟨10, 4, .rw⟩, ⟨3, 0, .rw⟩]⟩ -- MEM-23
  | .HRW_CTRL => ⟨9, 0x0, [(0, 0)], 0x1#32, .one, [⟨0, 0, .rw⟩]⟩ -- MEM-24
  | .HRW_PERIOD => ⟨9, 0x4, [(0, 0)], 0xE10#32, .one, [⟨16, 0, .rw⟩]⟩ -- MEM-25
  | .HRW_STAT => ⟨9, 0x8, [(0, 0)], 0x0#32, .one, [⟨31, 31, .w1c⟩, ⟨23, 0, .ro⟩]⟩ -- MEM-26
  | .PAN_STAT => ⟨10, 0x0, [(0, 15)], 0x0#32, .one, [⟨31, 16, .ro⟩, ⟨3, 0, .ro⟩]⟩ -- PAN-14
  | .PAN_CMD_STAT => ⟨10, 0x4, [(0, 15)], 0x0#32, .one, [⟨31, 31, .w1c⟩, ⟨21, 16, .ro⟩, ⟨15, 8, .ro⟩, ⟨7, 0, .ro⟩]⟩ -- PAN-15
  | .PAN_PGM_STATE => ⟨10, 0x0, [(64, 127)], 0x0#32, .one, [⟨7, 7, .ro⟩, ⟨6, 6, .ro⟩, ⟨5, 4, .ro⟩, ⟨1, 0, .ro⟩]⟩ -- PAN-16
  | .PAN_PGM_DESC_LO => ⟨10, 0x4, [(64, 127)], 0x0#32, .one, [⟨31, 0, .ro⟩]⟩ -- PAN-17
  | .PAN_PGM_DESC_HI => ⟨10, 0x8, [(64, 127)], 0x0#32, .one, [⟨15, 0, .ro⟩]⟩ -- PAN-18
  | .PAN_PGM_PIC => ⟨10, 0xC, [(64, 127)], 0x0#32, .one, [⟨31, 0, .ro⟩]⟩ -- PAN-19
  | .PAN_PGM_ROW => ⟨10, 0x10, [(64, 127)], 0x0#32, .one, [⟨29, 24, .ro⟩, ⟨15, 0, .ro⟩]⟩ -- PAN-20
  | .PAN_PGM_ROLL => ⟨10, 0x14, [(64, 127)], 0x0#32, .one, [⟨31, 16, .ro⟩, ⟨15, 0, .ro⟩]⟩ -- PAN-21
  | .PAN_PGM_RRING => ⟨10, 0x18, [(64, 127)], 0x0#32, .one, [⟨31, 16, .rw⟩, ⟨15, 0, .ro⟩]⟩ -- PAN-22
  | .PAN_PGM_BSCONS => ⟨10, 0x1C, [(64, 127)], 0x0#32, .one, [⟨29, 0, .rw⟩]⟩ -- PAN-23
  | .PAN_PGM_QP => ⟨10, 0x20, [(64, 127)], 0x0#32, .one, [⟨17, 17, .ro⟩, ⟨16, 16, .ro⟩, ⟨15, 8, .ro⟩, ⟨7, 0, .ro⟩]⟩ -- RAT-6
  | .PAN_PGM_BUCKET => ⟨10, 0x24, [(64, 127)], 0x0#32, .one, [⟨31, 0, .ro⟩]⟩ -- RAT-7
  | .PAN_PGM_LADDER => ⟨10, 0x28, [(64, 127)], 0x0#32, .one, [⟨31, 16, .ro⟩, ⟨15, 0, .ro⟩]⟩ -- RAT-8
  | .SLU_STAT => ⟨11, 0x0, [(0, 3)], 0x0#32, .one, [⟨31, 16, .ro⟩, ⟨7, 0, .ro⟩]⟩ -- BSD-18
  | .SLU_CMD_STAT => ⟨11, 0x4, [(0, 3)], 0x0#32, .one, [⟨31, 31, .w1c⟩, ⟨18, 16, .ro⟩, ⟨15, 8, .ro⟩, ⟨7, 0, .ro⟩]⟩ -- BSD-19
  | .SLU_STR_SEL => ⟨11, 0x100, [(0, 3)], 0x0#32, .perReq, [⟨2, 0, .rw⟩]⟩ -- BSD-20
  | .SLU_STR_STATE => ⟨11, 0x104, [(0, 3)], 0x0#32, .sel .SLU_STR_SEL, [⟨4, 4, .ro⟩, ⟨3, 2, .ro⟩, ⟨1, 0, .ro⟩]⟩ -- BSD-21
  | .SLU_STR_RRING => ⟨11, 0x108, [(0, 3)], 0x0#32, .sel .SLU_STR_SEL, [⟨31, 16, .rw⟩, ⟨15, 0, .ro⟩]⟩ -- BSD-22
  | .SLU_STR_ERR => ⟨11, 0x10C, [(0, 3)], 0x0#32, .sel .SLU_STR_SEL, [⟨31, 16, .ro⟩, ⟨15, 0, .ro⟩]⟩ -- BSD-23
  | .CMP_STAT => ⟨12, 0x0, [(0, 7)], 0x0#32, .one, [⟨31, 16, .ro⟩, ⟨7, 0, .ro⟩]⟩ -- CMP-13
  | .CMP_CMD_STAT => ⟨12, 0x4, [(0, 7)], 0x0#32, .one, [⟨31, 31, .w1c⟩, ⟨18, 16, .ro⟩, ⟨15, 8, .ro⟩, ⟨7, 0, .ro⟩]⟩ -- CMP-14
  | .CMP_OUT_SEL => ⟨12, 0x100, [(0, 7)], 0x0#32, .perReq, [⟨11, 8, .rw⟩, ⟨2, 0, .rw⟩]⟩ -- CMP-15
  | .CMP_OUT_STATE => ⟨12, 0x104, [(0, 7)], 0x0#32, .sel .CMP_OUT_SEL, [⟨31, 16, .ro⟩, ⟨3, 3, .ro⟩, ⟨1, 0, .ro⟩]⟩ -- CMP-16
  | .CMP_OUT_FRAME => ⟨12, 0x108, [(0, 7)], 0x0#32, .sel .CMP_OUT_SEL, [⟨31, 0, .ro⟩]⟩ -- CMP-17
  | .CMP_OUT_SIG => ⟨12, 0x10C, [(0, 7)], 0x0#32, .sel .CMP_OUT_SEL, [⟨31, 16, .ro⟩, ⟨15, 0, .ro⟩]⟩ -- CMP-18
  | .CMP_LAYER_LATE => ⟨12, 0x110, [(0, 7)], 0x0#32, .sel .CMP_OUT_SEL, [⟨16, 16, .ro⟩, ⟨15, 0, .ro⟩]⟩ -- CMP-19
  | .DH_STAT => ⟨13, 0x0, [(0, 3)], 0x0#32, .one, [⟨31, 16, .ro⟩, ⟨15, 12, .ro⟩, ⟨9, 8, .ro⟩, ⟨7, 7, .ro⟩, ⟨2, 0, .ro⟩]⟩ -- DSP-8
  | .DH_CMD_STAT => ⟨13, 0x4, [(0, 3)], 0x0#32, .one, [⟨31, 31, .w1c⟩, ⟨15, 8, .ro⟩, ⟨7, 0, .ro⟩]⟩ -- DSP-9
  | .DH_FRAME => ⟨13, 0x8, [(0, 3)], 0x0#32, .one, [⟨31, 0, .ro⟩]⟩ -- DSP-10
  | .DH_FLIP_NS => ⟨13, 0xC, [(0, 3)], 0x0#32, .one, [⟨29, 0, .ro⟩]⟩ -- DSP-11
  | .DH_FLIP_SEC => ⟨13, 0x10, [(0, 3)], 0x0#32, .one, [⟨31, 0, .ro⟩]⟩ -- DSP-12
  | .DH_FLIP_FRM => ⟨13, 0x14, [(0, 3)], 0x0#32, .one, [⟨31, 0, .ro⟩]⟩ -- DSP-13
  | .DH_TE => ⟨13, 0x18, [(0, 3)], 0x0#32, .one, [⟨31, 16, .ro⟩, ⟨15, 15, .ro⟩, ⟨14, 0, .ro⟩]⟩ -- DSP-14
  | .DH_ERR => ⟨13, 0x1C, [(0, 3)], 0x0#32, .one, [⟨31, 16, .ro⟩, ⟨15, 0, .ro⟩]⟩ -- DSP-15
  | .ETH_CFG => ⟨15, 0x0, [(0, 7)], 0x3FF000#32, .one, [⟨21, 12, .rw⟩, ⟨8, 8, .rw⟩, ⟨7, 7, .rw⟩, ⟨6, 6, .rw⟩, ⟨5, 2, .rw⟩, ⟨1, 0, .rw⟩]⟩ -- NET-8
  | .ETH_STAT => ⟨15, 0x4, [(0, 7)], 0x0#32, .one, [⟨8, 8, .w1c⟩, ⟨7, 4, .ro⟩, ⟨3, 0, .ro⟩]⟩ -- NET-9
  | .ETH_CNT_SEL => ⟨15, 0x10, [(0, 7)], 0x0#32, .one, [⟨5, 4, .rw⟩, ⟨3, 0, .rw⟩]⟩ -- NET-10
  | .ETH_CNT_LO => ⟨15, 0x14, [(0, 7)], 0x0#32, .sel .ETH_CNT_SEL, [⟨31, 0, .ro⟩]⟩ -- NET-11
  | .ETH_CNT_HI => ⟨15, 0x18, [(0, 7)], 0x0#32, .sel .ETH_CNT_SEL, [⟨31, 0, .ro⟩]⟩ -- NET-12
  | .ETH_RXF_ADDR_LO => ⟨15, 0x8000, [(0, 0)], 0x0#32, .one, [⟨31, 0, .rw⟩]⟩ -- NET-13
  | .ETH_RXF_ADDR_HI => ⟨15, 0x8004, [(0, 0)], 0x0#32, .one, [⟨15, 0, .rw⟩]⟩ -- NET-14
  | .ETH_RXF_CMD => ⟨15, 0x8008, [(0, 0)], 0x0#32, .one, [⟨17, 8, .wo⟩, ⟨1, 0, .wo⟩]⟩ -- NET-15
  | .ETH_RXF_STAT => ⟨15, 0x800C, [(0, 0)], 0x0#32, .one, [⟨31, 31, .w1c⟩, ⟨7, 0, .ro⟩]⟩ -- NET-16
  | .ETH_RXF_SEL => ⟨15, 0x8010, [(0, 0)], 0x0#32, .one, [⟨9, 0, .rw⟩]⟩ -- NET-17
  | .ETH_RXF_RING => ⟨15, 0x8014, [(0, 0)], 0x0#32, .sel .ETH_RXF_SEL, [⟨31, 16, .rw⟩, ⟨15, 0, .ro⟩]⟩ -- NET-18
  | .ETH_RXF_ERR => ⟨15, 0x8018, [(0, 0)], 0x0#32, .sel .ETH_RXF_SEL, [⟨31, 16, .ro⟩, ⟨15, 0, .ro⟩]⟩ -- NET-19
  | .TSH_CTRL => ⟨16, 0x0, [(0, 7)], 0xA1400#32, .one, [⟨23, 16, .rw⟩, ⟨13, 8, .rw⟩, ⟨0, 0, .rw⟩]⟩ -- NET-20
  | .TSH_CMD => ⟨16, 0x4, [(0, 7)], 0x0#32, .one, [⟨16, 8, .wo⟩, ⟨3, 0, .wo⟩]⟩ -- NET-21
  | .TSH_ADDR_LO => ⟨16, 0x8, [(0, 7)], 0x0#32, .one, [⟨31, 0, .rw⟩]⟩ -- NET-22
  | .TSH_ADDR_HI => ⟨16, 0xC, [(0, 7)], 0x0#32, .one, [⟨15, 0, .rw⟩]⟩ -- NET-23
  | .TSH_CMD_STAT => ⟨16, 0x10, [(0, 7)], 0x0#32, .one, [⟨31, 31, .w1c⟩, ⟨30, 30, .w1c⟩, ⟨29, 29, .ro⟩, ⟨11, 8, .ro⟩, ⟨7, 0, .ro⟩]⟩ -- NET-24
  | .TSH_GATE => ⟨16, 0x20, [(0, 7)], 0x0#32, .one, [⟨31, 31, .w1c⟩, ⟨30, 30, .ro⟩, ⟨29, 29, .ro⟩, ⟨8, 0, .ro⟩]⟩ -- NET-25
  | .TSH_SMP_CFG => ⟨16, 0x30, [(0, 7)], 0x0#32, .one, [⟨31, 28, .rw⟩, ⟨19, 0, .rw⟩]⟩ -- NET-26
  | .TSH_SMP_BASE_LO => ⟨16, 0x34, [(0, 7)], 0x0#32, .one, [⟨31, 0, .rw⟩]⟩ -- NET-27
  | .TSH_SMP_BASE_HI => ⟨16, 0x38, [(0, 7)], 0x0#32, .one, [⟨15, 0, .rw⟩]⟩ -- NET-28
  | .TSH_SMP_CNT => ⟨16, 0x3C, [(0, 7)], 0x0#32, .one, [⟨31, 0, .ro⟩]⟩ -- NET-29
  | .TSH_Q_SEL => ⟨16, 0x100, [(0, 7)], 0x0#32, .one, [⟨8, 0, .rw⟩]⟩ -- NET-30
  | .TSH_Q_STAT => ⟨16, 0x104, [(0, 7)], 0x0#32, .sel .TSH_Q_SEL, [⟨31, 30, .ro⟩, ⟨25, 24, .ro⟩, ⟨21, 20, .ro⟩, ⟨18, 16, .ro⟩, ⟨12, 0, .ro⟩]⟩ -- NET-31
  | .TIM_CFG => ⟨17, 0x0, [(0, 0)], 0x3E80C8#32, .one, [⟨31, 12, .rw⟩, ⟨9, 0, .rw⟩]⟩ -- TIM-3
  | .TIM_INC_LO => ⟨17, 0x4, [(0, 0)], 0x80000000#32, .one, [⟨31, 0, .rw⟩]⟩ -- TIM-4
  | .TIM_INC_HI => ⟨17, 0x8, [(0, 0)], 0x2#32, .one, [⟨3, 0, .rw⟩]⟩ -- TIM-5
  | .TIM_HINC_LO => ⟨17, 0xC, [(0, 0)], 0x80000000#32, .one, [⟨31, 0, .rw⟩]⟩ -- TIM-6
  | .TIM_HINC_HI => ⟨17, 0x10, [(0, 0)], 0x2#32, .one, [⟨3, 0, .rw⟩]⟩ -- TIM-7
  | .TIM_NOW_NS => ⟨17, 0x20, [(0, 0)], 0x0#32, .one, [⟨29, 0, .ro⟩]⟩ -- TIM-8
  | .TIM_NOW_FRAC => ⟨17, 0x24, [(0, 0)], 0x0#32, .one, [⟨31, 0, .ro⟩]⟩ -- TIM-9
  | .TIM_NOW_SEC_LO => ⟨17, 0x28, [(0, 0)], 0x0#32, .one, [⟨31, 0, .ro⟩]⟩ -- TIM-10
  | .TIM_NOW_SEC_HI => ⟨17, 0x2C, [(0, 0)], 0x0#32, .one, [⟨31, 0, .ro⟩]⟩ -- TIM-11
  | .TIM_OP_NS => ⟨17, 0x30, [(0, 0)], 0x0#32, .one, [⟨31, 31, .rw⟩, ⟨29, 0, .rw⟩]⟩ -- TIM-12
  | .TIM_OP_SEC_LO => ⟨17, 0x34, [(0, 0)], 0x0#32, .one, [⟨31, 0, .rw⟩]⟩ -- TIM-13
  | .TIM_OP_SEC_HI => ⟨17, 0x38, [(0, 0)], 0x0#32, .one, [⟨31, 0, .rw⟩]⟩ -- TIM-14
  | .TIM_OP_CMD => ⟨17, 0x3C, [(0, 0)], 0x0#32, .one, [⟨2, 0, .wo⟩]⟩ -- TIM-15
  | .TIM_STAT => ⟨17, 0x40, [(0, 0)], 0x0#32, .one, [⟨6, 6, .w1c⟩, ⟨5, 5, .w1c⟩, ⟨4, 4, .w1c⟩, ⟨3, 3, .ro⟩, ⟨2, 2, .ro⟩, ⟨1, 1, .ro⟩, ⟨0, 0, .ro⟩]⟩ -- TIM-16
  | .TIM_SLEW_REM => ⟨17, 0x44, [(0, 0)], 0x0#32, .one, [⟨31, 0, .ro⟩]⟩ -- TIM-17
  | .TIM_TXTS_ID => ⟨17, 0x100, [(0, 0)], 0x0#32, .stride 16 8, [⟨31, 31, .rc⟩, ⟨30, 30, .rc⟩, ⟨29, 28, .rc⟩, ⟨15, 0, .rc⟩]⟩ -- TIM-18
  | .TIM_TXTS_NS => ⟨17, 0x104, [(0, 0)], 0x0#32, .stride 16 8, [⟨29, 0, .ro⟩]⟩ -- TIM-19
  | .TIM_TXTS_SEC => ⟨17, 0x108, [(0, 0)], 0x0#32, .stride 16 8, [⟨31, 0, .ro⟩]⟩ -- TIM-20
  | .TIM_TXTS_STAT => ⟨17, 0x10C, [(0, 0)], 0x0#32, .stride 16 8, [⟨31, 31, .w1c⟩, ⟨22, 16, .ro⟩, ⟨15, 0, .rc⟩]⟩ -- TIM-21
  | .TIM_LAT => ⟨17, 0x180, [(0, 0)], 0x0#32, .stride 4 8, [⟨31, 16, .rw⟩, ⟨15, 0, .rw⟩]⟩ -- TIM-22
  | .TIM_TOUT_CTRL => ⟨17, 0x0, [(1, 8)], 0x0#32, .one, [⟨31, 31, .w1c⟩, ⟨30, 30, .w1c⟩, ⟨2, 2, .rw⟩, ⟨1, 1, .rw⟩, ⟨0, 0, .rw⟩]⟩ -- TIM-23
  | .TIM_TOUT_START_NS => ⟨17, 0x4, [(1, 8)], 0x0#32, .one, [⟨29, 0, .rw⟩]⟩ -- TIM-24
  | .TIM_TOUT_START_SEC_LO => ⟨17, 0x8, [(1, 8)], 0x0#32, .one, [⟨31, 0, .rw⟩]⟩ -- TIM-25
  | .TIM_TOUT_START_SEC_HI => ⟨17, 0xC, [(1, 8)], 0x0#32, .one, [⟨31, 0, .rw⟩]⟩ -- TIM-26
  | .TIM_TOUT_FR_NUM => ⟨17, 0x10, [(1, 8)], 0x1#32, .one, [⟨31, 0, .rw⟩]⟩ -- TIM-27
  | .TIM_TOUT_FR_DEN => ⟨17, 0x14, [(1, 8)], 0x1#32, .one, [⟨31, 0, .rw⟩]⟩ -- TIM-28
  | .TIM_TOUT_WIDTH => ⟨17, 0x18, [(1, 8)], 0x64#32, .one, [⟨29, 0, .rw⟩]⟩ -- TIM-29
  | .TIM_TOUT_COUNT => ⟨17, 0x1C, [(1, 8)], 0x0#32, .one, [⟨31, 0, .ro⟩]⟩ -- TIM-30
  | .AUD_IN_CFG => ⟨18, 0x0, [(0, 15)], 0x0#32, .one, [⟨12, 8, .rw⟩, ⟨4, 2, .rw⟩, ⟨1, 1, .rw⟩, ⟨0, 0, .rw⟩]⟩ -- AUD-4
  | .AUD_IN_MASK => ⟨18, 0x4, [(0, 15)], 0x3#32, .one, [⟨31, 0, .rw⟩]⟩ -- AUD-5
  | .AUD_IN_BASE_LO => ⟨18, 0x8, [(0, 15)], 0x0#32, .one, [⟨31, 0, .rw⟩]⟩ -- AUD-6
  | .AUD_IN_BASE_HI => ⟨18, 0xC, [(0, 15)], 0x0#32, .one, [⟨15, 0, .rw⟩]⟩ -- AUD-7
  | .AUD_IN_RING => ⟨18, 0x10, [(0, 15)], 0x0#32, .one, [⟨31, 16, .rw⟩, ⟨15, 0, .ro⟩]⟩ -- AUD-8
  | .AUD_IN_STAT => ⟨18, 0x14, [(0, 15)], 0x0#32, .one, [⟨31, 31, .w1c⟩, ⟨30, 30, .w1c⟩, ⟨29, 29, .w1c⟩, ⟨28, 28, .ro⟩, ⟨27, 27, .ro⟩, ⟨26, 26, .ro⟩, ⟨25, 23, .ro⟩, ⟨22, 0, .ro⟩]⟩ -- AUD-9
  | .AUD_OUT_CFG => ⟨18, 0x0, [(16, 31)], 0x30000#32, .one, [⟨18, 16, .rw⟩, ⟨12, 8, .rw⟩, ⟨0, 0, .rw⟩]⟩ -- AUD-10
  | .AUD_OUT_START_LO => ⟨18, 0x4, [(16, 31)], 0x0#32, .one, [⟨31, 0, .rw⟩]⟩ -- AUD-11
  | .AUD_OUT_START_HI => ⟨18, 0x8, [(16, 31)], 0x0#32, .one, [⟨31, 0, .rw⟩]⟩ -- AUD-12
  | .AUD_OUT_BASE_LO => ⟨18, 0xC, [(16, 31)], 0x0#32, .one, [⟨31, 0, .rw⟩]⟩ -- AUD-13
  | .AUD_OUT_BASE_HI => ⟨18, 0x10, [(16, 31)], 0x0#32, .one, [⟨15, 0, .rw⟩]⟩ -- AUD-14
  | .AUD_OUT_RING => ⟨18, 0x14, [(16, 31)], 0x0#32, .one, [⟨31, 16, .rw⟩, ⟨15, 0, .ro⟩]⟩ -- AUD-15
  | .AUD_OUT_STAT => ⟨18, 0x18, [(16, 31)], 0x0#32, .one, [⟨31, 0, .ro⟩]⟩ -- AUD-16
  | .DMA_CFG => ⟨14, 0x0, [(0, 31)], 0x0#32, .one, [⟨1, 1, .rw⟩, ⟨0, 0, .rw⟩]⟩ -- DMA-4
  | .DMA_STAT => ⟨14, 0x4, [(0, 31)], 0x0#32, .one, [⟨31, 31, .w1c⟩, ⟨30, 30, .w1c⟩, ⟨29, 27, .ro⟩, ⟨26, 26, .ro⟩, ⟨20, 16, .ro⟩, ⟨7, 0, .ro⟩]⟩ -- DMA-5
  | .DMA_DONE => ⟨14, 0x8, [(0, 31)], 0x0#32, .one, [⟨31, 0, .ro⟩]⟩ -- DMA-6
  | .DMA_COUNT => ⟨14, 0xC, [(0, 31)], 0x0#32, .one, [⟨31, 0, .ro⟩]⟩ -- DMA-7
  | .DMA_SUBMIT_LO => ⟨14, 0x10, [(0, 31)], 0x0#32, .one, [⟨31, 0, .rw⟩]⟩ -- DMA-8
  | .DMA_SUBMIT_HI => ⟨14, 0x14, [(0, 31)], 0x0#32, .one, [⟨15, 0, .rw⟩]⟩ -- DMA-9
  | .DMA_RGN_SEL => ⟨14, 0x8000, [(0, 0)], 0x0#32, .perReq, [⟨5, 0, .rw⟩]⟩ -- DMA-10
  | .DMA_RGN_BASE => ⟨14, 0x8004, [(0, 0)], 0x0#32, .sel .DMA_RGN_SEL, [⟨31, 0, .rw⟩]⟩ -- DMA-11
  | .DMA_RGN_END => ⟨14, 0x8008, [(0, 0)], 0x0#32, .sel .DMA_RGN_SEL, [⟨31, 0, .rw⟩]⟩ -- DMA-12
  | .DMA_RGN_CFG => ⟨14, 0x800C, [(0, 0)], 0x0#32, .sel .DMA_RGN_SEL, [⟨1, 1, .rw⟩, ⟨0, 0, .rw⟩]⟩ -- DMA-13
  | .LN_CFG => ⟨19, 0x0, [(0, 15)], 0x0#32, .one, [⟨31, 31, .w1c⟩, ⟨30, 30, .ro⟩, ⟨11, 8, .rw⟩, ⟨7, 4, .rw⟩, ⟨2, 0, .rw⟩]⟩ -- LAN-5
  | .LN_SDI_ADDR_LO => ⟨19, 0x10, [(14, 15)], 0x0#32, .one, [⟨31, 0, .rw⟩]⟩ -- LAN-6
  | .LN_SDI_ADDR_HI => ⟨19, 0x14, [(14, 15)], 0x0#32, .one, [⟨15, 0, .rw⟩]⟩ -- LAN-7
  | .LN_SDI_CMD => ⟨19, 0x18, [(14, 15)], 0x0#32, .one, [⟨5, 4, .wo⟩, ⟨1, 0, .wo⟩]⟩ -- LAN-8
  | .LN_SDI_STAT => ⟨19, 0x1C, [(14, 15)], 0x0#32, .one, [⟨31, 31, .w1c⟩, ⟨19, 16, .ro⟩, ⟨11, 8, .ro⟩, ⟨7, 0, .ro⟩]⟩ -- LAN-9
  | .LN_LANE_CTRL => ⟨19, 0x100, [(0, 15)], 0x0#32, .stride 16 4, [⟨18, 18, .rw⟩, ⟨17, 17, .rw⟩, ⟨16, 16, .rw⟩, ⟨1, 0, .rw⟩]⟩ -- LAN-10
  | .LN_LANE_FIR => ⟨19, 0x104, [(0, 15)], 0x83000#32, .stride 16 4, [⟨21, 16, .rw⟩, ⟨13, 8, .rw⟩, ⟨3, 0, .rw⟩]⟩ -- LAN-11
  | .LN_LANE_STAT => ⟨19, 0x108, [(0, 15)], 0x0#32, .stride 16 4, [⟨31, 31, .ro⟩, ⟨30, 30, .ro⟩, ⟨29, 29, .ro⟩, ⟨15, 0, .rc⟩]⟩ -- LAN-12
  | .LN_LANE_EQ => ⟨19, 0x10C, [(0, 15)], 0x0#32, .stride 16 4, [⟨29, 26, .ro⟩, ⟨25, 20, .ro⟩, ⟨19, 16, .ro⟩, ⟨15, 12, .ro⟩, ⟨11, 8, .ro⟩, ⟨7, 4, .ro⟩, ⟨3, 0, .ro⟩]⟩ -- LAN-13
  | .EVT_SEL => ⟨4, 0x0, [(0, 0)], 0x0#32, .perReq, [⟨11, 0, .rw⟩]⟩ -- INT-10
  | .EVT_SEQ => ⟨4, 0x4, [(0, 0)], 0x0#32, .sel .EVT_SEL, [⟨31, 0, .ro⟩]⟩ -- INT-11
  | .EVT_LOST => ⟨4, 0x8, [(0, 0)], 0x0#32, .sel .EVT_SEL, [⟨15, 0, .rc⟩]⟩ -- INT-12
  | .EVT_STAT => ⟨4, 0xC, [(0, 0)], 0x0#32, .one, [⟨31, 31, .w1c⟩, ⟨11, 0, .ro⟩]⟩ -- INT-13
  | .CHK_CFG => ⟨20, 0x0, [(0, 31)], 0x0#32, .one, [⟨31, 28, .rw⟩, ⟨23, 22, .rw⟩, ⟨21, 20, .rw⟩, ⟨19, 18, .rw⟩, ⟨12, 8, .rw⟩, ⟨0, 0, .rw⟩]⟩ -- INT-14
  | .CHK_INST => ⟨20, 0x4, [(0, 31)], 0x0#32, .one, [⟨11, 0, .rw⟩]⟩ -- INT-15
  | .CHK_EXP_LO => ⟨20, 0x8, [(0, 31)], 0x0#32, .one, [⟨31, 0, .rw⟩]⟩ -- INT-16
  | .CHK_EXP_HI => ⟨20, 0xC, [(0, 31)], 0x0#32, .one, [⟨31, 0, .rw⟩]⟩ -- INT-17
  | .CHK_TBL_LO => ⟨20, 0x10, [(0, 31)], 0x0#32, .one, [⟨31, 0, .rw⟩]⟩ -- INT-18
  | .CHK_TBL_HI => ⟨20, 0x14, [(0, 31)], 0x0#32, .one, [⟨15, 0, .rw⟩]⟩ -- INT-19
  | .CHK_ALIVE => ⟨20, 0x18, [(0, 31)], 0x0#32, .one, [⟨31, 0, .rw⟩]⟩ -- INT-20
  | .CHK_STAT => ⟨20, 0x1C, [(0, 31)], 0x0#32, .one, [⟨31, 31, .w1c⟩, ⟨30, 30, .w1c⟩, ⟨29, 29, .w1c⟩, ⟨28, 28, .w1c⟩, ⟨15, 0, .ro⟩]⟩ -- INT-21
  | .CHK_BLOCKS => ⟨20, 0x20, [(0, 31)], 0x0#32, .one, [⟨31, 0, .ro⟩]⟩ -- INT-22
  | .CHK_LAST_LO => ⟨20, 0x24, [(0, 31)], 0x0#32, .one, [⟨31, 0, .ro⟩]⟩ -- INT-23
  | .CHK_LAST_HI => ⟨20, 0x28, [(0, 31)], 0x0#32, .one, [⟨31, 0, .ro⟩]⟩ -- INT-24
  | .CHK_MISBLK => ⟨20, 0x2C, [(0, 31)], 0x0#32, .one, [⟨31, 0, .ro⟩]⟩ -- INT-25
  | .CHK_PHASE => ⟨20, 0x8000, [(0, 0)], 0x0#32, .one, [⟨1, 0, .rw⟩]⟩ -- INT-26
  | .TWN_CTRL => ⟨21, 0x0, [(0, 0)], 0x0#32, .one, [⟨1, 1, .rw⟩, ⟨0, 0, .rw⟩]⟩ -- TWN-11
  | .TWN_CFG => ⟨21, 0x4, [(0, 0)], 0x1E3E864#32, .one, [⟨31, 20, .rw⟩, ⟨19, 10, .rw⟩, ⟨8, 0, .rw⟩]⟩ -- TWN-12
  | .TWN_WDOG => ⟨21, 0x8, [(0, 0)], 0xA#32, .one, [⟨31, 31, .wo⟩, ⟨15, 0, .rw⟩]⟩ -- TWN-13
  | .TWN_STAT => ⟨21, 0xC, [(0, 0)], 0x0#32, .one, [⟨31, 31, .w1c⟩, ⟨30, 30, .w1c⟩, ⟨29, 29, .w1c⟩, ⟨8, 8, .ro⟩, ⟨7, 7, .ro⟩, ⟨6, 6, .ro⟩, ⟨5, 5, .ro⟩, ⟨4, 4, .ro⟩, ⟨2, 0, .ro⟩]⟩ -- TWN-14
  | .TWN_SYNC_LO => ⟨21, 0x10, [(0, 0)], 0x0#32, .one, [⟨31, 0, .ro⟩]⟩ -- TWN-15
  | .TWN_SYNC_HI => ⟨21, 0x14, [(0, 0)], 0x0#32, .one, [⟨31, 0, .ro⟩]⟩ -- TWN-16
  | .TWN_CMD => ⟨21, 0x18, [(0, 0)], 0x0#32, .one, [⟨3, 0, .wo⟩]⟩ -- TWN-17
  | .TWN_LIST_LO => ⟨21, 0x20, [(0, 0)], 0x0#32, .one, [⟨31, 0, .rw⟩]⟩ -- TWN-18
  | .TWN_LIST_HI => ⟨21, 0x24, [(0, 0)], 0x0#32, .one, [⟨15, 0, .rw⟩]⟩ -- TWN-19
  | .TWN_STAGE_LO => ⟨21, 0x28, [(0, 0)], 0x0#32, .one, [⟨31, 0, .rw⟩]⟩ -- TWN-20
  | .TWN_STAGE_HI => ⟨21, 0x2C, [(0, 0)], 0x0#32, .one, [⟨23, 16, .rw⟩, ⟨15, 0, .rw⟩]⟩ -- TWN-21
  | .TWN_MUTE_SEL => ⟨21, 0x30, [(0, 0)], 0x0#32, .perReq, [⟨7, 4, .rw⟩, ⟨2, 0, .rw⟩]⟩ -- TWN-22
  | .TWN_MUTE => ⟨21, 0x34, [(0, 0)], 0x0#32, .sel .TWN_MUTE_SEL, [⟨31, 0, .rw⟩]⟩ -- TWN-23
  | .TWN_UID_LO => ⟨21, 0x38, [(0, 0)], 0x0#32, .one, [⟨31, 0, .ro⟩]⟩ -- TWN-24
  | .TWN_UID_HI => ⟨21, 0x3C, [(0, 0)], 0x0#32, .one, [⟨31, 0, .ro⟩]⟩ -- TWN-25
  | .TWN_MUTED => ⟨21, 0x40, [(0, 0)], 0x0#32, .one, [⟨31, 0, .ro⟩]⟩ -- TWN-26
  | .TWN_ERR => ⟨21, 0x44, [(0, 0)], 0x0#32, .one, [⟨31, 16, .rc⟩, ⟨15, 0, .ro⟩]⟩ -- TWN-27
  | .SEC_BOOT_STAT => ⟨3, 0x0, [(0, 0)], 0x0#32, .one, [⟨31, 31, .w1c⟩, ⟨15, 12, .ro⟩, ⟨11, 8, .ro⟩, ⟨7, 6, .ro⟩, ⟨5, 4, .ro⟩, ⟨2, 0, .ro⟩]⟩ -- SEC-8
  | .SEC_BOOT_CMD => ⟨3, 0x4, [(0, 0)], 0x0#32, .one, [⟨0, 0, .wo⟩]⟩ -- SEC-9
  | .SEC_FUSE => ⟨3, 0x8, [(0, 0)], 0x0#32, .one, [⟨16, 16, .ro⟩, ⟨15, 8, .ro⟩, ⟨7, 0, .ro⟩]⟩ -- SEC-10
  | .SEC_STAT => ⟨3, 0xC, [(0, 0)], 0x0#32, .one, [⟨31, 31, .w1c⟩, ⟨30, 30, .ro⟩, ⟨29, 29, .ro⟩, ⟨28, 28, .ro⟩, ⟨27, 27, .w1s⟩]⟩ -- SEC-11
  | .SEC_KEY_CMD => ⟨3, 0x10, [(0, 0)], 0x0#32, .one, [⟨13, 8, .wo⟩, ⟨7, 4, .wo⟩, ⟨3, 2, .wo⟩, ⟨1, 0, .wo⟩]⟩ -- SEC-12
  | .SEC_KEY_STAT => ⟨3, 0x14, [(0, 0)], 0x0#32, .one, [⟨7, 0, .ro⟩]⟩ -- SEC-13
  | .SEC_KEY_BUF => ⟨3, 0x100, [(0, 0)], 0x0#32, .keyBuf, [⟨31, 0, .wo⟩]⟩ -- SEC-14
  | .SEC_SVC_ADDR_LO => ⟨3, 0x18, [(0, 0)], 0x0#32, .one, [⟨31, 0, .rw⟩]⟩ -- SEC-15
  | .SEC_SVC_ADDR_HI => ⟨3, 0x1C, [(0, 0)], 0x0#32, .one, [⟨15, 0, .rw⟩]⟩ -- SEC-16
  | .SEC_SVC_CMD => ⟨3, 0x20, [(0, 0)], 0x0#32, .one, [⟨8, 8, .ro⟩, ⟨0, 0, .wo⟩]⟩ -- SEC-17
  | .SEC_SVC_STAT => ⟨3, 0x24, [(0, 0)], 0x0#32, .one, [⟨7, 0, .ro⟩]⟩ -- SEC-18
  | .PMU_EVSEL => ⟨22, 0x100, [(0, 103), (128, 143), (255, 255)], 0x0#32, .stride 16 128, [⟨31, 31, .w1c⟩, ⟨30, 30, .rw⟩, ⟨29, 29, .rw⟩, ⟨15, 10, .rw⟩, ⟨9, 0, .rw⟩]⟩ -- PMU-8
  | .PMU_CNT_LO => ⟨22, 0x104, [(0, 103), (128, 143), (255, 255)], 0x0#32, .stride 16 128, [⟨31, 0, .rw⟩]⟩ -- PMU-9
  | .PMU_CNT_HI => ⟨22, 0x108, [(0, 103), (128, 143), (255, 255)], 0x0#32, .stride 16 128, [⟨15, 0, .rw⟩]⟩ -- PMU-10
  | .PMU_TAG => ⟨22, 0x0, [(0, 103)], 0x10000000#32, .one, [⟨31, 31, .rw⟩, ⟨28, 24, .rw⟩]⟩ -- PMU-11
  | .PMU_CTRL => ⟨22, 0x0, [(255, 255)], 0x0#32, .one, [⟨0, 0, .rw⟩]⟩ -- PMU-12
  | .PMU_DUMP_CFG => ⟨22, 0x10, [(255, 255)], 0x0#32, .one, [⟨31, 28, .rw⟩, ⟨23, 0, .rw⟩]⟩ -- PMU-13
  | .PMU_DUMP_BASE_LO => ⟨22, 0x14, [(255, 255)], 0x0#32, .one, [⟨31, 0, .rw⟩]⟩ -- PMU-14
  | .PMU_DUMP_BASE_HI => ⟨22, 0x18, [(255, 255)], 0x0#32, .one, [⟨15, 0, .rw⟩]⟩ -- PMU-15
  | .PMU_DUMP_CNT => ⟨22, 0x1C, [(255, 255)], 0x0#32, .one, [⟨31, 16, .ro⟩, ⟨15, 0, .ro⟩]⟩ -- PMU-16
  | .PMU_TAG_RING => ⟨22, 0x20, [(255, 255)], 0x0#32, .one, [⟨4, 0, .rw⟩]⟩ -- PMU-17
  | .PMU_TAG_BASE_LO => ⟨22, 0x24, [(255, 255)], 0x0#32, .one, [⟨31, 0, .rw⟩]⟩ -- PMU-18
  | .PMU_TAG_BASE_HI => ⟨22, 0x28, [(255, 255)], 0x0#32, .one, [⟨15, 0, .rw⟩]⟩ -- PMU-19
  | .PMU_TAG_CNT => ⟨22, 0x2C, [(255, 255)], 0x0#32, .one, [⟨31, 16, .rc⟩, ⟨15, 0, .ro⟩]⟩ -- PMU-20
  | .HST_ID => ⟨0, 0x0, [(0, 0)], 0x6496#32, .one, [⟨31, 0, .ro⟩]⟩ -- HST-4
  | .HST_STAT => ⟨0, 0x4, [(0, 0)], 0x10000000#32, .one, [⟨31, 24, .ro⟩, ⟨14, 8, .ro⟩, ⟨7, 3, .ro⟩, ⟨2, 0, .ro⟩]⟩ -- HST-5
  | .HST_VF_SEL => ⟨0, 0x10, [(0, 0)], 0x0#32, .perReq, [⟨6, 0, .rw⟩]⟩ -- HST-6
  | .HST_VF_SLOTS => ⟨0, 0x14, [(0, 0)], 0xF0000000#32, .sel .HST_VF_SEL, [⟨31, 28, .rw⟩, ⟨13, 0, .rw⟩]⟩ -- HST-7
  | .HST_VF_WIN => ⟨0, 0x18, [(0, 0)], 0xF#32, .sel .HST_VF_SEL, [⟨30, 16, .rw⟩, ⟨3, 0, .rw⟩]⟩ -- HST-8
  | .HST_VF_DMA => ⟨0, 0x1C, [(0, 0)], 0x0#32, .sel .HST_VF_SEL, [⟨31, 0, .rw⟩]⟩ -- HST-9
  | .HST_ROUTE => ⟨0, 0x20, [(0, 0)], 0x80000000#32, .perReq, [⟨31, 31, .rw⟩, ⟨27, 16, .rw⟩, ⟨15, 15, .wo⟩, ⟨4, 0, .rw⟩]⟩ -- HST-10
  | .HST_DB_DEST_LO => ⟨0, 0x1000, [(0, 0)], 0x0#32, .page, [⟨31, 0, .wo⟩]⟩ -- HST-11
  | .HST_DB_DEST_HI => ⟨0, 0x1004, [(0, 0)], 0x0#32, .page, [⟨31, 0, .wo⟩]⟩ -- HST-11
  | .HST_DB_VAL_LO => ⟨0, 0x1008, [(0, 0)], 0x0#32, .page, [⟨31, 0, .wo⟩]⟩ -- HST-12
  | .HST_DB_VAL_HI => ⟨0, 0x100C, [(0, 0)], 0x0#32, .page, [⟨31, 0, .wo⟩]⟩ -- HST-12
  | .HST_DB_STAT => ⟨0, 0x1010, [(0, 0)], 0x0#32, .page, [⟨31, 31, .w1c⟩, ⟨4, 0, .ro⟩]⟩ -- HST-13
  | .HST_RING_SEL => ⟨0, 0x1020, [(0, 0)], 0x0#32, .perReq, [⟨4, 0, .rw⟩]⟩ -- HST-14
  | .HST_RING_BASE_LO => ⟨0, 0x1024, [(0, 0)], 0x0#32, .sel .HST_RING_SEL, [⟨31, 0, .rw⟩]⟩ -- HST-15
  | .HST_RING_BASE_HI => ⟨0, 0x1028, [(0, 0)], 0x0#32, .sel .HST_RING_SEL, [⟨31, 0, .rw⟩]⟩ -- HST-15
  | .HST_RING_CFG => ⟨0, 0x102C, [(0, 0)], 0x0#32, .sel .HST_RING_SEL, [⟨31, 31, .w1c⟩, ⟨30, 26, .rw⟩, ⟨25, 16, .rw⟩, ⟨15, 8, .rw⟩, ⟨0, 0, .rw⟩]⟩ -- HST-16
  | .HST_RING_IDX => ⟨0, 0x1030, [(0, 0)], 0x0#32, .sel .HST_RING_SEL, [⟨31, 16, .rw⟩, ⟨15, 0, .ro⟩]⟩ -- HST-17
  | .CLK_STAT => ⟨1, 0x0, [(0, 0)], 0x0#32, .one, [⟨31, 31, .w1c⟩, ⟨30, 30, .w1c⟩, ⟨3, 3, .ro⟩, ⟨2, 2, .ro⟩, ⟨1, 1, .ro⟩, ⟨0, 0, .ro⟩]⟩ -- CLK-8
  | .CLK_CMD => ⟨1, 0x4, [(0, 0)], 0x0#32, .one, [⟨0, 0, .wo⟩]⟩ -- CLK-9
  | .CLK_MON => ⟨1, 0x8, [(0, 0)], 0x0#32, .one, [⟨7, 0, .ro⟩]⟩ -- CLK-10
  | .CLK_RST_CFG => ⟨1, 0xC, [(0, 0)], 0x1#32, .one, [⟨0, 0, .rw⟩]⟩ -- CLK-11
  | .CLK_RST_CMD => ⟨1, 0x10, [(0, 0)], 0x0#32, .one, [⟨31, 16, .wo⟩, ⟨0, 0, .wo⟩]⟩ -- CLK-12
  | .CLK_RST_CAUSE => ⟨1, 0x14, [(0, 0)], 0x1#32, .one, [⟨6, 0, .w1c⟩]⟩ -- CLK-13
  | .PWR_REQ => ⟨2, 0x0, [(0, 0)], 0x0#32, .one, [⟨9, 8, .wo⟩, ⟨7, 0, .wo⟩]⟩ -- CLK-14
  | .PWR_STAT => ⟨2, 0x4, [(0, 0)], 0x0#32, .one, [⟨31, 31, .w1c⟩, ⟨30, 30, .w1c⟩, ⟨15, 8, .ro⟩, ⟨7, 0, .ro⟩]⟩ -- CLK-15
  | .PWR_DOM_SEL => ⟨2, 0x8, [(0, 0)], 0x0#32, .perReq, [⟨7, 0, .rw⟩]⟩ -- CLK-16
  | .PWR_DOM_STATE => ⟨2, 0xC, [(0, 0)], 0x2#32, .sel .PWR_DOM_SEL, [⟨2, 0, .ro⟩]⟩ -- CLK-17
  | .PWR_FEED => ⟨2, 0x10, [(0, 0)], 0x0#32, .one, [⟨21, 16, .w1c⟩, ⟨6, 0, .ro⟩]⟩ -- CLK-18
  | .PWR_TEMP => ⟨2, 0x14, [(0, 0)], 0x0#32, .one, [⟨16, 16, .ro⟩, ⟨7, 0, .ro⟩]⟩ -- CLK-19

/-- The registers of subsystem window k (table ARC-9). -/
def Reg.ofWindow : Nat → List Reg
  | 0 => [.HST_ADM_SEL, .HST_ADM_LIMIT, .HST_ADM_USED, .HST_ADM_LAST, .HST_ID, .HST_STAT,
      .HST_VF_SEL, .HST_VF_SLOTS, .HST_VF_WIN, .HST_VF_DMA, .HST_ROUTE, .HST_DB_DEST_LO,
      .HST_DB_DEST_HI, .HST_DB_VAL_LO, .HST_DB_VAL_HI, .HST_DB_STAT, .HST_RING_SEL,
      .HST_RING_BASE_LO, .HST_RING_BASE_HI, .HST_RING_CFG, .HST_RING_IDX]
  | 1 => [.CLK_STAT, .CLK_CMD, .CLK_MON, .CLK_RST_CFG, .CLK_RST_CMD, .CLK_RST_CAUSE]
  | 2 => [.PWR_REQ, .PWR_STAT, .PWR_DOM_SEL, .PWR_DOM_STATE, .PWR_FEED, .PWR_TEMP]
  | 3 => [.SEC_BOOT_STAT, .SEC_BOOT_CMD, .SEC_FUSE, .SEC_STAT, .SEC_KEY_CMD, .SEC_KEY_STAT,
      .SEC_KEY_BUF, .SEC_SVC_ADDR_LO, .SEC_SVC_ADDR_HI, .SEC_SVC_CMD, .SEC_SVC_STAT]
  | 4 => [.EVT_SEL, .EVT_SEQ, .EVT_LOST, .EVT_STAT]
  | 5 => [.TLY_CTRL, .TLY_TICK, .TLY_TICKCNT_LO, .TLY_TICKCNT_HI, .TLY_STAT, .TLY_OCC,
      .TLY_FLOW_SEL, .TLY_FLOW_CFG, .TLY_FLOW_TGT_LO, .TLY_FLOW_TGT_HI, .TLY_FLOW_POS,
      .TLY_FLOW_RING]
  | 6 => [.RK_STATE, .RK_CTRL, .RK_FAULT, .RK_FAULT_PC, .RK_FAULT_ADDR_LO, .RK_FAULT_ADDR_HI,
      .RK_CMD, .RK_CMD_STAT, .RK_IMG_BASE, .RK_WDOG, .RK_SPARES]
  | 7 => [.BNK_STAT, .BNK_ECC_CFG, .BNK_ECC_BKT, .BNK_ECC_WORD, .BNK_INJ_WORD, .BNK_INJ]
  | 8 => [.MC_CTRL, .MC_STAT, .MC_CAL_SEL, .MC_CAL_VAL, .MC_CAL_LAT, .MC_ECC_CFG, .MC_ECC_BKT,
      .MC_ECC_WORD, .MC_INJ_WORD, .MC_INJ]
  | 9 => [.HRW_CTRL, .HRW_PERIOD, .HRW_STAT]
  | 10 => [.PAN_STAT, .PAN_CMD_STAT, .PAN_PGM_STATE, .PAN_PGM_DESC_LO, .PAN_PGM_DESC_HI,
      .PAN_PGM_PIC, .PAN_PGM_ROW, .PAN_PGM_ROLL, .PAN_PGM_RRING, .PAN_PGM_BSCONS, .PAN_PGM_QP,
      .PAN_PGM_BUCKET, .PAN_PGM_LADDER]
  | 11 => [.SLU_STAT, .SLU_CMD_STAT, .SLU_STR_SEL, .SLU_STR_STATE, .SLU_STR_RRING, .SLU_STR_ERR]
  | 12 => [.CMP_STAT, .CMP_CMD_STAT, .CMP_OUT_SEL, .CMP_OUT_STATE, .CMP_OUT_FRAME, .CMP_OUT_SIG,
      .CMP_LAYER_LATE]
  | 13 => [.DH_STAT, .DH_CMD_STAT, .DH_FRAME, .DH_FLIP_NS, .DH_FLIP_SEC, .DH_FLIP_FRM, .DH_TE,
      .DH_ERR]
  | 14 => [.DMA_CFG, .DMA_STAT, .DMA_DONE, .DMA_COUNT, .DMA_SUBMIT_LO, .DMA_SUBMIT_HI,
      .DMA_RGN_SEL, .DMA_RGN_BASE, .DMA_RGN_END, .DMA_RGN_CFG]
  | 15 => [.ETH_CFG, .ETH_STAT, .ETH_CNT_SEL, .ETH_CNT_LO, .ETH_CNT_HI, .ETH_RXF_ADDR_LO,
      .ETH_RXF_ADDR_HI, .ETH_RXF_CMD, .ETH_RXF_STAT, .ETH_RXF_SEL, .ETH_RXF_RING, .ETH_RXF_ERR]
  | 16 => [.TSH_CTRL, .TSH_CMD, .TSH_ADDR_LO, .TSH_ADDR_HI, .TSH_CMD_STAT, .TSH_GATE, .TSH_SMP_CFG,
      .TSH_SMP_BASE_LO, .TSH_SMP_BASE_HI, .TSH_SMP_CNT, .TSH_Q_SEL, .TSH_Q_STAT]
  | 17 => [.TIM_CFG, .TIM_INC_LO, .TIM_INC_HI, .TIM_HINC_LO, .TIM_HINC_HI, .TIM_NOW_NS,
      .TIM_NOW_FRAC, .TIM_NOW_SEC_LO, .TIM_NOW_SEC_HI, .TIM_OP_NS, .TIM_OP_SEC_LO, .TIM_OP_SEC_HI,
      .TIM_OP_CMD, .TIM_STAT, .TIM_SLEW_REM, .TIM_TXTS_ID, .TIM_TXTS_NS, .TIM_TXTS_SEC,
      .TIM_TXTS_STAT, .TIM_LAT, .TIM_TOUT_CTRL, .TIM_TOUT_START_NS, .TIM_TOUT_START_SEC_LO,
      .TIM_TOUT_START_SEC_HI, .TIM_TOUT_FR_NUM, .TIM_TOUT_FR_DEN, .TIM_TOUT_WIDTH, .TIM_TOUT_COUNT]
  | 18 => [.AUD_IN_CFG, .AUD_IN_MASK, .AUD_IN_BASE_LO, .AUD_IN_BASE_HI, .AUD_IN_RING, .AUD_IN_STAT,
      .AUD_OUT_CFG, .AUD_OUT_START_LO, .AUD_OUT_START_HI, .AUD_OUT_BASE_LO, .AUD_OUT_BASE_HI,
      .AUD_OUT_RING, .AUD_OUT_STAT]
  | 19 => [.LN_CFG, .LN_SDI_ADDR_LO, .LN_SDI_ADDR_HI, .LN_SDI_CMD, .LN_SDI_STAT, .LN_LANE_CTRL,
      .LN_LANE_FIR, .LN_LANE_STAT, .LN_LANE_EQ]
  | 20 => [.CHK_CFG, .CHK_INST, .CHK_EXP_LO, .CHK_EXP_HI, .CHK_TBL_LO, .CHK_TBL_HI, .CHK_ALIVE,
      .CHK_STAT, .CHK_BLOCKS, .CHK_LAST_LO, .CHK_LAST_HI, .CHK_MISBLK, .CHK_PHASE]
  | 21 => [.TWN_CTRL, .TWN_CFG, .TWN_WDOG, .TWN_STAT, .TWN_SYNC_LO, .TWN_SYNC_HI, .TWN_CMD,
      .TWN_LIST_LO, .TWN_LIST_HI, .TWN_STAGE_LO, .TWN_STAGE_HI, .TWN_MUTE_SEL, .TWN_MUTE,
      .TWN_UID_LO, .TWN_UID_HI, .TWN_MUTED, .TWN_ERR]
  | 22 => [.PMU_EVSEL, .PMU_CNT_LO, .PMU_CNT_HI, .PMU_TAG, .PMU_CTRL, .PMU_DUMP_CFG,
      .PMU_DUMP_BASE_LO, .PMU_DUMP_BASE_HI, .PMU_DUMP_CNT, .PMU_TAG_RING, .PMU_TAG_BASE_LO,
      .PMU_TAG_BASE_HI, .PMU_TAG_CNT]
  | _ => []

/-! The fields by name. -/
namespace F

def HST_ADM_SEL_ENTRY : Fld := ⟨.HST_ADM_SEL, 5, 0⟩
def HST_ADM_LIMIT_LIMIT : Fld := ⟨.HST_ADM_LIMIT, 31, 0⟩
def HST_ADM_USED_USED : Fld := ⟨.HST_ADM_USED, 31, 0⟩
def HST_ADM_LAST_REFUSED : Fld := ⟨.HST_ADM_LAST, 31, 31⟩
def HST_ADM_LAST_SRC : Fld := ⟨.HST_ADM_LAST, 19, 8⟩
def HST_ADM_LAST_ENTRY : Fld := ⟨.HST_ADM_LAST, 5, 0⟩
def RK_STATE_POS : Fld := ⟨.RK_STATE, 14, 8⟩
def RK_STATE_STATE : Fld := ⟨.RK_STATE, 3, 0⟩
def RK_CTRL_RESUME : Fld := ⟨.RK_CTRL, 1, 1⟩
def RK_CTRL_DBG_EN : Fld := ⟨.RK_CTRL, 0, 0⟩
def RK_FAULT_COUNT : Fld := ⟨.RK_FAULT, 31, 16⟩
def RK_FAULT_NEW : Fld := ⟨.RK_FAULT, 8, 8⟩
def RK_FAULT_CAUSE : Fld := ⟨.RK_FAULT, 7, 0⟩
def RK_FAULT_PC_REPLAY : Fld := ⟨.RK_FAULT_PC, 31, 30⟩
def RK_FAULT_PC_SLOT : Fld := ⟨.RK_FAULT_PC, 29, 16⟩
def RK_FAULT_PC_PC : Fld := ⟨.RK_FAULT_PC, 15, 0⟩
def RK_FAULT_ADDR_LO_ADDR : Fld := ⟨.RK_FAULT_ADDR_LO, 31, 0⟩
def RK_FAULT_ADDR_HI_ADDR : Fld := ⟨.RK_FAULT_ADDR_HI, 15, 0⟩
def RK_CMD_TARGET : Fld := ⟨.RK_CMD, 14, 8⟩
def RK_CMD_OP : Fld := ⟨.RK_CMD, 3, 0⟩
def RK_CMD_STAT_DROPPED : Fld := ⟨.RK_CMD_STAT, 8, 8⟩
def RK_CMD_STAT_STATUS : Fld := ⟨.RK_CMD_STAT, 2, 0⟩
def RK_IMG_BASE_BASE : Fld := ⟨.RK_IMG_BASE, 15, 0⟩
def RK_WDOG_BUDGET : Fld := ⟨.RK_WDOG, 23, 0⟩
def RK_SPARES_LOST : Fld := ⟨.RK_SPARES, 14, 8⟩
def RK_SPARES_SPARES : Fld := ⟨.RK_SPARES, 3, 0⟩
def TLY_CTRL_DISPATCH : Fld := ⟨.TLY_CTRL, 0, 0⟩
def TLY_TICK_PERIOD : Fld := ⟨.TLY_TICK, 19, 0⟩
def TLY_TICKCNT_LO_COUNT : Fld := ⟨.TLY_TICKCNT_LO, 31, 0⟩
def TLY_TICKCNT_HI_COUNT : Fld := ⟨.TLY_TICKCNT_HI, 31, 0⟩
def TLY_STAT_BADTICK : Fld := ⟨.TLY_STAT, 5, 5⟩
def TLY_STAT_ARMREF : Fld := ⟨.TLY_STAT, 4, 4⟩
def TLY_STAT_DLYFULL : Fld := ⟨.TLY_STAT, 3, 3⟩
def TLY_STAT_DUP : Fld := ⟨.TLY_STAT, 2, 2⟩
def TLY_STAT_LATE : Fld := ⟨.TLY_STAT, 1, 1⟩
def TLY_STAT_STALE : Fld := ⟨.TLY_STAT, 0, 0⟩
def TLY_OCC_SLOTS : Fld := ⟨.TLY_OCC, 30, 16⟩
def TLY_OCC_LEVELS : Fld := ⟨.TLY_OCC, 15, 0⟩
def TLY_FLOW_SEL_FLOW : Fld := ⟨.TLY_FLOW_SEL, 9, 0⟩
def TLY_FLOW_CFG_REFUSED : Fld := ⟨.TLY_FLOW_CFG, 31, 31⟩
def TLY_FLOW_CFG_WINDOW : Fld := ⟨.TLY_FLOW_CFG, 14, 8⟩
def TLY_FLOW_CFG_TYPE : Fld := ⟨.TLY_FLOW_CFG, 1, 1⟩
def TLY_FLOW_CFG_EN : Fld := ⟨.TLY_FLOW_CFG, 0, 0⟩
def TLY_FLOW_TGT_LO_TGT : Fld := ⟨.TLY_FLOW_TGT_LO, 31, 0⟩
def TLY_FLOW_TGT_HI_TGT : Fld := ⟨.TLY_FLOW_TGT_HI, 31, 0⟩
def TLY_FLOW_POS_NEXT : Fld := ⟨.TLY_FLOW_POS, 31, 16⟩
def TLY_FLOW_POS_REL : Fld := ⟨.TLY_FLOW_POS, 15, 0⟩
def TLY_FLOW_RING_CONS : Fld := ⟨.TLY_FLOW_RING, 31, 16⟩
def TLY_FLOW_RING_PROD : Fld := ⟨.TLY_FLOW_RING, 15, 0⟩
def MC_CTRL_HALF : Fld := ⟨.MC_CTRL, 1, 1⟩
def MC_CTRL_EN : Fld := ⟨.MC_CTRL, 0, 0⟩
def MC_STAT_CAPAR : Fld := ⟨.MC_STAT, 31, 16⟩
def MC_STAT_TEMP : Fld := ⟨.MC_STAT, 15, 8⟩
def MC_STAT_CALLOCK : Fld := ⟨.MC_STAT, 7, 7⟩
def MC_STAT_HOTREF : Fld := ⟨.MC_STAT, 6, 6⟩
def MC_STAT_HALFACT : Fld := ⟨.MC_STAT, 5, 5⟩
def MC_STAT_STATE : Fld := ⟨.MC_STAT, 2, 0⟩
def MC_CAL_SEL_LANE : Fld := ⟨.MC_CAL_SEL, 7, 0⟩
def MC_CAL_VAL_RDLY : Fld := ⟨.MC_CAL_VAL, 15, 8⟩
def MC_CAL_VAL_WDLY : Fld := ⟨.MC_CAL_VAL, 7, 0⟩
def MC_CAL_LAT_WRLAT : Fld := ⟨.MC_CAL_LAT, 13, 8⟩
def MC_CAL_LAT_RDLAT : Fld := ⟨.MC_CAL_LAT, 5, 0⟩
def MC_ECC_CFG_LEAK : Fld := ⟨.MC_ECC_CFG, 31, 16⟩
def MC_ECC_CFG_THRESH : Fld := ⟨.MC_ECC_CFG, 15, 0⟩
def MC_ECC_BKT_OVF : Fld := ⟨.MC_ECC_BKT, 31, 31⟩
def MC_ECC_BKT_COUNT : Fld := ⟨.MC_ECC_BKT, 15, 0⟩
def MC_ECC_WORD_H1 : Fld := ⟨.MC_ECC_WORD, 31, 31⟩
def MC_ECC_WORD_H0 : Fld := ⟨.MC_ECC_WORD, 30, 30⟩
def MC_ECC_WORD_WORD : Fld := ⟨.MC_ECC_WORD, 29, 0⟩
def MC_INJ_WORD_WORD : Fld := ⟨.MC_INJ_WORD, 29, 0⟩
def MC_INJ_ARM : Fld := ⟨.MC_INJ, 31, 31⟩
def MC_INJ_SYM_B : Fld := ⟨.MC_INJ, 21, 15⟩
def MC_INJ_MASK_B : Fld := ⟨.MC_INJ, 14, 11⟩
def MC_INJ_SYM_A : Fld := ⟨.MC_INJ, 10, 4⟩
def MC_INJ_MASK_A : Fld := ⟨.MC_INJ, 3, 0⟩
def BNK_STAT_SIZE : Fld := ⟨.BNK_STAT, 31, 16⟩
def BNK_STAT_STATE : Fld := ⟨.BNK_STAT, 2, 0⟩
def BNK_ECC_CFG_LEAK : Fld := ⟨.BNK_ECC_CFG, 31, 16⟩
def BNK_ECC_CFG_THRESH : Fld := ⟨.BNK_ECC_CFG, 15, 0⟩
def BNK_ECC_BKT_OVF : Fld := ⟨.BNK_ECC_BKT, 31, 31⟩
def BNK_ECC_BKT_COUNT : Fld := ⟨.BNK_ECC_BKT, 15, 0⟩
def BNK_ECC_WORD_H1 : Fld := ⟨.BNK_ECC_WORD, 31, 31⟩
def BNK_ECC_WORD_H0 : Fld := ⟨.BNK_ECC_WORD, 30, 30⟩
def BNK_ECC_WORD_WORD : Fld := ⟨.BNK_ECC_WORD, 22, 0⟩
def BNK_INJ_WORD_WORD : Fld := ⟨.BNK_INJ_WORD, 22, 0⟩
def BNK_INJ_ARM : Fld := ⟨.BNK_INJ, 31, 31⟩
def BNK_INJ_SYM_B : Fld := ⟨.BNK_INJ, 21, 15⟩
def BNK_INJ_MASK_B : Fld := ⟨.BNK_INJ, 14, 11⟩
def BNK_INJ_SYM_A : Fld := ⟨.BNK_INJ, 10, 4⟩
def BNK_INJ_MASK_A : Fld := ⟨.BNK_INJ, 3, 0⟩
def HRW_CTRL_EN : Fld := ⟨.HRW_CTRL, 0, 0⟩
def HRW_PERIOD_SECONDS : Fld := ⟨.HRW_PERIOD, 16, 0⟩
def HRW_STAT_LATE : Fld := ⟨.HRW_STAT, 31, 31⟩
def HRW_STAT_PASSES : Fld := ⟨.HRW_STAT, 23, 0⟩
def PAN_STAT_LOAD : Fld := ⟨.PAN_STAT, 31, 16⟩
def PAN_STAT_ACTIVE : Fld := ⟨.PAN_STAT, 3, 0⟩
def PAN_CMD_STAT_REFUSED : Fld := ⟨.PAN_CMD_STAT, 31, 31⟩
def PAN_CMD_STAT_PGM : Fld := ⟨.PAN_CMD_STAT, 21, 16⟩
def PAN_CMD_STAT_OPCODE : Fld := ⟨.PAN_CMD_STAT, 15, 8⟩
def PAN_CMD_STAT_STATUS : Fld := ⟨.PAN_CMD_STAT, 7, 0⟩
def PAN_PGM_STATE_CAPFLOOR : Fld := ⟨.PAN_PGM_STATE, 7, 7⟩
def PAN_PGM_STATE_CLASS : Fld := ⟨.PAN_PGM_STATE, 6, 6⟩
def PAN_PGM_STATE_SLOTS : Fld := ⟨.PAN_PGM_STATE, 5, 4⟩
def PAN_PGM_STATE_STATE : Fld := ⟨.PAN_PGM_STATE, 1, 0⟩
def PAN_PGM_DESC_LO_ADDR : Fld := ⟨.PAN_PGM_DESC_LO, 31, 0⟩
def PAN_PGM_DESC_HI_ADDR : Fld := ⟨.PAN_PGM_DESC_HI, 15, 0⟩
def PAN_PGM_PIC_PIC : Fld := ⟨.PAN_PGM_PIC, 31, 0⟩
def PAN_PGM_ROW_CREDIT : Fld := ⟨.PAN_PGM_ROW, 29, 24⟩
def PAN_PGM_ROW_ROW : Fld := ⟨.PAN_PGM_ROW, 15, 0⟩
def PAN_PGM_ROLL_DEADLINE : Fld := ⟨.PAN_PGM_ROLL, 31, 16⟩
def PAN_PGM_ROLL_ROLLS : Fld := ⟨.PAN_PGM_ROLL, 15, 0⟩
def PAN_PGM_RRING_CONS : Fld := ⟨.PAN_PGM_RRING, 31, 16⟩
def PAN_PGM_RRING_PROD : Fld := ⟨.PAN_PGM_RRING, 15, 0⟩
def PAN_PGM_BSCONS_OFFSET : Fld := ⟨.PAN_PGM_BSCONS, 29, 0⟩
def PAN_PGM_QP_MINCTU : Fld := ⟨.PAN_PGM_QP, 17, 17⟩
def PAN_PGM_QP_FLOOR : Fld := ⟨.PAN_PGM_QP, 16, 16⟩
def PAN_PGM_QP_QB : Fld := ⟨.PAN_PGM_QP, 15, 8⟩
def PAN_PGM_QP_QROW : Fld := ⟨.PAN_PGM_QP, 7, 0⟩
def PAN_PGM_BUCKET_FILL : Fld := ⟨.PAN_PGM_BUCKET, 31, 0⟩
def PAN_PGM_LADDER_GUARD : Fld := ⟨.PAN_PGM_LADDER, 31, 16⟩
def PAN_PGM_LADDER_FLOORROWS : Fld := ⟨.PAN_PGM_LADDER, 15, 0⟩
def SLU_STAT_LOAD : Fld := ⟨.SLU_STAT, 31, 16⟩
def SLU_STAT_OPEN : Fld := ⟨.SLU_STAT, 7, 0⟩
def SLU_CMD_STAT_REFUSED : Fld := ⟨.SLU_CMD_STAT, 31, 31⟩
def SLU_CMD_STAT_CTX : Fld := ⟨.SLU_CMD_STAT, 18, 16⟩
def SLU_CMD_STAT_OPCODE : Fld := ⟨.SLU_CMD_STAT, 15, 8⟩
def SLU_CMD_STAT_STATUS : Fld := ⟨.SLU_CMD_STAT, 7, 0⟩
def SLU_STR_SEL_CTX : Fld := ⟨.SLU_STR_SEL, 2, 0⟩
def SLU_STR_STATE_CONCEAL : Fld := ⟨.SLU_STR_STATE, 4, 4⟩
def SLU_STR_STATE_CODEC : Fld := ⟨.SLU_STR_STATE, 3, 2⟩
def SLU_STR_STATE_STATE : Fld := ⟨.SLU_STR_STATE, 1, 0⟩
def SLU_STR_RRING_CONS : Fld := ⟨.SLU_STR_RRING, 31, 16⟩
def SLU_STR_RRING_PROD : Fld := ⟨.SLU_STR_RRING, 15, 0⟩
def SLU_STR_ERR_SUBST : Fld := ⟨.SLU_STR_ERR, 31, 16⟩
def SLU_STR_ERR_ERRS : Fld := ⟨.SLU_STR_ERR, 15, 0⟩
def CMP_STAT_LOAD : Fld := ⟨.CMP_STAT, 31, 16⟩
def CMP_STAT_OUTS : Fld := ⟨.CMP_STAT, 7, 0⟩
def CMP_CMD_STAT_REFUSED : Fld := ⟨.CMP_CMD_STAT, 31, 31⟩
def CMP_CMD_STAT_OUT : Fld := ⟨.CMP_CMD_STAT, 18, 16⟩
def CMP_CMD_STAT_OPCODE : Fld := ⟨.CMP_CMD_STAT, 15, 8⟩
def CMP_CMD_STAT_STATUS : Fld := ⟨.CMP_CMD_STAT, 7, 0⟩
def CMP_OUT_SEL_LAYER : Fld := ⟨.CMP_OUT_SEL, 11, 8⟩
def CMP_OUT_SEL_OUT : Fld := ⟨.CMP_OUT_SEL, 2, 0⟩
def CMP_OUT_STATE_NEXTBAND : Fld := ⟨.CMP_OUT_STATE, 31, 16⟩
def CMP_OUT_STATE_PENDING : Fld := ⟨.CMP_OUT_STATE, 3, 3⟩
def CMP_OUT_STATE_TYPE : Fld := ⟨.CMP_OUT_STATE, 1, 0⟩
def CMP_OUT_FRAME_FRAMES : Fld := ⟨.CMP_OUT_FRAME, 31, 0⟩
def CMP_OUT_SIG_ALARMS : Fld := ⟨.CMP_OUT_SIG, 31, 16⟩
def CMP_OUT_SIG_LAST : Fld := ⟨.CMP_OUT_SIG, 15, 0⟩
def CMP_LAYER_LATE_NOBUF : Fld := ⟨.CMP_LAYER_LATE, 16, 16⟩
def CMP_LAYER_LATE_LATE : Fld := ⟨.CMP_LAYER_LATE, 15, 0⟩
def DH_STAT_REPEATS : Fld := ⟨.DH_STAT, 31, 16⟩
def DH_STAT_PLANES : Fld := ⟨.DH_STAT, 15, 12⟩
def DH_STAT_PAIR : Fld := ⟨.DH_STAT, 9, 8⟩
def DH_STAT_TEPACE : Fld := ⟨.DH_STAT, 7, 7⟩
def DH_STAT_STATE : Fld := ⟨.DH_STAT, 2, 0⟩
def DH_CMD_STAT_REFUSED : Fld := ⟨.DH_CMD_STAT, 31, 31⟩
def DH_CMD_STAT_OPCODE : Fld := ⟨.DH_CMD_STAT, 15, 8⟩
def DH_CMD_STAT_STATUS : Fld := ⟨.DH_CMD_STAT, 7, 0⟩
def DH_FRAME_FRAMES : Fld := ⟨.DH_FRAME, 31, 0⟩
def DH_FLIP_NS_NS : Fld := ⟨.DH_FLIP_NS, 29, 0⟩
def DH_FLIP_SEC_SEC : Fld := ⟨.DH_FLIP_SEC, 31, 0⟩
def DH_FLIP_FRM_FRAME : Fld := ⟨.DH_FLIP_FRM, 31, 0⟩
def DH_TE_TIMEOUTS : Fld := ⟨.DH_TE, 31, 16⟩
def DH_TE_LEVEL : Fld := ⟨.DH_TE, 15, 15⟩
def DH_TE_EDGES : Fld := ⟨.DH_TE, 14, 0⟩
def DH_ERR_POISON : Fld := ⟨.DH_ERR, 31, 16⟩
def DH_ERR_LATE : Fld := ⟨.DH_ERR, 15, 0⟩
def ETH_CFG_DEFLOW : Fld := ⟨.ETH_CFG, 21, 12⟩
def ETH_CFG_ALTQ : Fld := ⟨.ETH_CFG, 8, 8⟩
def ETH_CFG_CR : Fld := ⟨.ETH_CFG, 7, 7⟩
def ETH_CFG_AN : Fld := ⟨.ETH_CFG, 6, 6⟩
def ETH_CFG_FEC : Fld := ⟨.ETH_CFG, 5, 2⟩
def ETH_CFG_MODE : Fld := ⟨.ETH_CFG, 1, 0⟩
def ETH_STAT_CHG : Fld := ⟨.ETH_STAT, 8, 8⟩
def ETH_STAT_ANDONE : Fld := ⟨.ETH_STAT, 7, 4⟩
def ETH_STAT_LINK : Fld := ⟨.ETH_STAT, 3, 0⟩
def ETH_CNT_SEL_LINK : Fld := ⟨.ETH_CNT_SEL, 5, 4⟩
def ETH_CNT_SEL_CNT : Fld := ⟨.ETH_CNT_SEL, 3, 0⟩
def ETH_CNT_LO_COUNT : Fld := ⟨.ETH_CNT_LO, 31, 0⟩
def ETH_CNT_HI_COUNT : Fld := ⟨.ETH_CNT_HI, 31, 0⟩
def ETH_RXF_ADDR_LO_ADDR : Fld := ⟨.ETH_RXF_ADDR_LO, 31, 0⟩
def ETH_RXF_ADDR_HI_ADDR : Fld := ⟨.ETH_RXF_ADDR_HI, 15, 0⟩
def ETH_RXF_CMD_FLOW : Fld := ⟨.ETH_RXF_CMD, 17, 8⟩
def ETH_RXF_CMD_OP : Fld := ⟨.ETH_RXF_CMD, 1, 0⟩
def ETH_RXF_STAT_REFUSED : Fld := ⟨.ETH_RXF_STAT, 31, 31⟩
def ETH_RXF_STAT_STATUS : Fld := ⟨.ETH_RXF_STAT, 7, 0⟩
def ETH_RXF_SEL_FLOW : Fld := ⟨.ETH_RXF_SEL, 9, 0⟩
def ETH_RXF_RING_CONS : Fld := ⟨.ETH_RXF_RING, 31, 16⟩
def ETH_RXF_RING_PROD : Fld := ⟨.ETH_RXF_RING, 15, 0⟩
def ETH_RXF_ERR_INCOMP : Fld := ⟨.ETH_RXF_ERR, 31, 16⟩
def ETH_RXF_ERR_DROPS : Fld := ⟨.ETH_RXF_ERR, 15, 0⟩
def TSH_CTRL_MARGIN : Fld := ⟨.TSH_CTRL, 23, 16⟩
def TSH_CTRL_OVERHEAD : Fld := ⟨.TSH_CTRL, 13, 8⟩
def TSH_CTRL_EN : Fld := ⟨.TSH_CTRL, 0, 0⟩
def TSH_CMD_INDEX : Fld := ⟨.TSH_CMD, 16, 8⟩
def TSH_CMD_OP : Fld := ⟨.TSH_CMD, 3, 0⟩
def TSH_ADDR_LO_ADDR : Fld := ⟨.TSH_ADDR_LO, 31, 0⟩
def TSH_ADDR_HI_ADDR : Fld := ⟨.TSH_ADDR_HI, 15, 0⟩
def TSH_CMD_STAT_REFUSED : Fld := ⟨.TSH_CMD_STAT, 31, 31⟩
def TSH_CMD_STAT_DROPPED : Fld := ⟨.TSH_CMD_STAT, 30, 30⟩
def TSH_CMD_STAT_BUSY : Fld := ⟨.TSH_CMD_STAT, 29, 29⟩
def TSH_CMD_STAT_OP : Fld := ⟨.TSH_CMD_STAT, 11, 8⟩
def TSH_CMD_STAT_STATUS : Fld := ⟨.TSH_CMD_STAT, 7, 0⟩
def TSH_GATE_LATE : Fld := ⟨.TSH_GATE, 31, 31⟩
def TSH_GATE_PEND : Fld := ⟨.TSH_GATE, 30, 30⟩
def TSH_GATE_ACTIVE : Fld := ⟨.TSH_GATE, 29, 29⟩
def TSH_GATE_ENTRY : Fld := ⟨.TSH_GATE, 8, 0⟩
def TSH_SMP_CFG_LOG2 : Fld := ⟨.TSH_SMP_CFG, 31, 28⟩
def TSH_SMP_CFG_PERIOD : Fld := ⟨.TSH_SMP_CFG, 19, 0⟩
def TSH_SMP_BASE_LO_BASE : Fld := ⟨.TSH_SMP_BASE_LO, 31, 0⟩
def TSH_SMP_BASE_HI_BASE : Fld := ⟨.TSH_SMP_BASE_HI, 15, 0⟩
def TSH_SMP_CNT_COUNT : Fld := ⟨.TSH_SMP_CNT, 31, 0⟩
def TSH_Q_SEL_QUEUE : Fld := ⟨.TSH_Q_SEL, 8, 0⟩
def TSH_Q_STAT_STATE : Fld := ⟨.TSH_Q_STAT, 31, 30⟩
def TSH_Q_STAT_PACE : Fld := ⟨.TSH_Q_STAT, 25, 24⟩
def TSH_Q_STAT_LINK : Fld := ⟨.TSH_Q_STAT, 21, 20⟩
def TSH_Q_STAT_CLASS : Fld := ⟨.TSH_Q_STAT, 18, 16⟩
def TSH_Q_STAT_PKTS : Fld := ⟨.TSH_Q_STAT, 12, 0⟩
def TIM_CFG_JUMP : Fld := ⟨.TIM_CFG, 31, 12⟩
def TIM_CFG_SLEW : Fld := ⟨.TIM_CFG, 9, 0⟩
def TIM_INC_LO_INC : Fld := ⟨.TIM_INC_LO, 31, 0⟩
def TIM_INC_HI_INC : Fld := ⟨.TIM_INC_HI, 3, 0⟩
def TIM_HINC_LO_HINC : Fld := ⟨.TIM_HINC_LO, 31, 0⟩
def TIM_HINC_HI_HINC : Fld := ⟨.TIM_HINC_HI, 3, 0⟩
def TIM_NOW_NS_NS : Fld := ⟨.TIM_NOW_NS, 29, 0⟩
def TIM_NOW_FRAC_FRAC : Fld := ⟨.TIM_NOW_FRAC, 31, 0⟩
def TIM_NOW_SEC_LO_SEC : Fld := ⟨.TIM_NOW_SEC_LO, 31, 0⟩
def TIM_NOW_SEC_HI_SEC : Fld := ⟨.TIM_NOW_SEC_HI, 31, 0⟩
def TIM_OP_NS_NEG : Fld := ⟨.TIM_OP_NS, 31, 31⟩
def TIM_OP_NS_NS : Fld := ⟨.TIM_OP_NS, 29, 0⟩
def TIM_OP_SEC_LO_SEC : Fld := ⟨.TIM_OP_SEC_LO, 31, 0⟩
def TIM_OP_SEC_HI_SEC : Fld := ⟨.TIM_OP_SEC_HI, 31, 0⟩
def TIM_OP_CMD_OP : Fld := ⟨.TIM_OP_CMD, 2, 0⟩
def TIM_STAT_DROPPED : Fld := ⟨.TIM_STAT, 6, 6⟩
def TIM_STAT_BADINC : Fld := ⟨.TIM_STAT, 5, 5⟩
def TIM_STAT_REFUSED : Fld := ⟨.TIM_STAT, 4, 4⟩
def TIM_STAT_PENDING : Fld := ⟨.TIM_STAT, 3, 3⟩
def TIM_STAT_SLEWING : Fld := ⟨.TIM_STAT, 2, 2⟩
def TIM_STAT_HOLD : Fld := ⟨.TIM_STAT, 1, 1⟩
def TIM_STAT_VALID : Fld := ⟨.TIM_STAT, 0, 0⟩
def TIM_SLEW_REM_REM : Fld := ⟨.TIM_SLEW_REM, 31, 0⟩
def TIM_TXTS_ID_VALID : Fld := ⟨.TIM_TXTS_ID, 31, 31⟩
def TIM_TXTS_ID_ABORT : Fld := ⟨.TIM_TXTS_ID, 30, 30⟩
def TIM_TXTS_ID_LINK : Fld := ⟨.TIM_TXTS_ID, 29, 28⟩
def TIM_TXTS_ID_TSID : Fld := ⟨.TIM_TXTS_ID, 15, 0⟩
def TIM_TXTS_NS_NS : Fld := ⟨.TIM_TXTS_NS, 29, 0⟩
def TIM_TXTS_SEC_SEC : Fld := ⟨.TIM_TXTS_SEC, 31, 0⟩
def TIM_TXTS_STAT_OVF : Fld := ⟨.TIM_TXTS_STAT, 31, 31⟩
def TIM_TXTS_STAT_COUNT : Fld := ⟨.TIM_TXTS_STAT, 22, 16⟩
def TIM_TXTS_STAT_LOST : Fld := ⟨.TIM_TXTS_STAT, 15, 0⟩
def TIM_LAT_TXLAT : Fld := ⟨.TIM_LAT, 31, 16⟩
def TIM_LAT_RXLAT : Fld := ⟨.TIM_LAT, 15, 0⟩
def TIM_TOUT_CTRL_LATE : Fld := ⟨.TIM_TOUT_CTRL, 31, 31⟩
def TIM_TOUT_CTRL_BAD : Fld := ⟨.TIM_TOUT_CTRL, 30, 30⟩
def TIM_TOUT_CTRL_POL : Fld := ⟨.TIM_TOUT_CTRL, 2, 2⟩
def TIM_TOUT_CTRL_MODE : Fld := ⟨.TIM_TOUT_CTRL, 1, 1⟩
def TIM_TOUT_CTRL_EN : Fld := ⟨.TIM_TOUT_CTRL, 0, 0⟩
def TIM_TOUT_START_NS_NS : Fld := ⟨.TIM_TOUT_START_NS, 29, 0⟩
def TIM_TOUT_START_SEC_LO_SEC : Fld := ⟨.TIM_TOUT_START_SEC_LO, 31, 0⟩
def TIM_TOUT_START_SEC_HI_SEC : Fld := ⟨.TIM_TOUT_START_SEC_HI, 31, 0⟩
def TIM_TOUT_FR_NUM_FR_NUM : Fld := ⟨.TIM_TOUT_FR_NUM, 31, 0⟩
def TIM_TOUT_FR_DEN_FR_DEN : Fld := ⟨.TIM_TOUT_FR_DEN, 31, 0⟩
def TIM_TOUT_WIDTH_WIDTH : Fld := ⟨.TIM_TOUT_WIDTH, 29, 0⟩
def TIM_TOUT_COUNT_COUNT : Fld := ⟨.TIM_TOUT_COUNT, 31, 0⟩
def AUD_IN_CFG_LOG2 : Fld := ⟨.AUD_IN_CFG, 12, 8⟩
def AUD_IN_CFG_LANE : Fld := ⟨.AUD_IN_CFG, 4, 2⟩
def AUD_IN_CFG_SRC : Fld := ⟨.AUD_IN_CFG, 1, 1⟩
def AUD_IN_CFG_EN : Fld := ⟨.AUD_IN_CFG, 0, 0⟩
def AUD_IN_MASK_MASK : Fld := ⟨.AUD_IN_MASK, 31, 0⟩
def AUD_IN_BASE_LO_BASE : Fld := ⟨.AUD_IN_BASE_LO, 31, 0⟩
def AUD_IN_BASE_HI_BASE : Fld := ⟨.AUD_IN_BASE_HI, 15, 0⟩
def AUD_IN_RING_CONS : Fld := ⟨.AUD_IN_RING, 31, 16⟩
def AUD_IN_RING_PROD : Fld := ⟨.AUD_IN_RING, 15, 0⟩
def AUD_IN_STAT_RATECHG : Fld := ⟨.AUD_IN_STAT, 31, 31⟩
def AUD_IN_STAT_CSERR : Fld := ⟨.AUD_IN_STAT, 30, 30⟩
def AUD_IN_STAT_GAP : Fld := ⟨.AUD_IN_STAT, 29, 29⟩
def AUD_IN_STAT_PEND : Fld := ⟨.AUD_IN_STAT, 28, 28⟩
def AUD_IN_STAT_TRANS : Fld := ⟨.AUD_IN_STAT, 27, 27⟩
def AUD_IN_STAT_LOCK : Fld := ⟨.AUD_IN_STAT, 26, 26⟩
def AUD_IN_STAT_RATE : Fld := ⟨.AUD_IN_STAT, 25, 23⟩
def AUD_IN_STAT_PERIOD : Fld := ⟨.AUD_IN_STAT, 22, 0⟩
def AUD_OUT_CFG_RATE : Fld := ⟨.AUD_OUT_CFG, 18, 16⟩
def AUD_OUT_CFG_LOG2 : Fld := ⟨.AUD_OUT_CFG, 12, 8⟩
def AUD_OUT_CFG_EN : Fld := ⟨.AUD_OUT_CFG, 0, 0⟩
def AUD_OUT_START_LO_START : Fld := ⟨.AUD_OUT_START_LO, 31, 0⟩
def AUD_OUT_START_HI_START : Fld := ⟨.AUD_OUT_START_HI, 31, 0⟩
def AUD_OUT_BASE_LO_BASE : Fld := ⟨.AUD_OUT_BASE_LO, 31, 0⟩
def AUD_OUT_BASE_HI_BASE : Fld := ⟨.AUD_OUT_BASE_HI, 15, 0⟩
def AUD_OUT_RING_PROD : Fld := ⟨.AUD_OUT_RING, 31, 16⟩
def AUD_OUT_RING_CONS : Fld := ⟨.AUD_OUT_RING, 15, 0⟩
def AUD_OUT_STAT_UNDER : Fld := ⟨.AUD_OUT_STAT, 31, 0⟩
def DMA_CFG_OWNER : Fld := ⟨.DMA_CFG, 1, 1⟩
def DMA_CFG_EN : Fld := ⟨.DMA_CFG, 0, 0⟩
def DMA_STAT_ERR : Fld := ⟨.DMA_STAT, 31, 31⟩
def DMA_STAT_DROPPED : Fld := ⟨.DMA_STAT, 30, 30⟩
def DMA_STAT_STATE : Fld := ⟨.DMA_STAT, 29, 27⟩
def DMA_STAT_DESC : Fld := ⟨.DMA_STAT, 26, 26⟩
def DMA_STAT_QUEUED : Fld := ⟨.DMA_STAT, 20, 16⟩
def DMA_STAT_STATUS : Fld := ⟨.DMA_STAT, 7, 0⟩
def DMA_DONE_DONE : Fld := ⟨.DMA_DONE, 31, 0⟩
def DMA_COUNT_COUNT : Fld := ⟨.DMA_COUNT, 31, 0⟩
def DMA_SUBMIT_LO_ADDR : Fld := ⟨.DMA_SUBMIT_LO, 31, 0⟩
def DMA_SUBMIT_HI_ADDR : Fld := ⟨.DMA_SUBMIT_HI, 15, 0⟩
def DMA_RGN_SEL_RGN : Fld := ⟨.DMA_RGN_SEL, 5, 0⟩
def DMA_RGN_BASE_BASE : Fld := ⟨.DMA_RGN_BASE, 31, 0⟩
def DMA_RGN_END_END : Fld := ⟨.DMA_RGN_END, 31, 0⟩
def DMA_RGN_CFG_WR : Fld := ⟨.DMA_RGN_CFG, 1, 1⟩
def DMA_RGN_CFG_RD : Fld := ⟨.DMA_RGN_CFG, 0, 0⟩
def LN_CFG_DENIED : Fld := ⟨.LN_CFG, 31, 31⟩
def LN_CFG_READY : Fld := ⟨.LN_CFG, 30, 30⟩
def LN_CFG_SRC : Fld := ⟨.LN_CFG, 11, 8⟩
def LN_CFG_RATE : Fld := ⟨.LN_CFG, 7, 4⟩
def LN_CFG_MODE : Fld := ⟨.LN_CFG, 2, 0⟩
def LN_SDI_ADDR_LO_ADDR : Fld := ⟨.LN_SDI_ADDR_LO, 31, 0⟩
def LN_SDI_ADDR_HI_ADDR : Fld := ⟨.LN_SDI_ADDR_HI, 15, 0⟩
def LN_SDI_CMD_LANE : Fld := ⟨.LN_SDI_CMD, 5, 4⟩
def LN_SDI_CMD_OP : Fld := ⟨.LN_SDI_CMD, 1, 0⟩
def LN_SDI_STAT_REFUSED : Fld := ⟨.LN_SDI_STAT, 31, 31⟩
def LN_SDI_STAT_REPEAT : Fld := ⟨.LN_SDI_STAT, 19, 16⟩
def LN_SDI_STAT_EN : Fld := ⟨.LN_SDI_STAT, 11, 8⟩
def LN_SDI_STAT_STATUS : Fld := ⟨.LN_SDI_STAT, 7, 0⟩
def LN_LANE_CTRL_FREEZE : Fld := ⟨.LN_LANE_CTRL, 18, 18⟩
def LN_LANE_CTRL_RX_SLEEP : Fld := ⟨.LN_LANE_CTRL, 17, 17⟩
def LN_LANE_CTRL_TX_SLEEP : Fld := ⟨.LN_LANE_CTRL, 16, 16⟩
def LN_LANE_CTRL_PAT : Fld := ⟨.LN_LANE_CTRL, 1, 0⟩
def LN_LANE_FIR_POST : Fld := ⟨.LN_LANE_FIR, 21, 16⟩
def LN_LANE_FIR_MAIN : Fld := ⟨.LN_LANE_FIR, 13, 8⟩
def LN_LANE_FIR_PRE : Fld := ⟨.LN_LANE_FIR, 3, 0⟩
def LN_LANE_STAT_LOCK : Fld := ⟨.LN_LANE_STAT, 31, 31⟩
def LN_LANE_STAT_RXUP : Fld := ⟨.LN_LANE_STAT, 30, 30⟩
def LN_LANE_STAT_TXUP : Fld := ⟨.LN_LANE_STAT, 29, 29⟩
def LN_LANE_STAT_ERRS : Fld := ⟨.LN_LANE_STAT, 15, 0⟩
def LN_LANE_EQ_CTLE : Fld := ⟨.LN_LANE_EQ, 29, 26⟩
def LN_LANE_EQ_TAP1 : Fld := ⟨.LN_LANE_EQ, 25, 20⟩
def LN_LANE_EQ_TAP2 : Fld := ⟨.LN_LANE_EQ, 19, 16⟩
def LN_LANE_EQ_TAP3 : Fld := ⟨.LN_LANE_EQ, 15, 12⟩
def LN_LANE_EQ_TAP4 : Fld := ⟨.LN_LANE_EQ, 11, 8⟩
def LN_LANE_EQ_TAP5 : Fld := ⟨.LN_LANE_EQ, 7, 4⟩
def LN_LANE_EQ_TAP6 : Fld := ⟨.LN_LANE_EQ, 3, 0⟩
def EVT_SEL_SRC : Fld := ⟨.EVT_SEL, 11, 0⟩
def EVT_SEQ_SEQ : Fld := ⟨.EVT_SEQ, 31, 0⟩
def EVT_LOST_LOST : Fld := ⟨.EVT_LOST, 15, 0⟩
def EVT_STAT_LOST : Fld := ⟨.EVT_STAT, 31, 31⟩
def EVT_STAT_SRC : Fld := ⟨.EVT_STAT, 11, 0⟩
def CHK_CFG_POINT : Fld := ⟨.CHK_CFG, 31, 28⟩
def CHK_CFG_CMP : Fld := ⟨.CHK_CFG, 23, 22⟩
def CHK_CFG_FOLD : Fld := ⟨.CHK_CFG, 21, 20⟩
def CHK_CFG_POLY : Fld := ⟨.CHK_CFG, 19, 18⟩
def CHK_CFG_LOG2 : Fld := ⟨.CHK_CFG, 12, 8⟩
def CHK_CFG_EN : Fld := ⟨.CHK_CFG, 0, 0⟩
def CHK_INST_INST : Fld := ⟨.CHK_INST, 11, 0⟩
def CHK_EXP_LO_EXP : Fld := ⟨.CHK_EXP_LO, 31, 0⟩
def CHK_EXP_HI_EXP : Fld := ⟨.CHK_EXP_HI, 31, 0⟩
def CHK_TBL_LO_TBL : Fld := ⟨.CHK_TBL_LO, 31, 0⟩
def CHK_TBL_HI_TBL : Fld := ⟨.CHK_TBL_HI, 15, 0⟩
def CHK_ALIVE_ALIVE : Fld := ⟨.CHK_ALIVE, 31, 0⟩
def CHK_STAT_MISMATCH : Fld := ⟨.CHK_STAT, 31, 31⟩
def CHK_STAT_INCOMP : Fld := ⟨.CHK_STAT, 30, 30⟩
def CHK_STAT_TPOISON : Fld := ⟨.CHK_STAT, 29, 29⟩
def CHK_STAT_BAD : Fld := ⟨.CHK_STAT, 28, 28⟩
def CHK_STAT_MISCNT : Fld := ⟨.CHK_STAT, 15, 0⟩
def CHK_BLOCKS_BLOCKS : Fld := ⟨.CHK_BLOCKS, 31, 0⟩
def CHK_LAST_LO_CRC : Fld := ⟨.CHK_LAST_LO, 31, 0⟩
def CHK_LAST_HI_CRC : Fld := ⟨.CHK_LAST_HI, 31, 0⟩
def CHK_MISBLK_BLOCK : Fld := ⟨.CHK_MISBLK, 31, 0⟩
def CHK_PHASE_PHASE : Fld := ⟨.CHK_PHASE, 1, 0⟩
def TWN_CTRL_AUTO : Fld := ⟨.TWN_CTRL, 1, 1⟩
def TWN_CTRL_EN : Fld := ⟨.TWN_CTRL, 0, 0⟩
def TWN_CFG_HOLDOFF : Fld := ⟨.TWN_CFG, 31, 20⟩
def TWN_CFG_RWAIT : Fld := ⟨.TWN_CFG, 19, 10⟩
def TWN_CFG_SWITCH : Fld := ⟨.TWN_CFG, 8, 0⟩
def TWN_WDOG_KICK : Fld := ⟨.TWN_WDOG, 31, 31⟩
def TWN_WDOG_PERIOD : Fld := ⟨.TWN_WDOG, 15, 0⟩
def TWN_STAT_ALARM : Fld := ⟨.TWN_STAT, 31, 31⟩
def TWN_STAT_DENIED : Fld := ⟨.TWN_STAT, 30, 30⟩
def TWN_STAT_CMDERR : Fld := ⟨.TWN_STAT, 29, 29⟩
def TWN_STAT_SYNCOPEN : Fld := ⟨.TWN_STAT, 8, 8⟩
def TWN_STAT_WARM : Fld := ⟨.TWN_STAT, 7, 7⟩
def TWN_STAT_LINK : Fld := ⟨.TWN_STAT, 6, 6⟩
def TWN_STAT_PEER : Fld := ⟨.TWN_STAT, 5, 5⟩
def TWN_STAT_PREF : Fld := ⟨.TWN_STAT, 4, 4⟩
def TWN_STAT_STATE : Fld := ⟨.TWN_STAT, 2, 0⟩
def TWN_SYNC_LO_SYNC : Fld := ⟨.TWN_SYNC_LO, 31, 0⟩
def TWN_SYNC_HI_SYNC : Fld := ⟨.TWN_SYNC_HI, 31, 0⟩
def TWN_CMD_OP : Fld := ⟨.TWN_CMD, 3, 0⟩
def TWN_LIST_LO_ADDR : Fld := ⟨.TWN_LIST_LO, 31, 0⟩
def TWN_LIST_HI_ADDR : Fld := ⟨.TWN_LIST_HI, 15, 0⟩
def TWN_STAGE_LO_BASE : Fld := ⟨.TWN_STAGE_LO, 31, 0⟩
def TWN_STAGE_HI_SIZE : Fld := ⟨.TWN_STAGE_HI, 23, 16⟩
def TWN_STAGE_HI_BASE : Fld := ⟨.TWN_STAGE_HI, 15, 0⟩
def TWN_MUTE_SEL_GROUP : Fld := ⟨.TWN_MUTE_SEL, 7, 4⟩
def TWN_MUTE_SEL_PORT : Fld := ⟨.TWN_MUTE_SEL, 2, 0⟩
def TWN_MUTE_SET : Fld := ⟨.TWN_MUTE, 31, 0⟩
def TWN_UID_LO_UID : Fld := ⟨.TWN_UID_LO, 31, 0⟩
def TWN_UID_HI_UID : Fld := ⟨.TWN_UID_HI, 31, 0⟩
def TWN_MUTED_FRAMES : Fld := ⟨.TWN_MUTED, 31, 0⟩
def TWN_ERR_CRCERR : Fld := ⟨.TWN_ERR, 31, 16⟩
def TWN_ERR_MISMATCH : Fld := ⟨.TWN_ERR, 15, 0⟩
def SEC_BOOT_STAT_GOREF : Fld := ⟨.SEC_BOOT_STAT, 31, 31⟩
def SEC_BOOT_STAT_RES_B : Fld := ⟨.SEC_BOOT_STAT, 15, 12⟩
def SEC_BOOT_STAT_RES_A : Fld := ⟨.SEC_BOOT_STAT, 11, 8⟩
def SEC_BOOT_STAT_IMG : Fld := ⟨.SEC_BOOT_STAT, 7, 6⟩
def SEC_BOOT_STAT_MODE : Fld := ⟨.SEC_BOOT_STAT, 5, 4⟩
def SEC_BOOT_STAT_STATE : Fld := ⟨.SEC_BOOT_STAT, 2, 0⟩
def SEC_BOOT_CMD_GO : Fld := ⟨.SEC_BOOT_CMD, 0, 0⟩
def SEC_FUSE_PREF : Fld := ⟨.SEC_FUSE, 16, 16⟩
def SEC_FUSE_SVNMIN : Fld := ⟨.SEC_FUSE, 15, 8⟩
def SEC_FUSE_SLOTS : Fld := ⟨.SEC_FUSE, 7, 0⟩
def SEC_STAT_TAMPER : Fld := ⟨.SEC_STAT, 31, 31⟩
def SEC_STAT_LOOP : Fld := ⟨.SEC_STAT, 30, 30⟩
def SEC_STAT_PRES : Fld := ⟨.SEC_STAT, 29, 29⟩
def SEC_STAT_DBG : Fld := ⟨.SEC_STAT, 28, 28⟩
def SEC_STAT_LOCK : Fld := ⟨.SEC_STAT, 27, 27⟩
def SEC_KEY_CMD_SLOT : Fld := ⟨.SEC_KEY_CMD, 13, 8⟩
def SEC_KEY_CMD_SALT : Fld := ⟨.SEC_KEY_CMD, 7, 4⟩
def SEC_KEY_CMD_KLEN : Fld := ⟨.SEC_KEY_CMD, 3, 2⟩
def SEC_KEY_CMD_OP : Fld := ⟨.SEC_KEY_CMD, 1, 0⟩
def SEC_KEY_STAT_STATUS : Fld := ⟨.SEC_KEY_STAT, 7, 0⟩
def SEC_KEY_BUF_DATA : Fld := ⟨.SEC_KEY_BUF, 31, 0⟩
def SEC_SVC_ADDR_LO_ADDR : Fld := ⟨.SEC_SVC_ADDR_LO, 31, 0⟩
def SEC_SVC_ADDR_HI_ADDR : Fld := ⟨.SEC_SVC_ADDR_HI, 15, 0⟩
def SEC_SVC_CMD_BUSY : Fld := ⟨.SEC_SVC_CMD, 8, 8⟩
def SEC_SVC_CMD_GO : Fld := ⟨.SEC_SVC_CMD, 0, 0⟩
def SEC_SVC_STAT_STATUS : Fld := ⟨.SEC_SVC_STAT, 7, 0⟩
def PMU_EVSEL_OVF : Fld := ⟨.PMU_EVSEL, 31, 31⟩
def PMU_EVSEL_INT : Fld := ⟨.PMU_EVSEL, 30, 30⟩
def PMU_EVSEL_EN : Fld := ⟨.PMU_EVSEL, 29, 29⟩
def PMU_EVSEL_INST : Fld := ⟨.PMU_EVSEL, 15, 10⟩
def PMU_EVSEL_EVENT : Fld := ⟨.PMU_EVSEL, 9, 0⟩
def PMU_CNT_LO_COUNT : Fld := ⟨.PMU_CNT_LO, 31, 0⟩
def PMU_CNT_HI_COUNT : Fld := ⟨.PMU_CNT_HI, 15, 0⟩
def PMU_TAG_EN : Fld := ⟨.PMU_TAG, 31, 31⟩
def PMU_TAG_TLOG : Fld := ⟨.PMU_TAG, 28, 24⟩
def PMU_CTRL_FREEZE : Fld := ⟨.PMU_CTRL, 0, 0⟩
def PMU_DUMP_CFG_LOG2 : Fld := ⟨.PMU_DUMP_CFG, 31, 28⟩
def PMU_DUMP_CFG_PERIOD : Fld := ⟨.PMU_DUMP_CFG, 23, 0⟩
def PMU_DUMP_BASE_LO_BASE : Fld := ⟨.PMU_DUMP_BASE_LO, 31, 0⟩
def PMU_DUMP_BASE_HI_BASE : Fld := ⟨.PMU_DUMP_BASE_HI, 15, 0⟩
def PMU_DUMP_CNT_SKIPPED : Fld := ⟨.PMU_DUMP_CNT, 31, 16⟩
def PMU_DUMP_CNT_DONE : Fld := ⟨.PMU_DUMP_CNT, 15, 0⟩
def PMU_TAG_RING_LOG2 : Fld := ⟨.PMU_TAG_RING, 4, 0⟩
def PMU_TAG_BASE_LO_BASE : Fld := ⟨.PMU_TAG_BASE_LO, 31, 0⟩
def PMU_TAG_BASE_HI_BASE : Fld := ⟨.PMU_TAG_BASE_HI, 15, 0⟩
def PMU_TAG_CNT_LOST : Fld := ⟨.PMU_TAG_CNT, 31, 16⟩
def PMU_TAG_CNT_WRITTEN : Fld := ⟨.PMU_TAG_CNT, 15, 0⟩
def HST_ID_ID : Fld := ⟨.HST_ID, 31, 0⟩
def HST_STAT_STEP : Fld := ⟨.HST_STAT, 31, 24⟩
def HST_STAT_NUMVF : Fld := ⟨.HST_STAT, 14, 8⟩
def HST_STAT_WIDTH : Fld := ⟨.HST_STAT, 7, 3⟩
def HST_STAT_SPEED : Fld := ⟨.HST_STAT, 2, 0⟩
def HST_VF_SEL_VF : Fld := ⟨.HST_VF_SEL, 6, 0⟩
def HST_VF_SLOTS_LOG2 : Fld := ⟨.HST_VF_SLOTS, 31, 28⟩
def HST_VF_SLOTS_BASE : Fld := ⟨.HST_VF_SLOTS, 13, 0⟩
def HST_VF_WIN_BASE : Fld := ⟨.HST_VF_WIN, 30, 16⟩
def HST_VF_WIN_LOG2 : Fld := ⟨.HST_VF_WIN, 3, 0⟩
def HST_VF_DMA_CHAN : Fld := ⟨.HST_VF_DMA, 31, 0⟩
def HST_ROUTE_EN : Fld := ⟨.HST_ROUTE, 31, 31⟩
def HST_ROUTE_SRC : Fld := ⟨.HST_ROUTE, 27, 16⟩
def HST_ROUTE_SET : Fld := ⟨.HST_ROUTE, 15, 15⟩
def HST_ROUTE_RING : Fld := ⟨.HST_ROUTE, 4, 0⟩
def HST_DB_DEST_LO_DEST : Fld := ⟨.HST_DB_DEST_LO, 31, 0⟩
def HST_DB_DEST_HI_DEST : Fld := ⟨.HST_DB_DEST_HI, 31, 0⟩
def HST_DB_VAL_LO_VAL : Fld := ⟨.HST_DB_VAL_LO, 31, 0⟩
def HST_DB_VAL_HI_VAL : Fld := ⟨.HST_DB_VAL_HI, 31, 0⟩
def HST_DB_STAT_DBERR : Fld := ⟨.HST_DB_STAT, 31, 31⟩
def HST_DB_STAT_PEND : Fld := ⟨.HST_DB_STAT, 4, 0⟩
def HST_RING_SEL_RING : Fld := ⟨.HST_RING_SEL, 4, 0⟩
def HST_RING_BASE_LO_BASE : Fld := ⟨.HST_RING_BASE_LO, 31, 0⟩
def HST_RING_BASE_HI_BASE : Fld := ⟨.HST_RING_BASE_HI, 31, 0⟩
def HST_RING_CFG_FULL : Fld := ⟨.HST_RING_CFG, 31, 31⟩
def HST_RING_CFG_LOG2 : Fld := ⟨.HST_RING_CFG, 30, 26⟩
def HST_RING_CFG_VECTOR : Fld := ⟨.HST_RING_CFG, 25, 16⟩
def HST_RING_CFG_HOLD : Fld := ⟨.HST_RING_CFG, 15, 8⟩
def HST_RING_CFG_EN : Fld := ⟨.HST_RING_CFG, 0, 0⟩
def HST_RING_IDX_CONS : Fld := ⟨.HST_RING_IDX, 31, 16⟩
def HST_RING_IDX_PROD : Fld := ⟨.HST_RING_IDX, 15, 0⟩
def CLK_STAT_LOSS : Fld := ⟨.CLK_STAT, 31, 31⟩
def CLK_STAT_REFUSED : Fld := ⟨.CLK_STAT, 30, 30⟩
def CLK_STAT_LOCK : Fld := ⟨.CLK_STAT, 3, 3⟩
def CLK_STAT_REFOK : Fld := ⟨.CLK_STAT, 2, 2⟩
def CLK_STAT_VALIDREF : Fld := ⟨.CLK_STAT, 1, 1⟩
def CLK_STAT_HOLD : Fld := ⟨.CLK_STAT, 0, 0⟩
def CLK_CMD_RETURN : Fld := ⟨.CLK_CMD, 0, 0⟩
def CLK_MON_COUNT : Fld := ⟨.CLK_MON, 7, 0⟩
def CLK_RST_CFG_PERST_DEV : Fld := ⟨.CLK_RST_CFG, 0, 0⟩
def CLK_RST_CMD_KEY : Fld := ⟨.CLK_RST_CMD, 31, 16⟩
def CLK_RST_CMD_GO : Fld := ⟨.CLK_RST_CMD, 0, 0⟩
def CLK_RST_CAUSE_CAUSE : Fld := ⟨.CLK_RST_CAUSE, 6, 0⟩
def PWR_REQ_TARGET : Fld := ⟨.PWR_REQ, 9, 8⟩
def PWR_REQ_DOMAIN : Fld := ⟨.PWR_REQ, 7, 0⟩
def PWR_STAT_REFUSED : Fld := ⟨.PWR_STAT, 31, 31⟩
def PWR_STAT_DROPPED : Fld := ⟨.PWR_STAT, 30, 30⟩
def PWR_STAT_REASON : Fld := ⟨.PWR_STAT, 15, 8⟩
def PWR_STAT_DOMAIN : Fld := ⟨.PWR_STAT, 7, 0⟩
def PWR_DOM_SEL_DOMAIN : Fld := ⟨.PWR_DOM_SEL, 7, 0⟩
def PWR_DOM_STATE_STATE : Fld := ⟨.PWR_DOM_STATE, 2, 0⟩
def PWR_FEED_LOST : Fld := ⟨.PWR_FEED, 21, 16⟩
def PWR_FEED_GOOD : Fld := ⟨.PWR_FEED, 6, 0⟩
def PWR_TEMP_WARN : Fld := ⟨.PWR_TEMP, 16, 16⟩
def PWR_TEMP_TEMP : Fld := ⟨.PWR_TEMP, 7, 0⟩

end F

end Sys2Proof.Machine
end

