-- ==== Sys2Proof/Machine/Tab.lean ====
section
/-! DEFINITION. Sparse tables: lists of key and value pairs in which a key that is not listed has the
unit's reset value. Every register file, slot table and unit table of the model is one of these. -/

namespace Sys2Proof.Machine

/-- A sparse table. -/
abbrev Tab (κ α : Type) := List (κ × α)

/-- The entry of key `k`, if listed. -/
def Tab.find? {κ α : Type} [DecidableEq κ] (k : κ) : Tab κ α → Option α
  | [] => none
  | (a, v) :: t => if a = k then some v else Tab.find? k t

/-- The table without key `k`. -/
def Tab.erase {κ α : Type} [DecidableEq κ] (k : κ) : Tab κ α → Tab κ α
  | [] => []
  | (a, v) :: t => if a = k then Tab.erase k t else (a, v) :: Tab.erase k t

/-- The entry of key `k`, or `d` when it is not listed. -/
def Tab.getD {κ α : Type} [DecidableEq κ] (t : Tab κ α) (k : κ) (d : α) : α :=
  (Tab.find? k t).getD d

/-- The table in which key `k` has value `v`. -/
def Tab.set {κ α : Type} [DecidableEq κ] (t : Tab κ α) (k : κ) (v : α) : Tab κ α :=
  (k, v) :: Tab.erase k t

end Sys2Proof.Machine
end

