-- ==== Sys2Proof/Machine/State.lean ====
section
/-! DEFINITION. The state of the part as plain data, and its value after reset. Every register of the chapters
is in `regs` (or computed from the unit's fields by `Machine/RegView.lean` where the hardware owns it);
everything a unit holds besides its registers is in the unit's own structure. A table lists only what
differs from reset. -/

namespace Sys2Proof.Machine

/-- Why a step stops with a fault. -/
inductive Fault where
  /-- A memory command names an address outside the 48-bit device address space (R38): raised by
  MEMORY_READ, PARTIAL_WRITE, WHOLE_WORD_WRITE and ACCESS_TIMEOUT. Safe: the part has no such access. -/
  | outsideAddressSpace (addr : Nat)
  deriving DecidableEq, Repr

/-- Why a step refuses its command. -/
inductive Refusal where
  /-- The command has no meaning in the model yet: raised by Dispatch alone. Safe. -/
  | notModelled (mnemonic : String)
  /-- An operand names a unit instance the part does not have (table SCO-6), or a value outside the
  operand's range: raised by every meaning with such an operand. Safe: no such command exists. -/
  | noSuchUnit (what : String)
  deriving DecidableEq, Repr

/-! ### Events (chapter 15) -/

/-- One event source: the SEQ of its next record, its post buffer of at most 16 records, its count of
lost records (R391, R393). -/
structure EvSource where
  seq : BitVec 32 := 0
  buf : List EventRec := []
  lost : Nat := 0
  deriving DecidableEq, Repr

/-! ### Admission ledger (chapter 1) -/

/-- What one holder is charged: the configuration in effect and, until it takes effect, an accepted
change (R29). -/
structure Holding where
  cur : Charge := []
  next : Option Charge := none
  deriving DecidableEq, Repr

/-- What the precedence steps need of a programme that holds charges: its service class, and its entry 52 charge
in cap-floor mode (M_f of R149). -/
structure PgmInfo where
  classA : Bool := false
  floor52 : Nat := 0
  /-- the largest cap-floor charge of its accepted changes to come (R29) -/
  next52 : Nat := 0
  deriving DecidableEq, Repr

/-- The admission ledger and the precedence steps in force. -/
structure Ledger where
  holdings : Tab Holder Holding := []
  pgms : Tab Nat PgmInfo := []
  /-- submissions not yet decided, first in first out (R30) -/
  waiting : List Submission := []
  /-- programmes placed in cap-floor mode by a step of R35 or R36, charged their cap-floor charge on
  entry 52 -/
  reduced : List Nat := []
  throttled : Bool := false
  exhausted : Bool := false
  /-- a reversal under R37 has started and not ended -/
  reversing : Bool := false
  /-- the programme whose boundary the reversal awaits -/
  awaiting : Option Nat := none
  deriving DecidableEq, Repr

/-! ### Rakes (chapter 2) -/

/-- Rake states of table ISA-1. -/
inductive RakeState where
  | off | empty | loading | idle | run | drain | halt | spare | retired
  deriving DecidableEq, Repr

/-- The task a rake runs: the values of R106 and the time of its dispatch. -/
structure TaskCtx where
  slot : Nat
  attr : W64
  flow : W64
  opcnt : Nat
  replay : Nat
  tstart : W64
  deriving DecidableEq, Repr

/-- One outbox entry (table ISA-12). -/
inductive OutEntry where
  | token (dest value : W64)
  | delayed (delay dest value : W64)
  /-- a delayed token after its commit point: its list and its due tick (R99) -/
  | due (list due : Nat) (dest value : W64)
  | cancel (target : W64)
  | arm (target desc : W64)
  | frel (flow : Nat) (value : W64)
  | event (code : BitVec 16) (payload : BitVec 112)
  | pcmd (target : W64) (cmd : W256)
  deriving DecidableEq, Repr

/-- A device load in flight (R68): what to do with the data that returns. -/
inductive DevLoad where
  | scalar (rd : BitVec 5) (sz : Nat) (sx : Bool) (addr : Nat)
  | vector (wd : BitVec 4) (addr : Nat)
  deriving DecidableEq, Repr

/-- An error of a posted device store that the rake has not yet taken (R68): cause, PC of the store,
its address. -/
structure StoreErr where
  cause : Nat
  pc : Nat
  addr : Nat
  deriving DecidableEq, Repr

/-- What a rake does when its task ends in DRAIN (table ISA-2). -/
inductive DrainTo where
  | load
  | swap (spare : Nat)
  deriving DecidableEq, Repr

/-- One rake: its state, the position it backs, the programmer's registers of table ISA-3, and the task it runs. -/
structure Rake where
  st : RakeState := .spare
  pos : Option Nat := none
  g : Vector W64 32 := Vector.replicate 32 0
  p : Vector Bool 8 := (Vector.replicate 8 false).set 0 true
  w : Vector W256 16 := Vector.replicate 16 0
  pc : Nat := 0
  task : Option TaskCtx := none
  outbox : List OutEntry := []
  devLoad : Option DevLoad := none
  storeErr : Option StoreErr := none
  /-- TEND has issued and the commit point has not come (table ISA-14) -/
  ending : Bool := false
  drainTo : Option DrainTo := none
  /-- the address of the image it is loading, as it stood when the load started (R87) -/
  loadFrom : Option Nat := none
  /-- held as the chosen spare of a SWAP in progress (R514) -/
  held : Bool := false
  /-- latched by SRD of TIME_SEC (table ISA-15) -/
  latNs : W64 := 0
  latFrac : W64 := 0
  /-- ECLK since the rake last left LOADING, as last taken: CYCLE (table ISA-15) -/
  cycle : W64 := 0
  /-- device stores issued since the last FENCE, latest first: PC and address of each (R68) -/
  posted : List (Nat × Nat) := []
  deriving DecidableEq, Repr

/-- An `RK_CMD` LOAD or SWAP in progress: its positions not yet ended, and the results of those that
have (R515). -/
structure RkCmd where
  open_ : List Nat
  results : Tab Nat Nat
  deriving DecidableEq, Repr

/-- The rake manager: the command in progress and the lost positions (R88). -/
structure RakeMgr where
  cmd : Option RkCmd := none
  /-- each lost position with the rake that last backed it -/
  lost : Tab Nat Nat := []
  deriving DecidableEq, Repr

/-! ### Tally (chapter 3) -/

/-- Slot states of R94. -/
inductive SlotState where
  | free | wait | ready | run
  deriving DecidableEq, Repr

/-- One task slot: its state, the descriptor of table TLY-2, the ports filled so far. -/
structure Slot where
  st : SlotState := .free
  desc : W64 := 0
  ports : Vector (Option W64) 4 := Vector.replicate 4 none
  timedOut : Bool := false
  flowPos : BitVec 32 := 0
  replay : Nat := 0
  /-- the position it was dispatched to, while in RUN -/
  pos : Nat := 0
  deriving DecidableEq, Repr

/-- An entry of a delay list: due tick, destination, value (port 4 = timeout). -/
structure Delayed where
  due : Nat
  dest : W64
  value : W64
  deriving DecidableEq, Repr

/-- What has become of a flow position (R109, R111). -/
inductive FlowFate where
  | held
  | done (left : List W64)
  | skip (slot : Nat)
  deriving DecidableEq, Repr

/-- One ordered flow: its counters, the fates of the positions from the release counter on, the count
of entries written to its ring. -/
structure Flow where
  next : BitVec 32 := 0
  rel : BitVec 32 := 0
  fates : Tab (BitVec 32) FlowFate := []
  entries : Nat := 0
  deriving DecidableEq, Repr

/-- A token sent by a block or a doorbell that the tally has not handled yet (R95). -/
structure Msg where
  src : Nat
  dest : W64
  value : W64
  deriving DecidableEq, Repr

structure Tally where
  slots : Tab Nat Slot := []
  /-- the ready list of each level, head first -/
  ready : Tab Nat (List Nat) := []
  delays : Tab Nat (List Delayed) := []
  tick : Nat := 0
  /-- a TLY_TICK.PERIOD write awaiting its boundary (R103) -/
  newPeriod : Option Nat := none
  flows : Tab Nat Flow := []
  inbox : List Msg := []
  /-- committed outbox entries not yet delivered, by position, oldest first (R75) -/
  commits : Tab Nat (List OutEntry) := []
  deriving DecidableEq, Repr

/-! ### Memory (chapter 4) -/

/-- States of an HBM controller (table MEM-9). -/
inductive McState where
  | off | init | run | sref
  deriving DecidableEq, Repr

structure Mc where
  st : McState := .off
  /-- command-address parity errors of the interval in progress (R140) -/
  parity : Nat := 0
  deriving DecidableEq, Repr

/-- States of an on-chip bank (R134). -/
inductive BankState where
  | off | fill | on | ret | wake
  deriving DecidableEq, Repr

/-- The harrow's pass: the next word to read (HBM words first, then bank words), and the period in
force. -/
structure Harrow where
  next : Nat := 0
  seconds : Nat := 3600
  /-- words of the running units at the start of the pass (R128) -/
  words : Nat := 0
  /-- the pass in progress has overrun its period (R130) -/
  late : Bool := false
  deriving DecidableEq, Repr

/-! ### Time base (chapter 11) -/

/-- A slew in progress: residual in 2^-32 ns and the offset it started from, in ns (R330). -/
structure Slew where
  rem : Int
  start : Int
  deriving DecidableEq, Repr

/-- An entry of a transmit timestamp queue (R335). -/
structure TxStamp where
  abort : Bool
  link : Nat
  tsid : BitVec 16
  ns : Nat
  sec : BitVec 64
  deriving DecidableEq, Repr

/-- A timed output (R337, R338): the next edge of periodic mode, whether the edge of once mode is still to come and
whether it was in the past at the enable, and the ticks left of a pulse. -/
structure Tout where
  k : Nat := 0
  due : Bool := false
  late : Bool := false
  pulse : Option Nat := none
  deriving DecidableEq, Repr

structure TimeBase where
  sec : BitVec 64 := 0
  ns : Nat := 0
  frac : Nat := 0
  valid : Bool := false
  hold : Bool := false
  slew : Option Slew := none
  /-- a command written to TIM_OP_CMD that has not executed (R332) -/
  cmd : Option Nat := none
  stamps : Tab Nat (List TxStamp) := []
  touts : Tab Nat Tout := []
  deriving DecidableEq, Repr

/-! ### DMA (chapter 13) -/

/-- A running descriptor: the length to move, its direction, the bytes completed, and the source bytes that its own
writes have overwritten and a later beat needs, `none` for one that was poisoned (R359). -/
structure DmaRun where
  desc : W256
  len : Nat
  down : Bool
  done : Nat := 0
  halfSent : Bool := false
  saved : Tab Nat (Option Byte) := []
  /-- the bytes written so far, beat by beat, which a check-value unit hashes (table INT-5) -/
  moved : List Byte := []
  /-- the status it will end with, once known -/
  status : Option Nat := none
  deriving DecidableEq, Repr

structure DmaChan where
  queue : List W256 := []
  run : Option DmaRun := none
  paused : Bool := false
  submit : Option Nat := none
  down : Bool := false
  done : Nat := 0
  deriving DecidableEq, Repr

/-! ### Host port (chapter 19) -/

/-- What the part has written to the host: an event record into a ring at a bus address, or an MSI-X
message of a function's vector. -/
inductive HostOut where
  | record (addr : BitVec 64) (ev : EventRec)
  | msix (fn vector : Nat)
  deriving DecidableEq, Repr

/-- One PCIe function's doorbells. -/
structure HostFn where
  dest : Option W64 := none
  held : List (W64 × W64) := []
  /-- MSI-X vectors whose pending bit is set -/
  pend : List Nat := []
  deriving DecidableEq, Repr

/-- One event ring: whether a message is deferred to the end of HOLD (R472), and whether a message went
out in the last HOLD µs. -/
structure Ring where
  inHold : Bool := false
  deferred : Bool := false
  deriving DecidableEq, Repr

structure HostPort where
  fns : Tab Nat HostFn := []
  rings : Tab Nat Ring := []
  /-- what the part has sent to the host, oldest first -/
  out : List HostOut := []
  deriving DecidableEq, Repr

/-! ### Clocks, reset, power (chapter 20) -/

/-- States of a power domain (table CLK-17). -/
inductive DomState where
  | off | fill | on | ret | wake | hold
  deriving DecidableEq, Repr

structure Power where
  /-- the state of each domain -/
  doms : Tab Nat DomState := []
  /-- the target of each transition in progress -/
  targets : Tab Nat DomState := []
  deriving DecidableEq, Repr

structure Resets where
  /-- device reset is asserted -/
  device : Bool := false
  /-- the always-on reset is asserted -/
  alwaysOn : Bool := false
  /-- main power is good -/
  mainGood : Bool := true
  /-- a thermal trip waits for the junction temperature to fall (R484) -/
  tripped : Bool := false
  deriving DecidableEq, Repr


/-! ### Check-value units (chapter 15) -/

/-- A block of a snooped stream (table INT-5). -/
structure ChkBlock where
  ident : W64
  bytes : List Byte
  incomplete : Bool
  deriving DecidableEq, Repr

/-- What a block is compared with, fixed when it starts (R400). -/
inductive ChkExpect where
  | none
  | value (v : W64)
  | poisoned (addr : Nat)
  deriving DecidableEq, Repr

/-- A check-value unit: the blocks of its stream that it has still to hash, the block in progress with its fold bytes and
its expected value, and the number b of the next block (R398). -/
structure ChkUnit where
  feed : List ChkBlock := []
  cur : Option (ChkBlock × List Byte × ChkExpect) := none
  b : Nat := 0
  /-- the next block was in progress at the enable (R399) -/
  skip : Bool := false
  deriving DecidableEq, Repr

/-! ### Pans (chapters 5 to 7) -/

/-- The configuration of a programme: its descriptor (table PAN-9) with its address and HDR record (table BSD-2), the rate
and quality block in force with its ROI table (tables RAT-1, RAT-2), and the programme row at which that block
applied (R190). -/
structure PgmCfg where
  addr : Nat := 0
  /-- D is 8 at reset (R22) -/
  desc : BitVec 1536 := 8#1536 <<< 128
  hdr : BitVec 256 := 0
  blk : BitVec 512 := 0
  roi : BitVec 1024 := 0
  n0 : Nat := 0
  /-- what an installed state record adds to n (R426) -/
  nAdd : Nat := 0
  deriving DecidableEq, Repr

/-- A programme's rate state (R200). -/
structure RateSt where
  v : Nat := 0
  histRap : List Nat := []
  histInter : List Nat := []
  actSum : Nat := 0
  predSum : Nat := 0
  picFloor : Bool := false
  lgRef : Nat := 96
  lgSum : Nat := 0
  lgCnt : Nat := 0
  /-- the bytes of the first row of a pair, which the record of the second counts (R191, R224) -/
  held : Nat := 0
  deriving DecidableEq, Repr

/-- The plan of a row (R201): row QP, projection, whether it is a cap-floor row and whether R208 made it one, with the
base qb of its picture, the lg_ref of its state and its grant d. -/
structure RowPlan where
  q : Nat
  p : Nat
  floor : Bool := false
  classFloor : Bool := false
  qb : Nat
  lgRef : Nat
  d : Nat
  pic : Nat
  deriving DecidableEq, Repr

/-- What has become of a row in its pan: planned, in the stages, out of EC. -/
inductive RowStage where
  | planned | running | encoded
  deriving DecidableEq, Repr

/-- The context that a row leaves to the row below (R165), and the qindex in force at its end (R222). -/
structure RowCtx where
  val : Nat := 0
  qidx : Nat := 0
  deriving DecidableEq, Repr

/-- What the pan knows of a CTU that it has coded: whether it is a minimum CTU, whether it is intra, its QpY or qindex and the delta
that it codes for it (R218, R222), its final vectors. -/
structure CtuInfo where
  min : Bool
  intra : Bool
  qp : Nat
  delta : Option Int
  mvs : List (Int × Int)
  deriving DecidableEq, Repr

/-- A planned row that has not committed. -/
structure RowRec where
  i : Nat
  plan : RowPlan
  stage : RowStage := .planned
  /-- header bytes, the bytes of each coded CTU, termination and alignment -/
  head : List Byte := []
  ctus : List (List Byte) := []
  tail : List Byte := []
  /-- the picture hash, after the last row of a picture (R215) -/
  suffix : List Byte := []
  /-- what the coded CTUs are -/
  info : List CtuInfo := []
  /-- c_f of a guard trip, and the first pass's bytes and CTUs that the second pass gives again (R207) -/
  cf : Option Nat := none
  firstHead : List Byte := []
  first : List (List Byte) := []
  firstInfo : List CtuInfo := []
  /-- columns of reference data fetched, and what the fine window has of them (R159) -/
  fetched : Nat := 0
  areas : List RefArea := []
  /-- the far patches fetched for its CTUs (R160) -/
  patches : List RefArea := []
  /-- the coarse window: the words loaded, with none for one that failed (R158) -/
  coarse : List (Nat × Option W256) := []
  /-- far patches given, for each reference (R161) -/
  far : Nat × Nat := (0, 0)
  /-- a CTU was coded intra after poison (R175) -/
  forced : Bool := false
  /-- a CTU was coded as a minimum CTU after input poison (R176) -/
  poisonMin : Bool := false
  deadline : Bool := false
  /-- lg of each CTU (R196), and the QP of each CTU coded (R199) -/
  lgs : List Nat := []
  qps : List Nat := []
  /-- the entropy and reconstruction context that the row leaves (R165) -/
  ctx : RowCtx := {}
  /-- its bytes stand in the ring past the write position (R166) -/
  placed : Bool := false
  deriving DecidableEq, Repr

/-- A picture from the moment its configuration is fixed: its first programme row, its type, what it refers to. -/
structure PicOpen where
  j0 : Nat
  cfg : PgmCfg
  rap : Bool
  /-- pictures since the last random-access picture (R217) -/
  m : Nat
  resized : Bool
  newBlk : Bool
  sync : Bool := false
  /-- class_floor as fixed when row 0 was planned (R208) -/
  classFloor : Option Bool := none
  /-- unavailable areas: reference, CTU column, CTU row (R175) -/
  unavail : List (Nat × Nat × Nat) := []
  skip : Bool := false
  floorPosted : Bool := false
  /-- the contexts that its committed rows left, in row order -/
  ctxs : List RowCtx := []
  deriving DecidableEq, Repr

/-- A RATE command that waits for its picture (R188). -/
structure RateCmd where
  cmd : W256
  blk : BitVec 512
  roi : BitVec 1024
  deriving DecidableEq, Repr

/-- A picture whose PICTURE command was accepted, or a late one, until its last row commits. -/
structure PicRec where
  c : Nat
  t : Frac
  idx : Nat := 0
  force : Bool := false
  /-- `none` for a late picture (R186) -/
  cmd : Option W256
  rates : List RateCmd := []
  open_ : Option PicOpen := none
  deriving DecidableEq, Repr

/-- An accepted MODIFY that waits for its picture (R184). -/
structure ModCmd where
  cmd : W256
  start : Nat
  cfg : PgmCfg
  charge : Charge
  floor52 : Nat
  deriving DecidableEq, Repr

/-- A row in a programme's input ring (R150, R151): its lines of samples, luma then chroma, and the CTU columns whose samples
were poisoned. -/
structure InRow where
  j : Nat
  luma : List (List (BitVec 10))
  chroma : List (List (BitVec 10))
  bad : List Nat := []
  deriving DecidableEq, Repr

/-- An installed state record (R426): the sync picture's first programme row, the rate state, the credit and the record count
that apply there. -/
structure SyncRec where
  j0 : Nat
  st : RateSt
  credit : Nat
  records : Nat
  deriving DecidableEq, Repr

/-- Programme states (table PAN-16). -/
inductive PgmState where
  | idle | active | stopping
  deriving DecidableEq, Repr

/-- A programme. -/
structure Pgm where
  st : PgmState := .idle
  cfg : PgmCfg := {}
  mods : List ModCmd := []
  rates : List RateCmd := []
  pics : List PicRec := []
  /-- count of the next picture, and of the pictures that have committed -/
  nextPic : Nat := 0
  done : Nat := 0
  /-- T of the latest picture, from which the next is expected (R186) -/
  lastT : Option Frac := none
  /-- first programme row of the next picture to open -/
  nextRow : Nat := 0
  lastRap : Nat := 0
  rapNext : Bool := false
  /-- sync picture of a state copy: its T, and whether its row 0 waits for the state record (R426) -/
  syncT : Option Frac := none
  syncHold : Bool := false
  /-- a state record installed for a row that is still to come -/
  sync : Option SyncRec := none
  ring : List InRow := []
  /-- rows that have entered the ring; the open pictures whose rows still have to -/
  inRows : Nat := 0
  inPics : List (PicRec × PicOpen) := []
  /-- rows committed; the planned rows from there on -/
  committed : Nat := 0
  rows : List RowRec := []
  /-- rate state after each recent count of rows, newest first, and the plans of recent committed rows -/
  states : List (Nat × RateSt) := []
  plans : List (Nat × RowPlan) := []
  /-- the row after the last rollback row (R163) -/
  rollNext : Nat := 0
  /-- rows marked as rolled back that have not committed -/
  rolled : List Nat := []
  credit : Nat := 0
  records : Nat := 0
  wpos : Nat := 0
  /-- the offset and the bytes of the first row of a pair that has committed (R224) -/
  pair : Option (Nat × List Byte) := none
  /-- the last picture of an accepted STOP, and the command -/
  stopAt : Option Nat := none
  stopCmd : Option W256 := none
  capFloor : Bool := false
  deriving DecidableEq, Repr

/-! ### Sluices (chapter 7) -/

/-- Context states (table BSD-21). -/
inductive SluState where
  | closed | opened | flushing
  deriving DecidableEq, Repr

/-- A picture in the crust buffers of a context: its buffer, the names that later pictures may refer to it by, whether it is still
to be output and for how many pictures it has waited, what marks it, and what its record carries. -/
structure SluPic where
  buf : Nat
  pic : AuPic
  names : List Int
  waiting : Bool
  latency : Nat := 0
  concealed : Bool
  /-- it is a substitute under R242 -/
  substitute : Bool := false
  refsSubst : Bool := false
  error : Bool := false
  /-- the other field never came (R246) -/
  unpaired : Bool := false
  decCnt : Nat
  pts : Nat
  deriving DecidableEq, Repr

/-- A first field whose frame is not complete (R246): its buffer, whether it is the top field, its samples by plane. -/
structure SluHalf where
  buf : Nat
  top : Bool
  samples : List (List Nat)
  deriving DecidableEq, Repr

/-- A stream context of a sluice: its descriptor (table BSD-12), its pictures, the buffers due for output in output order, its
counts, the FLUSH in progress, the state of its parser, the frame_num of its latest reference, the field that waits for its pair. -/
structure SluCtx where
  st : SluState := .closed
  desc : BitVec 512 := 0
  pics : List SluPic := []
  due : List Nat := []
  decCnt : Nat := 0
  outCnt : Nat := 0
  flush : Option W256 := none
  parse : Nat := 0
  prevNum : Option Nat := none
  half : Option SluHalf := none
  deriving DecidableEq, Repr

/-! ### Display heads (chapter 9) -/

/-- Head states (table DSP-8). -/
inductive HeadState where
  | off | black | run | stopping | slave
  deriving DecidableEq, Repr

/-- A pixel in 16-bit components and alpha. -/
structure Px where
  c0 : Nat
  c1 : Nat
  c2 : Nat
  a : Nat := 65535
  deriving DecidableEq, Repr

/-- A pixel of a plane; `none` is transparent (R294). -/
abbrev PlanePixel := Option Px

/-- A plane of a head: its configuration in force and the one that waits for a content frame (table DSP-5), the surface
latched, the PRESENT that waits, the ring buffers S, R and W (R288), and its scan buffer. -/
structure HeadPlane where
  cur : BitVec 512 := 0
  next : Option (BitVec 512) := none
  surf : Option Nat := none
  wait : Option (W256 × Nat) := none
  scan : Option Nat := none
  ready : Option Nat := none
  write : Option Nat := none
  /-- lines of the frame in progress that have been fetched, and those not yet scanned out -/
  fetched : Nat := 0
  lines : List (Nat × List PlanePixel) := []
  late : Bool := false
  poison : Bool := false
  deriving DecidableEq, Repr

/-- A display head: its timing in force and the accepted one (table DSP-2), its planes, the frame in progress, the cadence
generator (R280), tearing-effect pacing. -/
structure Head where
  st : HeadState := .off
  timing : BitVec 512 := 0
  /-- the timing by which the lanes of its quad send, in OFF too (R380); without one they hold electrical idle -/
  sends : Option (BitVec 512) := none
  /-- acc of R280, and the pixel periods by which the last PCLK ran past the end of the line before -/
  acc : Nat := 0
  ahead : Nat := 0
  next : Option (BitVec 512 × W256) := none
  planes : Tab Nat HeadPlane := []
  black : Bool := false
  /-- active lines scanned out in the frame in progress -/
  line : Nat := 0
  teEdge : Bool := false
  stop : Option W256 := none
  deriving DecidableEq, Repr

/-- A line of an SDI link (R299): the link's own line of samples, the payload identifier of ST 352, and the words that carry its
line number and its CRCs. -/
structure SdiLine where
  line : Nat
  luma : List Nat
  cb : List Nat
  cr : List Nat
  ident : BitVec 32
  number : BitVec 11
  crcs : BitVec 36
  deriving DecidableEq, Repr

/-- What a head has sent: a line packet on an SLP lane (R298), or a line of the SDI link on a lane (R299). -/
inductive HeadOut where
  | slp (head lane : Nat) (header : W64) (bits len : Nat) (trailer : W64)
  | sdi (head lane : Nat) (line : SdiLine)
  deriving DecidableEq, Repr

/-! ### Compositors (chapter 8) -/

/-- A configuration of an output: its output descriptor (table CMP-6), its layer descriptors (table CMP-7), its signature table
(table CMP-11). -/
structure CmpCfg where
  out : BitVec 1024 := 0
  layers : Tab Nat (BitVec 512) := []
  sig : Option (BitVec 2048) := none
  deriving DecidableEq, Repr

/-- The staged set of an output (R253). -/
structure CmpStage where
  out : Option (BitVec 1024) := none
  layers : Tab Nat (BitVec 512) := []
  sig : Option (Option (BitVec 2048)) := none
  deriving DecidableEq, Repr

/-- An output of a compositor: configurations in force, pending and staged, latched buffers and PRESENTs since the last latch
by layer, the next band, the frame in progress, and the signatures of the previous frame by region. -/
structure CmpOut where
  cur : CmpCfg := {}
  pend : Option CmpCfg := none
  /-- the pending configuration brings a signature table of its own -/
  pendSig : Bool := false
  staged : CmpStage := {}
  latched : Tab Nat Nat := []
  present : Tab Nat Nat := []
  next : Nat := 0
  /-- the frame in progress failed the check of R259 -/
  mismatch : Bool := false
  sigs : Tab Nat (BitVec 32) := []
  /-- regions that have alarmed in the frame in progress -/
  alarms : Nat := 0
  deriving DecidableEq, Repr

/-! ### Ethernet (chapter 10) -/

/-- A video frame in progress in a receive flow: its RTP timestamp, frame count and buffer, the pixel groups written (line,
group), the next band to close, and the band after the last that a packet has reached. -/
structure RxFrame where
  ts : BitVec 32
  f : Nat
  got : List (Nat × Nat) := []
  next : Nat := 0
  reach : Nat := 0
  deriving DecidableEq, Repr

/-- A receive flow (table NET-2): its frames in progress, oldest first, the timestamps of frames that have closed, the sequence
numbers accepted, and the counts f and s. -/
structure RxFlow where
  on : Bool := false
  desc : BitVec 512 := 0
  f : Nat := 0
  frames : List RxFrame := []
  past : List (BitVec 32) := []
  high : Option (BitVec 32) := none
  seen : List (BitVec 32) := []
  s : Nat := 0
  deriving DecidableEq, Repr

/-- A queued transmit descriptor and its address. -/
structure TxPkt where
  desc : W256
  addr : Nat
  deriving DecidableEq, Repr

/-- Transmit queue states (table NET-31). -/
inductive TxState where
  | closed | opened | closing
  deriving DecidableEq, Repr

/-- A transmit queue: its descriptor (table NET-5), its packets, when the head reached the head, the start and counted length of
its previous packet, the largest delay since the last snapshot, the time of the last pace-overrun; times in ns. -/
structure TxQueue where
  st : TxState := .closed
  desc : W256 := 0
  pkts : List TxPkt := []
  headAt : Nat := 0
  last : Option (Nat × Nat) := none
  maxDelay : Nat := 0
  overAt : Option Nat := none
  deriving DecidableEq, Repr

/-- A gate list (table NET-6); no entries is the all-open state. -/
structure GateList where
  guard : Bool := false
  cycle : Nat := 1
  /-- `BASE` as packed -/
  base : W64 := 0
  entries : List (Nat × Nat) := []
  deriving DecidableEq, Repr

/-- An SRTP context: suite, key and salt as drawn from its slot, the ROC, the sequence number of its previous packet. -/
structure SrtpCtx where
  suite : Nat
  key : BitVec 256
  salt : BitVec 112
  saltLen : Nat
  roc : Nat
  seq : Option Nat := none
  deriving DecidableEq, Repr

/-- A frame whose data were found poisoned as it was sent (R325). -/
structure TxAbort where
  q : Nat
  pkt : TxPkt
  sent : List Byte
  addr : Nat
  muted : Bool
  deriving DecidableEq, Repr

/-- A port's scheduler: its queues, the list in operation and the pending one with its start in ns, the time at which each link
is free and the frame it is to abort, the queue that each link and class served last, SRTP contexts, the descriptors discarded
under R311 and the packets dropped under R318. -/
structure Tsh where
  queues : Tab Nat TxQueue := []
  op : Option GateList := none
  pend : Option (GateList × Nat) := none
  busy : Tab Nat Nat := []
  abort : Tab Nat TxAbort := []
  served : Tab (Nat × Nat) Nat := []
  ctxs : Tab Nat SrtpCtx := []
  bad : Nat := 0
  srtpDrops : Nat := 0
  deriving DecidableEq, Repr

/-- A frame that a port has sent: port, link, bytes before the FCS, and whether the FCS was inverted. -/
structure TxFrame where
  port : Nat
  link : Nat
  bytes : List Byte
  badFcs : Bool := false
  deriving DecidableEq, Repr

/-- The ports: receive flows, schedulers, the 64-bit counters by port, link and number, what has been sent. -/
structure Net where
  flows : Tab Nat RxFlow := []
  tsh : Tab Nat Tsh := []
  counts : Tab (Nat × Nat × Nat) W64 := []
  out : List TxFrame := []
  deriving DecidableEq, Repr

/-! ### Audio (chapter 12) -/

/-- A frame of the window being measured: what its source delivered, whether it is written, its boundary's block count and
packed time, the mask in force, whether a mask marker follows the block marker. -/
structure AudRec where
  frame : AudFrame
  write : Bool
  blk : Nat
  time : W64
  mask : W32
  maskMark : Bool
  deriving DecidableEq, Repr

/-- A capture unit. -/
structure AudIn where
  /-- consecutive valid frames, up to the lock; consecutive subframes that violate the biphase code -/
  valid : Nat := 0
  viols : Nat := 0
  /-- the frames of the window in progress, oldest first -/
  win : List AudRec := []
  /-- rate code of the previous window since lock -/
  prev : Option Nat := none
  /-- the mask in force, and one that is pending -/
  mask : W32 := 3
  pend : Option W32 := none
  /-- writing since a boundary; the next block count; whether no block marker followed the enable yet -/
  writing : Bool := false
  blocks : Nat := 0
  fresh : Bool := true
  /-- entries of the open 32-byte word -/
  word : List W32 := []
  drops : Nat := 0
  lost : Bool := false
  /-- C bits of the block in progress, by channel, newest first -/
  cs : Tab Nat (List Bool) := []
  deriving DecidableEq, Repr

/-- A playout unit: the next frame k, the ring word of its group of four frames, whether the last frame was silent, whether
`CONS` has gone past `PROD`, and the ns for which the output is held low before the next frame. -/
structure AudOut where
  k : Nat := 0
  word : Option (Nat × Option W256) := none
  silent : Bool := false
  late : Bool := false
  low : Nat := 0
  deriving DecidableEq, Repr

/-- A frame that a playout unit has sent: unit, frame, Z preamble, subframes 1 and 2 with their parity in bit 27, and the ns of
constant low level held before it (R352). -/
structure AudSent where
  unit : Nat
  k : Nat
  z : Bool
  a : BitVec 28
  b : BitVec 28
  low : Nat
  deriving DecidableEq, Repr

structure Audio where
  ins : Tab Nat AudIn := []
  outs : Tab Nat AudOut := []
  sent : List AudSent := []
  deriving DecidableEq, Repr

/-! ### Serial lanes (chapter 14) -/

/-- What a lane has put on its line: the bits of an SLP frame, marker and stuffed bits included, bit 0 first (R372 to R374), or a
line of an SDI link. -/
inductive LaneOut where
  | frame (bits len : Nat)
  | sdi (line : SdiLine)
  deriving DecidableEq, Repr

/-- A lane's transmitter: the payload bits of the SLP frame in progress, the offsets in them of packet headers, the bit and the
length of the run of kept bits that the line stands in (R374), the packets sent, and what has left on the line. -/
structure LaneTx where
  bits : List Bool := []
  heads : List Nat := []
  run : Option (Bool × Nat) := none
  packets : Nat := 0
  out : List LaneOut := []
  deriving DecidableEq, Repr

/-! ### SDI capture (chapter 14) -/

/-- Video capture of a lane: its descriptor (table LAN-3), the frame count, the buffer and the bands closed of the frame in
progress, the last complete frame's buffer and signatures, t, P and the last received frame start in ns. -/
structure SdiCap where
  on : Bool := false
  desc : W256 := 0
  f : Nat := 0
  buf : Option Nat := none
  inFrame : Bool := false
  /-- lock was lost, or a frame had the wrong size, since the last received frame start (R385) -/
  lost : Bool := false
  start : W64 := 0
  sigs : List (BitVec 32) := []
  complete : Option (Nat × List (BitVec 32)) := none
  t : Option Nat := none
  lastStart : Option Nat := none
  period : Option Nat := none
  deriving DecidableEq, Repr

/-! ### Twin unit (chapter 16) -/

/-- Twin unit states (table TWN-1). -/
inductive TwinState where
  | solo | pairing | active | standby | isolated
  deriving DecidableEq, Repr

/-- What the peer's last HEARTBEAT message said. -/
structure Peer where
  count : BitVec 32
  st : Nat
  primary : Bool
  warm : Bool
  uid : W64
  sync : W64
  deriving DecidableEq, Repr

/-- A band of this part that the twin unit knows: what its signature says, where its lines lie, its token, the repair in
progress, and when it was released in ns. -/
structure HeldBand where
  sdi : Bool
  id : Nat
  band : Nat
  ident : W64
  /-- P of an SDI capture in ns -/
  period : Nat
  crc : BitVec 32
  complete : Bool
  repeated : Bool
  lines : List (Nat × Nat)
  src : Nat
  dest : W64
  value : W64
  /-- CRC and complete flag of the peer's band that is being copied, and the offsets received with their byte counts -/
  repair : Option (BitVec 32 × Bool) := none
  got : Tab Nat Nat := []
  released : Option Nat := none
  /-- its token has been sent -/
  sent : Bool := false
  deriving DecidableEq, Repr

/-- A band signature that the peer has sent. -/
structure PeerBand where
  sdi : Bool
  id : Nat
  band : Nat
  ident : W64
  crc : BitVec 32
  complete : Bool
  repeated : Bool
  deriving DecidableEq, Repr

/-- A row signature (R416): programme, record number, CRC, FI count. -/
structure RowSig where
  pgm : Nat
  rec_ : BitVec 32
  crc : BitVec 32
  fi : Nat
  deriving DecidableEq, Repr

/-- A state copy transaction: its number, whether this part is the active, the mask, the segments, what has been captured or
received, the counts of SYNC_COMMIT. -/
structure SyncTrans where
  num : Nat
  active : Bool
  mask : W64
  segs : List (Nat × Nat)
  /-- programmes whose record is still to be captured (active) -/
  todo : List Nat := []
  records : Tab Nat (List Byte) := []
  /-- segment bytes received, by segment and offset -/
  got : List (Nat × Nat × Nat) := []
  segsSent : Bool := false
  commit : Option (Nat × Nat) := none
  deriving DecidableEq, Repr

/-- What the twin unit has sent: a message, a pulse on HB_OUT. -/
inductive TwinOut where
  | msg (bulk : Bool) (words : List W64)
  | pulse (active : Bool)
  deriving DecidableEq, Repr

structure Twin where
  st : TwinState := .solo
  /-- HEARTBEATs sent; message counts; the newest control sequence number received -/
  beats : BitVec 32 := 0
  ctlSeq : BitVec 32 := 0
  bulkSeq : BitVec 32 := 0
  seen : Option (BitVec 32) := none
  link : Bool := false
  peer : Option Peer := none
  /-- the peer's heartbeat is current; its last heartbeat showed ACTIVE -/
  current : Bool := false
  peerActive : Bool := false
  /-- the twin set stays muted until the switch delay of a takeover has passed -/
  muteUntil : Bool := false
  /-- no heartbeat is sent until the next KICK -/
  silent : Bool := false
  /-- agreed switch time; a SWITCH_REQ of this part awaits its answer -/
  switchAt : Option W64 := none
  asked : Bool := false
  fi : Tab Nat Nat := []
  rows : List RowSig := []
  peerRows : List RowSig := []
  /-- FI counts of the previous compared row, active and standby -/
  lastFi : Tab Nat (Nat × Nat) := []
  bands : List HeldBand := []
  peerBands : List PeerBand := []
  trans : Option SyncTrans := none
  nextTrans : Nat := 0
  /-- bulk messages sent, which take the locked bulk lanes in turn (R408) -/
  bulkTurn : Nat := 0
  out : List TwinOut := []
  deriving DecidableEq, Repr

/-! ### Counters (chapter 18) -/

/-- The tag unit of a rake (R459): the LFSR, the instructions still to issue up to the tagged one, and the tagged instruction
in flight: PC, flags and slot of its record, its device address, its issue time. -/
structure TagUnit where
  lfsr : BitVec 24
  left : Nat
  cur : Option (Nat × Nat × Nat × Nat × W64) := none
  deriving DecidableEq, Repr

/-- A counter that has been set up: its select register, its value, wraps that wait to be posted, each with the PC of a rake's
instruction. -/
structure PmuCounter where
  ovf : Bool := false
  int : Bool := false
  en : Bool := false
  inst : Nat := 0
  event : Nat := 0
  count : Nat := 0
  wraps : List Nat := []
  deriving DecidableEq, Repr

/-! ### Security (chapter 17) -/

/-- A loaded key store slot (R444): its key, `KLEN`, its salt and the salt's bytes. -/
structure KeySlot where
  key : BitVec 256
  klen : Nat
  salt : BitVec 112
  saltLen : Nat
  deriving DecidableEq, Repr

/-- A root key slot's fuses (R440). -/
structure FuseSlot where
  hash : BitVec 384 := 0
  valid : Bool := false
  revoked : Bool := false
  deriving DecidableEq, Repr

/-- The fuses: root key slots, the blown bits of the SVN minimum, `PREF` (R440). -/
structure Fuses where
  slots : Tab Nat FuseSlot := []
  svn : Nat := 0
  pref : Bool := false
  deriving DecidableEq, Repr

/-- How far the trial of an image has come: its signature is being verified, its payload staged, position SP0 loaded
(R436, R438). -/
inductive TrialStage where
  | signature | payload | loading
  deriving DecidableEq, Repr

/-- The image on trial (0 = A, 1 = B, 2 = host) with its header. -/
structure Trial where
  img : Nat
  hdr : List Byte
  stage : TrialStage
  deriving DecidableEq, Repr

/-- The JTAG port: the instruction selected, what its data register last captured, the boundary register (R448). -/
structure Tap where
  ir : Nat := 1
  dr : Nat := 0x06496BE7
  boundary : List Bool := []
  deriving DecidableEq, Repr

/-- The security controller. -/
structure Sec where
  /-- the boot banks refuse every write of another requester (R432) -/
  bankLock : Bool := false
  keys : Tab Nat KeySlot := []
  fuses : Fuses := {}
  /-- both headers have been read, and the images still to be tried after the one on trial -/
  headers : Tab Nat (List Byte) := []
  order : List Nat := []
  trial : Option Trial := none
  /-- the nonce of the challenge in force, and the failed responses since device reset (R449) -/
  nonce : Option (BitVec 256) := none
  failed : Nat := 0
  /-- slots zeroised by a tamper whose event waits for the main domain (R446) -/
  tamperPost : Option Nat := none
  tap : Tap := {}
  deriving DecidableEq, Repr

/-! ### The whole part -/

/-- A copy of a register: the register, its instance, and which of its copies (`SubRule`). -/
structure RegKey where
  reg : Reg
  inst : Nat
  sub : Nat
  deriving DecidableEq, Repr

structure State where
  /-- the commands that wait, first in, first out -/
  pending : List Instr := []
  /-- MODEL: free values drawn so far (log entry 1) -/
  freeCtr : Nat := 0
  /-- MODEL: what the last access of each requester returned -/
  answers : Tab Nat Answer := []
  regs : Tab RegKey W32 := []
  /-- halves latched by a _LO read, by requester and register (R15) -/
  latches : Tab (Nat × Reg × Nat) W32 := []
  /-- held lower halves, by requester and register (R15) -/
  helds : Tab (Nat × Reg × Nat) W32 := []
  mem : List Host.Cell := []
  events : Tab Nat EvSource := []
  ledger : Ledger := {}
  rakes : Tab Nat Rake := []
  mgr : RakeMgr := {}
  tally : Tally := {}
  /-- pipeline command queues by (window, instance, queue), head first -/
  queues : Tab (Nat × Nat × Nat) (List W256) := []
  mcs : Tab Nat Mc := []
  banks : Tab Nat BankState := []
  harrow : Harrow := {}
  time : TimeBase := {}
  dma : Tab Nat DmaChan := []
  /-- release values handed to each transmit queue, by port and queue, each with its flow, not yet taken (R311) -/
  releases : Tab (Nat × Nat) (List (Nat × W64)) := []
  host : HostPort := {}
  power : Power := {}
  resets : Resets := {}
  sec : Sec := {}
  chk : Tab Nat ChkUnit := []
  pgms : Tab Nat Pgm := []
  /-- outputs by compositor and output, and the colour slots that are loaded -/
  cmps : Tab (Nat × Nat) CmpOut := []
  colours : List (Nat × Nat) := []
  heads : Tab Nat Head := []
  headOut : List HeadOut := []
  /-- stream contexts by sluice and context -/
  slus : Tab (Nat × Nat) SluCtx := []
  net : Net := {}
  audio : Audio := {}
  /-- transmitters by quad and lane -/
  lanes : Tab (Nat × Nat) LaneTx := []
  /-- SDI captures by quad and lane -/
  sdi : Tab (Nat × Nat) SdiCap := []
  /-- PRBS31 checkers that are locked, by quad and lane: the last 31 bits of their sequence (R381) -/
  prbs : Tab (Nat × Nat) (BitVec 31) := []
  twin : Twin := {}
  /-- counters by set and number -/
  pmu : Tab (Nat × Nat) PmuCounter := []
  tags : Tab Nat TagUnit := []
  /-- snapshots captured, tag records written (R458, R460) -/
  snaps : Nat := 0
  tagged : Nat := 0
  deriving DecidableEq, Repr

/-- The part right after reset: every register at its reset value, every bank in FILL, every rake EMPTY or SPARE, every
slot FREE, no command waiting. -/
def State.reset : State := {}

end Sys2Proof.Machine
end

