-- ==== Sys2Proof/Machine/Ops.lean ====
section
/-! DEFINITION. The named operations that the meanings share: register fields, device time, events, the
admission ledger and its precedence steps, tokens to the tally, free values. -/

namespace Sys2Proof.Machine

/-- The outcome of a command. -/
abbrev Res := Host.Outcome State Fault Refusal

/-! ### Bits -/

/-- Bits [hi:lo] of a word, as a number. -/
def bitsOf {n : Nat} (w : BitVec n) (hi lo : Nat) : Nat := w.toNat / 2 ^ lo % 2 ^ (hi - lo + 1)

/-- Bit i of a word. -/
def bitOf {n : Nat} (w : BitVec n) (i : Nat) : Bool := w.getLsbD i

/-- A word with bits [hi:lo] replaced by the low bits of v. -/
def setBits (w : W32) (hi lo v : Nat) : W32 :=
  let m : Nat := (2 ^ (hi - lo + 1) - 1) * 2 ^ lo
  (w &&& ~~~(BitVec.ofNat 32 m)) ||| BitVec.ofNat 32 (v % 2 ^ (hi - lo + 1) * 2 ^ lo)

/-- A Boolean as a number. -/
def b2n (b : Bool) : Nat := if b then 1 else 0

/-- An integer of n bits in two's complement. -/
def sextNat (n v : Nat) : Int := if v < 2 ^ (n - 1) then (v : Int) else (v : Int) - 2 ^ n

/-- Division rounded up. -/
def ceilDiv (a b : Nat) : Nat := (a + b - 1) / b

/-! ### Registers -/

/-- The stored value of a copy of a register. -/
def State.reg (s : State) (r : Reg) (inst sub : Nat) : W32 :=
  Tab.getD s.regs ⟨r, inst, sub⟩ r.desc.reset

/-- The state with a copy of a register changed. -/
def State.setReg (s : State) (r : Reg) (inst sub : Nat) (v : W32) : State :=
  { s with regs := Tab.set s.regs ⟨r, inst, sub⟩ v }

/-- A field of a copy of a register. -/
def State.fget (s : State) (f : Fld) (inst sub : Nat) : Nat := bitsOf (s.reg f.reg inst sub) f.hi f.lo

/-- A one-bit field of a copy of a register. -/
def State.flag (s : State) (f : Fld) (inst sub : Nat) : Bool := s.fget f inst sub != 0

/-- The state with a field of a copy of a register changed by the hardware. -/
def State.fset (s : State) (f : Fld) (inst sub v : Nat) : State :=
  s.setReg f.reg inst sub (setBits (s.reg f.reg inst sub) f.hi f.lo v)

/-- A pair of registers as one 64-bit value (R15). -/
def State.pair (s : State) (lo hi : Reg) (inst sub : Nat) : W64 := s.reg hi inst sub ++ s.reg lo inst sub

/-- A pair of registers set whole. -/
def State.setPair (s : State) (lo hi : Reg) (inst sub : Nat) (v : W64) : State :=
  (s.setReg lo inst sub (v.extractLsb' 0 32)).setReg hi inst sub (v.extractLsb' 32 32)

/-- The value a write by the access codes leaves in one field (table SCO-5): the field's new bits from the old
word and the written word. A WO field stores nothing, and the hardware acts on it elsewhere. -/
def writeField (old val acc : W32) (f : RField) : W32 :=
  let v := bitsOf val f.hi f.lo
  let o := bitsOf old f.hi f.lo
  match f.acc with
  | .rw => setBits acc f.hi f.lo v
  | .w1c => setBits acc f.hi f.lo (o - (o &&& v))
  | .w1s => setBits acc f.hi f.lo (o ||| v)
  | .ro | .wo | .rc => acc

/-- A word after a write by its fields' access codes (R12). -/
def applyWrite (fields : List RField) (old val : W32) : W32 :=
  fields.foldl (fun acc f => writeField old val acc f) old

/-- A word after a read of its RC fields (R12): those fields are cleared. -/
def applyRead (fields : List RField) (old : W32) : W32 :=
  fields.foldl (fun acc f => if f.acc = .rc then setBits acc f.hi f.lo 0 else acc) old

/-- The bits of a word that a read returns: WO and RSV bits read 0 (table SCO-5). -/
def readable (fields : List RField) (v : W32) : W32 :=
  fields.foldl (fun acc f => if f.acc = .wo then acc else setBits acc f.hi f.lo (bitsOf v f.hi f.lo)) 0

/-- Whether a word or its copy has a field with access code RC. -/
def hasRc (fields : List RField) : Bool := fields.any (fun f => f.acc == .rc)

/-- The state after a write of a register by its access codes, with no further effect (R12). -/
def State.wrReg (s : State) (r : Reg) (inst sub : Nat) (val : W32) : State :=
  s.setReg r inst sub (applyWrite r.desc.fields (s.reg r inst sub) val)

/-- A written word in which a field keeps its present value: the write of that field has no effect. -/
def State.keepField (s : State) (f : Fld) (inst sub : Nat) (val : W32) : W32 :=
  setBits val f.hi f.lo (s.fget f inst sub)

/-! ### Free values -/

/-- Draw a value that the spec leaves open (log entry 1). -/
def State.free (w : Nat) (s : State) : BitVec w := Config.freeValue w s.freeCtr

/-- The state after a free value has been drawn. -/
def State.drawn (s : State) : State := { s with freeCtr := s.freeCtr + 1 }

/-! ### Sources (table INT-2) -/

namespace Src

def fabric : Nat := 0x000
def ledger : Nat := 0x001
def clocks : Nat := 0x002
def power : Nat := 0x003
def security : Nat := 0x004
def tally : Nat := 0x005
def harrow : Nat := 0x006
def time : Nat := 0x007
def twin : Nat := 0x008
def pmu : Nat := 0x009
def host : Nat := 0x00A
def rakeMgr : Nat := 0x00B
def mc (n : Nat) : Nat := 0x010 + n
def dma (n : Nat) : Nat := 0x020 + n
def pan (n : Nat) : Nat := 0x040 + n
def slu (n : Nat) : Nat := 0x050 + n
def cmp (n : Nat) : Nat := 0x058 + n
def head (n : Nat) : Nat := 0x060 + n
def eth (n : Nat) : Nat := 0x068 + n
def tsh (n : Nat) : Nat := 0x070 + n
def audIn (n : Nat) : Nat := 0x080 + n
def audOut (n : Nat) : Nat := 0x090 + n
def quad (n : Nat) : Nat := 0x0A0 + n
def chk (n : Nat) : Nat := 0x0B0 + n
def pos (p : Nat) : Nat := 0x100 + p
def rake (n : Nat) : Nat := 0x180 + n
def bank (i : Nat) : Nat := 0x200 + i
/-- Function 0 is the physical function, function v virtual function v. -/
def fn (v : Nat) : Nat := 0x300 + v

/-- Whether a source ID is a rake. -/
def isRake (s : Nat) : Bool := decide (0x180 ≤ s ∧ s ≤ 0x1E7)

/-- Whether a source ID is a PCIe function. -/
def isFn (s : Nat) : Bool := decide (0x300 ≤ s ∧ s ≤ 0x340)

end Src

/-! ### Device time -/

/-- A time packed as R333 states: nanoseconds in [29:0], seconds bits [33:0] in [63:30]. -/
def packTime (sec : BitVec 64) (ns : Nat) : BitVec 64 :=
  (sec.extractLsb' 0 34) ++ (BitVec.ofNat 30 ns)

/-- Device time, packed. -/
def State.now (s : State) : BitVec 64 := packTime s.time.sec s.time.ns

/-- Device time in whole nanoseconds since 0 s. -/
def State.nowNs (s : State) : Nat := s.time.sec.toNat * 1000000000 + s.time.ns

/-- The device time that a packed time names (R333): of the times whose seconds bits [33:0] match,
the one nearest the current device time, the later on a tie; in ns. -/
def State.unpackTime (s : State) (t : BitVec 64) : Nat :=
  let ns := bitsOf t 29 0
  let sec34 := bitsOf t 63 30
  let m : Nat := 2 ^ 34
  let base := s.time.sec.toNat / m
  let cand (b : Nat) : Nat := (b * m + sec34) * 1000000000 + ns
  let dist (x : Nat) : Nat := if x ≤ s.nowNs then s.nowNs - x else x - s.nowNs
  let pick (a b : Nat) : Nat := if dist b ≤ dist a then b else a
  let lo := if base = 0 then cand 0 else cand (base - 1)
  pick (pick lo (cand base)) (cand (base + 1))

/-! ### Counters (chapter 18) -/

/-- Whether an `INST` field takes an occurrence (R457, tables PMU-2 to PMU-4): `insts` are the instances that it counts for. -/
def pmuTakes (set ev inst : Nat) (insts : List Nat) : Bool :=
  if set < 128 then inst == 0
  else if set < 255 then ev == 1 || inst == 0x3F || (decide (inst < 4) && insts.contains inst)
  else if 0x010 ≤ ev ∧ ev ≤ 0x015 then inst == 0x3F || (decide (inst < 16) && insts.contains inst)
  else inst == 0

/-- A counter after an addition (R452): it wraps at 2^48 and sets `OVF`; with `INT` the wrap waits to be posted (R454). -/
def PmuCounter.add (c : PmuCounter) (n pc : Nat) : PmuCounter :=
  if c.count + n < 2 ^ 48 then { c with count := c.count + n }
  else { c with count := (c.count + n) % 2 ^ 48, ovf := true, wraps := if c.int then c.wraps ++ [pc] else c.wraps }

/-- n occurrences of an event reach a set's counters (R452, R455); `pc` is a rake's. -/
def State.pmuAdd (s : State) (set ev : Nat) (insts : List Nat) (n pc : Nat) : State :=
  if s.pmu.isEmpty || s.flag F.PMU_CTRL_FREEZE 255 0 then s
  else { s with pmu := s.pmu.map (fun x =>
    if x.1.1 = set ∧ x.2.en ∧ x.2.event = ev ∧ pmuTakes set ev x.2.inst insts then (x.1, x.2.add n pc) else x) }

/-- The PMU_ instance of the global set. -/
def pmuGlobal : Nat := 255

/-! ### Events -/

/-- The codes of table INT-4 (R395). -/
def faultIndicators : List Nat :=
  [0x0004, 0x0A01, 0x0A02, 0x0A03, 0x0A04, 0x0A12, 0x0A13, 0x0A14, 0x0C01, 0x0C03]

/-- One payload item in its bytes: a value beyond its width saturates, a signed value is two's complement (R389). -/
def PItem.value : PItem → Nat
  | .u b v => min v (256 ^ b - 1)
  | .i b v =>
    let lim : Int := 2 ^ (8 * b - 1)
    ((max (-lim) (min v (lim - 1))) % (256 ^ b : Int)).toNat

/-- The width of an item in bytes. -/
def PItem.width : PItem → Nat
  | .u b _ => b
  | .i b _ => b

/-- Payload items packed from byte 18 in order (R389). -/
def packItems : List PItem → Nat
  | [] => 0
  | p :: t => p.value + 256 ^ p.width * packItems t

/-- An event source. -/
def State.evSource (s : State) (src : Nat) : EvSource := Tab.getD s.events src {}

/-- The record that a source posts next (R387, R388, R391, R395). -/
def State.record (s : State) (src code : Nat) (fi : Bool) (payload : BitVec 112) : EventRec :=
  { seq := (s.evSource src).seq, code := BitVec.ofNat 16 code, src := src, fi := fi,
    notime := !s.time.valid, hold := s.time.hold, time := s.now,
    secx := s.time.sec.extractLsb' 34 16, payload := payload }

/-- Post a record from a source (R391). A record that finds the post buffer full is lost: it takes its SEQ, and
EVT_LOST and EVT_STAT report it (R393). -/
def State.postRaw (s : State) (src code : Nat) (fi : Bool) (payload : BitVec 112) : State :=
  let e := s.evSource src
  if e.buf.length < 16 then
    let e' : EvSource := { e with seq := e.seq + 1, buf := e.buf ++ [s.record src code fi payload] }
    ({ s with events := Tab.set s.events src e' }).pmuAdd pmuGlobal 0x030 [] 1 0
  else
    let e' : EvSource := { e with seq := e.seq + 1, lost := min (e.lost + 1) 0xFFFF }
    let s := { s with events := Tab.set s.events src e' }
    ((s.fset F.EVT_STAT_LOST 0 0 1).fset F.EVT_STAT_SRC 0 0 src).pmuAdd pmuGlobal 0x031 [] 1 0

/-- The programmes that a fault-indicator event counts for (table TWN-5): those named in the payload, the one that a
compositor output feeds, or every programme. -/
def State.fiProgrammes (s : State) (src code : Nat) (items : List PItem) : List Nat :=
  let first := (items.head?.map PItem.value).getD 0
  if ¬ faultIndicators.contains code then []
  else if code = 0x0004 then List.range 64
  else if code = 0x0C01 ∨ code = 0x0C03 then
    let o := (Tab.getD s.cmps (src - 0x058, first) {}).cur.out
    if bitsOf o 1 0 = 1 then [bitsOf o 9 4] else []
  else [first]

/-- The FI counts of programmes go up by one, modulo 256 (R416). -/
def State.fiCount (s : State) (ks : List Nat) : State :=
  if ks.isEmpty then s
  else { s with twin := { s.twin with fi := ks.foldl (fun t k => Tab.set t k ((Tab.getD t k 0 + 1) % 256)) s.twin.fi } }

/-- Post an event of the part's own: FI is 1 on exactly the events of table INT-4 (R395). -/
def State.post (s : State) (src code : Nat) (items : List PItem) : State :=
  (s.postRaw src code (faultIndicators.contains code) (BitVec.ofNat 112 (packItems items))).fiCount (s.fiProgrammes src code items)

/-- The fabric posts access-error (R394): the requester, the address, the kind of error. -/
def State.accessError (s : State) (req addr kind : Nat) : State :=
  s.post Src.fabric 0x0000 [.u 2 req, .u 6 addr, .u 1 kind]

/-- Record what an access returned to its requester. -/
def State.answer (s : State) (req : Nat) (a : Answer) : State :=
  { s with answers := Tab.set s.answers req a }

/-! ### Tokens -/

/-- Whether a 64-bit value is a legal destination of a completion token (R91, table TLY-1): port 0 to 3, every
bit that must be 0 is 0. -/
def tokenDestOk (d : W64) : Bool :=
  decide (bitsOf d 16 14 ≤ 3 ∧ bitsOf d 23 17 = 0 ∧ bitsOf d 63 32 = 0)

/-- A block sends a completion token to the tally (R20). -/
def State.sendToken (s : State) (src : Nat) (dest value : W64) : State :=
  { s with tally := { s.tally with inbox := s.tally.inbox ++ [⟨src, dest, value⟩] } }

/-! ### The admission ledger -/

/-- An HBM controller. -/
def State.mc (s : State) (n : Nat) : Mc := Tab.getD s.mcs n {}

/-- The contribution of a controller to the limit of entry 52 (table MEM-6). -/
def State.mcContribution (s : State) (n : Nat) : Nat :=
  if (s.mc n).st = .run then
    match s.flag F.MC_STAT_HALFACT n 0, s.flag F.MC_STAT_HOTREF n 0 with
    | false, false => 43520
    | false, true => 40800
    | true, false => 21760
    | true, true => 20400
  else 0

/-- The current limit of entry 52 (R141). -/
def State.limit52 (s : State) : Nat := (List.range 16).foldl (fun a n => a + s.mcContribution n) 0

/-- The limit of a ledger entry (table ARC-3). -/
def State.ledgerLimit (s : State) (e : Nat) : Nat :=
  if e ≤ 15 then 1992000
  else if e ≤ 19 then 2400000
  else if e ≤ 23 then 2000
  else if e ≤ 31 then 7200000
  else if e ≤ 35 then 2400000
  else if e ≤ 51 then 4
  else if e = 52 then s.limit52
  else if e = 53 then 652800
  else if e ≤ 61 then 95000
  else 0

/-- The amount of a charge on an entry. -/
def Charge.on (c : Charge) (e : Nat) : Nat := Tab.getD c e 0

/-- The amount a holding is charged on an entry: the larger of the configuration in effect and an accepted change
(R29). -/
def Holding.on (h : Holding) (e : Nat) : Nat :=
  match h.next with
  | none => Charge.on h.cur e
  | some c => max (Charge.on h.cur e) (Charge.on c e)

/-- What the ledger knows of a programme. -/
def Ledger.pgm (l : Ledger) (k : Nat) : PgmInfo := Tab.getD l.pgms k {}

/-- The amount a holder is charged on an entry now: a programme placed in cap-floor mode by a precedence step is
charged its cap-floor charge on entry 52, the larger one while a change is pending (R29, R35, R149; log entry 9). -/
def Ledger.heldOn (l : Ledger) (h : Holder) (x : Holding) (e : Nat) : Nat :=
  match h with
  | .pgm k => if e = 52 ∧ l.reduced.contains k then min (x.on 52) (max (l.pgm k).floor52 (l.pgm k).next52) else x.on e
  | _ => x.on e

/-- The used value of an entry: the sum of the charges held against it, with the fixed host and DMA floor on entry 53
(R33). -/
def Ledger.used (l : Ledger) (e : Nat) : Nat :=
  l.holdings.foldl (fun a p => a + l.heldOn p.1 p.2 e) (if e = 53 then 8000 else 0)

/-- The used value of entry 52 with every programme charged its full charge (R37). -/
def Ledger.full52 (l : Ledger) : Nat := l.holdings.foldl (fun a p => a + p.2.on 52) 0

/-- The state with the ledger changed. -/
def State.setLedger (s : State) (l : Ledger) : State := { s with ledger := l }

/-- A holder's charges. -/
def Ledger.holding (l : Ledger) (h : Holder) : Holding := Tab.getD l.holdings h {}

/-- The programmes of a class that hold charges and are not in `reduced`, highest number first (R35 step 2, R36). -/
def Ledger.candidates (l : Ledger) (classA : Bool) : List Nat :=
  ((List.range 64).reverse).filter (fun k =>
    (Tab.find? (.pgm k) l.holdings).isSome && (l.pgm k).classA == classA && !l.reduced.contains k)

/-- Place programmes in cap-floor mode one at a time until the used value is at most the limit. -/
def Ledger.reduceUntil (limit : Nat) : Ledger → List Nat → Ledger
  | l, [] => l
  | l, k :: t => if l.used 52 ≤ limit then l else Ledger.reduceUntil limit { l with reduced := k :: l.reduced } t

/-- The precedence steps of R35 and R36, taken when the limit of entry 52 is below its used value: throttle host
and DMA traffic, place Class B programmes in cap-floor mode, then, under exhausted precedence, Class A programmes. A
reversal in progress stops (R37). Step 1 changes no charge, since host and DMA traffic carries none (R33). -/
def State.balance (s : State) : State :=
  let limit := s.limit52
  if s.ledger.used 52 ≤ limit then s
  else
    let s := { s with ledger := { s.ledger with reversing := false, awaiting := none } }
    let s := if s.ledger.throttled then s else
      ({ s with ledger := { s.ledger with throttled := true } }).post Src.ledger 0x0002
        [.u 4 (s.ledger.used 52), .u 4 limit]
    let s := { s with ledger := Ledger.reduceUntil limit s.ledger (s.ledger.candidates false) }
    if s.ledger.used 52 ≤ limit then s
    else
      let s := if s.ledger.exhausted then s else
        ({ s with ledger := { s.ledger with exhausted := true } }).post Src.ledger 0x0004
          [.u 4 (s.ledger.used 52), .u 4 limit]
      { s with ledger := Ledger.reduceUntil limit s.ledger (s.ledger.candidates true) }

/-- The ledger with a holder's accepted change pending (R29). -/
def Ledger.accept (l : Ledger) (h : Holder) (c : Charge) : Ledger :=
  { l with holdings := Tab.set l.holdings h { l.holding h with next := some c } }

/-- The lowest entry whose used value a submission would raise above its limit, if any (R27): an entry that the
submission does not raise does not decide. -/
def State.ledgerOver (s : State) (sub : Submission) : Option Nat :=
  let l' := s.ledger.accept sub.holder sub.charge
  (List.range 64).find? (fun e =>
    decide (s.ledger.used e < l'.used e) && decide (s.ledgerLimit e < l'.used e))

/-- Decide one submission (R27): an accepted one is charged, a refused one changes no charge, updates
HST_ADM_LAST and posts admission-refused. -/
def State.ledgerDecide (s : State) (sub : Submission) : State :=
  match s.ledgerOver sub with
  | none => ({ s with ledger := s.ledger.accept sub.holder sub.charge }).balance
  | some e =>
    let s := ((s.fset F.HST_ADM_LAST_REFUSED 0 0 1).fset F.HST_ADM_LAST_SRC 0 0 sub.src).fset F.HST_ADM_LAST_ENTRY 0 0 e
    s.post Src.ledger 0x0001 [.u 1 e, .u 2 sub.src]

/-- Decide every waiting submission in order (R30). -/
def State.decideAll (s : State) : List Submission → State
  | [] => s
  | x :: t => State.decideAll (s.ledgerDecide x) t

/-- A unit submits a change and waits for its outcome: the submissions already waiting are decided first (R30).
Whether it was accepted, and the state after the decision. -/
def State.submit (s : State) (sub : Submission) : Bool × State :=
  let s1 := s.decideAll s.ledger.waiting
  let s := { s1 with ledger := { s1.ledger with waiting := [] } }
  ((s.ledgerOver sub).isNone, s.ledgerDecide sub)

/-- Lift the host and DMA throttle at the end of a reversal (R37). -/
def State.release52 (s : State) : State :=
  let s := { s with ledger := { s.ledger with reversing := false, awaiting := none } }
  if s.ledger.throttled then
    ({ s with ledger := { s.ledger with throttled := false } }).post Src.ledger 0x0003
      [.u 4 (s.ledger.used 52), .u 4 s.limit52]
  else s

/-- Reverse the next step of R37: the lowest-numbered programme in cap-floor mode, Class A steps first since
they were taken last; when none is left, the throttle is lifted. A charge restored that lifts the used value above the limit
stops the reversal, and R35 applies again. -/
def State.reverseNext (s : State) : State :=
  let low (a : Bool) : Option Nat :=
    (List.range 64).find? (fun k => s.ledger.reduced.contains k && (s.ledger.pgm k).classA == a)
  match (low true).or (low false) with
  | some k => ({ s with ledger := { s.ledger with
      reversing := true, awaiting := some k, reduced := s.ledger.reduced.filter (· ≠ k) } }).balance
  | none => s.release52

/-- The boundary of a reversed programme has passed: the next step is reversed (R37). -/
def State.boundaryPassed (s : State) (k : Nat) : State :=
  if s.ledger.reversing ∧ s.ledger.awaiting = some k then s.reverseNext else s

/-- An accepted change takes effect: the holder is charged it alone from now on (R29). -/
def State.applyCharge (s : State) (h : Holder) : State :=
  match (s.ledger.holding h).next with
  | none => s
  | some c => ({ s with ledger := { s.ledger with
      holdings := Tab.set s.ledger.holdings h { cur := c, next := none } } }).balance

/-- A holder's old configuration has stopped: its charges are released (R29). -/
def State.releaseCharge (s : State) (h : Holder) : State :=
  let l := { s.ledger with holdings := Tab.erase h s.ledger.holdings }
  match h with
  | .pgm k =>
    let l := { l with reduced := l.reduced.filter (· ≠ k), pgms := Tab.erase k l.pgms }
    ({ s with ledger := l }).boundaryPassed k
  | _ => { s with ledger := l }

/-! ### Pipeline command queues (R72) -/

/-- A command queue of a unit. -/
def State.queue (s : State) (win inst q : Nat) : List W256 := Tab.getD s.queues (win, inst, q) []

/-- The state with a command queue changed. -/
def State.setQueue (s : State) (win inst q : Nat) (l : List W256) : State :=
  { s with queues := Tab.set s.queues (win, inst, q) l }

/-- A command that reaches its unit leaves the head of its queue; `none` when another command stands ahead of it. With
an empty queue the command reaches the unit directly. -/
def State.popCmd (s : State) (win inst q : Nat) (cmd : W256) : Option State :=
  match s.queue win inst q with
  | [] => some s
  | c :: t => if c = cmd then some (s.setQueue win inst q t) else none

/-- The state of a power domain; every domain is ON after reset (R485). -/
def State.dom (s : State) (d : Nat) : DomState := Tab.getD s.power.doms d .on

/-! ### Instances -/

/-- Run a meaning for an instance that exists; otherwise there is no such command. -/
def State.need (s : State) (ok : Bool) (what : String) (f : State → State) : Res :=
  if ok then .next (f s) else .refused (.noSuchUnit what)

/-! ### Rings (R17) -/

/-- Entries between a producer and a consumer index (R17). -/
def ringUsed (prod cons : Nat) : Nat := (prod + 65536 - cons) % 65536

/-- The entries that a ring of 2^n entries holds at most (R17). -/
def ringCap (n : Nat) : Nat := min (2 ^ n) 65535

end Sys2Proof.Machine
end

