-- ==== Sys2Proof/Machine/AudTime.lean ====
section
/-! DEFINITION. Playout frame times (R350) and what a LOAD or STEP of device time does to the playout units (R352). -/

namespace Sys2Proof.Machine

/-- The rate of a rate code in Hz (table AUD-2). -/
def audRate (code : Nat) : Nat :=
  match code with
  | 1 => 32000
  | 2 => 44100
  | 3 => 48000
  | 4 => 88200
  | 5 => 96000
  | 6 => 176400
  | 7 => 192000
  | _ => 0

/-- A playout unit. -/
def State.audOut (s : State) (n : Nat) : AudOut := Tab.getD s.audio.outs n {}

/-- The state with a playout unit changed. -/
def State.setAudOut (s : State) (n : Nat) (x : AudOut) : State :=
  { s with audio := { s.audio with outs := Tab.set s.audio.outs n x } }

/-- `START` of a playout unit in ns (R333, R350). -/
def State.outStart (s : State) (n : Nat) : Nat := s.unpackTime (s.pair .AUD_OUT_START_LO .AUD_OUT_START_HI (16 + n) 0)

/-- The rate of a playout unit. -/
def State.outRate (s : State) (n : Nat) : Nat := audRate (s.fget F.AUD_OUT_CFG_RATE (16 + n) 0)

/-- The start of frame k in ns (R350). -/
def State.outTime (s : State) (n k : Nat) : Nat := s.outStart n + k * 1000000000 / s.outRate n

/-- The smallest frame whose start is at or after the current device time (R352). -/
def State.outNext (s : State) (n : Nat) : Nat :=
  let up := if s.time.frac = 0 then s.nowNs else s.nowNs + 1
  ceilDiv ((up - s.outStart n) * s.outRate n) 1000000000

/-- A playout unit goes on with frame k; the words of the frames before it count as consumed, and `CONS` may go past `PROD`
(R351, R352). -/
def State.outGoTo (s : State) (n k : Nat) (silent : Bool) : State :=
  let x := s.audOut n
  let ahead := ringUsed (s.fget F.AUD_OUT_RING_PROD (16 + n) 0) (s.fget F.AUD_OUT_RING_CONS (16 + n) 0)
  (s.setAudOut n { x with k := k, silent := silent, late := x.late || decide (ahead < k / 4 - x.k / 4) }).fset
    F.AUD_OUT_RING_CONS (16 + n) 0 (k / 4 % 65536)

/-- A running unit after a LOAD or STEP: `ahead` when time moved forward, `gap` the ns that it moved. A backward move holds the
output low, with no transitions, from the end of the frame in progress for `gap` more ns of device time; a forward one takes as
much off a hold that has not ended (R352). -/
def State.outRealign (ahead : Bool) (gap : Nat) (s : State) (n : Nat) : State :=
  if s.flag F.AUD_OUT_CFG_EN (16 + n) 0 then
    let x := s.audOut n
    if ahead then
      let k := max x.k (s.outNext n)
      ((s.setAudOut n { x with low := x.low - gap }).outGoTo n k x.silent).post (Src.audOut n) 0x1206 [.u 1 n, .u 1 0, .u 4 (k - x.k)]
    else if x.k = 0 then s
    else (s.setAudOut n { x with low := x.low + gap }).post (Src.audOut n) 0x1206 [.u 1 n, .u 1 1, .u 4 gap]
  else s

/-- Every playout unit after a LOAD or STEP took device time to u units where it would have been at `after` (R352). -/
def State.audMoved (after u : Nat) (s : State) : State :=
  if u = after then s
  else (List.range 16).foldl (State.outRealign (decide (after < u)) ((max after u - min after u) / 2 ^ 32)) s

end Sys2Proof.Machine
end

