-- ==== Sys2Proof/Machine/Bytes.lean ====
section
/-! DEFINITION. Bytes as numbers, in both orders. -/

namespace Sys2Proof.Machine

/-- Bytes, lowest address first, as a number (R7). -/
def leNat : List Byte → Nat
  | [] => 0
  | b :: t => b.toNat + 256 * leNat t

/-- The low n bytes of a number, lowest address first (R7). -/
def leBytes : Nat → Nat → List Byte
  | 0, _ => []
  | n + 1, v => BitVec.ofNat 8 v :: leBytes n (v / 256)

/-- Bytes, highest first, as a number. -/
def beNat (b : List Byte) : Nat := b.foldl (fun a x => 256 * a + x.toNat) 0

/-- The bytes [o, o + n) of a list as a number, highest first. -/
def beAt (b : List Byte) (o n : Nat) : Nat := beNat ((b.drop o).take n)

/-- The low n bytes of a number, highest first. -/
def beBytes (n v : Nat) : List Byte := (leBytes n v).reverse

end Sys2Proof.Machine
end

