-- ==== Sys2Proof/Machine/Ecc.lean ====
section
/-! DEFINITION. The code of the protected word (R113 to R120): GF(16), check computation, syndromes and decoding. -/

namespace Sys2Proof.Machine

/-- Multiplication by x in the field generated by x^4 + x + 1 (R116). -/
def gfX (a : BitVec 4) : BitVec 4 :=
  if a.getLsbD 3 then (a <<< 1) ^^^ 0x3#4 else a <<< 1

/-- Multiplication in GF(16) (R116). -/
def gfMul (a b : BitVec 4) : BitVec 4 :=
  (if b.getLsbD 0 then a else 0) ^^^ (if b.getLsbD 1 then gfX a else 0) ^^^
  (if b.getLsbD 2 then gfX (gfX a) else 0) ^^^ (if b.getLsbD 3 then gfX (gfX (gfX a)) else 0)

/-- The inverse of a non-zero element: its 14th power, since a^15 = 1. -/
def gfInv (a : BitVec 4) : BitVec 4 :=
  let a2 := gfMul a a
  let a4 := gfMul a2 a2
  let a8 := gfMul a4 a4
  gfMul a8 (gfMul a4 a2)

/-- The quadric of table MEM-1: f = a⊗a ⊕ a⊗b ⊕ 8⊗b⊗b. -/
def quadric (a b : BitVec 4) : BitVec 4 :=
  gfMul a a ^^^ gfMul a b ^^^ gfMul 0x8#4 (gfMul b b)

/-- The pairs (a, b) of data symbols 0 to 31 of a half (table MEM-1). -/
def symPair : List (BitVec 4 × BitVec 4) :=
  [(0x2, 0x0), (0x3, 0x0), (0x4, 0x0), (0x5, 0x0), (0x6, 0x0), (0x7, 0x0), (0x8, 0x0), (0x9, 0x0)]
  ++ [(0xA, 0x0), (0xB, 0x0), (0xC, 0x0), (0xD, 0x0), (0xE, 0x0), (0xF, 0x0), (0x0, 0x2), (0x0, 0x3)]
  ++ [(0x0, 0x4), (0x0, 0x5), (0x0, 0x6), (0x0, 0x7), (0x0, 0x8), (0x0, 0x9), (0x0, 0xA), (0x0, 0xB)]
  ++ [(0x0, 0xC), (0x0, 0xD), (0x0, 0xE), (0x0, 0xF), (0x1, 0x1), (0x2, 0x2), (0x3, 0x3), (0x4, 0x4)]

/-- Data symbol i of a half given as 128 bits of data. -/
def dataSym (d : BitVec 128) (i : Nat) : BitVec 4 := d.extractLsb' (4 * i) 4

/-- Check symbol j of a half given as 16 check bits. -/
def chkSym (c : BitVec 16) (j : Nat) : BitVec 4 := c.extractLsb' (4 * j) 4

/-- The sum over the data symbols of a half of `coef a b ⊗ d_i`. -/
def symSum (coef : BitVec 4 → BitVec 4 → BitVec 4) (d : BitVec 128) :
    Nat → List (BitVec 4 × BitVec 4) → BitVec 4
  | _, [] => 0
  | i, (a, b) :: t => gfMul (coef a b) (dataSym d i) ^^^ symSum coef d (i + 1) t

/-- The generator nibbles g0 to g3 of a symbol with pair (a, b) (table MEM-1). -/
def genNibble (j : Nat) (a b : BitVec 4) : BitVec 4 :=
  match j with
  | 0 => 0x1#4 ^^^ a ^^^ b
  | 1 => quadric a b ^^^ a ^^^ gfMul 0x8#4 b
  | 2 => a
  | _ => b

/-- The four check symbols of a half (R116). -/
def checkBits (d : BitVec 128) : BitVec 16 :=
  let c (j : Nat) : BitVec 4 := symSum (genNibble j) d 0 symPair
  c 3 ++ c 2 ++ c 1 ++ c 0

/-- The syndrome of a half as read, written S3 S2 S1 S0 (R117). -/
def syndrome (d : BitVec 128) (c : BitVec 16) : BitVec 16 :=
  let s0 := chkSym c 0 ^^^ chkSym c 2 ^^^ chkSym c 3 ^^^ symSum (fun _ _ => 0x1#4) d 0 symPair
  let s1 := chkSym c 2 ^^^ symSum (fun a _ => a) d 0 symPair
  let s2 := chkSym c 3 ^^^ symSum (fun _ b => b) d 0 symPair
  let s3 := chkSym c 1 ^^^ chkSym c 2 ^^^ gfMul 0x8#4 (chkSym c 3) ^^^ symSum quadric d 0 symPair
  s3 ++ s2 ++ s1 ++ s0

/-- The index of a data symbol with the given pair, if table MEM-1 names one. -/
def findPair (a b : BitVec 4) : Nat → List (BitVec 4 × BitVec 4) → Option Nat
  | _, [] => none
  | i, (x, y) :: t => if x = a ∧ y = b then some i else findPair a b (i + 1) t

/-- Data symbol i of a half exclusive-ored with e. -/
def flipData (d : BitVec 128) (i : Nat) (e : BitVec 4) : BitVec 128 :=
  d ^^^ ((e.zeroExtend 128) <<< (4 * i))

/-- The decoding of one half (R118): the result, and the data corrected where it corrects. -/
def decodeHalf (d : BitVec 128) (c : BitVec 16) : HalfRes × BitVec 128 :=
  let s := syndrome d c
  let s0 := s.extractLsb' 0 4
  let s1 := s.extractLsb' 4 4
  let s2 := s.extractLsb' 8 4
  let s3 := s.extractLsb' 12 4
  if s = 0 then (.clean, d)
  else if s = 0x0FF0#16 then (.poisonMark, d)
  else if s0 ≠ 0 then
    let a := gfMul s1 (gfInv s0)
    let b := gfMul s2 (gfInv s0)
    if s3 = gfMul s0 (quadric a b) then
      match findPair a b 0 symPair with
      | some i => (.corrected, flipData d i s0)
      | none =>
        if (a = 0 ∧ b = 0) ∨ (a = 1 ∧ b = 0) ∨ (a = 0 ∧ b = 1) then (.corrected, d)
        else (.uncorrectable, d)
    else (.uncorrectable, d)
  else if s1 = 0 ∧ s2 = 0 then (.corrected, d)
  else (.uncorrectable, d)

/-- The outcome of reading a code word (table MEM-2). -/
inductive WordRes where
  | clean (d : W256)
  | corrected (d : W256) (h0 h1 : Bool)
  | poisoned
  | uncorrectable (s0 s1 : BitVec 16)
  deriving DecidableEq, Repr

/-- The data bits of a code word. -/
def cwData (cw : BitVec 288) : W256 := cw.extractLsb' 0 256

/-- The data bits of half h of a code word. -/
def cwHalf (cw : BitVec 288) (h : Nat) : BitVec 128 := cw.extractLsb' (128 * h) 128

/-- The check bits of half h of a code word (R114). -/
def cwCheck (cw : BitVec 288) (h : Nat) : BitVec 16 := cw.extractLsb' (256 + 16 * h) 16

/-- The decoding of a whole code word (R119, table MEM-2). -/
def decodeWord (cw : BitVec 288) : WordRes :=
  let (r0, d0) := decodeHalf (cwHalf cw 0) (cwCheck cw 0)
  let (r1, d1) := decodeHalf (cwHalf cw 1) (cwCheck cw 1)
  let good (r : HalfRes) : Bool := r == .clean || r == .corrected
  if r0 = .clean ∧ r1 = .clean then .clean (cwData cw)
  else if good r0 && good r1 then .corrected (d1 ++ d0) (r0 == .corrected) (r1 == .corrected)
  else if r0 = .poisonMark ∧ r1 = .poisonMark then .poisoned
  else .uncorrectable (syndrome (cwHalf cw 0) (cwCheck cw 0)) (syndrome (cwHalf cw 1) (cwCheck cw 1))

/-- The code word of 32 bytes of data (R113, R116). -/
def encodeWord (d : W256) : BitVec 288 :=
  checkBits (d.extractLsb' 128 128) ++ checkBits (d.extractLsb' 0 128) ++ d

/-- The poison pattern (R120). -/
def poisonWord : BitVec 288 := 0xFFE0FFE0#32 ++ (0 : W256)

/-- A code word with the symbols of an armed injection changed (R143). A symbol above 71 injects nothing. -/
def injectWord (cw : BitVec 288) (symA : Nat) (maskA : BitVec 4) (symB : Nat) (maskB : BitVec 4) :
    BitVec 288 :=
  let flip (w : BitVec 288) (k : Nat) (m : BitVec 4) : BitVec 288 :=
    if k ≤ 71 then w ^^^ ((m.zeroExtend 288) <<< (4 * k)) else w
  flip (flip cw symA maskA) symB maskB

end Sys2Proof.Machine
end

