-- ==== Sys2Proof/Machine/Mem.lean ====
section
/-! DEFINITION. Memory as the spec lays it out (chapter 4): a list of cells in one canonical form, the code words
made of them, and the read and write operations of controllers and banks with their events, buckets and injection.

Key k below 2^48 is the data byte at device address k. Check byte j (0 to 3) of the word at address a has key
2^48 + 4 * (a / 32) + j. What an unlisted key reads as is the poison pattern, with which R131 and R139 fill every
word before it can be accessed (log entry 4). -/

namespace Sys2Proof.Machine

/-! ### Cells -/

/-- What an unlisted cell reads as: the byte of the poison pattern (R120, R131, R139). -/
def memDefault (k : Nat) : Byte :=
  if k < 2 ^ 48 then 0 else if (k - 2 ^ 48) % 2 = 0 then 0xE0#8 else 0xFF#8

/-- The byte of a cell. -/
def memGet (k : Nat) : List Host.Cell → Byte
  | [] => memDefault k
  | (a, v) :: t => if a = k then v else memGet k t

/-- The cells with one cell written: cells stay in rising order, and a cell equal to what an unlisted cell
reads as is not listed. -/
def memSet (k : Nat) (v : Byte) : List Host.Cell → List Host.Cell
  | [] => if v = memDefault k then [] else [(k, v)]
  | (a, b) :: t =>
    if k < a then (if v = memDefault k then (a, b) :: t else (k, v) :: (a, b) :: t)
    else if k = a then (if v = memDefault k then t else (k, v) :: t)
    else (a, b) :: memSet k v t

/-- The canonical form: keys strictly rising, no cell equal to what an unlisted cell reads as. -/
abbrev Memory.wf (m : List Host.Cell) : Prop :=
  m.Pairwise (fun x y => x.1 < y.1) ∧ ∀ x ∈ m, x.2 ≠ memDefault x.1

/-- The key of check byte j of the word at address a. -/
def checkKey (a j : Nat) : Nat := 2 ^ 48 + 4 * (a / 32) + j

/-- The keys of the 36 bytes of the code word at address a, data then check bytes. -/
def wordKeys (a : Nat) : List Nat :=
  (List.range 32).map (fun j => a + j) ++ (List.range 4).map (fun j => checkKey a j)

/-- The code word at a word address. -/
def readCode (m : List Host.Cell) (a : Nat) : BitVec 288 :=
  BitVec.ofNat 288 (leNat ((wordKeys a).map (fun k => memGet k m)))

/-- Write bytes to cells, one each. -/
def memSetAll : List (Nat × Byte) → List Host.Cell → List Host.Cell
  | [], m => m
  | (k, v) :: t, m => memSetAll t (memSet k v m)

/-- The memory with a code word stored at a word address. -/
def writeCode (m : List Host.Cell) (a : Nat) (cw : BitVec 288) : List Host.Cell :=
  memSetAll ((wordKeys a).zip (leBytes 36 cw.toNat)) m

/-- The data byte that a key belongs to, as a device address: the address itself, or the word of a check byte. -/
def keyAddr (k : Nat) : Nat := if k < 2 ^ 48 then k else (k - 2 ^ 48) / 4 * 32

/-- The memory with every word whose address satisfies p filled with the poison pattern. -/
def fillWords (p : Nat → Bool) (m : List Host.Cell) : List Host.Cell :=
  m.filter (fun c => !p (keyAddr c.1))

/-! ### Units of memory -/

/-- What serves a memory address: an HBM controller or an on-chip bank. -/
inductive MemUnit where
  | hbm (n : Nat)
  | bank (i : Nat)
  deriving DecidableEq, Repr

/-- The first device address of a bank (table MEM-4). -/
def bankBase (i : Nat) : Nat :=
  if i < 16 then 0x001000000000 + i * 0x800000
  else if i < 120 then 0x001008000000 + (i - 16) * 0x80000
  else if i < 124 then 0x00100B400000 + (i - 120) * 0x600000
  else if i < 132 then 0x00100CC00000 + (i - 124) * 0x200000
  else if i < 136 then 0x00100DC00000 + (i - 132) * 0x400000
  else if i < 144 then 0x00100EC00000 + (i - 136) * 0x200000
  else if i = 144 then 0x00100FC00000
  else 0x00100FE00000

/-- The size of a bank in bytes (table MEM-4). -/
def bankSize (i : Nat) : Nat :=
  if i < 16 then 0x800000
  else if i < 120 then 0x80000
  else if i < 124 then 0x600000
  else if i < 132 then 0x200000
  else if i < 136 then 0x400000
  else 0x200000

/-- The bank that holds an address of the on-chip banks (table MEM-4). -/
def bankAt (a : Nat) : Nat :=
  if a < 0x001008000000 then (a - 0x001000000000) / 0x800000
  else if a < 0x00100B400000 then 16 + (a - 0x001008000000) / 0x80000
  else if a < 0x00100CC00000 then 120 + (a - 0x00100B400000) / 0x600000
  else if a < 0x00100DC00000 then 124 + (a - 0x00100CC00000) / 0x200000
  else if a < 0x00100EC00000 then 132 + (a - 0x00100DC00000) / 0x400000
  else if a < 0x00100FC00000 then 136 + (a - 0x00100EC00000) / 0x200000
  else if a < 0x00100FE00000 then 144
  else 145

/-- Whether an address lies in HBM (table ARC-8). -/
def inHbm (a : Nat) : Bool := decide (a < 0x000800000000)

/-- Whether an address lies in the on-chip banks (table ARC-8). -/
def inBanks (a : Nat) : Bool := decide (0x001000000000 ≤ a ∧ a < 0x001010000000)

/-- Whether an address lies in the control register windows (table ARC-8). -/
def inRegs (a : Nat) : Bool := decide (0x003000000000 ≤ a ∧ a < 0x003017000000)

/-- Whether an address is memory. -/
def inMem (a : Nat) : Bool := inHbm a || inBanks a

/-- Whether an address is mapped (R38, R40). -/
def mapped (a : Nat) : Bool := inMem a || inRegs a

/-- The unit that serves a memory address (R135, table MEM-4). -/
def memUnit (a : Nat) : Option MemUnit :=
  if inHbm a then some (.hbm (a / 512 % 16))
  else if inBanks a then some (.bank (bankAt a))
  else none

/-- The state of a bank; every bank is in FILL after device reset (R485). -/
def State.bank (s : State) (i : Nat) : BankState := Tab.getD s.banks i .fill

/-- Whether a bank is that of a rake in OFF, whose scratch nobody reaches, from the moment its domain leaves ON (R50, R490). -/
def State.bankOfOff (s : State) (i : Nat) : Bool :=
  decide (16 ≤ i ∧ i < 120) && (match Tab.find? (i - 16) s.rakes with | some r => r.st == .off | none => false)

/-- Whether a unit accepts accesses: a controller in RUN (R139), a bank in ON (R134). -/
def State.unitReady (s : State) : MemUnit → Bool
  | .hbm n => (s.mc n).st == .run
  | .bank i => s.bank i == .on && !s.bankOfOff i

/-- Whether a word of a bank stands in an area that its own unit keeps data in, in a form that the spec does not give: a pan's bank
while it has a programme (table PAN-2), a sluice's while it has a stream (R233), a compositor's band staging and context store while
it has an output (table CMP-3). What such a word reads as, when no requester has written it, is a free value (log entry 109). -/
def State.unitHolds (s : State) (u : MemUnit) (a : Nat) : Bool :=
  match u with
  | .hbm _ => false
  | .bank i =>
    if i < 16 then s.pgms.any (fun (p : Nat × Pgm) => p.1 / 4 == i && p.2.st != .idle)
    else if 120 ≤ i ∧ i < 124 then s.slus.any (fun (p : (Nat × Nat) × SluCtx) => p.1.1 == i - 120 && p.2.st != .closed)
    else if 124 ≤ i ∧ i < 132 then
      decide (bankBase i + 0x180000 ≤ a) && s.cmps.any (fun (p : (Nat × Nat) × CmpOut) => p.1.1 == i - 124)
    else false

/-- The event source of a unit. -/
def MemUnit.src : MemUnit → Nat
  | .hbm n => Src.mc n
  | .bank i => Src.bank i

/-- The index of a word within its unit's registers (tables MEM-15, MEM-21). -/
def wordIndex (a : Nat) : Nat := if inHbm a then a / 32 else (a - 0x001000000000) / 32

/-- The register fields of a unit's error bucket and injection unit, and its instance. -/
structure UnitRegs where
  inst : Nat
  leak : Fld
  thresh : Fld
  ovf : Fld
  count : Fld
  h1 : Fld
  h0 : Fld
  word : Fld
  injWord : Fld
  arm : Fld
  symB : Fld
  maskB : Fld
  symA : Fld
  maskA : Fld
  evUnc : Nat
  evOvf : Nat

/-- The fields of a controller's registers, or a bank's. -/
def MemUnit.regs : MemUnit → UnitRegs
  | .hbm n => ⟨n, F.MC_ECC_CFG_LEAK, F.MC_ECC_CFG_THRESH, F.MC_ECC_BKT_OVF, F.MC_ECC_BKT_COUNT, F.MC_ECC_WORD_H1,
      F.MC_ECC_WORD_H0, F.MC_ECC_WORD_WORD, F.MC_INJ_WORD_WORD, F.MC_INJ_ARM, F.MC_INJ_SYM_B, F.MC_INJ_MASK_B,
      F.MC_INJ_SYM_A, F.MC_INJ_MASK_A, 0x0800, 0x0801⟩
  | .bank i => ⟨i, F.BNK_ECC_CFG_LEAK, F.BNK_ECC_CFG_THRESH, F.BNK_ECC_BKT_OVF, F.BNK_ECC_BKT_COUNT,
      F.BNK_ECC_WORD_H1, F.BNK_ECC_WORD_H0, F.BNK_ECC_WORD_WORD, F.BNK_INJ_WORD_WORD, F.BNK_INJ_ARM, F.BNK_INJ_SYM_B,
      F.BNK_INJ_MASK_B, F.BNK_INJ_SYM_A, F.BNK_INJ_MASK_A, 0x0700, 0x0701⟩

/-! ### Counted accesses (table PMU-4) -/

/-- An access of an HBM controller counts. -/
def State.countMc (s : State) (u : MemUnit) (ev : Nat) : State :=
  match u with
  | .hbm n => s.pmuAdd pmuGlobal ev [n] 1 0
  | .bank _ => s

/-- A corrected read counts: a controller's, or that of a rake's own bank (tables PMU-2, PMU-4). -/
def State.countCorr (s : State) (u : MemUnit) (req : Nat) : State :=
  match u with
  | .hbm n => s.pmuAdd pmuGlobal 0x012 [n] 1 0
  | .bank i => if req = Src.rake (i - 16) ∧ 16 ≤ i then s.pmuAdd (i - 16) 0x00E [] 1 0 else s

/-! ### Reads -/

/-- A corrected read counts in its unit's bucket, or overflows it (R124, R126). -/
def State.countCorrected (s : State) (u : MemUnit) (a : Nat) (h0 h1 : Bool) : State :=
  let r := u.regs
  let note (s : State) : State :=
    ((s.fset r.h1 r.inst 0 (b2n h1)).fset r.h0 r.inst 0 (b2n h0)).fset r.word r.inst 0 (wordIndex a)
  let count := s.fget r.count r.inst 0
  let was := s.flag r.ovf r.inst 0
  let s := if was then s else note s
  if count = s.fget r.thresh r.inst 0 then
    let s := s.fset r.ovf r.inst 0 1
    if was then s else s.post u.src r.evOvf [.u 4 (wordIndex a), .u 2 count]
  else s.fset r.count r.inst 0 (count + 1)

/-- A requester whose access reaches no running unit: the fabric reports an address error of kind 2 outside HBM and
the banks (R40), of kind 4 for a unit that is not ready (R134, R139). -/
def State.memError (s : State) (req a : Nat) : State :=
  s.accessError req a (if inMem a then 4 else 2)

/-- Read the word at a word address (R117 to R122, R124): its outcome, and the state after bucket and events. `acc` is the
address that the requester accessed, which an access error names (R40): the word's, unless the access begins within it. A word
of the register windows is no naturally aligned 32-bit access: it completes without effect and returns 0 (R10). -/
def State.memRead (s : State) (req a : Nat) (acc : Nat := a) : RdRes × State :=
  match memUnit a with
  | none => if inRegs a then (.ok 0, s.accessError req acc 0) else (.addrErr, s.memError req acc)
  | some u =>
    if s.unitReady u then
      let s := s.countMc u 0x010
      match decodeWord (readCode s.mem a) with
      | .clean d => (.ok d, s)
      | .corrected d h0 h1 => (.ok d, (s.countCorrected u a h0 h1).countCorr u req)
      | .poisoned => if s.unitHolds u a then (.ok (s.free 256), s.drawn) else (.poison false, s.countMc u 0x015)
      | .uncorrectable s0 s1 =>
        (.poison true, (s.countMc u 0x015).post u.src u.regs.evUnc [.u 4 (wordIndex a), .u 2 s0.toNat, .u 2 s1.toNat])
    else (.addrErr, s.memError req acc)

/-! ### Writes -/

/-- Store a whole word of data as a code word, with an armed injection (R116, R143). -/
def State.storeWord (s : State) (u : MemUnit) (a : Nat) (cw : BitVec 288) : State :=
  let r := u.regs
  if s.flag r.arm r.inst 0 ∧ s.fget r.injWord r.inst 0 = wordIndex a then
    let cw := injectWord cw (s.fget r.symA r.inst 0) (BitVec.ofNat 4 (s.fget r.maskA r.inst 0))
      (s.fget r.symB r.inst 0) (BitVec.ofNat 4 (s.fget r.maskB r.inst 0))
    ({ s with mem := writeCode s.mem a cw }).fset r.arm r.inst 0 0
  else { s with mem := writeCode s.mem a cw }

/-- Whether an address lies in a rake's instruction store, which only an image load writes (R50). -/
def inIstore (a : Nat) : Bool :=
  decide (0x001008000000 ≤ a ∧ a < 0x00100B400000 ∧ a % 0x80000 < 0x10000)

/-- Whether a unit refuses the writes of a requester because an image is in the boot banks (R432): PAN0's bank and RAKE0's
bank, for everyone but the security controller. -/
def State.bootLocked (s : State) (req : Nat) (u : MemUnit) : Bool :=
  s.sec.bankLock && req != Src.security && (u == .bank 0 || u == .bank 16)

/-- The error of a write that its unit refuses: kind 3 for an instruction store (R50), and kind 4, target not ready, for a
boot bank under R432 (log entry 20). `none` when the unit takes it. -/
def State.writeRefused (s : State) (req a : Nat) (u : MemUnit) : Option Nat :=
  if !s.unitReady u then some 4
  else if inIstore a then some 3
  else if s.bootLocked req u then some 4
  else none

/-- Write a whole word (R116, R143); `acc` as in `State.memRead`. -/
def State.memWrite (s : State) (req a : Nat) (d : W256) (acc : Nat := a) : WrRes × State :=
  match memUnit a with
  | none => if inRegs a then (.ok, s.accessError req acc 0) else (.addrErr, s.memError req acc)
  | some u =>
    match s.writeRefused req a u with
    | some kind => (.addrErr, s.accessError req acc kind)
    | none => (.ok, (s.storeWord u a (encodeWord d)).countMc u 0x011)

/-- The 256-bit mask of a byte mask. -/
def byteMask (m : BitVec 32) : W256 :=
  BitVec.ofNat 256 (leNat ((List.range 32).map (fun j => if m.getLsbD j then 0xFF#8 else 0#8)))

/-- Write the bytes of a word that a mask names, as a read, a merge and a write (R123). An injection never affects it
(R143). -/
def State.memWritePart (s : State) (req a : Nat) (m : BitVec 32) (d : W256) (acc : Nat := a) : WrRes × State :=
  match memUnit a with
  | none => if inRegs a then (.ok, s.accessError req acc 0) else (.addrErr, s.memError req acc)
  | some u =>
    match s.writeRefused req a u with
    | some kind => (.addrErr, s.accessError req acc kind)
    | none =>
      match (s.countMc u 0x011).memRead req a acc with
      | (.ok old, s) =>
        let merged := (old &&& ~~~(byteMask m)) ||| (d &&& byteMask m)
        (.ok, { s with mem := writeCode s.mem a (encodeWord merged) })
      | (.poison unc, s) => (.poison unc, { s with mem := writeCode s.mem a poisonWord })
      | (.addrErr, s) => (.addrErr, s)

/-- Write the bytes of a word that a mask names; a full mask is a whole-word write. -/
def State.memWriteMask (s : State) (req a : Nat) (m : BitVec 32) (d : W256) (acc : Nat := a) : WrRes × State :=
  if m = 0xFFFFFFFF#32 then s.memWrite req a d acc else s.memWritePart req a m d acc

/-! ### Ranges -/

/-- How the read of a range ends: the bytes, or the address of the first word that failed. -/
inductive RdBytes where
  | ok (b : List Byte)
  | poison (addr : Nat)
  | addrErr (addr : Nat)
  deriving DecidableEq, Repr

/-- How the write of a range ends: done, or the first error and the address of its word. -/
inductive WrBytes where
  | ok
  | poison (addr : Nat)
  | addrErr (addr : Nat)
  deriving DecidableEq, Repr

/-- The words a range of n bytes at a touches, lowest first. -/
def wordsOf (a n : Nat) : List Nat :=
  if n = 0 then [] else (List.range ((a + n - 1) / 32 - a / 32 + 1)).map (fun i => (a / 32 + i) * 32)

/-- Read whole words in order, up to the first that fails, in an access that begins at `start`. -/
def State.readWords (s : State) (req start : Nat) : List Nat → List Byte → RdBytes × State
  | [], acc => (.ok acc, s)
  | a :: t, acc =>
    let (r, s) := s.memRead req a (max a start)
    match r with
    | .ok d => State.readWords s req start t (acc ++ leBytes 32 d.toNat)
    | .poison _ => (.poison a, s)
    | .addrErr => (.addrErr a, s)

/-- Read n bytes at address a. -/
def State.readRange (s : State) (req a n : Nat) : RdBytes × State :=
  match s.readWords req a (wordsOf a n) [] with
  | (.ok b, s) => (.ok ((b.drop (a % 32)).take n), s)
  | r => r

/-- The byte mask of the bytes of the word at w that lie in [a, a + n). -/
def rangeMask (w a n : Nat) : BitVec 32 :=
  BitVec.ofNat 32 ((List.range 32).foldl (fun m j => if a ≤ w + j ∧ w + j < a + n then m + 2 ^ j else m) 0)

/-- The data of the word at w out of bytes laid from address a. -/
def rangeData (w a : Nat) (b : List Byte) : W256 :=
  BitVec.ofNat 256 (leNat ((List.range 32).map (fun j => if a ≤ w + j then b.getD (w + j - a) 0 else 0)))

/-- Write bytes laid from address a, word by word in order; later words are written whatever became of an earlier
one, and the first error is reported. -/
def State.writeWords (s : State) (req a : Nat) (b : List Byte) : List Nat → WrBytes → WrBytes × State
  | [], acc => (acc, s)
  | w :: t, acc =>
    let (r, s) := s.memWriteMask req w (rangeMask w a b.length) (rangeData w a b) (max w a)
    let acc := match acc, r with
      | .ok, .poison _ => .poison w
      | .ok, .addrErr => .addrErr w
      | x, _ => x
    State.writeWords s req a b t acc

/-- Write bytes at address a. -/
def State.writeRange (s : State) (req a : Nat) (b : List Byte) : WrBytes × State :=
  s.writeWords req a b (wordsOf a b.length) .ok

end Sys2Proof.Machine
end

