-- ==== Sys2Proof/Machine/TallyOps.lean ====
section
/-! DEFINITION. The tally's operations (chapter 3): slots, ready lists, tokens, arms, cancels, delay lists, flows. -/

namespace Sys2Proof.Machine

/-! ### Descriptor and target fields (tables TLY-1, TLY-2) -/

/-- ENTRY, bits [15:2] of the entry address. -/
def descEntry (d : W64) : Nat := bitsOf d 13 0
/-- TENTRY. -/
def descTentry (d : W64) : Nat := bitsOf d 27 14
/-- NOPS, the operands awaited. -/
def descNops (d : W64) : Nat := bitsOf d 30 28
/-- REPL. -/
def descRepl (d : W64) : Bool := bitOf d 31
/-- PRIO. -/
def descPrio (d : W64) : Nat := bitsOf d 35 32
/-- PIN. -/
def descPin (d : W64) : Bool := bitOf d 36
/-- POS. -/
def descPos (d : W64) : Nat := bitsOf d 43 37
/-- INFLOW. -/
def descInflow (d : W64) : Bool := bitOf d 44
/-- FLOW. -/
def descFlow (d : W64) : Nat := bitsOf d 54 45
/-- GEN. -/
def descGen (d : W64) : Nat := bitsOf d 63 56

/-- Whether a slot descriptor has a legal format (R92). -/
def descOk (d : W64) : Bool :=
  decide (descNops d ≤ 4) && !bitOf d 55 && !(descPin d && decide (95 < descPos d))

/-- SLOT of a target or destination. -/
def tgtSlot (t : W64) : Nat := bitsOf t 13 0
/-- PORT of a destination. -/
def tgtPort (t : W64) : Nat := bitsOf t 16 14
/-- GEN of a destination or cancel target. -/
def tgtGen (t : W64) : Nat := bitsOf t 31 24

/-- A legal destination of TDELAY: as for a completion token, with port 4 allowed (table TLY-1). -/
def delayDestOk (d : W64) : Bool :=
  decide (bitsOf d 16 14 ≤ 4 ∧ bitsOf d 23 17 = 0 ∧ bitsOf d 63 32 = 0)

/-- A legal cancel target (table TLY-1). -/
def cancelOk (t : W64) : Bool := decide (bitsOf t 23 14 = 0 ∧ bitsOf t 63 32 = 0)

/-- A legal arm target (table TLY-1). -/
def armTargetOk (t : W64) : Bool := decide (bitsOf t 63 14 = 0)

/-- A legal delay operand (R93). -/
def delayOk (d : W64) : Bool := decide (bitsOf d 19 0 ≠ 0 ∧ bitsOf d 63 22 = 0)

/-! ### Slots, flows -/

/-- A task slot. -/
def State.slot (s : State) (n : Nat) : Slot := Tab.getD s.tally.slots n {}

/-- The state with a slot changed. -/
def State.setSlot (s : State) (n : Nat) (x : Slot) : State :=
  { s with tally := { s.tally with slots := Tab.set s.tally.slots n x } }

/-- A flow. -/
def State.flow (s : State) (f : Nat) : Flow := Tab.getD s.tally.flows f {}

/-- The state with a flow changed. -/
def State.setFlow (s : State) (f : Nat) (x : Flow) : State :=
  { s with tally := { s.tally with flows := Tab.set s.tally.flows f x } }

/-- The ready list of a level, head first. -/
def State.readyList (s : State) (lvl : Nat) : List Nat := Tab.getD s.tally.ready lvl []

/-- The state with a ready list changed. -/
def State.setReady (s : State) (lvl : Nat) (l : List Nat) : State :=
  { s with tally := { s.tally with ready := Tab.set s.tally.ready lvl l } }

/-- A delay list, in the order its entries take effect. -/
def State.delayList (s : State) (l : Nat) : List Delayed := Tab.getD s.tally.delays l []

/-- The state with a delay list changed. -/
def State.setDelay (s : State) (l : Nat) (x : List Delayed) : State :=
  { s with tally := { s.tally with delays := Tab.set s.tally.delays l x } }

/-- The state with the pending timeout of a slot and generation off its delay list (R101, R102). -/
def State.dropTimeout (s : State) (n gen : Nat) : State :=
  let keep (d : Delayed) : Bool := !(tgtPort d.dest == 4 && tgtSlot d.dest == n && tgtGen d.dest == gen)
  { s with tally := { s.tally with delays := s.tally.delays.map (fun p => (p.1, p.2.filter keep)) } }

/-- A flow is enabled. -/
def State.flowOn (s : State) (f : Nat) : Bool := s.flag F.TLY_FLOW_CFG_EN 0 f

/-- Whether a slot is inside its flow window, or in no flow (R98, R108). -/
def State.inWindow (s : State) (x : Slot) : Bool :=
  !descInflow x.desc ||
    decide ((x.flowPos - (s.flow (descFlow x.desc)).rel).toNat < s.fget F.TLY_FLOW_CFG_WINDOW 0 (descFlow x.desc))

/-- Whether every awaited port of a slot is filled. -/
def Slot.complete (x : Slot) : Bool :=
  (List.range (descNops x.desc)).all (fun i => (x.ports.toList.getD i none).isSome)

/-- A WAIT slot becomes READY when its awaited ports are filled, or its timeout was taken, inside its flow window; it
joins the tail of its level, and its pending timeout leaves the delay list (R98, R101, R102, R104). -/
def State.checkReady (s : State) (n : Nat) : State :=
  let x := s.slot n
  if x.st = .wait ∧ (x.complete ∨ x.timedOut) ∧ s.inWindow x then
    let s := s.setSlot n { x with st := .ready }
    let s := s.setReady (descPrio x.desc) (s.readyList (descPrio x.desc) ++ [n])
    s.dropTimeout n (descGen x.desc)
  else s

/-- The WAIT slots of a flow that are now inside its window become READY, in ascending slot order (R104). -/
def State.checkFlow (s : State) (f : Nat) : State :=
  let members := (s.tally.slots.filter (fun p => p.2.st == .wait && descInflow p.2.desc && descFlow p.2.desc == f)).map
    (fun p => p.1)
  (members.mergeSort (fun a b => a ≤ b)).foldl State.checkReady s

/-- What became of a flow member (R109, R111): it awaits its turn. -/
def State.setFate (s : State) (x : Slot) (fate : FlowFate) : State :=
  if descInflow x.desc then
    let f := s.flow (descFlow x.desc)
    s.setFlow (descFlow x.desc) { f with fates := Tab.set f.fates x.flowPos fate }
  else s

/-- A slot becomes FREE: it leaves its ready list and its pending timeout is gone (R102). -/
def State.freeSlot (s : State) (n : Nat) : State :=
  let x := s.slot n
  let s := s.setReady (descPrio x.desc) ((s.readyList (descPrio x.desc)).filter (· ≠ n))
  (s.dropTimeout n (descGen x.desc)).setSlot n {}

/-- A task ends without commit: its slot becomes FREE, task-failed is posted, and its flow position will be
skipped (table TLY-3, R111, R112). -/
def State.taskFailed (s : State) (n cause : Nat) : State :=
  let x := s.slot n
  let pos := if x.st = .run then x.pos else descPos x.desc
  let s := s.post Src.tally 0x0504 [.u 2 n, .u 1 cause, .u 1 pos, .u 1 x.replay]
  (s.setFate x (.skip n)).freeSlot n

/-- A task in RUN ends in a rake fault (table TLY-3, R83): a class P fault fails it; a class M fault replays a replayable
task at the head of its level, up to REPLAY 2, and otherwise fails it with cause 0x31. -/
def State.taskFault (s : State) (n cause : Nat) : State :=
  let x := s.slot n
  if 0x20 ≤ cause then
    if descRepl x.desc ∧ x.replay < 2 then
      let s := s.setSlot n { x with st := .ready, replay := x.replay + 1 }
      s.setReady (descPrio x.desc) (n :: s.readyList (descPrio x.desc))
    else s.taskFailed n 0x31
  else s.taskFailed n cause

/-- Every task waiting for a position that is lost ends with cause 0x30 (R88). -/
def State.failPinned (s : State) (p : Nat) : State :=
  let hit := (s.tally.slots.filter (fun q => (q.2.st == .wait || q.2.st == .ready) && descPin q.2.desc &&
    descPos q.2.desc == p)).map (fun q => q.1)
  (hit.mergeSort (fun a b => a ≤ b)).foldl (fun s n => s.taskFailed n 0x30) s

/-! ### Arrivals -/

/-- A token is dropped: its TLY_STAT bit is set and token-dropped posted (R97); case 0 stale, 1 late, 2 duplicate. -/
def State.dropToken (s : State) (dest : W64) (c : Nat) : State :=
  let f := if c = 0 then F.TLY_STAT_STALE else if c = 1 then F.TLY_STAT_LATE else F.TLY_STAT_DUP
  ((s.fset f 0 0 1).pmuAdd pmuGlobal 0x022 [] 1 0).post Src.tally 0x0501 [.u 2 (tgtSlot dest), .u 1 (tgtPort dest), .u 1 c]

/-- A token for ports 0 to 3 reaches the tally (R97, R98). -/
def State.tokenArrives (s : State) (dest value : W64) : State :=
  let n := tgtSlot dest
  let p := tgtPort dest
  let x := s.slot n
  if x.st = .free ∨ descGen x.desc ≠ tgtGen dest then s.dropToken dest 0
  else if x.st = .ready ∨ x.st = .run ∨ x.timedOut then s.dropToken dest 1
  else if descNops x.desc ≤ p ∨ (x.ports.toList.getD p none).isSome then s.dropToken dest 2
  else ((s.setSlot n { x with ports := x.ports.setIfInBounds p (some value) }).pmuAdd pmuGlobal 0x021 [] 1 0).checkReady n

/-- A position for which no spare existed is lost (R88). -/
def State.posLost (s : State) (p : Nat) : Bool := (Tab.find? p s.mgr.lost).isSome

/-- An arm reaches the tally (R96, R108, R516, R98). An arm of a slot that is not FREE into a flow that is not enabled is refused
with reason 0 (log entry 86). -/
def State.armArrives (s : State) (target desc : W64) : State :=
  let n := tgtSlot target
  let refuse (reason : Nat) : State :=
    (s.fset F.TLY_STAT_ARMREF 0 0 1).post Src.tally 0x0500 [.u 2 n, .u 1 reason]
  if (s.slot n).st ≠ .free then refuse 0
  else if descInflow desc ∧ ¬ s.flowOn (descFlow desc) then refuse 1
  else
    let f := s.flow (descFlow desc)
    let s := s.setSlot n { ({} : Slot) with st := .wait, desc := desc, flowPos := if descInflow desc then f.next else 0 }
    let s := if descInflow desc then
        s.setFlow (descFlow desc) { f with next := f.next + 1, fates := Tab.set f.fates f.next .held }
      else s
    if descPin desc ∧ s.posLost (descPos desc) then s.taskFailed n 0x30
    else s.checkReady n

/-- A cancel reaches the tally (R107). -/
def State.cancelArrives (s : State) (target : W64) : State :=
  let n := tgtSlot target
  let x := s.slot n
  let done (s : State) (outcome : Nat) : State :=
    s.post Src.tally 0x0503 [.u 2 n, .u 1 (tgtGen target), .u 1 outcome]
  if x.st = .free ∨ descGen x.desc ≠ tgtGen target then done s 2
  else if x.st = .run then done s 1
  else done ((s.setFate x (.skip n)).freeSlot n) 0

/-- A list with a delayed entry in its place: after every entry due no later (R100). -/
def insertDue (d : Delayed) : List Delayed → List Delayed
  | [] => [d]
  | x :: t => if x.due ≤ d.due then x :: insertDue d t else d :: x :: t

/-- A delayed entry reaches its delay list l with its due tick (R99 to R101). A timeout that matches a slot in READY or RUN, or
marked timed-out, is discarded silently; a timeout replaces the slot's earlier one, which leaves its list even where the new one
finds its own list full (log entry 87). -/
def State.delayArrives (s : State) (l due : Nat) (dest value : W64) : State :=
  let n := tgtSlot dest
  let x := s.slot n
  let isTo := tgtPort dest == 4
  if isTo ∧ descGen x.desc = tgtGen dest ∧ x.st ≠ .free ∧ (x.st ≠ .wait ∨ x.timedOut) then s
  else
    let s := if isTo then s.dropTimeout n (tgtGen dest) else s
    if (s.delayList l).length < 4096 then
      s.setDelay l (insertDue ⟨due, dest, value⟩ (s.delayList l))
    else (s.fset F.TLY_STAT_DLYFULL 0 0 1).post Src.tally 0x0502 [.u 1 l, .u 2 n, .u 1 (tgtPort dest)]

/-- A due timeout takes effect (R101): a WAIT slot of the same generation is marked timed-out; with another generation it
is dropped as stale. -/
def State.timeoutDue (s : State) (d : Delayed) : State :=
  let n := tgtSlot d.dest
  let x := s.slot n
  if x.st = .free ∨ descGen x.desc ≠ tgtGen d.dest then s.dropToken d.dest 0
  else if x.st = .wait ∧ !x.timedOut then (s.setSlot n { x with timedOut := true }).checkReady n
  else s

/-- The first entry of the delay lists, list 0 first, that is due in the tick in progress and of the kind asked for. -/
def State.firstDue (s : State) (timeout : Bool) : Option (Nat × Delayed) :=
  (List.range 4).findSome? (fun l =>
    ((s.delayList l).find? (fun d => decide (d.due ≤ s.tally.tick) && (tgtPort d.dest == 4) == timeout)).map (fun d => (l, d)))

/-- The first due delayed token leaves its list and arrives (R100). -/
def State.takeToken (s : State) : Option State :=
  (s.firstDue false).map (fun p => (s.setDelay p.1 ((s.delayList p.1).erase p.2)).tokenArrives p.2.dest p.2.value)

/-- The first due timeout leaves its list and is taken, once no due token is left (R100). -/
def State.takeTimeout (s : State) : Option State :=
  match s.firstDue false with
  | some _ => none
  | none => (s.firstDue true).map (fun p => (s.setDelay p.1 ((s.delayList p.1).erase p.2)).timeoutDue p.2)

/-- Everything due in the tick in progress takes effect, tokens before timeouts (R100). -/
def State.takeEach : Nat → State → State
  | 0, s => s
  | n + 1, s =>
    match s.takeToken with
    | some s' => State.takeEach n s'
    | none =>
      match s.takeTimeout with
      | some s' => State.takeEach n s'
      | none => s

/-- The slots that joined a level's ready list since a state stand in ascending slot order, for they became READY in one FCLK
(R104). -/
def State.joinInOrder (old : State) (s : State) (lvl : Nat) : State :=
  let l := s.readyList lvl
  let was := old.readyList lvl
  let new := l.filter fun n => !was.contains n
  if new.length < 2 then s else s.setReady lvl (l.filter (fun n => was.contains n) ++ new.mergeSort (fun a b => a ≤ b))

/-- The last FCLK of a tick: everything due in it takes effect (R100, R104). -/
def State.takeDue (n : Nat) (s : State) : State :=
  (List.range 16).foldl (State.joinInOrder s) (State.takeEach n s)

/-! ### Flow release (R109, R111, R517) -/

/-- The release counter advances past a settled position, and the flow window with it (R109). -/
def State.advanceFlow (s : State) (f : Nat) : State :=
  let x := s.flow f
  (s.setFlow f { x with rel := x.rel + 1, fates := Tab.erase x.rel x.fates }).checkFlow f

/-- Write one entry of a flow's ring (R109, R517): the entry counts as written whatever error its write ends in. -/
def State.flowRingWrite (s : State) (f : Nat) (v : W64) : State :=
  let tgt := s.pair .TLY_FLOW_TGT_LO .TLY_FLOW_TGT_HI 0 f
  let x := s.flow f
  let base := bitsOf tgt 47 6 * 64
  let (r, s) := s.writeRange Src.tally (base + 8 * (x.entries % 2 ^ bitsOf tgt 52 48)) (leBytes 8 v.toNat)
  let s := match r with
    | .ok => s
    | .poison _ => s.post Src.tally 0x0506 [.u 2 f, .u 4 (x.entries % 2 ^ 32), .u 1 0]
    | .addrErr _ => s.post Src.tally 0x0506 [.u 2 f, .u 4 (x.entries % 2 ^ 32), .u 1 1]
  let s := s.setFlow f { s.flow f with entries := x.entries + 1 }
  s.fset F.TLY_FLOW_RING_PROD 0 f ((s.fget F.TLY_FLOW_RING_PROD 0 f + 1) % 65536)

/-- Write entries to a flow's ring while it has room; what is left over. -/
def State.flowRingAll (s : State) (f : Nat) : List W64 → List W64 × State
  | [] => ([], s)
  | v :: t =>
    let n := bitsOf (s.pair .TLY_FLOW_TGT_LO .TLY_FLOW_TGT_HI 0 f) 52 48
    if ringUsed (s.fget F.TLY_FLOW_RING_PROD 0 f) (s.fget F.TLY_FLOW_RING_CONS 0 f) < ringCap n then
      State.flowRingAll (s.flowRingWrite f v) f t
    else (v :: t, s)

/-- The release values that wait at a transmit queue, each with its flow. -/
def State.txWaiting (s : State) (port q : Nat) : List (Nat × W64) := Tab.getD s.releases (port, q) []

/-- Offer a flow's release value to a transmit queue (R109, R311). -/
def State.toTxQueue (s : State) (port q flow : Nat) (v : W64) : State :=
  { s with releases := Tab.set s.releases (port, q) (s.txWaiting port q ++ [(flow, v)]) }

end Sys2Proof.Machine
end

