-- ==== Sys2Proof/Machine/AudioOps.lean ====
section
/-! DEFINITION. The operations of the audio units (chapter 12): rate windows, marker and sample words, the capture ring,
channel-status check, playout. -/

namespace Sys2Proof.Machine

/-- A capture unit. -/
def State.audIn (s : State) (n : Nat) : AudIn := Tab.getD s.audio.ins n {}

/-- The state with a capture unit changed. -/
def State.setAudIn (s : State) (n : Nat) (x : AudIn) : State :=
  { s with audio := { s.audio with ins := Tab.set s.audio.ins n x } }

/-- Whether a unit's source is an SDI lane. -/
def State.audSdi (s : State) (n : Nat) : Bool := s.flag F.AUD_IN_CFG_SRC n 0

/-- The lane of a unit with an SDI source: lanes 0 to 3 are those of Q14, lanes 4 to 7 those of Q15 (R341). -/
def State.audLane (s : State) (n : Nat) : Nat × Nat :=
  let l := s.fget F.AUD_IN_CFG_LANE n 0
  (14 + l / 4, l % 4)

/-- Whether a unit's source reaches it: an AES3 input always does; an SDI lane does while its quad is set to SDI input and the lane
is locked (R341, R382). -/
def State.audHeard (s : State) (n : Nat) : Bool :=
  let (q, l) := s.audLane n
  !s.audSdi n || (s.fget F.LN_CFG_MODE q 0 == 4 && s.flag F.LN_LANE_STAT_LOCK q l)

/-! ### Ring words -/

/-- A marker's header (R344). -/
def audMarker (ty hdr : Nat) : W32 := BitVec.ofNat 32 (2 ^ 31 + ty * 2 ^ 24 + hdr % 2 ^ 24)

/-- The mask marker. -/
def audMaskMarker (m : W32) : List W32 := [audMarker 0x02 0, m]

/-- The block marker. -/
def audBlockMarker (r : AudRec) : List W32 :=
  [audMarker 0x01 r.blk, r.time.extractLsb' 0 32, r.time.extractLsb' 32 32]

/-- The channels that a mask selects, ascending (R343). -/
def audChannels (sdi : Bool) (m : W32) : List Nat :=
  (List.range (if sdi then 32 else 2)).filter (fun c => bitOf m c)

/-- The sample word of a channel (table AUD-1): a channel not carried is sample 0 with V = 1 (R341). -/
def audSample (f : AudFrame) (flag : Bool) (c : Nat) : W32 :=
  let w : BitVec 28 := (f.word c).getD (BitVec.ofNat 28 (2 ^ 24))
  BitVec.ofNat 32 (w.toNat + b2n f.z * 2 ^ 28 + b2n flag * 2 ^ 29)

/-- The words of a frame with the markers of its boundary; `first` when no block marker followed the enable yet (R343, R344). -/
def audWords (sdi flag first : Bool) (r : AudRec) : List W32 :=
  (if r.frame.z then audBlockMarker r ++ (if r.maskMark || first then audMaskMarker r.mask else []) else []) ++
    (audChannels sdi r.mask).map (audSample r.frame flag)

/-- The gap markers that a frame is owed, each followed by a mask marker (R344, R348). -/
def audGaps (x : AudIn) (m : W32) : List W32 :=
  (if x.lost then audMarker 0x03 (2 ^ 16) :: audMaskMarker m else []) ++
    (if x.drops = 0 then [] else audMarker 0x03 (min x.drops 0xFFFF) :: audMaskMarker m)

/-- Eight entries as a 32-byte word. -/
def audPack (l : List W32) : W256 := BitVec.ofNat 256 (l.foldr (fun w a => w.toNat + 2 ^ 32 * a) 0)

/-- Write the complete words of some entries at `PROD`; the entries left open (R348). -/
def State.audFlush (n : Nat) : Nat → List W32 → State → List W32 × State
  | 0, l, s => (l, s)
  | k + 1, l, s =>
    if l.length < 8 then (l, s)
    else
      let base := bitsOf (s.pair .AUD_IN_BASE_LO .AUD_IN_BASE_HI n 0) 47 5 * 32
      let prod := s.fget F.AUD_IN_RING_PROD n 0
      let (_, s) := s.memWrite (Src.audIn n) (base + 32 * (prod % 2 ^ s.fget F.AUD_IN_CFG_LOG2 n 0)) (audPack (l.take 8))
      State.audFlush n k (l.drop 8) (s.fset F.AUD_IN_RING_PROD n 0 ((prod + 1) % 65536))

/-- Place entries in a unit's ring. -/
def State.audPut (s : State) (n : Nat) (l : List W32) : State :=
  let all := (s.audIn n).word ++ l
  let (rest, s) := State.audFlush n (all.length / 8) all s
  s.setAudIn n { s.audIn n with word := rest }

/-- The open word is completed with filler markers (R348). -/
def State.audFill (s : State) (n : Nat) : State :=
  let k := (s.audIn n).word.length
  if k = 0 then s else s.audPut n (List.replicate (8 - k) 0xFFFFFFFF#32)

/-- One gap marker was written. -/
def State.audGapPost (s : State) (n lost : Nat) (lock : Bool) : State :=
  (s.fset F.AUD_IN_STAT_GAP n 0 1).post (Src.audIn n) 0x1203 [.u 1 n, .u 2 lost, .u 1 (b2n lock)]

/-- A classified frame is written with the markers before it, or dropped (R348). -/
def State.audWrite (n : Nat) (flag : Bool) (s : State) (r : AudRec) : State :=
  let x := s.audIn n
  let own := audWords (s.audSdi n) flag x.fresh r
  if !r.write || own.isEmpty then s
  else
    let l := audGaps x r.mask ++ own
    let used := ringUsed (s.fget F.AUD_IN_RING_PROD n 0) (s.fget F.AUD_IN_RING_CONS n 0)
    if used + ceilDiv (x.word.length + l.length) 8 ≤ ringCap (s.fget F.AUD_IN_CFG_LOG2 n 0) then
      let s := s.audPut n l
      let s := if x.lost then s.audGapPost n 0 true else s
      let s := if x.drops = 0 then s else s.audGapPost n x.drops false
      s.setAudIn n { s.audIn n with lost := false, drops := 0, fresh := x.fresh && !r.frame.z }
    else s.setAudIn n { x with drops := x.drops + 1 }

/-! ### Rate windows -/

/-- The rate code of a window of p SCLK cycles (R346). -/
def audClassify (p : Nat) : Nat :=
  let near (f : Nat) : Bool :=
    decide (((6400000000 - p * audRate f) + (p * audRate f - 6400000000)) * 200 ≤ p * audRate f)
  (([1, 2, 3, 4, 5, 6, 7].find? near)).getD 0

/-- A window is complete: it is measured and classified, transitions open and close, and its frames are written (R346,
R347). -/
def State.audWindow (s : State) (n : Nat) : State :=
  let x := s.audIn n
  let p := x.win.foldl (fun a r => a + r.frame.sclk) 0
  let code := audClassify p
  let sc := s.fget F.AUD_IN_STAT_RATE n 0
  let trans := s.flag F.AUD_IN_STAT_TRANS n 0
  let flag := trans || code != sc
  let ends := trans && x.prev == some code
  let s := s.fset F.AUD_IN_STAT_PERIOD n 0 (min p 0x7FFFFF)
  let s := s.fset F.AUD_IN_STAT_TRANS n 0 (b2n (flag && !ends))
  let s := if ends && code != sc then
      ((s.fset F.AUD_IN_STAT_RATE n 0 code).fset F.AUD_IN_STAT_RATECHG n 0 1).post (Src.audIn n) 0x1200
        [.u 1 n, .u 1 sc, .u 1 code, .u 4 p]
    else s
  let s := x.win.foldl (State.audWrite n flag) s
  s.setAudIn n { s.audIn n with win := [], prev := some code }

/-! ### Channel status -/

/-- One bit of the CRCC of IEC 60958 professional channel status. -/
def crccBit (c : BitVec 8) (b : Bool) : BitVec 8 :=
  if c.getLsbD 0 != b then (c >>> 1) ^^^ 0xB8#8 else c >>> 1

/-- Whether a block of 192 C bits is professional and its CRCC does not match (R349). -/
def crccBad (l : List Bool) : Bool :=
  l.headD false && (List.range 8).any (fun i => ((l.take 184).foldl crccBit 0xFF#8).getLsbD i != l.getD (184 + i) false)

/-- The C bit of a channel joins its block; a complete block is checked. -/
def State.audCs (n : Nat) (r : AudRec) (s : State) (c : Nat) : State :=
  let x := s.audIn n
  match r.frame.word c with
  | none => s.setAudIn n { x with cs := Tab.erase c x.cs }
  | some w =>
    let l := if r.frame.z then [bitOf w 26] else bitOf w 26 :: Tab.getD x.cs c []
    let s := s.setAudIn n { x with cs := Tab.set x.cs c l }
    if l.length = 192 && crccBad l.reverse then
      (s.fset F.AUD_IN_STAT_CSERR n 0 1).post (Src.audIn n) 0x1202 [.u 1 n, .u 1 c, .u 4 (r.blk % 2 ^ 24)]
    else s

/-! ### Capture -/

/-- What a locked unit keeps of a frame as it arrives: block count, time, the mask in force, which a pending one
replaces at a boundary (R342, R344, R345). -/
def State.audArrive (s : State) (n : Nat) (f : AudFrame) : AudRec × State :=
  let x := s.audIn n
  if f.z && s.flag F.AUD_IN_CFG_EN n 0 then
    let m := x.pend.getD x.mask
    let r : AudRec := ⟨f, true, x.blocks, s.now, m, m != x.mask⟩
    (r, (s.setAudIn n { x with mask := m, pend := none, writing := true, blocks := x.blocks + 1 }).fset
      F.AUD_IN_STAT_PEND n 0 0)
  else (⟨f, x.writing, x.blocks - 1, s.now, x.mask, false⟩, s)

/-- A frame of a locked source (R342 to R349). -/
def State.audLocked (s : State) (n : Nat) (f : AudFrame) : State :=
  let (r, s) := s.audArrive n f
  let s := if r.write && !s.audSdi n then [0, 1].foldl (State.audCs n r) s else s
  let win := (s.audIn n).win ++ [r]
  let s := s.setAudIn n { s.audIn n with win := win }
  if win.length = 64 then s.audWindow n else s

/-- Whether a unit sees a subframe violate the biphase code, which only AES3 has (R342). -/
def State.audViol (s : State) (n : Nat) (x : AudSub) : Bool := x.viol && !s.audSdi n

/-- The length of the run of violating subframes with those of a frame; it stops at 3 (R342). -/
def State.audRun (s : State) (n : Nat) (f : AudFrame) : Nat :=
  f.subs.foldl (fun k x => if k = 3 then 3 else if s.audViol n x then k + 1 else 0) (s.audIn n).viols

/-- A frame before the lock: the eighth valid one in a row locks (R342). -/
def State.audUnlocked (s : State) (n : Nat) (f : AudFrame) : State :=
  let v := if f.valid && !f.subs.any (s.audViol n) then (s.audIn n).valid + 1 else 0
  if v = 8 then
    ((s.setAudIn n { s.audIn n with valid := 0, viols := 0, win := [], prev := none }).fset F.AUD_IN_STAT_LOCK n 0 1).post
      (Src.audIn n) 0x1201 [.u 1 n, .u 1 1]
  else s.setAudIn n { s.audIn n with valid := v }

/-- Capture stops at a loss of lock or a disable: the frames not yet classified are not written, and the open word is
completed (R347, R348). -/
def State.audStop (s : State) (n : Nat) (lost : Bool) : State :=
  let s := s.audFill n
  s.setAudIn n { s.audIn n with win := (s.audIn n).win.map (fun r => { r with write := false }), writing := false, lost := lost, cs := [] }

/-- The source loses lock (R342). -/
def State.audLoss (s : State) (n : Nat) : State :=
  let s := if s.flag F.AUD_IN_CFG_EN n 0 then s.audStop n true else s
  let s := s.setAudIn n { s.audIn n with valid := 0, viols := 0, win := [], prev := none, cs := [] }
  (s.fset F.AUD_IN_STAT_LOCK n 0 0).post (Src.audIn n) 0x1201 [.u 1 n, .u 1 0]

/-- A frame of a locked source: the third violating subframe in a row loses the lock (R342). -/
def State.audFrame (s : State) (n : Nat) (f : AudFrame) : State :=
  let k := s.audRun n f
  if k = 3 then s.audLoss n else (s.setAudIn n { s.audIn n with viols := k }).audLocked n f

/-- A write of `AUD_IN_CFG` (table AUD-4): `LOG2`, `LANE` and `SRC` change only while `EN` = 0, and an enable with a ring size
outside 2^4 to 2^16 has no effect. -/
def State.audCfgWrite (s : State) (n : Nat) (val : W32) : State :=
  if s.flag F.AUD_IN_CFG_EN n 0 then
    if bitOf val 0 then s
    else
      let s := (s.audStop n false).fset F.AUD_IN_CFG_EN n 0 0
      (s.setAudIn n { s.audIn n with pend := none, drops := 0 }).fset F.AUD_IN_STAT_PEND n 0 0
  else if bitOf val 0 && !decide (4 ≤ bitsOf val 12 8 ∧ bitsOf val 12 8 ≤ 16) then s
  else
    let s := s.wrReg .AUD_IN_CFG n 0 val
    if bitOf val 0 then
      let s := s.setReg .AUD_IN_RING n 0 0
      s.setAudIn n { s.audIn n with mask := s.reg .AUD_IN_MASK n 0, pend := none, writing := false, blocks := 0, fresh := true,
                                    word := [], drops := 0, lost := false, cs := [] }
    else s

/-- A write of `AUD_IN_MASK` (R345). -/
def State.audMaskWrite (s : State) (n : Nat) (val : W32) : State :=
  let s := s.setReg .AUD_IN_MASK n 0 val
  if s.flag F.AUD_IN_CFG_EN n 0 then
    (s.setAudIn n { s.audIn n with pend := some val }).fset F.AUD_IN_STAT_PEND n 0 1
  else s

/-! ### Playout -/

/-- A write of `AUD_OUT_CFG` (R350, R352): an enable with `RATE` 0 has no effect, and `RATE` does not change while `EN` = 1. -/
def State.outCfgWrite (s : State) (n : Nat) (val : W32) : State :=
  let i := 16 + n
  if s.flag F.AUD_OUT_CFG_EN i 0 then s.wrReg .AUD_OUT_CFG i 0 (s.keepField F.AUD_OUT_CFG_RATE i 0 val)
  else if bitOf val 0 && bitsOf val 18 16 == 0 then s
  else
    let s := s.wrReg .AUD_OUT_CFG i 0 val
    if bitOf val 0 then
      let s := (s.fset F.AUD_OUT_RING_CONS i 0 0).setReg .AUD_OUT_STAT i 0 0
      let s := s.setAudOut n {}
      let k := s.outNext n
      if k = 0 then s else (s.outGoTo n k false).post (Src.audOut n) 0x1206 [.u 1 n, .u 1 0, .u 4 k]
    else s

/-- A write of `AUD_OUT_RING`: a `PROD` that lay behind `CONS` stays behind it until it has moved as far as it lay behind (R17,
R351). -/
def State.outRingWrite (s : State) (n : Nat) (val : W32) : State :=
  let i := 16 + n
  let x := s.audOut n
  let prod := s.fget F.AUD_OUT_RING_PROD i 0
  let behind := ringUsed (s.fget F.AUD_OUT_RING_CONS i 0) prod
  let s := s.wrReg .AUD_OUT_RING i 0 val
  if x.late && decide (behind ≤ ringUsed (s.fget F.AUD_OUT_RING_PROD i 0) prod) then s.setAudOut n { x with late := false } else s

/-- The word of frames 4g to 4g + 3, the one at `CONS`: `none` when `PROD` has not passed it or it reads as poison (R351). -/
def State.outWord (s : State) (n g : Nat) : Option W256 × State :=
  let i := 16 + n
  let log2 := s.fget F.AUD_OUT_CFG_LOG2 i 0
  let ahead := ringUsed (s.fget F.AUD_OUT_RING_PROD i 0) (g % 65536)
  if ¬ (s.audOut n).late ∧ 0 < ahead ∧ ahead ≤ ringCap log2 then
    let a := bitsOf (s.pair .AUD_OUT_BASE_LO .AUD_OUT_BASE_HI i 0) 47 5 * 32 + 32 * (g % 2 ^ log2)
    match s.memRead (Src.audOut n) a with
    | (.ok d, s) => (some d, s)
    | (_, s) => (none, s.post (Src.audOut n) 0x1205 [.u 1 n, .u 6 a])
  else (none, s)

/-- Even parity over a subframe's bits [30:4]: the P bit (IEC 60958). -/
def audParity (w : BitVec 27) : BitVec 28 :=
  BitVec.ofBool ((List.range 27).foldl (fun p i => p != w.getLsbD i) false) ++ w

/-- The subframe of ring entry e of a word. -/
def audEntry (d : W256) (e : Nat) : BitVec 28 := audParity (d.extractLsb' (32 * e) 27)

/-- Silence: sample 0, V = 1, U = C = 0 (R351). -/
def audSilence : BitVec 28 := audParity (BitVec.ofNat 27 (2 ^ 24))

/-- Frame k of a playout unit is sent (R350, R351). -/
def State.outFrame (s : State) (n : Nat) : State :=
  let i := 16 + n
  let x := s.audOut n
  let k := x.k
  let cached : Option (Option W256) := match x.word with
    | some (g, d) => if g = k / 4 then some d else none
    | none => none
  let (d, s) := match cached with
    | some d => (d, s)
    | none => s.outWord n (k / 4)
  let frame : AudSent := match d with
    | some d => ⟨n, k, k % 192 == 0, audEntry d (2 * k % 8), audEntry d (2 * k % 8 + 1), x.low⟩
    | none => ⟨n, k, k % 192 == 0, audSilence, audSilence, x.low⟩
  let s : State := { s with audio := { s.audio with sent := s.audio.sent ++ [frame] } }
  let s := if d.isSome then s else
    let s := s.fset F.AUD_OUT_STAT_UNDER i 0 (min (s.fget F.AUD_OUT_STAT_UNDER i 0 + 1) 0xFFFFFFFF)
    if x.silent then s else s.post (Src.audOut n) 0x1204 [.u 1 n, .u 4 (k % 2 ^ 32)]
  (s.setAudOut n { s.audOut n with word := some (k / 4, d), low := 0 }).outGoTo n (k + 1) d.isNone

end Sys2Proof.Machine
end

