-- ==== Sys2Proof/Machine/Audio.lean ====
section
/-! DEFINITION. The commands of the audio ports (chapter 12). -/

namespace Sys2Proof.Machine

/-- AUDIO_FRAME: a capture unit receives one sample frame from its source, if the source reaches it (R341, R342). -/
def execAudioFrame (n : Nat) (f : AudFrame) (s : State) : Res :=
  s.need (decide (n < 16)) "capture unit" fun s =>
    if ¬ s.audHeard n then s
    else if s.flag F.AUD_IN_STAT_LOCK n 0 then s.audFrame n f
    else s.audUnlocked n f

/-- AUDIO_LOCK_LOSS: no valid preamble within 3 frame periods, or 3 biphase violations in a row (R342). -/
def execAudioLockLoss (n : Nat) (s : State) : Res :=
  s.need (decide (n < 16)) "capture unit" fun s =>
    if s.flag F.AUD_IN_STAT_LOCK n 0 then s.audLoss n else s

/-- CAPTURE_ENABLE: a write of `AUD_IN_CFG` with `EN` = 1. -/
def execCaptureEnable (_req n : Nat) (val : BitVec 32) (s : State) : Res :=
  s.need (decide (n < 16)) "capture unit" fun s => if bitOf val 0 then s.audCfgWrite n val else s

/-- CAPTURE_DISABLE: a write of `AUD_IN_CFG` with `EN` = 0 (R348). -/
def execCaptureDisable (_req n : Nat) (val : BitVec 32) (s : State) : Res :=
  s.need (decide (n < 16)) "capture unit" fun s => if bitOf val 0 then s else s.audCfgWrite n val

/-- MASK_WRITE: a write of `AUD_IN_MASK` (R345). -/
def execMaskWrite (_req n : Nat) (val : BitVec 32) (s : State) : Res :=
  s.need (decide (n < 16)) "capture unit" fun s => s.audMaskWrite n val

/-- PLAYOUT_ENABLE: a write of `AUD_OUT_CFG` (R350, R352). -/
def execPlayoutEnable (_req n : Nat) (val : BitVec 32) (s : State) : Res :=
  s.need (decide (n < 16)) "playout unit" fun s => s.outCfgWrite n val

/-- PLAYOUT_FRAME: frame k starts at the first tick at or after its time (R350). -/
def execPlayoutFrame (n : Nat) (s : State) : Res :=
  s.need (decide (n < 16)) "playout unit" fun s =>
    if s.flag F.AUD_OUT_CFG_EN (16 + n) 0 ∧ s.outTime n (s.audOut n).k ≤ s.nowNs then s.outFrame n else s

end Sys2Proof.Machine
end

