-- ==== Sys2Proof/Machine/Crc.lean ====
section
/-! DEFINITION. The CRCs that the part computes (table INT-6): over bytes, lowest address first. -/

namespace Sys2Proof.Machine

/-- A CRC: its polynomial, whether input and output are reflected, its initial value, its final exclusive-or. -/
structure CrcSpec (w : Nat) where
  poly : BitVec w
  reflected : Bool
  init : BitVec w
  xorOut : BitVec w

/-- One bit of a CRC that shifts left. -/
def crcBitL {w : Nat} (poly c : BitVec w) : BitVec w := if c.msb then (c <<< 1) ^^^ poly else c <<< 1

/-- One bit of a CRC that shifts right; `poly` is the reversed polynomial. -/
def crcBitR {w : Nat} (poly c : BitVec w) : BitVec w := if c.getLsbD 0 then (c >>> 1) ^^^ poly else c >>> 1

/-- Apply a step eight times. -/
def eight {w : Nat} (f : BitVec w → BitVec w) (c : BitVec w) : BitVec w := f (f (f (f (f (f (f (f c)))))))

/-- One byte of a CRC. -/
def crcByte {w : Nat} (k : CrcSpec w) (c : BitVec w) (b : Byte) : BitVec w :=
  if k.reflected then eight (crcBitR k.poly.reverse) (c ^^^ b.zeroExtend w)
  else eight (crcBitL k.poly) (c ^^^ (b.zeroExtend w <<< (w - 8)))

/-- A running CRC over bytes, before the final exclusive-or. -/
def crcRun {w : Nat} (k : CrcSpec w) (c : BitVec w) (l : List Byte) : BitVec w := l.foldl (crcByte k) c

/-- The CRC of bytes. -/
def crc {w : Nat} (k : CrcSpec w) (l : List Byte) : BitVec w := crcRun k k.init l ^^^ k.xorOut

def crc32c : CrcSpec 32 := ⟨0x1EDC6F41#32, true, 0xFFFFFFFF#32, 0xFFFFFFFF#32⟩
def crc32 : CrcSpec 32 := ⟨0x04C11DB7#32, true, 0xFFFFFFFF#32, 0xFFFFFFFF#32⟩
def crc16 : CrcSpec 16 := ⟨0x1021#16, false, 0xFFFF#16, 0x0000#16⟩
def crc64 : CrcSpec 64 := ⟨0x42F0E1EBA9EA3693#64, false, 0, 0⟩

/-- The CRC that `CHK_CFG.POLY` selects, zero-extended (R397). -/
def crcSel (poly : Nat) (l : List Byte) : BitVec 64 :=
  match poly with
  | 0 => (crc crc32c l).zeroExtend 64
  | 1 => (crc crc32 l).zeroExtend 64
  | 2 => (crc crc16 l).zeroExtend 64
  | _ => crc crc64 l

/-- The width of the CRC that `CHK_CFG.POLY` selects. -/
def crcWidth (poly : Nat) : Nat := if poly = 2 then 16 else if poly = 3 then 64 else 32

end Sys2Proof.Machine
end

