-- ==== Sys2Proof/Machine/ChkOps.lean ====
section
/-! DEFINITION. What the other units hand to the check-value units: the blocks of their streams (table INT-5). -/

namespace Sys2Proof.Machine

/-- A check-value unit. -/
def State.chkUnit (s : State) (n : Nat) : ChkUnit := Tab.getD s.chk n {}

/-- The state with a check-value unit changed. -/
def State.setChk (s : State) (n : Nat) (x : ChkUnit) : State := { s with chk := Tab.set s.chk n x }

/-- Whether a unit is enabled at a point and instance. -/
def State.chkSnoops (s : State) (n point inst : Nat) : Bool :=
  s.flag F.CHK_CFG_EN n 0 && s.fget F.CHK_CFG_POINT n 0 == point && s.fget F.CHK_INST_INST n 0 == inst

/-- A block of a stream is complete: every unit that snoops it has it to hash (R396), save one that it was enabled in
(R399). -/
def State.chkBlock (s : State) (point inst : Nat) (blk : ChkBlock) : State :=
  (List.range 32).foldl (fun s n =>
    if s.chkSnoops n point inst then
      let x := s.chkUnit n
      s.setChk n (if x.skip then { x with skip := false } else { x with feed := x.feed ++ [blk] })
    else s) s

end Sys2Proof.Machine
end

