-- ==== Sys2Proof/Machine/DmaOps.lean ====
section
/-! DEFINITION. The operations of a DMA channel (chapter 13): descriptor fields and checks, beats, and what a dropped or
lost descriptor leaves. -/

namespace Sys2Proof.Machine

/-! ### Power domains of memory (table CLK-3) -/

/-- The domain of a bank. -/
def bankDomain (i : Nat) : Nat := if i < 144 then i + 2 else 1

/-- The domains that a range of memory touches. -/
def rangeDomains (a n : Nat) : List Nat :=
  if n = 0 then []
  else if inHbm a then
    if a / 4096 = (a + n - 1) / 4096 then [146 + a / 4096 % 2] else [146, 147]
  else if inBanks a then
    (List.range (bankAt (a + n - 1) - bankAt a + 1)).map (fun i => bankDomain (bankAt a + i))
  else []

/-! ### Descriptor fields (table DMA-1) -/

def dOp (d : W256) : Nat := bitsOf d 3 0
def dSwap (d : W256) : Nat := bitsOf d 5 4
def dHalf (d : W256) : Bool := bitOf d 6
def dFull (d : W256) : Bool := bitOf d 7
def dTokEn (d : W256) : Bool := bitOf d 8
def dSreg (d : W256) : Nat := bitsOf d 15 10
def dDreg (d : W256) : Nat := bitsOf d 21 16
def dLen (d : W256) : Nat := bitsOf d 63 32
def dSrc (d : W256) : Nat := bitsOf d 111 64
def dPattern (d : W256) : Nat := bitsOf d 127 64
def dDst (d : W256) : Nat := bitsOf d 175 128
def dTag (d : W256) : Nat := bitsOf d 191 176
def dToken (d : W256) : W64 := d.extractLsb' 192 64

/-- The unit of a swap mode in bytes (R360). -/
def dUnit (d : W256) : Nat := if dSwap d = 0 then 1 else if dSwap d = 1 then 2 else 4

/-- A DMA channel. -/
def State.dc (s : State) (n : Nat) : DmaChan := Tab.getD s.dma n {}

/-- The state with a channel changed. -/
def State.setDc (s : State) (n : Nat) (c : DmaChan) : State := { s with dma := Tab.set s.dma n c }

/-- Whether a PCMD that reaches a channel is queued: `OWNER` is 0 and `EN` is 1 (R354). -/
def State.dmaTakes (s : State) (n : Nat) : Bool := !s.flag F.DMA_CFG_OWNER n 0 && s.flag F.DMA_CFG_EN n 0

/-- The descriptors in a channel's queue and the running one. -/
def State.dmaQueued (s : State) (n : Nat) : Nat := (s.dc n).queue.length + b2n (s.dc n).run.isSome

/-- The descriptors a channel holds, the running one included, with those that a PCMD has brought; a PCMD that it does not queue
is none of them (R354). -/
def State.dmaHeld (s : State) (n : Nat) : Nat :=
  (if s.dmaTakes n then (s.queue 14 n 0).length else 0) + s.dmaQueued n

/-! ### Start (R358) -/

/-- Step 1: the format of a descriptor (table DMA-1) and the permissions of its regions (R357). -/
def State.dmaFormatOk (s : State) (d : W256) : Bool :=
  (dOp d == 1 || dOp d == 2) && (dOp d == 1 || dSwap d == 0) && !bitOf d 9 && bitsOf d 31 22 == 0 &&
    dLen d != 0 && dLen d % dUnit d == 0 && (dOp d == 2 || bitsOf d 127 112 == 0) &&
    (if dTokEn d then tokenDestOk (dToken d) else dToken d == 0) &&
    (dOp d == 2 || s.flag F.DMA_RGN_CFG_RD 0 (dSreg d)) && s.flag F.DMA_RGN_CFG_WR 0 (dDreg d)

/-- The bytes from an address to the end of a region, 0 outside it. -/
def State.regionRoom (s : State) (r a : Nat) : Nat :=
  let base := s.fget F.DMA_RGN_BASE_BASE 0 r * 0x10000
  let last := s.fget F.DMA_RGN_END_END 0 r * 0x10000
  if base ≤ a ∧ a < last then last - a else 0

/-- Step 2: the length to move, a multiple of the swap unit (R360). -/
def State.dmaLength (s : State) (d : W256) : Nat :=
  let room := min (dLen d) (s.regionRoom (dDreg d) (dDst d))
  let l := if dOp d = 1 then min room (s.regionRoom (dSreg d) (dSrc d)) else room
  l - l % dUnit d

/-- The lowest address of a range that is neither HBM nor a bank, if any. -/
def firstOutside (a n : Nat) : Option Nat :=
  if inHbm a then (if a + n ≤ 0x000800000000 then none else some 0x000800000000)
  else if inBanks a then (if a + n ≤ 0x001010000000 then none else some 0x001010000000)
  else some a

/-- Step 3: the address that fails, the source range of a copy first. -/
def dmaOutside (d : W256) (l : Nat) : Option Nat :=
  ((if dOp d = 1 then firstOutside (dSrc d) l else none)).or (firstOutside (dDst d) l)

/-- Step 4: a copy whose ranges overlap with the destination above the source runs in descending order (R359). -/
def dmaDown (d : W256) (l : Nat) : Bool :=
  dOp d == 1 && decide (dSrc d < dDst d ∧ dDst d < dSrc d + l)

/-- A descriptor starts: the four steps in order; the first that fails fixes its status with no byte moved. -/
def State.dmaStart (s : State) (n : Nat) (d : W256) : State :=
  let c := s.dc n
  let run (l : Nat) (down : Bool) (st : Option Nat) : DmaChan :=
    { c with queue := c.queue.tail, run := some { desc := d, len := l, down := down, status := st }, down := down, done := 0 }
  if !s.dmaFormatOk d then s.setDc n (run 0 false (some 2))
  else
    let l := s.dmaLength d
    if l = 0 then s.setDc n (run 0 false (some 24))
    else match dmaOutside d l with
      | some a => (s.setDc n (run 0 false (some 25))).accessError (Src.dma n) a 2
      | none => s.setDc n (run l (dmaDown d l) none)

/-! ### Beats (R360 to R362) -/

/-- The first index and the count of bytes of the next beat: one destination write, confined to one word. -/
def DmaRun.beat (r : DmaRun) : Nat × Nat :=
  if r.down then
    let e := r.len - r.done
    let c := min e ((dDst r.desc + e - 1) % 32 + 1)
    (e - c, c)
  else (r.done, min (r.len - r.done) (32 - (dDst r.desc + r.done) % 32))

/-- The source address of destination byte k (R360). -/
def dmaSrcOf (d : W256) (k : Nat) : Nat := dSrc d + (k ^^^ dSwap d)

/-- Read the words of source bytes that are not saved, each once; the first that fails gives the status, 9 for poison
and 25 for an address error. -/
def State.dmaReadWords (s : State) (req : Nat) : List Nat → Tab Nat W256 → (Nat ⊕ Tab Nat W256) × State
  | [], acc => (.inr acc, s)
  | w :: t, acc =>
    let (r, s) := s.memRead req w
    match r with
    | .ok d => State.dmaReadWords s req t (Tab.set acc w d)
    | .poison _ => (.inl 9, s)
    | .addrErr => (.inl 25, s)

/-- The bytes of a beat, or the status that the read of its source ends in. -/
def State.dmaData (s : State) (n : Nat) (r : DmaRun) (i c : Nat) : (Nat ⊕ List Byte) × State :=
  if dOp r.desc = 2 then
    (.inr ((List.range c).map (fun k => BitVec.ofNat 8 (dPattern r.desc / 256 ^ ((dDst r.desc + i + k) % 8)))), s)
  else
    let addrs := (List.range c).map (fun k => dmaSrcOf r.desc (i + k))
    if addrs.any (fun a => Tab.find? a r.saved == some none) then (.inl 9, s)
    else
      let words := ((addrs.filter (fun a => (Tab.find? a r.saved).isNone)).map (fun a => a / 32 * 32)).eraseDups
      match s.dmaReadWords (Src.dma n) words [] with
      | (.inl st, s) => (.inl st, s)
      | (.inr ws, s) =>
        (.inr (addrs.map (fun a => match Tab.find? a r.saved with
          | some (some b) => b
          | _ => BitVec.ofNat 8 ((Tab.getD ws (a / 32 * 32) 0).toNat / 256 ^ (a % 32)))), s)

/-- A byte of memory as it stands, `none` where its word is poisoned or uncorrectable. -/
def State.peekByte (s : State) (a : Nat) : Option Byte :=
  match decodeWord (readCode s.mem (a / 32 * 32)) with
  | .clean d => some (BitVec.ofNat 8 (d.toNat / 256 ^ (a % 32)))
  | .corrected d _ _ => some (BitVec.ofNat 8 (d.toNat / 256 ^ (a % 32)))
  | _ => none

/-- The source bytes that a beat overwrites and that the swap group it shares with the next beat still needs (R359). -/
def State.dmaSave (s : State) (r : DmaRun) (i c : Nat) : Tab Nat (Option Byte) :=
  if dOp r.desc = 1 ∧ dSwap r.desc ≠ 0 then
    let edge := if r.down then i else i + c
    let group := (List.range 4).map (fun j => edge / 4 * 4 + j)
    let later := group.filter (fun k => if r.down then k < i else i + c ≤ k ∧ k < r.len)
    let w := (dDst r.desc + i) / 32 * 32
    ((later.map (dmaSrcOf r.desc)).filter (fun a => a / 32 * 32 == w)).map
      (fun a => (a, match Tab.find? a r.saved with | some b => b | none => s.peekByte a))
  else []

/-- One beat's reads and write: the status that stops the descriptor, if any, the saved bytes and the bytes of the beat. -/
def State.dmaMove (s : State) (n : Nat) (r : DmaRun) : (Option Nat × Tab Nat (Option Byte) × List Byte) × State :=
  let (i, c) := r.beat
  let keep := s.dmaSave r i c
  match s.dmaData n r i c with
  | (.inl st, s) => ((some st, keep, []), s)
  | (.inr bytes, s) =>
    let a := dDst r.desc + i
    let w := a / 32 * 32
    let (res, s) := s.memWriteMask (Src.dma n) w (rangeMask w a c) (rangeData w a bytes)
    match res with
    | .ok => ((none, keep, bytes), s)
    | .poison _ => ((some 9, keep, bytes), s)
    | .addrErr => ((some 25, keep, bytes), s)

/-- The status of a descriptor that has moved all its L bytes (R358). -/
def DmaRun.finalStatus (r : DmaRun) : Nat := if r.len < dLen r.desc then 24 else 0

/-- One beat of a channel: `DONE` counts it, dma-half is posted when it is reached (R363), and the descriptor's status is
known once it has failed or moved everything. -/
def State.dmaBeat (s : State) (n : Nat) (r : DmaRun) : State :=
  match s.dmaMove n r with
  | ((some st, keep, _), s) =>
    s.setDc n { s.dc n with run := some { r with status := some st, saved := keep } }
  | ((none, keep, bytes), s) =>
    let done := r.done + r.beat.2
    let half := dHalf r.desc && !r.halfSent && decide (ceilDiv (dLen r.desc) 2 ≤ done)
    let r' : DmaRun := { r with
      done := done, halfSent := r.halfSent || half, saved := keep, moved := r.moved ++ bytes
      status := if done = r.len then some r.finalStatus else none }
    let s := s.setDc n { s.dc n with run := some r', done := done }
    if half then s.post (Src.dma n) 0x0E01 [.u 2 (dTag r.desc), .u 4 done] else s

/-- A beat that was issued writes its destination, with no event of its own. -/
def State.dmaSettle (s : State) (n i : Nat) (b : List Byte) (r : DmaRun) : State :=
  let a := dDst r.desc + i
  let w := a / 32 * 32
  match memUnit w with
  | none => s
  | some u =>
    if inIstore w || s.bootLocked (Src.dma n) u then s
    else
      let m := rangeMask w a b.length
      if m = 0xFFFFFFFF#32 then { s with mem := writeCode s.mem w (encodeWord (rangeData w a b)) }
      else match decodeWord (readCode s.mem w) with
        | .clean d => { s with mem := writeCode s.mem w (encodeWord ((d &&& ~~~(byteMask m)) ||| (rangeData w a b &&& byteMask m))) }
        | .corrected d _ _ =>
          { s with mem := writeCode s.mem w (encodeWord ((d &&& ~~~(byteMask m)) ||| (rangeData w a b &&& byteMask m))) }
        | _ => s

/-- The bytes of a beat as memory stands, with no event; none where one of them is poisoned. -/
def State.dmaPeek (s : State) (r : DmaRun) (i c : Nat) : Option (List Byte) :=
  (List.range c).mapM (fun k =>
    if dOp r.desc = 2 then some (BitVec.ofNat 8 (dPattern r.desc / 256 ^ ((dDst r.desc + i + k) % 8)))
    else
      let a := dmaSrcOf r.desc (i + k)
      match Tab.find? a r.saved with
      | some b => b
      | none => s.peekByte a)

/-- The beats of a descriptor that is dropped or lost: each of its remaining words holds its old or its transferred contents
(R365, R366), which a free value decides; the words after one that it could not read or write stay as they were. -/
def State.dmaLeft (n : Nat) : Nat → DmaRun → State → State
  | 0, _, s => s
  | f + 1, r, s =>
    if r.status.isSome ∨ r.len ≤ r.done then s
    else
      let (i, c) := r.beat
      let keep := s.dmaSave r i c
      let r' : DmaRun := { r with done := r.done + c }
      let goes := (s.free 1).getLsbD 0
      let s := s.drawn
      if goes then
        match s.dmaPeek r i c with
        | some b => State.dmaLeft n f { r' with saved := keep } (s.dmaSettle n i b r)
        | none => s
      else State.dmaLeft n f r' s

/-- What a channel's running descriptor leaves when it is dropped or lost; a paused one has no beat outstanding (R364). -/
def State.dmaLeave (s : State) (n : Nat) (r : DmaRun) : State :=
  if (s.dc n).paused then s else State.dmaLeft n (r.len - r.done) r s

/-! ### Completion (R355, R356) -/

/-- The completion token's value (R356). -/
def dmaTokenValue (d : W256) (st done : Nat) : W64 :=
  BitVec.ofNat 64 (st + dOp d * 2 ^ 8 + dTag d * 2 ^ 16 + done % 2 ^ 32 * 2 ^ 32)

/-- Send a descriptor's completion token, when it asks for one at a legal destination. -/
def State.dmaToken (s : State) (n : Nat) (d : W256) (st done : Nat) : State :=
  if dTokEn d ∧ tokenDestOk (dToken d) then s.sendToken (Src.dma n) (dToken d) (dmaTokenValue d st done) else s

/-- The last descriptor's status, and `ERR` for one that is not 0. -/
def State.dmaStatus (s : State) (n st : Nat) : State :=
  let s := s.fset F.DMA_STAT_STATUS n 0 st
  if st = 0 then s else s.fset F.DMA_STAT_ERR n 0 1

/-- A descriptor completes with a status: `DMA_COUNT`, its event (R363) and its token. -/
def State.dmaComplete (s : State) (n : Nat) (r : DmaRun) (st : Nat) : State :=
  let s := s.setDc n { s.dc n with run := none, paused := false, down := r.down, done := r.done }
  let s := (s.dmaStatus n st).fset F.DMA_COUNT_COUNT n 0 ((s.fget F.DMA_COUNT_COUNT n 0 + 1) % 2 ^ 32)
  let s :=
    if st = 0 then (if dFull r.desc then s.post (Src.dma n) 0x0E02 [.u 2 (dTag r.desc), .u 4 (dLen r.desc)] else s)
    else s.post (Src.dma n) 0x0E00 [.u 1 st, .u 2 (dTag r.desc), .u 4 r.done]
  let s := s.chkBlock 5 n ⟨BitVec.ofNat 64 (dDst r.desc), r.moved, st != 0⟩
  s.dmaToken n r.desc st r.done

/-- A running descriptor is lost with a domain (R365): status 26, `DONE` as acknowledged. -/
def State.dmaLost (s : State) (n : Nat) : State :=
  match (s.dc n).run with
  | some r => (s.dmaLeave n r).dmaComplete n r 26
  | none => s

/-- Everything a channel holds is dropped at once (R366); `DMA_STAT.DESC` stays that of the last descriptor. -/
def State.dmaDrop (s : State) (n : Nat) : State :=
  let held := s.dmaHeld n
  let s := match (s.dc n).run with
    | some r => s.dmaLeave n r
    | none => s
  let s := if s.dmaTakes n then s.setQueue 14 n 0 [] else s
  let s := s.setDc n { down := (s.dc n).down }
  let s := (s.fset F.DMA_CFG_EN n 0 0).fset F.DMA_COUNT_COUNT n 0 0
  s.post (Src.dma n) 0x0E03 [.u 1 held]

/-- Whether a running descriptor's ranges touch a domain. -/
def DmaRun.touches (r : DmaRun) (d : Nat) : Bool :=
  (rangeDomains (dDst r.desc) r.len).contains d || (dOp r.desc == 1 && (rangeDomains (dSrc r.desc) r.len).contains d)

/-- The domains that a running descriptor's ranges touch. -/
def DmaRun.domains (r : DmaRun) : List Nat :=
  rangeDomains (dDst r.desc) r.len ++ (if dOp r.desc = 1 then rangeDomains (dSrc r.desc) r.len else [])

end Sys2Proof.Machine
end

