-- ==== Sys2Proof/Machine/TimeOps.lean ====
section
/-! DEFINITION. The operations of the time base (chapter 11): the counter as one number, time operations, timed outputs,
transmit timestamps. -/

namespace Sys2Proof.Machine

/-! ### The counter -/

/-- The units of 2^-32 ns in a second. -/
def unitsPerSec : Nat := 1000000000 * 2 ^ 32

/-- A time as one number of units of 2^-32 ns. -/
def TimeBase.total (t : TimeBase) : Nat := t.sec.toNat * unitsPerSec + t.ns * 2 ^ 32 + t.frac

/-- The time of a number of units; `SEC` wraps modulo 2^64 (R326). -/
def TimeBase.setTotal (t : TimeBase) (u : Nat) : TimeBase :=
  { t with sec := BitVec.ofNat 64 (u / unitsPerSec), ns := u % unitsPerSec / 2 ^ 32, frac := u % 2 ^ 32 }

/-- The state with the time base changed. -/
def State.setTime (s : State) (t : TimeBase) : State := { s with time := t }

/-- The increment in force (R327). -/
def State.increment (s : State) (hold : Bool) : Nat :=
  bitsOf (if hold then s.pair .TIM_HINC_LO .TIM_HINC_HI 0 0 else s.pair .TIM_INC_LO .TIM_INC_HI 0 0) 35 0

/-- The units of one slew term (R330). -/
def State.slewUnit (s : State) : Nat := 10737418240 * s.fget F.TIM_CFG_SLEW 0 0 / 1000000

/-! ### The operand of a time operation -/

/-- The magnitude of the operand in ns. -/
def State.opMagnitude (s : State) : Nat :=
  (s.pair .TIM_OP_SEC_LO .TIM_OP_SEC_HI 0 0).toNat * 1000000000 + s.fget F.TIM_OP_NS_NS 0 0

/-- The operand as a signed offset in ns. -/
def State.opOffset (s : State) : Int :=
  if s.flag F.TIM_OP_NS_NEG 0 0 then -(s.opMagnitude : Int) else s.opMagnitude

/-- Whether an operation is accepted (tables TIM-1, TIM-12, TIM-15); `after` is the time in units that a STEP adds to. -/
def State.opAccepted (s : State) (o after : Nat) : Bool :=
  let nsOk := decide (s.fget F.TIM_OP_NS_NS 0 0 < 1000000000)
  let inJump := decide (s.opMagnitude ≤ s.fget F.TIM_CFG_JUMP 0 0 * 1000)
  match o with
  | 1 => nsOk && !s.flag F.TIM_OP_NS_NEG 0 0 && !s.time.valid
  | 2 => nsOk && inJump && decide (0 ≤ (after : Int) + s.opOffset * 2 ^ 32)
  | 3 => nsOk && inJump
  | 4 => true
  | _ => false

/-! ### Timed outputs (R337 to R339) -/

/-- A timed output. -/
def State.tout (s : State) (n : Nat) : Tout := Tab.getD s.time.touts n {}

/-- The state with a timed output changed. -/
def State.setTout (s : State) (n : Nat) (x : Tout) : State :=
  { s with time := { s.time with touts := Tab.set s.time.touts n x } }

/-- `START` of an output, in ns. -/
def State.toutStart (s : State) (n : Nat) : Nat :=
  (s.pair .TIM_TOUT_START_SEC_LO .TIM_TOUT_START_SEC_HI (n + 1) 0).toNat * 1000000000 +
    s.fget F.TIM_TOUT_START_NS_NS (n + 1) 0

/-- The time of edge k of an output in periodic mode, in ns (R337). -/
def State.toutEdge (s : State) (n k : Nat) : Nat :=
  s.toutStart n + k * s.fget F.TIM_TOUT_FR_DEN_FR_DEN (n + 1) 0 * 1000000000 / s.fget F.TIM_TOUT_FR_NUM_FR_NUM (n + 1) 0

/-- The smallest k whose edge time is at or after a time in units (R338). -/
def State.toutNext (s : State) (n u : Nat) : Nat :=
  let d := ceilDiv u (2 ^ 32) - s.toutStart n
  ceilDiv (d * s.fget F.TIM_TOUT_FR_NUM_FR_NUM (n + 1) 0) (s.fget F.TIM_TOUT_FR_DEN_FR_DEN (n + 1) 0 * 1000000000)

/-- The next edge of an output, in ns, if one is to come. -/
def State.toutPending (s : State) (n : Nat) : Option Nat :=
  if s.flag F.TIM_TOUT_CTRL_EN (n + 1) 0 then
    if s.flag F.TIM_TOUT_CTRL_MODE (n + 1) 0 then some (s.toutEdge n (s.tout n).k)
    else if (s.tout n).due then some (s.toutStart n) else none
  else none

/-- The level of pin TOUTn, true when high (R337): while a pulse lasts, the asserted level, which is high with `POL` 0; otherwise,
and while `EN` is 0, the other level. -/
def State.toutPin (s : State) (n : Nat) : Bool :=
  s.flag F.TIM_TOUT_CTRL_POL (n + 1) 0 != (s.flag F.TIM_TOUT_CTRL_EN (n + 1) 0 && (s.tout n).pulse.isSome)

/-- An output ends or fires late: `LATE` is set and tout-late posted (R338). -/
def State.toutLate (s : State) (n : Nat) : State :=
  let start := packTime (s.pair .TIM_TOUT_START_SEC_LO .TIM_TOUT_START_SEC_HI (n + 1) 0)
    (s.fget F.TIM_TOUT_START_NS_NS (n + 1) 0)
  (s.fset F.TIM_TOUT_CTRL_LATE (n + 1) 0 1).post Src.time 0x1106 [.u 1 n, .u 8 start.toNat]

/-- An output after a LOAD or STEP that moved the time from `u0` to `u1` units (R338). -/
def State.toutMoved (u0 u1 : Nat) (s : State) (n : Nat) : State :=
  if s.flag F.TIM_TOUT_CTRL_EN (n + 1) 0 then
    if s.flag F.TIM_TOUT_CTRL_MODE (n + 1) 0 then s.setTout n { s.tout n with k := s.toutNext n u1 }
    else
      let e := s.toutStart n * 2 ^ 32
      if (s.tout n).due ∧ u0 < e ∧ e < u1 then
        ((s.fset F.TIM_TOUT_CTRL_EN (n + 1) 0 0).setTout n { s.tout n with due := false }).toutLate n
      else s
  else s

/-- Every pulse counts one tick. -/
def toutCount (l : Tab Nat Tout) : Tab Nat Tout := l.map (fun p => (p.1, { p.2 with pulse := p.2.pulse.map (· - 1) }))

/-! ### The tick (R327) -/

/-- The slew step of a tick (step 3 of R327, R330): the term, the slew left, and the start value of one that ended. -/
def slewTerm (unit : Nat) (x : Slew) : Int × Option Slew × Option Int :=
  if (unit : Int) ≤ x.rem.natAbs then
    let term : Int := if x.rem < 0 then -(unit : Int) else unit
    (term, some { x with rem := x.rem - term }, none)
  else (x.rem, none, some x.start)

/-- The hold state and its event in the first tick clocked from a new source (R329). -/
def State.holdChange (s : State) (hold : Bool) : State :=
  if s.time.hold = hold then s
  else
    let s := s.setTime { s.time with hold := hold }
    s.post Src.time 0x1103 [.u 1 (b2n hold), .u 8 s.now.toNat]

/-- The tick in which a LOAD executes: the time becomes the operand (R330). -/
def State.tickLoad (s : State) (after : Nat) : State :=
  let u0 := s.time.total
  let s := s.setTime { s.time.setTotal (s.opMagnitude * 2 ^ 32) with slew := none, valid := true }
  let s := s.post Src.time 0x1100 [.u 8 s.now.toNat]
  ((List.range 8).foldl (State.toutMoved u0 s.time.total) s).audMoved after s.time.total

/-- The tick in which a STEP executes (R330): no slew term, the offset after the increment. -/
def State.tickStep (s : State) (after : Nat) : State :=
  let u0 := s.time.total
  let s := s.setTime { s.time.setTotal ((after : Int) + s.opOffset * 2 ^ 32).toNat with slew := none }
  let s := s.post Src.time 0x1101 [.i 4 s.opOffset]
  ((List.range 8).foldl (State.toutMoved u0 s.time.total) s).audMoved after s.time.total

/-- A tick without LOAD, STEP or a new SLEW: the increment and the slew term. -/
def State.tickPlain (s : State) (after : Nat) : State :=
  match s.time.slew with
  | none => s.setTime (s.time.setTotal after)
  | some x =>
    let (term, left, ended) := slewTerm s.slewUnit x
    let s := s.setTime { s.time.setTotal ((after : Int) + term).toNat with slew := left }
    match ended with
    | some start => s.post Src.time 0x1104 [.i 4 start]
    | none => s

/-- One TCLK tick (R327): a pending operation executes or is refused (R331), the time advances, and every pulse
counts. -/
def State.tick (s : State) : State :=
  let cmd := s.time.cmd
  let hold := s.flag F.CLK_STAT_HOLD 0 0
  let after := s.time.total + s.increment hold
  let s := s.setTime { s.time with cmd := none, touts := toutCount s.time.touts }
  let s := match cmd with
    | none => s.tickPlain after
    | some o =>
      if s.opAccepted o after then
        match o with
        | 1 => s.tickLoad after
        | 2 => s.tickStep after
        | 3 => s.setTime { s.time.setTotal after with slew := some ⟨s.opOffset * 2 ^ 32, s.opOffset⟩ }
        | _ => (s.setTime { s.time with valid := false }).tickPlain after
      else
        let s := (s.fset F.TIM_STAT_REFUSED 0 0 1).tickPlain after
        s.post Src.time 0x1102 [.u 1 o, .u 4 s.opMagnitude]
  s.holdChange hold

/-! ### Transmit timestamps (R334, R335) -/

/-- A time some ns later, as seconds and nanoseconds. -/
def addNs (sec : BitVec 64) (ns add : Nat) : BitVec 64 × Nat :=
  let u := sec.toNat * 1000000000 + ns + add
  (BitVec.ofNat 64 (u / 1000000000), u % 1000000000)

/-- A time some ns earlier, not before 0 s. -/
def subNs (sec : BitVec 64) (ns sub : Nat) : BitVec 64 × Nat :=
  let u := sec.toNat * 1000000000 + ns - sub
  (BitVec.ofNat 64 (u / 1000000000), u % 1000000000)

/-- A port's transmit timestamp queue. -/
def State.stamps (s : State) (port : Nat) : List TxStamp := Tab.getD s.time.stamps port []

/-- A transmit timestamp is taken (R334, R335): it joins the port's queue, or is counted in `LOST` when 64 entries wait. -/
def State.txStamp (s : State) (port link : Nat) (tsid : BitVec 16) (abort : Bool) : State :=
  let (sec, ns) := addNs s.time.sec s.time.ns (s.fget F.TIM_LAT_TXLAT 0 port)
  if (s.stamps port).length < 64 then
    s.setTime { s.time with stamps := Tab.set s.time.stamps port (s.stamps port ++ [⟨abort, link, tsid, ns, sec⟩]) }
  else
    let was := s.flag F.TIM_TXTS_STAT_OVF 0 port
    let s := s.fset F.TIM_TXTS_STAT_LOST 0 port (min (s.fget F.TIM_TXTS_STAT_LOST 0 port + 1) 0xFFFF)
    let s := s.fset F.TIM_TXTS_STAT_OVF 0 port 1
    if was then s else s.post Src.time 0x1105 [.u 1 port]

end Sys2Proof.Machine
end

