-- ==== Sys2Proof/Machine/Slp.lean ====
section
/-! DEFINITION. What a serial lane puts on its line (R372 to R375, R380): SLP frames, the scrambler, transition stuffing, idle words,
and the lanes of a mirror quad. -/

namespace Sys2Proof.Machine

/-- The low n bits of a number, bit 0 first. -/
def bitList (v n : Nat) : List Bool := (List.range n).map (fun i => v / 2 ^ i % 2 == 1)

/-- Bits as a number, the first in bit 0. -/
def bitsNat : List Bool → Nat
  | [] => 0
  | b :: t => b2n b + 2 * bitsNat t

/-! ### Frames (R372 to R374) -/

/-- The payload bits of a frame. -/
def slpPayload : Nat := 16384

/-- The marker of a frame: `START`, then the sync pattern, bit 0 first. -/
def slpMarker (start : Option Nat) : List Bool := bitList (0xB4E271C85A3D + start.getD 0xFFFF * 2 ^ 48) 64

/-- The scrambler's bit for the next payload bit. -/
def scrambleKey (x : BitVec 31) : Bool := x.getLsbD 30 != x.getLsbD 27

/-- Payload bits scrambled, or scrambled bits recovered, from a state of the scrambler (R373). -/
def scrambleFrom : BitVec 31 → List Bool → List Bool
  | _, [] => []
  | x, b :: t =>
    let k := scrambleKey x
    (b != k) :: scrambleFrom ((x <<< 1) ||| BitVec.ofNat 31 (b2n k)) t

/-- A frame's payload scrambled: the scrambler is reseeded at each marker. -/
def scramble (l : List Bool) : List Bool := scrambleFrom 0x5EB31C47#31 l

/-- The run of identical bits after one more kept bit. -/
def runAfter (run : Option (Bool × Nat)) (b : Bool) : Nat := match run with
  | some (c, n) => if c = b then n + 1 else 1
  | none => 1

/-- Transition stuffing (R374): after 40 identical kept bits, one bit of the opposite value. The line bits, and the run at their
end. -/
def stuff : Option (Bool × Nat) → List Bool → List Bool × Option (Bool × Nat)
  | run, [] => ([], run)
  | run, b :: t =>
    let n := runAfter run b
    if n = 40 then
      let (l, r) := stuff none t
      (b :: (!b) :: l, r)
    else
      let (l, r) := stuff (some (b, n)) t
      (b :: l, r)

/-- The receiver's side of R374: the kept bits, the run at their end, and the stuffing errors: a discarded bit that equals its
run. -/
def unstuff : Option (Bool × Nat) → List Bool → List Bool × Option (Bool × Nat) × Nat
  | run, [] => ([], run, 0)
  | run, b :: t => match run with
    | some (c, 40) =>
      let (l, r, e) := unstuff none t
      (l, r, if b = c then e + 1 else e)
    | _ =>
      let (l, r, e) := unstuff (some (b, runAfter run b)) t
      (b :: l, r, e)

/-- The line bits of a frame from its payload and the offset of the first header in it. -/
def slpFrame (run : Option (Bool × Nat)) (start : Option Nat) (payload : List Bool) : List Bool × Option (Bool × Nat) :=
  stuff run (slpMarker start ++ scramble payload)

/-- Payload bits that make whole frames leave as frames: n bounds the frames. The frames, and the transmitter after them. -/
def LaneTx.cut : Nat → LaneTx → List LaneOut × LaneTx
  | 0, x => ([], x)
  | n + 1, x =>
    if x.bits.length < slpPayload then ([], x)
    else
      let (l, run) := slpFrame x.run (x.heads.find? (fun h => decide (h < slpPayload))) (x.bits.take slpPayload)
      let (fs, x) := LaneTx.cut n { x with
        bits := x.bits.drop slpPayload, run := run
        heads := (x.heads.filter (fun h => decide (slpPayload ≤ h))).map (· - slpPayload) }
      (.frame (bitsNat l) l.length :: fs, x)

/-- A lane sends the idle words that come before a packet, then the packet, if there is one (R375). -/
def LaneTx.send (x : LaneTx) (idle : Nat) (packet : List Bool) : List LaneOut × LaneTx :=
  let bits := x.bits ++ List.replicate (64 * idle) true
  let x := { x with
    bits := bits ++ packet, heads := if packet.isEmpty then x.heads else x.heads ++ [bits.length], packets := x.packets + 1 }
  x.cut (x.bits.length / slpPayload)

/-! ### Lanes -/

/-- A lane's transmitter. -/
def State.laneTx (s : State) (q l : Nat) : LaneTx := Tab.getD s.lanes (q, l) {}

/-- The state with a lane's transmitter changed. -/
def State.setLane (s : State) (q l : Nat) (x : LaneTx) : State := { s with lanes := Tab.set s.lanes (q, l) x }

/-- The quads in mode 5 that mirror a quad; only the head quads are mirrored (R380). -/
def State.mirrors (s : State) (q : Nat) : List Nat :=
  [14, 15].filter (fun m => decide (10 ≤ q ∧ q < 14) && s.fget F.LN_CFG_MODE m 0 == 5 && s.fget F.LN_CFG_SRC m 0 == q)

/-- What leaves a lane's transmitter appears on its line if it sends valid bits. -/
def State.laneShow (l : Nat) (o : List LaneOut) (s : State) (q : Nat) : State :=
  let x := s.laneTx q l
  if s.flag F.LN_LANE_STAT_TXUP q l then s.setLane q l { x with out := x.out ++ o } else s

/-- What a lane sends goes on its line and on the same lane of the quads that mirror it. -/
def State.laneSent (s : State) (q l : Nat) (o : List LaneOut) : State :=
  (q :: s.mirrors q).foldl (State.laneShow l o) s

/-- An SLP lane sends a packet, or idle words only (R375, R380). -/
def State.laneSend (s : State) (q l : Nat) (packet : List Bool) : State :=
  let x := s.laneTx q l
  let (o, x) := x.send (Config.idleWords q l x.packets) packet
  (s.setLane q l x).laneSent q l o

/-- A transmitter starts or stops sending valid bits, unless it sleeps. -/
def State.laneUp (l : Nat) (up : Bool) (s : State) (q : Nat) : State :=
  s.fset F.LN_LANE_STAT_TXUP q l (b2n (up && !s.flag F.LN_LANE_CTRL_TX_SLEEP q l))

/-- A lane leaves or enters electrical idle, and the quads that mirror it follow (R380). A lane that leaves it begins a new
stream of frames. -/
def State.laneDrive (s : State) (q l : Nat) (up : Bool) : State :=
  let x := s.laneTx q l
  let fresh := up && !s.flag F.LN_LANE_STAT_TXUP q l
  let s := if fresh then s.setLane q l { packets := x.packets, out := x.out } else s
  (q :: s.mirrors q).foldl (State.laneUp l up) s

end Sys2Proof.Machine
end

