-- ==== Sys2Proof/Machine/UnitOps.lean ====
section
/-! DEFINITION. What the pans, sluices, compositors and heads share: the layout of their commands (table PAN-10), the reads
a command makes, and its completion token (R182). -/

namespace Sys2Proof.Machine

/-- `OPCODE`. -/
def cOp (c : W256) : Nat := bitsOf c 7 0
/-- Byte 1: the programme, context, output or plane. -/
def cSel (c : W256) : Nat := bitsOf c 15 8
/-- `TOK_EN`. -/
def cTokEn (c : W256) : Bool := bitOf c 16
/-- `ARG0`. -/
def cArg0 (c : W256) : Nat := bitsOf c 127 64
/-- `ARG1`. -/
def cArg1 (c : W256) : Nat := bitsOf c 191 128
/-- `TOKEN`. -/
def cToken (c : W256) : W64 := c.extractLsb' 192 64

/-- Whether a value sets no bit outside a mask. -/
def within (v mask : Nat) : Bool := v &&& mask == v

/-- Whether a command's reserved bytes are 0, its arguments stay within the fields of its opcode and its token destination
is legal (R91, R182). -/
def cmdFormOk (c : W256) (m0 m1 : Nat) : Bool :=
  bitsOf c 23 17 == 0 && bitsOf c 31 24 == 0 && within (cArg0 c) m0 && within (cArg1 c) m1 &&
    (!cTokEn c || tokenDestOk (cToken c))

/-- A completion token's value: status, opcode and tag (R182). -/
def cmdTokenValue (c : W256) (status : Nat) : W64 :=
  BitVec.ofNat 64 (status + cOp c * 2 ^ 8 + bitsOf c 63 32 * 2 ^ 32)

/-- Send a command's completion token, when it asks for one at a legal destination. -/
def State.cmdToken (s : State) (src : Nat) (c : W256) (status : Nat) : State :=
  if cTokEn c ∧ tokenDestOk (cToken c) then s.sendToken src (cToken c) (cmdTokenValue c status) else s

/-- An address mask of 48 bits: a non-zero bit above them is a format fault (log entry 91). -/
def mask48 : Nat := 2 ^ 48 - 1

/-- The mask of the low n bits. -/
def lowMask (n : Nat) : Nat := 2 ^ n - 1

/-- A read that a command makes: status 2 for an address that is unaligned or outside HBM, which is not read, and status 9
for poison or an address error (R182). -/
def State.cmdRead (s : State) (req a n : Nat) : (Nat ⊕ List Byte) × State :=
  if a % 32 ≠ 0 ∨ 0x000800000000 < a + n then (.inl 2, s)
  else match s.readRange req a n with
    | (.ok b, s) => (.inr b, s)
    | (_, s) => (.inl 9, s)

/-- A read made only when it is needed: nothing read gives no bytes. -/
def State.cmdReadIf (s : State) (need : Bool) (req a n : Nat) : (Nat ⊕ List Byte) × State :=
  if need then s.cmdRead req a n else (.inr [], s)

/-- The status a read ended in, 0 for a read that completed. -/
def readStatus : Nat ⊕ List Byte → Nat
  | .inl st => st
  | .inr _ => 0

/-- The bytes a read returned. -/
def readBytes : Nat ⊕ List Byte → List Byte
  | .inl _ => []
  | .inr b => b

/-- Read bytes word by word, a word that fails giving free values: the bytes, and the offsets from a of the bytes of
words that failed. -/
def State.readOpen (s : State) (req a n : Nat) : List Nat → List Byte → List Nat → (List Byte × List Nat) × State
  | [], acc, bad => ((acc, bad), s)
  | w :: t, acc, bad =>
    let lo := max w a
    let hi := min (w + 32) (a + n)
    let (r, s) := s.memRead req w
    match r with
    | .ok d => State.readOpen s req a n t (acc ++ (((leBytes 32 d.toNat).drop (lo - w)).take (hi - lo))) bad
    | _ =>
      let d : W256 := s.free 256
      State.readOpen s.drawn req a n t (acc ++ (leBytes 32 d.toNat).take (hi - lo))
        (bad ++ (List.range (hi - lo)).map (fun i => lo + i - a))

/-- Bytes as a bit vector, lowest address in the low bits. -/
def bytesBv (w : Nat) (b : List Byte) : BitVec w := BitVec.ofNat w (leNat b)

/-- A command leaves a queue for its unit: one whose opcode the queue does not take, or with a bad format, is refused with
status 8; then, while the unit's domain is not ON, it ends with status 4 (R182, R489); one with another opcode of the queue is
another command's. -/
def State.unitTake (s : State) (win inst q dom : Nat) (ops : List Nat) (op : Nat) (c : W256) (formOk : Bool)
    (refuse : Nat → State → State) (f : State → State) : State :=
  match s.popCmd win inst q c with
  | none => s
  | some s' =>
    if cOp c ≠ op ∧ ops.contains (cOp c) then s
    else if ¬ (cOp c = op ∧ formOk) then refuse 8 s'
    else if s'.dom dom ≠ .on then refuse 4 s'
    else f s'

/-- Worst-case charges joined: on each entry the larger of the two (R29). -/
def Charge.join (a b : Charge) : Charge :=
  a.foldl (fun acc p => Tab.set acc p.1 (max p.2 (Charge.on acc p.1))) b

end Sys2Proof.Machine
end

