-- ==== Sys2Proof/Machine/TwinOps.lean ====
section
/-! DEFINITION. The twin unit (chapter 16): messages of the sluice link, roles, held bands, row comparison, and the end of a
state copy. -/

namespace Sys2Proof.Machine

/-- The state with the twin unit changed. -/
def State.setTwin (s : State) (t : Twin) : State := { s with twin := t }

/-! ### Messages (R409, table TWN-3) -/

/-- The bytes of words, each little-endian. -/
def wordBytes (l : List W64) : List Byte := l.flatMap (fun w => leBytes 8 w.toNat)

/-- A message: header, payload words, trailer. -/
def twinMessage (type : Nat) (seq : BitVec 32) (payload : List W64) : List W64 :=
  let body : List W64 := BitVec.ofNat 64 (type * 2 ^ 56 + (payload.length + 2) * 2 ^ 44 + seq.toNat) :: payload
  body ++ [(crc crc32c (wordBytes body)).zeroExtend 64]

/-- The words of a message as the bits of a packet on an SLP lane. -/
def wordBits (l : List W64) : List Bool := l.flatMap (fun w => bitList w.toNat 64)

/-- Send a message on the control lanes, lane 0 of Q8 and of Q9; the copies are alike (R408). -/
def State.twinCtl (s : State) (type : Nat) (payload : List W64) : State :=
  let t := s.twin
  let m := twinMessage type t.ctlSeq payload
  let s := (s.laneSend 8 0 (wordBits m)).laneSend 9 0 (wordBits m)
  s.setTwin { t with ctlSeq := t.ctlSeq + 1, out := t.out ++ [.msg false m] }

/-- The bulk lanes that are locked: lanes 1 to 3 of Q8 and of Q9. -/
def State.bulkLanes (s : State) : List (Nat × Nat) :=
  [(8, 1), (8, 2), (8, 3), (9, 1), (9, 2), (9, 3)].filter (fun x => s.flag F.LN_LANE_STAT_LOCK x.1 x.2)

/-- Send a message on one bulk lane: successive messages take the locked bulk lanes in turn (R408). -/
def State.twinBulk (s : State) (type : Nat) (payload : List W64) : State :=
  let t := s.twin
  let m := twinMessage type t.bulkSeq payload
  let s := match s.bulkLanes[t.bulkTurn % s.bulkLanes.length]? with
    | some (q, l) => s.laneSend q l (wordBits m)
    | none => s
  s.setTwin { t with bulkSeq := t.bulkSeq + 1, bulkTurn := t.bulkTurn + 1, out := t.out ++ [.msg true m] }

/-- Whether a message goes on the bulk lanes. -/
def twinIsBulk (type : Nat) : Bool := type == 0x05 || type == 0x08 || type == 0x09

/-- Bits set in a word. -/
def popCount (w : W64) : Nat := ((List.range 64).filter (fun i => w.getLsbD i)).length

/-- Whether a message of a type has the length that table TWN-3 gives it; `p` is its payload. -/
def twinLenOk (type : Nat) (p : List W64) : Bool :=
  let w (i : Nat) : W64 := p.getD i 0
  let chunk (words bytes : Nat) : Bool := decide (1 ≤ bytes ∧ bytes ≤ 4096) && words == ceilDiv bytes 8
  match type with
  | 0x01 => p.length == 3
  | 0x02 | 0x03 | 0x04 | 0x06 | 0x0A | 0x0C => p.length == 2
  | 0x05 => decide (3 ≤ p.length) && chunk (p.length - 3) (bitsOf (w 2) 47 32)
  | 0x07 => decide (2 ≤ p.length) && p.length == 2 + popCount (w 1)
  | 0x08 => p.length == 129
  | 0x09 => decide (2 ≤ p.length) && chunk (p.length - 2) (bitsOf (w 1) 47 32)
  | 0x0B => p.length == 1
  | _ => false

/-- A message that arrives whole: its type, SEQ and payload; `none` when it is discarded (R409). -/
def twinParse (words : List W64) : Option (Nat × BitVec 32 × List W64) :=
  match words with
  | [] => none
  | h :: rest =>
    let type := bitsOf h 62 56
    let payload := rest.dropLast
    match rest.getLast? with
    | none => none
    | some tr =>
      if bitsOf h 63 63 = 0 ∧ bitsOf h 55 44 = words.length ∧ tr.extractLsb' 0 32 = crc crc32c (wordBytes (h :: payload)) ∧
          twinLenOk type payload then some (type, h.extractLsb' 0 32, payload)
      else none

/-- A message reaches a twin unit that is enabled: one in error is discarded and counted; of a control message only the first
copy is kept (R408, R409); one of another type is another row's. -/
def State.twinReceive (s : State) (type : Nat) (words : List W64) (f : List W64 → State → State) : State :=
  if s.twin.st = .solo then s
  else match twinParse words with
    | none => s.fset F.TWN_ERR_CRCERR 0 0 (min (s.fget F.TWN_ERR_CRCERR 0 0 + 1) 0xFFFF)
    | some (t, seq, p) =>
      if t ≠ type then s
      else if twinIsBulk t then f p s
      else
        let copy : Bool := match s.twin.seen with
          | some x => decide ((seq - x).toNat = 0 ∨ 2 ^ 31 ≤ (seq - x).toNat)
          | none => false
        if copy then s else f p (s.setTwin { s.twin with seen := some seq })

/-! ### `TWN_SYNC` and warm readiness (R418) -/

/-- The codes of table TWN-1. -/
def TwinState.code : TwinState → Nat
  | .solo => 0
  | .pairing => 1
  | .active => 2
  | .standby => 3
  | .isolated => 4

/-- The synchronised programmes. -/
def State.twinSync (s : State) : W64 := s.pair .TWN_SYNC_LO .TWN_SYNC_HI 0 0

/-- The state with the synchronised programmes changed. -/
def State.setTwinSync (s : State) (v : W64) : State := s.setPair .TWN_SYNC_LO .TWN_SYNC_HI 0 0 v

/-- The programmes that are ACTIVE on this part. -/
def State.activePgms (s : State) : List Nat :=
  (List.range 64).filter (fun k => (Tab.getD s.pgms k {}).st == .active)

/-- Programmes that are ACTIVE and not synchronised. -/
def State.unsynced (s : State) : List Nat := s.activePgms.filter (fun k => !s.twinSync.getLsbD k)

/-- The part is warm-ready. -/
def State.warmReady (s : State) : Bool :=
  s.twin.st == .standby && s.unsynced.isEmpty && s.twin.trans.isNone

/-- A programme becomes unsynchronised, and its comparison stops (R417). -/
def State.unsync (s : State) (k : Nat) : State :=
  let s := s.setTwinSync (s.twinSync &&& ~~~(BitVec.ofNat 64 (2 ^ k)))
  s.setTwin { s.twin with
    rows := s.twin.rows.filter (fun r => r.pgm != k), peerRows := s.twin.peerRows.filter (fun r => r.pgm != k)
    lastFi := Tab.erase k s.twin.lastFi }

/-- Every programme becomes unsynchronised. -/
def State.unsyncAll (s : State) : State :=
  (s.setTwinSync 0).setTwin { s.twin with rows := [], peerRows := [], lastFi := [] }

/-! ### Held bands (R413 to R415) -/

/-- The time within which a band awaits agreement, in ns. -/
def State.rwait (s : State) : Nat := s.fget F.TWN_CFG_RWAIT 0 0 * 1000

/-- Whether the twin unit holds bands. -/
def State.twinHolds (s : State) : Bool :=
  (s.twin.st == .active || s.twin.st == .standby) && s.twin.link && s.twin.current

/-- The two words of a band identity. -/
def bidWords (b : HeldBand) (withCrc : Bool) : List W64 :=
  [BitVec.ofNat 64 (b.id + b2n b.sdi * 2 ^ 12 + b2n b.complete * 2 ^ 13 + b2n b.repeated * 2 ^ 14 + b.band % 2 ^ 12 * 2 ^ 16 +
    (if withCrc then b.crc.toNat * 2 ^ 32 else 0)), b.ident]

/-- A band identity as received. -/
def bidOf (w1 w2 : W64) : PeerBand :=
  { sdi := bitOf w1 12, id := if bitOf w1 12 then bitsOf w1 3 0 else bitsOf w1 9 0, band := bitsOf w1 27 16, ident := w2,
    crc := w1.extractLsb' 32 32, complete := bitOf w1 13, repeated := bitOf w1 14 }

/-- Whether a peer's band is the band of a local one (R413): SDI frames match within a quarter of P. -/
def State.sameBand (s : State) (b : HeldBand) (p : PeerBand) : Bool :=
  b.sdi == p.sdi && b.id == p.id && b.band == p.band &&
    (if b.sdi then
      let x := s.unpackTime b.ident
      let y := s.unpackTime p.ident
      decide (4 * ((x - y) + (y - x)) < b.period)
    else b.ident == p.ident)

/-- Send the tokens of released bands: those of one flow or lane leave in band order (R309). -/
def State.twinFlush : List HeldBand → List (Bool × Nat) → State → List HeldBand × State
  | [], _, s => ([], s)
  | b :: t, stuck, s =>
    if b.sent then
      let (l, s) := State.twinFlush t stuck s
      (b :: l, s)
    else if b.released.isSome ∧ ¬ stuck.contains (b.sdi, b.id) then
      let (l, s) := State.twinFlush t stuck (s.sendToken b.src b.dest b.value)
      ({ b with sent := true } :: l, s)
    else
      let (l, s) := State.twinFlush t ((b.sdi, b.id) :: stuck) s
      (b :: l, s)

/-- Change the held bands and send the tokens that may leave; one that has left and was released more than `RWAIT` before is
forgotten. -/
def State.setBands (s : State) (l : List HeldBand) : State :=
  let old (b : HeldBand) : Bool := b.sent && (match b.released with
    | some t => decide (t + s.rwait < s.nowNs)
    | none => false)
  let (l, s) := State.twinFlush l [] s
  s.setTwin { s.twin with bands := l.filter (fun b => !old b) }

/-- A band is released as it stands. -/
def HeldBand.release (b : HeldBand) (now : Nat) : HeldBand :=
  if b.released.isSome then b else { b with released := some now, repair := none }

/-- A band is released with the peer's CRC and complete flag (table TWN-4). -/
def HeldBand.repaired (b : HeldBand) (crc : BitVec 32) (complete : Bool) (now : Nat) : HeldBand :=
  let v := b.value &&& ~~~(0x100000000000#64)
  { b.release now with
    crc := crc, complete := complete, value := if complete then v ||| 0x100000000000#64 else v }

/-- Every held band is released as it stands (R413, R421). -/
def State.releaseBands (s : State) : State :=
  s.setBands (s.twin.bands.map (fun b => b.release s.nowNs))

/-- Bands are no longer held: they are all released at once, and what the peer said of its own is forgotten. -/
def State.twinLetGo (s : State) : State :=
  if s.twinHolds then s else (s.releaseBands).setTwin { s.releaseBands.twin with peerBands := [] }

/-- Table TWN-4 for the local band of index d and its peer's band. -/
def State.twinAgree (s : State) (d : Nat) (b : HeldBand) (p : PeerBand) : State :=
  let upd (s : State) (f : HeldBand → HeldBand) : State := s.setBands (s.twin.bands.modify d f)
  if b.crc = p.crc ∧ b.complete = p.complete then upd s (fun b => b.release s.nowNs)
  else
    let mine := (b.complete && !p.complete) || (b.complete == p.complete && s.twin.st == .active)
    if mine then upd s (fun b => b.release s.nowNs)
    else (upd s (fun b => { b with repair := some (p.crc, p.complete) })).twinCtl 0x04 (bidWords b false)

/-- A unit hands a closed band to the twin unit, which holds it or sends its token at once (R309, R384, R413). -/
def State.twinBand (s : State) (b : HeldBand) : State :=
  if ¬ s.twinHolds then s.sendToken b.src b.dest b.value
  else
    let s := s.twinCtl 0x02 (bidWords b true)
    let s := s.setBands (s.twin.bands ++ [b])
    let d := s.twin.bands.length - 1
    match s.twin.peerBands.find? (fun p => s.sameBand b p) with
    | none => s
    | some p => (s.setTwin { s.twin with peerBands := s.twin.peerBands.erase p }).twinAgree d b p

/-- The first held band that awaits agreement and is the peer's band. -/
def State.heldFor (s : State) (p : PeerBand) : Option (Nat × HeldBand) :=
  match s.twin.bands.findIdx? (fun b => b.released.isNone && s.sameBand b p) with
  | none => none
  | some d => (s.twin.bands[d]?).map (fun b => (d, b))

/-- The event of a repair (table TWN-10). -/
def State.repairEvent (s : State) (b : HeldBand) (result : Nat) : State :=
  s.post Src.twin 0x1504 [.u 2 b.id, .u 2 b.band, .u 1 result]

/-- The bytes of a band. -/
def HeldBand.size (b : HeldBand) : Nat := (b.lines.map (fun x => x.2)).sum

/-- The address of a byte of a band, by its offset in the band's lines. -/
def bandAddr : List (Nat × Nat) → Nat → Option Nat
  | [], _ => none
  | (a, n) :: t, off => if off < n then some (a + off) else bandAddr t (off - n)

/-- Write bytes of a band at an offset, line by line; `fuel` bounds the lines touched. -/
def State.bandWrite (lines : List (Nat × Nat)) : Nat → Nat → List Byte → State → State
  | 0, _, _, s => s
  | fuel + 1, off, b, s =>
    match b, bandAddr lines off with
    | _ :: _, some a =>
      let left := match lines.findSome? (fun x => if x.1 ≤ a ∧ a < x.1 + x.2 then some (x.1 + x.2 - a) else none) with
        | some n => n
        | none => 1
      let s := (s.writeRange Src.twin a (b.take left)).2
      State.bandWrite lines fuel (off + left) (b.drop left) s
    | _, _ => s

/-! ### The end of a state copy (R427) -/

/-- The programmes of a mask. -/
def maskPgms (m : W64) : List Nat := (List.range 64).filter (fun k => m.getLsbD k)

/-- Programmes lose the marks of a sync picture that has not opened and of a record that is awaited. -/
def State.clearSyncMarks (s : State) (mask : W64) : State :=
  { s with pgms := s.pgms.map (fun x =>
      if mask.getLsbD x.1 then (x.1, { x.2 with syncT := none, syncHold := false }) else x) }

/-- A transaction ends: sync-done is posted with its result. -/
def State.syncEnd (s : State) (installed result : Nat) : State :=
  match s.twin.trans with
  | none => s
  | some x => ((s.clearSyncMarks x.mask).setTwin { s.twin with trans := none }).post Src.twin 0x1505
      [.u 2 x.num, .u 1 installed, .u 1 result]

/-! ### Roles (tables TWN-1, TWN-2) -/

/-- A change of state: role-change is posted, an open transaction ends (R427), an agreed switch is off. -/
def State.setRole (s : State) (st : TwinState) (cause : Nat) : State :=
  let old := s.twin.st
  if old = st then s
  else
    let s := s.syncEnd 0 3
    let s := s.setTwin { s.twin with
      st := st, muteUntil := false, switchAt := none, asked := false, rows := [], peerRows := [], lastFi := [] }
    (s.post Src.twin 0x1500 [.u 1 old.code, .u 1 st.code, .u 1 cause]).twinLetGo

/-- This part is the primary (R404). -/
def State.primary (s : State) : Bool := s.flag F.TWN_STAT_PREF 0 0

/-- Whether this part wins a contention against a peer (R406). -/
def State.wins (s : State) (p : Peer) : Bool :=
  if s.primary = p.primary then decide (Config.uid.toNat < p.uid.toNat) else s.primary

/-- The next picture of a programme whose row 0 has not been planned becomes a random-access picture (R418). -/
def Pgm.requireRap (p : Pgm) : Pgm :=
  let planned := p.committed + p.rows.length
  match p.pics.find? (fun x => match x.open_ with
    | some o => decide (planned ≤ o.j0)
    | none => false) with
  | none => { p with rapNext := true }
  | some x =>
    if x.cmd.isNone then { p with rapNext := true }
    else
      let fix (y : PicRec) : PicRec :=
        if y.c = x.c then { y with open_ := y.open_.map (fun o => { o with rap := true, m := 0 }) }
        else if x.c < y.c then
          { y with open_ := y.open_.map (fun o => if o.rap then o else { o with m := min o.m (y.c - x.c) }) }
        else y
      { p with pics := p.pics.map fix, lastRap := max p.lastRap x.c }

/-- A cold takeover requires a random-access picture of every programme (R418). -/
def State.requireRaps (s : State) : State :=
  { s with pgms := s.pgms.map (fun x => if x.2.st = .idle then x else (x.1, x.2.requireRap)) }

/-- A takeover (R418, R419). -/
def State.takeover (s : State) (cause : Nat) : State :=
  let warm := s.warmReady
  let n := s.unsynced.length
  let s := s.setRole .active cause
  let s := s.twinCtl 0x0C [1, 0]
  let s := s.setTwin { s.twin with muteUntil := true, out := s.twin.out ++ [.pulse true] }
  let s := s.post Src.twin 0x1501 [.u 1 cause, .u 1 (b2n !warm), .u 1 n]
  if warm then s else s.requireRaps

/-- The peer has taken over, or this part yields: it enters STANDBY, unsynchronised (R419, R422, R423). -/
def State.standDown (s : State) (cause : Nat) : State := (s.setRole .standby cause).unsyncAll

/-- Whether a part mutes a transmit queue (R407). -/
def State.twinMutes (s : State) (port q : Nat) : Bool :=
  bitOf (s.reg .TWN_MUTE 0 (port * 16 + q / 32)) (q % 32) &&
    (match s.twin.st with
     | .solo => false
     | .active => s.twin.muteUntil
     | .pairing | .standby | .isolated => true)

/-! ### Output comparison (R416, R417) -/

/-- The FI count of a programme. -/
def State.fi (s : State) (k : Nat) : Nat := Tab.getD s.twin.fi k 0

/-- Table TWN-6 for rows whose signatures differ. -/
def State.rowDiffers (s : State) (k : Nat) (rec_ : BitVec 32) (activeFi standbyFi : Bool) : State :=
  let code := if activeFi then (if standbyFi then 2 else 1) else if standbyFi then 3 else 4
  let s := s.fset F.TWN_ERR_MISMATCH 0 0 (min (s.fget F.TWN_ERR_MISMATCH 0 0 + 1) 0xFFFF)
  let s := s.post Src.twin 0x1502 [.u 1 k, .u 4 rec_.toNat, .u 1 code]
  let s := if code = 2 ∨ code = 4 then s.fset F.TWN_STAT_ALARM 0 0 1 else s
  if code = 1 then s.takeover 2 else s.unsync k

/-- The standby compares a row of its own with the active's. -/
def State.rowCompare (s : State) (own peer : RowSig) : State :=
  let last := Tab.getD s.twin.lastFi own.pgm (peer.fi, own.fi)
  let s := s.setTwin { s.twin with
    rows := s.twin.rows.filter (fun r => r != own), peerRows := s.twin.peerRows.filter (fun r => r != peer)
    lastFi := Tab.set s.twin.lastFi own.pgm (peer.fi, own.fi) }
  if own.crc = peer.crc then s
  else s.rowDiffers own.pgm own.rec_ (last.1 != peer.fi) (last.2 != own.fi)

/-- Whether the standby compares a programme's rows. -/
def State.compares (s : State) (k : Nat) : Bool := s.twin.st == .standby && s.twinSync.getLsbD k

/-- Whether two row signatures are of one row. -/
def RowSig.same (a b : RowSig) : Bool := a.pgm == b.pgm && a.rec_ == b.rec_

/-- A row of a pan commits (R416, R417): OUT_SIG is sent, and the standby keeps the row for comparison. -/
def State.twinCommit (s : State) (k records : Nat) (bytes : List Byte) : State :=
  if s.twin.st = .solo then s
  else
    let own : RowSig := ⟨k, BitVec.ofNat 32 records, crc crc32c bytes, s.fi k⟩
    let s := s.twinCtl 0x03 [BitVec.ofNat 64 (k + own.fi * 2 ^ 8 + own.crc.toNat * 2 ^ 32), own.rec_.zeroExtend 64]
    if s.compares k then
      match s.twin.peerRows.find? (fun r => r.same own) with
      | some peer => s.rowCompare own peer
      | none => s.setTwin { s.twin with rows := s.twin.rows ++ [own] }
    else s

end Sys2Proof.Machine
end

