-- ==== Sys2Proof/Machine/RxOps.lean ====
section
/-! DEFINITION. The receive side of the Ethernet ports (chapter 10): classification of frames, receive flows, raw rings, ST 2110-20
video. -/

namespace Sys2Proof.Machine

/-- The state with the ports changed. -/
def State.setNet (s : State) (x : Net) : State := { s with net := x }

/-- A port's counter goes up by one (table NET-10); counters wrap. -/
def State.netCount (s : State) (port link cnt : Nat) : State :=
  s.setNet { s.net with counts := Tab.set s.net.counts (port, link, cnt) (Tab.getD s.net.counts (port, link, cnt) 0 + 1) }

/-- Whether a link is up. -/
def State.linkUp (s : State) (port link : Nat) : Bool := bitOf (s.reg .ETH_STAT port 0) link && decide (link < 4)

/-! ### Frames (R305) -/

/-- The one's complement sum of 16-bit words, as in the IPv4 and UDP checksums; an odd last byte is padded with a zero. -/
def onesSum : List Byte → Nat
  | a :: b :: t => let x := a.toNat * 256 + b.toNat + onesSum t; x % 65536 + x / 65536
  | [a] => a.toNat * 256
  | [] => 0

/-- An IPv4 UDP frame that passed the checks: its tag, the offset of its IPv4 header, addresses, destination port, UDP
payload. -/
structure UdpFrame where
  tag : Option Nat
  ip : Nat
  ihl : Nat
  src : Nat
  dst : Nat
  dport : Nat
  payload : List Byte
  deriving DecidableEq, Repr

/-- What a frame is. -/
inductive RxClass where
  | control
  | other
  | udp (u : UdpFrame)
  deriving DecidableEq, Repr

/-- The tag of a frame, its EtherType after at most one tag, the offset of what follows. -/
def frameType (f : List Byte) : Option Nat × Nat × Nat :=
  if beAt f 12 2 = 0x8100 then (some (beAt f 14 2 % 4096), beAt f 16 2, 18) else (none, beAt f 12 2, 14)

/-- The pseudo header of a UDP checksum. -/
def pseudoHeader (f : List Byte) (ip len : Nat) : List Byte := (f.drop (ip + 12)).take 8 ++ [0, 17] ++ beBytes 2 len

/-- Classify a frame that passed check 1: checks 2 to 4 of R305. -/
def classify (f : List Byte) : RxClass :=
  if beAt f 12 2 = 0x8808 then .control
  else
    let (tag, et, ip) := frameType f
    let ihl := 4 * (beAt f ip 1 % 16)
    let total := beAt f (ip + 2) 2
    if et ≠ 0x0800 ∨ beAt f ip 1 / 16 ≠ 4 ∨ ihl < 20 ∨ f.length < ip + ihl ∨ onesSum ((f.drop ip).take ihl) ≠ 0xFFFF ∨
        beAt f (ip + 9) 1 ≠ 17 ∨ f.length < ip + total ∨ total < ihl + 8 then .other
    else
      let len := beAt f (ip + ihl + 4) 2
      let seg := (f.drop (ip + ihl)).take len
      if len < 8 ∨ total < ihl + len then .other
      else if beAt f (ip + ihl + 6) 2 ≠ 0 ∧ onesSum (pseudoHeader f ip len ++ seg) ≠ 0xFFFF then .other
      else .udp ⟨tag, ip, ihl, beAt f (ip + 12) 4, beAt f (ip + 16) 4, beAt f (ip + ihl + 2) 2, seg.drop 8⟩

/-! ### Receive flow descriptors (table NET-2) -/

abbrev RxDesc := BitVec 512

def rxKind (d : RxDesc) : Nat := bitsOf d 1 0
def rxDup (d : RxDesc) : Bool := bitOf d 2
def rxChkSrc (d : RxDesc) : Bool := bitOf d 3
def rxPortA (d : RxDesc) : Nat := bitsOf d 6 4
def rxLinkA (d : RxDesc) : Nat := bitsOf d 8 7
def rxPortB (d : RxDesc) : Nat := bitsOf d 11 9
def rxLinkB (d : RxDesc) : Nat := bitsOf d 13 12
def rxVfmt (d : RxDesc) : Nat := bitsOf d 194 192
def rxBufs (d : RxDesc) : Nat := bitsOf d 207 200
def rxTmo (d : RxDesc) : Nat := bitsOf d 223 208
def rxW (d : RxDesc) : Nat := bitsOf d 239 224
def rxH (d : RxDesc) : Nat := bitsOf d 255 240
def rxBase (d : RxDesc) : Nat := bitsOf d 303 256
def rxPitch (d : RxDesc) : Nat := bitsOf d 351 320
def rxSlotLog2 (d : RxDesc) : Nat := bitsOf d 323 320
def rxRingLog2 (d : RxDesc) : Nat := bitsOf d 332 328
def rxStride (d : RxDesc) : Nat := bitsOf d 383 352
def rxToken (d : RxDesc) : W64 := d.extractLsb' 384 64

/-- Bytes of a line of n samples or pixels of a video format (tables NET-3, CMP-8). -/
def rxLine (vf n : Nat) : Nat := if vf ≤ 2 then 4 * ceilDiv n 3 else 4 * n

/-- Whether a descriptor keeps table NET-2. -/
def rxDescOk (d : RxDesc) : Bool :=
  let video := rxKind d == 1
  decide (rxKind d = 1 ∨ rxKind d = 2) && (rxDup d || bitsOf d 13 9 == 0) && bitsOf d 31 27 == 0 &&
    (rxChkSrc d || bitsOf d 191 128 == 0) && rxBase d % 4096 == 0 && tokenDestOk (rxToken d) && bitsOf d 511 448 == 0 &&
    (if video then
      decide (rxVfmt d ≤ 4 ∧ 1 ≤ rxBufs d ∧ rxBufs d ≤ 64 ∧ 1 ≤ rxTmo d ∧ rxW d % 8 = 0 ∧ 64 ≤ rxW d ∧ rxW d ≤ 8192 ∧
        rxH d % 8 = 0 ∧ 64 ≤ rxH d ∧ rxH d ≤ 4352 ∧ rxPitch d % 32 = 0 ∧ rxLine (rxVfmt d) (rxW d) ≤ rxPitch d ∧
        rxStride d % 4096 = 0 ∧ 2 * rxPitch d * rxH d ≤ rxStride d)
    else
      rxVfmt d == 0 && rxBufs d == 0 && rxTmo d == 0 && rxW d == 0 && rxH d == 0 && rxStride d == 0 &&
        bitsOf d 327 324 == 0 && bitsOf d 351 333 == 0 && decide (11 ≤ rxSlotLog2 d ∧ rxSlotLog2 d ≤ 14 ∧ 4 ≤ rxRingLog2 d ∧ rxRingLog2 d ≤ 16))

/-- Whether a frame matches a path of a flow: path, port, link. -/
def rxPathMatch (d : RxDesc) (b : Bool) (port link : Nat) (u : UdpFrame) : Bool :=
  let vlan := if bitOf d 26 then u.tag == some (bitsOf d 25 14) else u.tag.isNone
  if b then
    rxDup d && rxPortB d == port && rxLinkB d == link && u.dst == bitsOf d 127 96 && u.dport == bitsOf d 95 80 && vlan &&
      (!rxChkSrc d || u.src == bitsOf d 191 160)
  else
    rxPortA d == port && rxLinkA d == link && u.dst == bitsOf d 63 32 && u.dport == bitsOf d 79 64 && vlan &&
      (!rxChkSrc d || u.src == bitsOf d 159 128)

/-! ### Flows -/

/-- A receive flow. -/
def State.rxFlow (s : State) (k : Nat) : RxFlow := Tab.getD s.net.flows k {}

/-- The state with a receive flow changed. -/
def State.setRxFlow (s : State) (k : Nat) (x : RxFlow) : State := s.setNet { s.net with flows := Tab.set s.net.flows k x }

/-- The event source of a flow: the port of its path A (R324). -/
def State.rxSrc (s : State) (k : Nat) : Nat := Src.eth (rxPortA (s.rxFlow k).desc)

/-- A flow discards: `DROPS` goes up, and counter 5 of the port for a late packet or a full ring (tables NET-10, NET-19). -/
def State.rxDrop (s : State) (k port link : Nat) (late : Bool) : State :=
  let s := s.fset F.ETH_RXF_ERR_DROPS 0 k (min (s.fget F.ETH_RXF_ERR_DROPS 0 k + 1) 0xFFFF)
  if late then s.netCount port link 5 else s

/-! ### Raw rings (R310) -/

/-- The header of a slot. -/
def rawHeader (time : W64) (len port link : Nat) (pathB : Bool) (n : Nat) : List Byte :=
  leBytes 8 time.toNat ++ leBytes 2 len ++ leBytes 1 (port + link * 2 ^ 3 + b2n pathB * 2 ^ 5) ++ leBytes 1 0 ++
    leBytes 4 n ++ leBytes 16 0

/-- The RTP sequence number of a frame's UDP payload. -/
def rtpSeq (c : RxClass) : Option (BitVec 32) :=
  match c with
  | .udp u => if 4 ≤ u.payload.length then some (BitVec.ofNat 32 (beAt u.payload 2 2)) else none
  | _ => none

/-- A raw-ring flow takes a frame. -/
def State.rawTake (s : State) (k port link : Nat) (pathB : Bool) (f : List Byte) (c : RxClass) : State :=
  let x := s.rxFlow k
  let d := x.desc
  let seq := if rxDup d then rtpSeq c else none
  let copy : Bool := match seq with
    | some q => x.seen.contains q
    | none => false
  if copy then s
  else
    let prod := s.fget F.ETH_RXF_RING_PROD 0 k
    if 2 ^ rxSlotLog2 d < f.length + 32 ∨ ringCap (rxRingLog2 d) ≤ ringUsed prod (s.fget F.ETH_RXF_RING_CONS 0 k) then
      s.rxDrop k port link true
    else
      let (sec, ns) := subNs s.time.sec s.time.ns (s.fget F.TIM_LAT_RXLAT 0 port)
      let addr := rxBase d + 2 ^ rxSlotLog2 d * (x.s % 2 ^ rxRingLog2 d)
      let src := s.rxSrc k
      let s := (s.writeRange src addr (rawHeader (packTime sec ns) f.length port link pathB x.s ++ f)).2
      let s := s.setRxFlow k { x with
        s := x.s + 1, seen := match seq with
          | some q => (q :: x.seen).take 1024
          | none => x.seen }
      (s.fset F.ETH_RXF_RING_PROD 0 k ((prod + 1) % 65536)).sendToken src (rxToken d) (BitVec.ofNat 64 (x.s % 2 ^ 32))

/-! ### Video frames (R307) -/

/-- A pixel group of a format: its octets, its pixels across, its lines. -/
def pgroup (vf : Nat) : Nat × Nat × Nat :=
  match vf with
  | 0 => (5, 2, 1)
  | 1 => (15, 4, 2)
  | 2 => (4, 2, 1)
  | 3 => (15, 4, 1)
  | _ => (3, 1, 1)

/-- A word of 4 bytes to write: address, mask, value. -/
abbrev BitWrite := Nat × Nat × Nat

/-- The write of sample number i of a line of n at an address, packed three to a word: the word's third sample, or the line's
last, takes the zeros after it (R152, R307). -/
def sampleWrite (n line i v : Nat) : BitWrite :=
  let sh := 10 * (i % 3)
  (line + 4 * (i / 3), (if i % 3 = 2 ∨ i + 1 = n then 2 ^ (32 - sh) - 1 else 0x3FF) * 2 ^ sh, v * 2 ^ sh)

/-- The writes of a pixel group: w is the samples of a line, `luma` and `chroma` give the address of a line of each plane, y its
first line, g its number in the line, b its octets. -/
def groupWrites (vf w : Nat) (luma chroma : Nat → Nat) (y g : Nat) (b : List Byte) : List BitWrite :=
  let v := beNat b
  let bits := if vf = 2 ∨ vf = 4 then 8 else 10
  let n := 8 * b.length / bits
  let smp (i : Nat) : Nat := v / 2 ^ (8 * b.length - bits * (i + 1)) % 2 ^ bits * (if vf = 2 then 4 else 1)
  match vf with
  | 0 | 2 =>
    [sampleWrite w (chroma y) (2 * g) (smp 0), sampleWrite w (luma y) (2 * g) (smp 1),
      sampleWrite w (chroma y) (2 * g + 1) (smp 2), sampleWrite w (luma y) (2 * g + 1) (smp 3)]
  | 1 =>
    let l (dy i k : Nat) : BitWrite := sampleWrite w (luma (y + dy)) (4 * g + i) (smp k)
    let c (i k : Nat) : BitWrite := sampleWrite w (chroma (y / 2)) (4 * g + i) (smp k)
    [l 0 0 0, l 0 1 1, l 1 0 2, l 1 1 3, c 0 4, c 1 5, l 0 2 6, l 0 3 7, l 1 2 8, l 1 3 9, c 2 10, c 3 11]
  | 3 =>
    (List.range (n / 3)).map (fun p => (luma y + 4 * (4 * g + p), 0xFFFFFFFF,
      smp (3 * p) + smp (3 * p + 1) * 2 ^ 10 + smp (3 * p + 2) * 2 ^ 20 + 3 * 2 ^ 30))
  | _ => [(luma y + 4 * g, 0xFFFFFFFF, smp 0 + smp 1 * 2 ^ 8 + smp 2 * 2 ^ 16 + 255 * 2 ^ 24)]

/-- Writes gathered by 32-byte word: mask and value. -/
def gather (l : List BitWrite) : Tab Nat (Nat × Nat) :=
  l.foldl (fun t w =>
    let a := w.1 / 32 * 32
    let sh := 8 * (w.1 % 32)
    let old := Tab.getD t a (0, 0)
    Tab.set t a (old.1 ||| w.2.1 * 2 ^ sh, old.2 ||| w.2.2 * 2 ^ sh)) []

/-- Write the bits of words that masks name: a whole word, or a read, a merge and a write (R123, R307). -/
def State.writeBits (req : Nat) : List (Nat × Nat × Nat) → State → State
  | [], s => s
  | (a, m, v) :: t, s =>
    let mask : W256 := BitVec.ofNat 256 m
    let d : W256 := BitVec.ofNat 256 v
    if ~~~mask = 0 then State.writeBits req t (s.memWrite req a d).2
    else
      let (r, s) := s.memRead req a
      let s := match r with
        | .ok old => (s.memWrite req a ((old &&& ~~~mask) ||| d)).2
        | .poison _ => { s with mem := writeCode s.mem a poisonWord }
        | .addrErr => s
      State.writeBits req t s

/-- The address of a luma line of a frame buffer, and of a chroma line. -/
def rxLumaAt (d : RxDesc) (buf l : Nat) : Nat := rxBase d + buf * rxStride d + l * rxPitch d
def rxChromaAt (d : RxDesc) (buf l : Nat) : Nat := rxBase d + buf * rxStride d + (rxH d + l) * rxPitch d

/-- The bands of a frame. -/
def rxBands (d : RxDesc) : Nat := ceilDiv (rxH d) 64

/-- The lines of a band. -/
def rxBandLines (d : RxDesc) (b : Nat) : Nat := min 64 (rxH d - 64 * b)

/-- The pixel groups of a band. -/
def rxBandGroups (d : RxDesc) (b : Nat) : Nat :=
  let (_, w, h) := pgroup (rxVfmt d)
  rxBandLines d b / h * (rxW d / w)

/-- The pixel groups of a band that have been written. -/
def rxGot (fr : RxFrame) (b : Nat) : Nat := (fr.got.filter (fun g => g.1 / 64 == b)).length

/-- The lines of a band in its buffer, luma then chroma: address and bytes of each. -/
def rxLines (d : RxDesc) (buf b : Nat) : List (Nat × Nat) :=
  let vf := rxVfmt d
  let n := rxBandLines d b
  let size := rxLine vf (rxW d)
  let luma := (List.range n).map (fun i => (rxLumaAt d buf (64 * b + i), size))
  let chroma := if vf = 0 ∨ vf = 2 then (List.range n).map (fun i => (rxChromaAt d buf (64 * b + i), size))
    else if vf = 1 then (List.range (n / 2)).map (fun i => (rxChromaAt d buf (32 * b + i), size))
    else []
  luma ++ chroma

/-- The bytes of a band's lines as they stand. -/
def State.readBand (s : State) (req : Nat) (lines : List (Nat × Nat)) : List Byte × State :=
  lines.foldl (fun (acc : List Byte × State) x =>
    let ((l, _), s) := acc.2.readOpen req x.1 x.2 (wordsOf x.1 x.2) [] []
    (acc.1 ++ l, s)) ([], s)

/-- The value of a row-ready token (R309). -/
def rowReady (ts band : Nat) (complete last : Bool) (buf : Nat) : W64 :=
  BitVec.ofNat 64 (ts % 2 ^ 32 + band * 2 ^ 32 + b2n complete * 2 ^ 44 + b2n last * 2 ^ 45 + buf * 2 ^ 46)

/-- The next band of a frame closes: incomplete when pixel groups are missing, or when an earlier band closed at the second
moment of R309 (`late`). -/
def State.rxClose (s : State) (k : Nat) (fr : RxFrame) (late : Bool := false) : State :=
  let d := (s.rxFlow k).desc
  let b := fr.next
  let buf := fr.f % rxBufs d
  let src := s.rxSrc k
  let missing := rxBandGroups d b - rxGot fr b
  let whole := missing == 0 && !late
  let s := if whole then s
    else
      (s.fset F.ETH_RXF_ERR_INCOMP 0 k (min (s.fget F.ETH_RXF_ERR_INCOMP 0 k + 1) 0xFFFF)).post src 0x0F02
        [.u 2 k, .u 4 fr.ts.toNat, .u 2 b, .u 4 (missing * (pgroup (rxVfmt d)).1)]
  let lines := rxLines d buf b
  let (bytes, s) := s.readBand src lines
  let c := crc crc32c bytes
  let s := s.chkBlock 4 k ⟨BitVec.ofNat 64 (fr.ts.toNat * 65536 + b), bytes, !whole⟩
  s.twinBand {
    sdi := false, id := k, band := b, ident := fr.ts.zeroExtend 64, period := 0, crc := c, complete := whole
    repeated := false, lines := lines, src := src, dest := rxToken d
    value := rowReady fr.ts.toNat b whole (b + 1 == rxBands d) buf }

/-- The timestamps of closed frames with one more: a timestamp is kept while it lies less than 2^31 behind, after which it may
name a new frame (log entry 100). -/
def RxFlow.pastWith (x : RxFlow) (ts : BitVec 32) : List (BitVec 32) :=
  ts :: x.past.filter (fun t => decide ((ts - t).toNat < 2 ^ 31))

/-- The oldest frame has closed its next band: it goes on to the band after, or ends. -/
def RxFlow.closed (x : RxFlow) : RxFlow :=
  match x.frames with
  | [] => x
  | fr :: t =>
    if fr.next + 1 = rxBands x.desc then { x with frames := t, past := x.pastWith fr.ts }
    else { x with frames := { fr with next := fr.next + 1 } :: t }

/-- Close the bands of a flow that are complete, oldest frame first, in band order; `fuel` bounds them. -/
def State.rxComplete (k : Nat) : Nat → State → State
  | 0, s => s
  | fuel + 1, s =>
    match (s.rxFlow k).frames with
    | [] => s
    | fr :: _ =>
      if rxBandGroups (s.rxFlow k).desc fr.next = rxGot fr fr.next then
        let s := s.rxClose k fr
        State.rxComplete k fuel (s.setRxFlow k (s.rxFlow k).closed)
      else s

/-- Bands that a flow may close at once. -/
def RxFlow.openBands (x : RxFlow) : Nat := x.frames.length * rxBands x.desc

/-- Close the oldest frame's next band as it stands, then those after it that are complete. -/
def State.rxCloseNext (s : State) (k : Nat) : State :=
  match (s.rxFlow k).frames with
  | [] => s
  | fr :: _ =>
    let s := s.rxClose k fr
    let s := s.setRxFlow k (s.rxFlow k).closed
    State.rxComplete k (s.rxFlow k).openBands s

/-- Close every band of the oldest frame that is still open, incomplete, in band order (R309). -/
def State.rxCloseFrame (k : Nat) (ts : BitVec 32) : Nat → State → State
  | 0, s => s
  | fuel + 1, s =>
    match (s.rxFlow k).frames with
    | [] => s
    | fr :: _ =>
      if fr.ts = ts then
        let s := s.rxClose k fr true
        State.rxCloseFrame k ts fuel (s.setRxFlow k (s.rxFlow k).closed)
      else s

/-- The idle timeout closes the oldest frame, and the bands of the frames after it that are complete follow. -/
def State.rxIdle (s : State) (k : Nat) : State :=
  match (s.rxFlow k).frames with
  | [] => s
  | fr :: _ =>
    let s := State.rxCloseFrame k fr.ts (rxBands (s.rxFlow k).desc) s
    State.rxComplete k (s.rxFlow k).openBands s

/-! ### Video packets (R307, R308) -/

/-- A sample row data header: field bit, line, offset in pixels, octets. -/
structure SrdHeader where
  field : Bool
  line : Nat
  off : Nat
  len : Nat
  deriving DecidableEq, Repr

/-- The headers of a packet, three at most, and the data after them. -/
def srdHeaders : Nat → List Byte → List SrdHeader × List Byte
  | 0, b => ([], b)
  | fuel + 1, b =>
    if b.length < 6 then ([], [])
    else
      let h : SrdHeader := ⟨decide (32768 ≤ beAt b 2 2), beAt b 2 2 % 32768, beAt b 4 2 % 32768, beAt b 0 2⟩
      if 32768 ≤ beAt b 4 2 then
        let (l, rest) := srdHeaders fuel (b.drop 6)
        (h :: l, rest)
      else ([h], b.drop 6)

/-- An RTP packet of video: its timestamp, its extended sequence number, its headers and data. -/
structure VideoPacket where
  ts : BitVec 32
  seq : BitVec 32
  headers : List SrdHeader
  data : List Byte
  deriving DecidableEq, Repr

/-- The RTP packet in a UDP payload; `none` when it is not version 2 or is cut short. -/
def videoPacket (p : List Byte) : Option VideoPacket :=
  let b0 := beAt p 0 1
  let head := 12 + 4 * (b0 % 16)
  let ext := if b0 / 16 % 2 = 1 then 4 + 4 * beAt p (head + 2) 2 else 0
  let body := p.drop (head + ext)
  if b0 / 64 ≠ 2 ∨ body.length < 8 then none
  else
    let (hs, data) := srdHeaders 3 (body.drop 2)
    some ⟨BitVec.ofNat 32 (beAt p 4 4), BitVec.ofNat 32 (beAt body 0 2 * 65536 + beAt p 2 2), hs, data⟩

/-- Whether a header's pixels lie inside the frame, in whole pixel groups. -/
def SrdHeader.inside (h : SrdHeader) (d : RxDesc) : Bool :=
  let (oct, w, ht) := pgroup (rxVfmt d)
  !h.field && decide (h.line < rxH d ∧ h.line % ht = 0 ∧ h.off % w = 0 ∧ h.len % oct = 0 ∧ h.off + h.len / oct * w ≤ rxW d)

/-- Write the pixel groups of one header and note them. -/
def State.rxPlace (s : State) (k : Nat) (fr : RxFrame) (h : SrdHeader) (b : List Byte) : RxFrame × State :=
  let d := (s.rxFlow k).desc
  let vf := rxVfmt d
  let (oct, w, _) := pgroup vf
  let buf := fr.f % rxBufs d
  let n := min (h.len / oct) (b.length / oct)
  let groups := (List.range n).map (fun i => h.off / w + i)
  let writes := (List.range n).flatMap (fun i =>
    groupWrites vf (rxW d) (rxLumaAt d buf) (rxChromaAt d buf) h.line (h.off / w + i) ((b.drop (oct * i)).take oct))
  let s := State.writeBits (s.rxSrc k) (gather writes) s
  ({ fr with got := fr.got ++ (groups.map (fun g => (h.line, g))).filter (fun g => !fr.got.contains g)
             reach := max fr.reach (h.line / 64 + 1) }, s)

/-- Place the headers of a packet: one outside the frame or of a closed band is discarded and counted, a packet once as
late. -/
def State.rxPlaceAll (k port link : Nat) : List SrdHeader → List Byte → Bool → RxFrame → State → RxFrame × State
  | [], _, _, fr, s => (fr, s)
  | h :: t, b, late, fr, s =>
    let rest := b.drop h.len
    if ¬ h.inside (s.rxFlow k).desc then State.rxPlaceAll k port link t rest late fr (s.rxDrop k port link false)
    else if h.line / 64 < fr.next then
      State.rxPlaceAll k port link t rest true fr (if late then s else s.rxDrop k port link true)
    else
      let (fr, s) := s.rxPlace k fr h (b.take h.len)
      State.rxPlaceAll k port link t rest late fr s

/-- Whether a packet is a copy, or too late, under ST 2022-7 (R308). -/
inductive DupCheck where
  | ok | copy | late

/-- The check of a sequence number, with the flow that has accepted it. -/
def RxFlow.dupCheck (x : RxFlow) (seq : BitVec 32) : DupCheck × RxFlow :=
  if ¬ rxDup x.desc then (.ok, x)
  else match x.high with
    | none => (.ok, { x with high := some seq, seen := [seq] })
    | some h =>
      let ahead := (seq - h).toNat
      let behind := (h - seq).toNat
      if x.seen.contains seq then (.copy, x)
      else if 0 < ahead ∧ ahead < 2 ^ 31 then
        (.ok, { x with high := some seq, seen := seq :: x.seen.filter (fun q => decide ((seq - q).toNat < 4096)) })
      else if behind < 4096 then (.ok, { x with seen := seq :: x.seen })
      else (.late, x)

/-- A video flow takes a packet. -/
def State.videoTake (s : State) (k port link : Nat) (p : List Byte) : State :=
  match videoPacket p with
  | none => s.rxDrop k port link false
  | some v =>
    match (s.rxFlow k).dupCheck v.seq with
    | (.copy, _) => s
    | (.late, _) => s.rxDrop k port link true
    | (.ok, x) =>
      let s := s.setRxFlow k x
      if x.past.contains v.ts then s.rxDrop k port link true
      else
        let x := if x.frames.any (fun fr => fr.ts == v.ts) then x
          else { x with frames := x.frames ++ [{ ts := v.ts, f := x.f }], f := x.f + 1 }
        let s := s.setRxFlow k x
        match x.frames.find? (fun fr => fr.ts == v.ts) with
        | none => s
        | some fr =>
          let (fr, s) := State.rxPlaceAll k port link v.headers v.data false fr s
          let x := s.rxFlow k
          let s := s.setRxFlow k { x with frames := x.frames.map (fun g => if g.ts = fr.ts then fr else g) }
          State.rxComplete k (s.rxFlow k).openBands s

/-! ### Classification (R305) -/

/-- The lowest-numbered enabled flow that a frame matches, and whether on path B. -/
def State.rxMatch (s : State) (port link : Nat) (u : UdpFrame) : Option (Nat × Bool) :=
  let hits := s.net.flows.filterMap (fun (x : Nat × RxFlow) =>
    if ¬ x.2.on then none
    else if rxPathMatch x.2.desc false port link u then some (x.1, false)
    else if rxPathMatch x.2.desc true port link u then some (x.1, true)
    else none)
  hits.foldl (fun (best : Option (Nat × Bool)) h => match best with
    | none => some h
    | some b => if h.1 < b.1 then some h else some b) none

/-- A frame goes to the port's default flow. -/
def State.rxDefault (s : State) (port link : Nat) (f : List Byte) (c : RxClass) : State :=
  let k := s.fget F.ETH_CFG_DEFLOW port 0
  let x := s.rxFlow k
  if k ≠ 0x3FF ∧ x.on ∧ rxKind x.desc = 2 then s.rawTake k port link false f c else s.netCount port link 3

/-- A frame that passed check 1 is classified. -/
def State.rxClassified (s : State) (port link : Nat) (f : List Byte) : State :=
  match classify f with
  | .control => s.netCount port link 4
  | .other => s.rxDefault port link f .other
  | .udp u =>
    match s.rxMatch port link u with
    | none => s.rxDefault port link f (.udp u)
    | some (k, pathB) =>
      if rxKind (s.rxFlow k).desc = 1 then s.videoTake k port link u.payload
      else s.rawTake k port link pathB f (.udp u)

end Sys2Proof.Machine
end

