-- ==== Sys2Proof/Machine/Aes.lean ====
section
/-! DEFINITION. The AES cipher (FIPS 197) and its counter and Galois modes (SP 800-38A, SP 800-38D), which the suites of SRTP use
(R318). PRESUMED: the spec names the suites and does not restate the cipher (log entry 16). -/

namespace Sys2Proof.Machine

/-! ### The cipher -/

/-- Multiplication by x in the field of FIPS 197. -/
def aesX (a : Byte) : Byte := if a.msb then (a <<< 1) ^^^ 0x1B#8 else a <<< 1

/-- The product of two bytes, over the low n bits of the second. -/
def aesMul : Nat → Byte → Byte → Byte
  | 0, _, _ => 0
  | n + 1, a, b => (if b.getLsbD 0 then a else 0) ^^^ aesMul n (aesX a) (b >>> 1)

/-- The inverse of a byte, 0 for 0: its power 254. -/
def aesInv (a : Byte) : Byte :=
  let m := aesMul 8
  let a2 := m a a
  let a4 := m a2 a2
  let a8 := m a4 a4
  let a16 := m a8 a8
  let a32 := m a16 a16
  let a64 := m a32 a32
  m (m (m a2 a4) (m a8 a16)) (m (m a32 a64) (m a64 a64))

/-- The substitution of a byte. -/
def aesSub (a : Byte) : Byte :=
  let b := aesInv a
  b ^^^ b.rotateLeft 1 ^^^ b.rotateLeft 2 ^^^ b.rotateLeft 3 ^^^ b.rotateLeft 4 ^^^ 0x63#8

/-- Two lists of bytes, exclusive-or byte by byte. -/
def xorBytes (a b : List Byte) : List Byte := List.zipWith (· ^^^ ·) a b

/-- n more words of a key schedule of a key of nk words, held last word first; i is the number of the next word, rc the next round
constant. -/
def aesExpand (nk : Nat) : Nat → Nat → Byte → List (List Byte) → List (List Byte)
  | 0, _, _, w => w
  | n + 1, i, rc, w =>
    let t := w.headD []
    let x :=
      if i % nk = 0 then xorBytes ((t.drop 1 ++ t.take 1).map aesSub) [rc, 0, 0, 0]
      else if nk = 8 ∧ i % nk = 4 then t.map aesSub
      else t
    aesExpand nk n (i + 1) (if i % nk = 0 then aesX rc else rc) (xorBytes (w.getD (nk - 1) []) x :: w)

/-- The round keys of a key of 16 or 32 bytes, first first, 16 bytes each. -/
def aesKeys (key : List Byte) : List (List Byte) :=
  let nk := key.length / 4
  let w := (List.range nk).map fun i => (key.drop (4 * i)).take 4
  let all := ((aesExpand nk (3 * nk + 28) nk 1 w.reverse).reverse).foldl (· ++ ·) []
  (List.range (nk + 7)).map fun i => (all.drop (16 * i)).take 16

/-- The rows of a block, held column by column, shifted. -/
def aesShift (b : List Byte) : List Byte := (List.range 16).map fun i => b.getD ((i + 4 * (i % 4)) % 16) 0

/-- The columns of a block mixed. -/
def aesMix (b : List Byte) : List Byte :=
  (List.range 16).map fun i =>
    let at_ (k : Nat) : Byte := b.getD (i / 4 * 4 + (i + k) % 4) 0
    aesX (at_ 0) ^^^ (aesX (at_ 1) ^^^ at_ 1) ^^^ at_ 2 ^^^ at_ 3

/-- The rounds after the first key is added; the last does not mix. -/
def aesRounds : List (List Byte) → List Byte → List Byte
  | [], b => b
  | [k], b => xorBytes (aesShift (b.map aesSub)) k
  | k :: t, b => aesRounds t (xorBytes (aesMix (aesShift (b.map aesSub))) k)

/-- A block enciphered under round keys. -/
def aesBlock (keys : List (List Byte)) (b : List Byte) : List Byte := aesRounds (keys.drop 1) (xorBytes b (keys.headD []))

/-! ### Modes -/

/-- n bytes of key stream: the encipherments of a 128-bit counter and of its successors, counting in the low `w` bits. -/
def aesStream (keys : List (List Byte)) (w ctr n : Nat) : List Byte :=
  ((List.range ((n + 15) / 16)).foldl
    (fun a i => a ++ aesBlock keys (beBytes 16 (ctr / 2 ^ w * 2 ^ w + (ctr + i) % 2 ^ w))) []).take n

/-- The product in the field of GCM, whose bit 0 is the highest bit of the number, over n bits of the first operand. -/
def gcmMul : Nat → Nat → Nat → Nat
  | 0, _, _ => 0
  | n + 1, a, v =>
    (if a / 2 ^ n % 2 = 1 then v else 0) ^^^ gcmMul n a (if v % 2 = 1 then (v / 2) ^^^ (0xE1 * 2 ^ 120) else v / 2)

/-- Bytes padded with zeros to blocks of 16, as numbers, first first. -/
def blocksOf (b : List Byte) : List Nat :=
  (List.range ((b.length + 15) / 16)).map fun i =>
    let c := (b.drop (16 * i)).take 16
    beNat (c ++ List.replicate (16 - c.length) 0)

/-- What GCM sends for a plaintext under a key, a 12-byte initialisation vector and additional data: the ciphertext and the 16-byte
tag. -/
def gcmSeal (key iv aad plain : List Byte) : List Byte :=
  let keys := aesKeys key
  let h := beNat (aesBlock keys (List.replicate 16 0))
  let j0 := beNat iv * 2 ^ 32 + 1
  let c := xorBytes plain (aesStream keys 32 (j0 + 1) plain.length)
  let g := (blocksOf aad ++ blocksOf c ++ [8 * aad.length * 2 ^ 64 + 8 * c.length]).foldl
    (fun y x => gcmMul 128 (y ^^^ x) h) 0
  c ++ xorBytes (beBytes 16 g) (aesBlock keys (beBytes 16 j0))

end Sys2Proof.Machine
end

