-- ==== Sys2Proof/Machine/Sha.lean ====
section
/-! DEFINITION. The digests of FIPS 180-4 that the spec names: SHA-384, with which images and keys are checked (R433, R436, R449),
and SHA-1, under SRTP's HMAC (R318). PRESUMED: the spec names them and does not restate them (log entry 16). -/

namespace Sys2Proof.Machine

/-- A message padded to blocks of `blk` bytes: a 1 bit, zeros, the length in bits in the last `len` bytes. -/
def shaPad (blk len : Nat) (m : List Byte) : List Byte :=
  let z := (2 * blk - 1 - len - m.length % blk) % blk
  m ++ [0x80#8] ++ List.replicate z 0 ++ beBytes len (8 * m.length)

/-- The blocks of a padded message as words of `w` bits, first first. -/
def shaBlocks (w : Nat) (m : List Byte) : List (List (BitVec w)) :=
  (List.range (m.length / (2 * w))).map fun i =>
    (List.range 16).map fun j => BitVec.ofNat w (beAt m (2 * w * i + w / 8 * j) (w / 8))

/-! ### SHA-384 -/

/-- The constants of the 80 rounds. -/
def shaK0 : List W64 :=
  [0x428A2F98D728AE22, 0x7137449123EF65CD, 0xB5C0FBCFEC4D3B2F, 0xE9B5DBA58189DBBC, 0x3956C25BF348B538,
   0x59F111F1B605D019, 0x923F82A4AF194F9B, 0xAB1C5ED5DA6D8118, 0xD807AA98A3030242, 0x12835B0145706FBE,
   0x243185BE4EE4B28C, 0x550C7DC3D5FFB4E2, 0x72BE5D74F27B896F, 0x80DEB1FE3B1696B1, 0x9BDC06A725C71235,
   0xC19BF174CF692694, 0xE49B69C19EF14AD2, 0xEFBE4786384F25E3, 0x0FC19DC68B8CD5B5, 0x240CA1CC77AC9C65]

def shaK1 : List W64 :=
  [0x2DE92C6F592B0275, 0x4A7484AA6EA6E483, 0x5CB0A9DCBD41FBD4, 0x76F988DA831153B5, 0x983E5152EE66DFAB,
   0xA831C66D2DB43210, 0xB00327C898FB213F, 0xBF597FC7BEEF0EE4, 0xC6E00BF33DA88FC2, 0xD5A79147930AA725,
   0x06CA6351E003826F, 0x142929670A0E6E70, 0x27B70A8546D22FFC, 0x2E1B21385C26C926, 0x4D2C6DFC5AC42AED,
   0x53380D139D95B3DF, 0x650A73548BAF63DE, 0x766A0ABB3C77B2A8, 0x81C2C92E47EDAEE6, 0x92722C851482353B]

def shaK2 : List W64 :=
  [0xA2BFE8A14CF10364, 0xA81A664BBC423001, 0xC24B8B70D0F89791, 0xC76C51A30654BE30, 0xD192E819D6EF5218,
   0xD69906245565A910, 0xF40E35855771202A, 0x106AA07032BBD1B8, 0x19A4C116B8D2D0C8, 0x1E376C085141AB53,
   0x2748774CDF8EEB99, 0x34B0BCB5E19B48A8, 0x391C0CB3C5C95A63, 0x4ED8AA4AE3418ACB, 0x5B9CCA4F7763E373,
   0x682E6FF3D6B2B8A3, 0x748F82EE5DEFB2FC, 0x78A5636F43172F60, 0x84C87814A1F0AB72, 0x8CC702081A6439EC]

def shaK3 : List W64 :=
  [0x90BEFFFA23631E28, 0xA4506CEBDE82BDE9, 0xBEF9A3F7B2C67915, 0xC67178F2E372532B, 0xCA273ECEEA26619C,
   0xD186B8C721C0C207, 0xEADA7DD6CDE0EB1E, 0xF57D4F7FEE6ED178, 0x06F067AA72176FBA, 0x0A637DC5A2C898A6,
   0x113F9804BEF90DAE, 0x1B710B35131C471B, 0x28DB77F523047D84, 0x32CAAB7B40C72493, 0x3C9EBE0A15C9BEBC,
   0x431D67C49C100D4C, 0x4CC5D4BECB3E42B6, 0x597F299CFC657E2A, 0x5FCB6FAB3AD6FAEC, 0x6C44198C4A475817]

/-- The constants of the 80 rounds, first first. -/
def shaK : List W64 := shaK0 ++ shaK1 ++ shaK2 ++ shaK3

/-- The first hash value of SHA-384. -/
def sha384Init : List W64 :=
  [0xCBBB9D5DC1059ED8, 0x629A292A367CD507, 0x9159015A3070DD17, 0x152FECD8F70E5939,
   0x67332667FFC00B31, 0x8EB44A8768581511, 0xDB0C2E0D64F98FA7, 0x47B5481DBEFA4FA4]

/-- n more words of a message schedule that is held last word first. -/
def sha512Extend : Nat → List W64 → List W64
  | 0, w => w
  | n + 1, w =>
    let a := w.getD 14 0
    let b := w.getD 1 0
    let s0 := a.rotateRight 1 ^^^ a.rotateRight 8 ^^^ (a >>> 7)
    let s1 := b.rotateRight 19 ^^^ b.rotateRight 61 ^^^ (b >>> 6)
    sha512Extend n ((s1 + w.getD 6 0 + s0 + w.getD 15 0) :: w)

/-- One round, with its constant and its word of the schedule, on the eight working variables. -/
def sha512Round (v : List W64) (kw : W64 × W64) : List W64 :=
  match v with
  | [a, b, c, d, e, f, g, h] =>
    let s1 := e.rotateRight 14 ^^^ e.rotateRight 18 ^^^ e.rotateRight 41
    let ch := (e &&& f) ^^^ (~~~e &&& g)
    let t1 := h + s1 + ch + kw.1 + kw.2
    let s0 := a.rotateRight 28 ^^^ a.rotateRight 34 ^^^ a.rotateRight 39
    let maj := (a &&& b) ^^^ (a &&& c) ^^^ (b &&& c)
    [t1 + s0 + maj, a, b, c, d + t1, e, f, g]
  | _ => v

/-- A block joins the hash value. -/
def sha512Block (h : List W64) (b : List W64) : List W64 :=
  let w := (sha512Extend 64 b.reverse).reverse
  List.zipWith (· + ·) h ((shaK.zip w).foldl sha512Round h)

/-- The SHA-384 digest of a message as a number, its first byte highest. -/
def sha384 (m : List Byte) : BitVec 384 :=
  let h := (shaBlocks 64 (shaPad 128 16 m)).foldl sha512Block sha384Init
  BitVec.ofNat 384 ((h.take 6).foldl (fun a x => a * 2 ^ 64 + x.toNat) 0)

/-! ### SHA-1 -/

/-- n more words of a message schedule that is held last word first. -/
def sha1Extend : Nat → List W32 → List W32
  | 0, w => w
  | n + 1, w => sha1Extend n ((w.getD 2 0 ^^^ w.getD 7 0 ^^^ w.getD 13 0 ^^^ w.getD 15 0).rotateLeft 1 :: w)

/-- Round t, with its word of the schedule, on the five working variables. -/
def sha1Round (v : List W32) (tw : Nat × W32) : List W32 :=
  match v with
  | [a, b, c, d, e] =>
    let x : W32 × W32 :=
      if tw.1 < 20 then ((b &&& c) ^^^ (~~~b &&& d), 0x5A827999)
      else if tw.1 < 40 then (b ^^^ c ^^^ d, 0x6ED9EBA1)
      else if tw.1 < 60 then ((b &&& c) ^^^ (b &&& d) ^^^ (c &&& d), 0x8F1BBCDC)
      else (b ^^^ c ^^^ d, 0xCA62C1D6)
    [a.rotateLeft 5 + x.1 + e + x.2 + tw.2, a, b.rotateLeft 30, c, d]
  | _ => v

/-- A block joins the hash value. -/
def sha1Block (h : List W32) (b : List W32) : List W32 :=
  let w := (sha1Extend 64 b.reverse).reverse
  List.zipWith (· + ·) h (((List.range 80).zip w).foldl sha1Round h)

/-- The 20 bytes of the SHA-1 digest of a message. -/
def sha1 (m : List Byte) : List Byte :=
  let h := (shaBlocks 32 (shaPad 64 8 m)).foldl sha1Block [0x67452301, 0xEFCDAB89, 0x98BADCFE, 0x10325476, 0xC3D2E1F0]
  h.foldl (fun a x => a ++ beBytes 4 x.toNat) []

/-- HMAC-SHA1 (RFC 2104) under a key of at most 64 bytes. -/
def hmacSha1 (key m : List Byte) : List Byte :=
  let k := key ++ List.replicate (64 - key.length) 0
  sha1 (k.map (· ^^^ 0x5C#8) ++ sha1 (k.map (· ^^^ 0x36#8) ++ m))

end Sys2Proof.Machine
end

