-- ==== Sys2Proof/Machine/Srtp.lean ====
section
/-! DEFINITION. The protection of an RTP packet under SRTP (R318): RFC 3711 and RFC 4568 for suite 1, RFC 7714 for suites 2 and 3,
each with a key derivation rate of 0. PRESUMED: the spec names the RFCs and does not restate them (log entry 16). -/

namespace Sys2Proof.Machine

/-- The bytes of master salt that a suite takes. -/
def suiteSalt (suite : Nat) : Nat := if suite = 1 then 14 else 12

/-- n bytes of a session key or salt: the AES key derivation function for a label, with the master salt padded to 14 bytes. -/
def srtpDerive (master salt : List Byte) (label n : Nat) : List Byte :=
  let x := beNat (salt ++ List.replicate (14 - salt.length) 0) ^^^ (label * 2 ^ 48)
  aesStream (aesKeys master) 128 (x * 2 ^ 16) n

/-- What follows the header of an RTP packet once it is protected: the ciphertext of the payload and the tag. `head` is the length
of the header, `index` the packet index. A slot whose salt has not the length that the suite takes gives a salt that the spec
leaves open. -/
def srtpBody (suite : Nat) (key : BitVec 256) (salt : BitVec 112) (saltLen index head : Nat) (rtp : List Byte) : List Byte :=
  let master := (leBytes 32 key.toNat).take (if suite = 3 then 32 else 16)
  let salt := if saltLen = suiteSalt suite then salt else Config.srtpSalt suite saltLen salt
  let salt := (leBytes 14 salt.toNat).take (suiteSalt suite)
  let plain := rtp.drop head
  let ssrc := beAt rtp 8 4
  if suite = 1 then
    let iv := (beNat (srtpDerive master salt 2 14) * 2 ^ 16) ^^^ (ssrc * 2 ^ 64) ^^^ (index * 2 ^ 16)
    let c := xorBytes plain (aesStream (aesKeys (srtpDerive master salt 0 16)) 128 iv plain.length)
    c ++ (hmacSha1 (srtpDerive master salt 1 20) (rtp.take head ++ c ++ beBytes 4 (index / 65536))).take 10
  else
    let iv := xorBytes (beBytes 12 (ssrc * 2 ^ 48 + index)) (srtpDerive master salt 2 12)
    gcmSeal (srtpDerive master salt 0 master.length) iv (rtp.take head) plain

end Sys2Proof.Machine
end

