-- ==== Sys2Proof/Machine/TxOps.lean ====
section
/-! DEFINITION. The transmit side of the Ethernet ports (chapter 10): queues, eligibility, gates, SRTP, the start of a frame. -/

namespace Sys2Proof.Machine

/-! ### Descriptors (tables NET-4, NET-5) -/

def txBuf (d : W256) : Nat := bitsOf d 47 0
def txLen (d : W256) : Nat := bitsOf d 61 48
def txKind (d : W256) : Nat := bitsOf d 63 62
def txTsid (d : W256) : BitVec 16 := d.extractLsb' 64 16
def txTsReq (d : W256) : Bool := bitOf d 80
def txCtx (d : W256) : Nat := bitsOf d 88 81
def txDur (d : W256) : Nat := bitsOf d 127 96
def txTime (d : W256) : W64 := d.extractLsb' 128 64
def txOff (d : W256) : Nat := bitsOf d 223 192
def txTotal (d : W256) : Nat := bitsOf d 255 224

def qClass (d : W256) : Nat := bitsOf d 2 0
def qPace (d : W256) : Nat := bitsOf d 4 3
def qLink (d : W256) : Nat := bitsOf d 6 5
def qRate (d : W256) : Nat := bitsOf d 63 32
def qDepth (d : W256) : Nat := bitsOf d 76 64
def qNpkts (d : W256) : Nat := bitsOf d 127 96
def qFrNum (d : W256) : Nat := bitsOf d 159 128
def qFrDen (d : W256) : Nat := bitsOf d 191 160
def qTro (d : W256) : Nat := bitsOf d 223 192
def qRaNum (d : W256) : Nat := bitsOf d 239 224
def qRaDen (d : W256) : Nat := bitsOf d 255 240

/-- Whether a transmit descriptor keeps table NET-4 on a queue of a given descriptor. -/
def txDescOk (q d : W256) : Bool :=
  decide (14 ≤ txLen d ∧ txLen d ≤ 9596) && bitsOf d 95 89 == 0 &&
    (match txKind d with
     | 0 => txDur d == 0 && txTime d == 0 && txOff d == 0 && txTotal d == 0
     | 1 => qPace q == 1 && txDur d == 0 && txOff d == 0 && txTotal d == 0
     | 2 => qPace q == 1 && decide (txOff d < txTotal d)
     | _ => qPace q == 2 && txDur d == 0 && decide (txOff d < qNpkts q) && txTotal d == 0)

/-- Whether a queue descriptor keeps table NET-5 on a port of a mode. -/
def queueDescOk (mode : Nat) (d : W256) : Bool :=
  let slot := qPace d == 2
  qPace d != 3 && (mode != 1 || qLink d == 0) && bitsOf d 31 7 == 0 && (qPace d == 0 || qRate d != 0) &&
    decide (16 ≤ qDepth d ∧ qDepth d ≤ 4096) && bitsOf d 95 77 == 0 &&
    (if slot then qNpkts d != 0 && qFrNum d != 0 && qFrDen d != 0 && qRaDen d != 0 else bitsOf d 191 96 == 0)

/-- The charge of a queue, in Mb/s (R313). -/
def qMbps (d : W256) : Nat := ceilDiv (qRate d) 1000

/-! ### Queues -/

/-- A port's scheduler. -/
def State.tsh (s : State) (port : Nat) : Tsh := Tab.getD s.net.tsh port {}

/-- The state with a port's scheduler changed. -/
def State.setTsh (s : State) (port : Nat) (x : Tsh) : State := s.setNet { s.net with tsh := Tab.set s.net.tsh port x }

/-- A transmit queue. -/
def State.txq (s : State) (port q : Nat) : TxQueue := Tab.getD (s.tsh port).queues q {}

/-- The state with a transmit queue changed. -/
def State.setTxq (s : State) (port q : Nat) (x : TxQueue) : State :=
  s.setTsh port { s.tsh port with queues := Tab.set (s.tsh port).queues q x }

/-- The tag bytes of a suite (R318). -/
def tagBytes (suite : Nat) : Nat := if suite = 1 then 10 else 16

/-- The tag bytes of a packet: those of its context, none when it has no loaded one. -/
def State.txTag (s : State) (port : Nat) (d : W256) : Nat :=
  match Tab.find? (txCtx d) (s.tsh port).ctxs with
  | some c => if txCtx d = 0 then 0 else tagBytes c.suite
  | none => 0

/-- The counted length of a frame (R316). -/
def State.counted (s : State) (port : Nat) (d : W256) : Nat :=
  max (txLen d + s.txTag port d) 60 + 4 + s.fget F.TSH_CTRL_OVERHEAD port 0

/-- A packet's own eligible time in ns, before rate spacing (R314). -/
def State.ownTime (s : State) (x : TxQueue) (d : W256) : Nat :=
  match txKind d with
  | 0 => x.headAt
  | 1 => s.unpackTime (txTime d)
  | 2 => s.unpackTime (txTime d) + txDur d * txOff d / txTotal d
  | _ =>
    let q := x.desc
    qTro q + ((txTime d).toNat * qFrDen q * 1000000000 * (qRaDen q * qNpkts q) + txOff d * qFrDen q * 1000000000 * qRaNum q) /
      (qFrNum q * qRaDen q * qNpkts q)

/-- The eligible time e of the packet at the head of a queue, in ns (R314). -/
def State.eligibleAt (s : State) (x : TxQueue) (d : W256) : Nat :=
  let own := s.ownTime x d
  match x.last with
  | none => own
  | some (start, len) => if qRate x.desc = 0 then own else max own (start + len * 8000000 / qRate x.desc)

/-- The packet at the head leaves its queue: the next reaches the head now. -/
def TxQueue.pop (x : TxQueue) (now : Nat) : TxQueue := { x with pkts := x.pkts.tail, headAt := now }

/-- A queue without packets that is CLOSING becomes closed, and its charge is released (R313). What the queue has sent stays
known: its previous packet, its largest delay, its last pace-overrun (R314, R317, R323). -/
def State.txClosed (s : State) (port q : Nat) : State :=
  let x := s.txq port q
  if x.st = .closing ∧ x.pkts.isEmpty then (s.setTxq port q { x with st := .closed, desc := 0 }).releaseCharge (.txq port q) else s

/-! ### Gates (R320 to R322) -/

/-- The intervals of a cycle: start, end, gates. -/
def gateSpans (cycle : Nat) : Nat → List (Nat × Nat) → List (Nat × Nat × Nat)
  | _, [] => []
  | at_, [(g, _)] => if at_ < cycle then [(at_, cycle, g)] else []
  | at_, (g, d) :: t => if at_ < cycle then (at_, min (at_ + d) cycle, g) :: gateSpans cycle (at_ + d) t else []

/-- The place in its cycle of a time, for a list whose `BASE` names a time in ns. -/
def cyclePos (base cycle t : Nat) : Nat := (((t : Int) - base) % (cycle : Int)).toNat

/-- The list that governs a port now: a pending one whose start has come, or the one in operation. -/
def State.gateList (s : State) (port : Nat) : Option GateList :=
  let x := s.tsh port
  match x.pend with
  | some (l, start) => if start ≤ s.nowNs then (if l.entries.isEmpty then none else some l) else x.op
  | none => x.op

/-- The start of a list that is to take over later. -/
def State.gateChange (s : State) (port : Nat) : Option Nat :=
  match (s.tsh port).pend with
  | some (_, start) => if s.nowNs < start then some start else none
  | none => none

/-- The entry of a list in force at a time. -/
def State.gateEntry (s : State) (l : GateList) (t : Nat) : Nat :=
  let p := cyclePos (s.unpackTime l.base) l.cycle t
  ((gateSpans l.cycle 0 l.entries).takeWhile (fun x => decide (x.2.1 ≤ p))).length

/-- Whether the gate of a class is open (R320). -/
def State.gateOpen (s : State) (port cls : Nat) : Bool :=
  match s.gateList port with
  | none => true
  | some l => (l.entries.getD (s.gateEntry l s.nowNs) (0, 0)).1 / 2 ^ cls % 2 == 1

/-- The ns from now to the next closing of a class's gate, which is open now: `none` when the list never closes it. -/
def State.gateCloses (s : State) (l : GateList) (cls : Nat) : Option Nat :=
  let p := cyclePos (s.unpackTime l.base) l.cycle s.nowNs
  let spans := gateSpans l.cycle 0 l.entries
  let later := (spans.filter (fun x => decide (p < x.2.1))) ++ spans.map (fun x => (x.1 + l.cycle, x.2.1 + l.cycle, x.2.2))
  (later.find? (fun x => x.2.2 / 2 ^ cls % 2 == 0)).map (fun x => x.1 - p)

/-- The line rate of a port in Gb/s (R320). -/
def State.lineRate (s : State) (port : Nat) : Nat := if s.fget F.ETH_CFG_MODE port 0 = 1 then 100 else 25

/-- Whether the guard band allows a frame of a class and counted length to start now (R320). -/
def State.guardBandOk (s : State) (port cls len : Nat) : Bool :=
  match s.gateList port with
  | none => true
  | some l =>
    if ¬ l.guard then true
    else
      let need := ceilDiv (len * 8) (s.lineRate port)
      let byList : Bool := match s.gateCloses l cls with
        | some t => decide (need ≤ t)
        | none => true
      let byChange : Bool := match s.gateChange port with
        | some t => decide (s.nowNs + need ≤ t)
        | none => true
      byList && byChange

/-! ### Selection (R315) -/

/-- Whether the head packet of a queue may start on a link now. -/
def State.mayStart (s : State) (port link q : Nat) : Bool :=
  let x := s.txq port q
  match x.pkts with
  | [] => false
  | p :: _ =>
    let c := qClass x.desc
    x.st != .closed && qLink x.desc == link && decide (s.eligibleAt x p.desc ≤ s.nowNs) && s.gateOpen port c &&
      s.guardBandOk port c (s.counted port p.desc) && s.flag F.TSH_CTRL_EN port 0 &&
      decide (Tab.getD (s.tsh port).busy link 0 ≤ s.nowNs) && (Tab.find? link (s.tsh port).abort).isNone

/-- The queue whose head starts on a link: the highest class, and in it the first after the one that last sent. -/
def State.txPick (s : State) (port link : Nat) : Option Nat :=
  let qs := (List.range 512).filter (fun q => s.mayStart port link q)
  let top := qs.foldl (fun m q => max m (qClass (s.txq port q).desc)) 0
  let qs := qs.filter (fun q => qClass (s.txq port q).desc == top)
  let after := match Tab.find? (link, top) (s.tsh port).served with
    | some n => n + 1
    | none => 0
  match qs.find? (fun q => decide (after ≤ q)) with
  | some q => some q
  | none => qs.head?

/-! ### Checksums and SRTP (R318, R319) -/

/-- Bytes with n of them replaced from an offset on. -/
def patch (f : List Byte) (o : Nat) (b : List Byte) : List Byte := f.take o ++ b ++ f.drop (o + b.length)

/-- The header of an IPv4 UDP frame after at most one tag: the offset of its IPv4 header and its length. -/
def txUdp (f : List Byte) : Option (Nat × Nat) :=
  let (_, et, ip) := frameType f
  let ihl := 4 * (beAt f ip 1 % 16)
  let total := beAt f (ip + 2) 2
  if et = 0x0800 ∧ beAt f ip 1 / 16 = 4 ∧ 20 ≤ ihl ∧ beAt f (ip + 9) 1 = 17 ∧ ihl + 8 ≤ total ∧ ip + total ≤ f.length then
    some (ip, ihl)
  else none

/-- A frame with its IPv4 header and UDP checksums computed. -/
def txChecksums (f : List Byte) : List Byte :=
  match txUdp f with
  | none => f
  | some (ip, ihl) =>
    let f := patch f (ip + 10) [0, 0]
    let f := patch f (ip + 10) (beBytes 2 (0xFFFF - onesSum ((f.drop ip).take ihl)))
    let u := ip + ihl
    let len := beAt f (u + 4) 2
    let f := patch f (u + 6) [0, 0]
    let c := 0xFFFF - onesSum (pseudoHeader f ip len ++ (f.drop u).take len)
    patch f (u + 6) (beBytes 2 (if c = 0 then 0xFFFF else c))

/-- The RTP packet of a frame to be protected. -/
structure RtpParts where
  /-- offsets of the IPv4 header and of the UDP header, the UDP length -/
  ip : Nat
  u : Nat
  len : Nat
  /-- the RTP packet and the length of its header -/
  rtp : List Byte
  head : Nat
  deriving DecidableEq, Repr

/-- The parts of an IPv4 UDP frame that carries RTP version 2 after at most one tag (R318). -/
def rtpParts (f : List Byte) : Option RtpParts :=
  match txUdp f with
  | none => none
  | some (ip, ihl) =>
    let u := ip + ihl
    let len := beAt f (u + 4) 2
    let rtp := (f.drop (u + 8)).take (len - 8)
    let b0 := beAt rtp 0 1
    let head := 12 + 4 * (b0 % 16)
    let head := head + (if b0 / 16 % 2 = 1 then 4 + 4 * beAt rtp (head + 2) 2 else 0)
    if len < 8 ∨ f.length < u + len ∨ b0 / 64 ≠ 2 ∨ rtp.length < head then none else some ⟨ip, u, len, rtp, head⟩

/-- A packet's sequence number. -/
def RtpParts.seq (r : RtpParts) : Nat := beAt r.rtp 2 2

/-- A context once a packet with a sequence number has passed: the ROC goes up when the number is below the previous packet's
(R318). -/
def SrtpCtx.pass (c : SrtpCtx) (seq : Nat) : SrtpCtx :=
  let wraps : Bool := match c.seq with
    | some p => decide (seq < p)
    | none => false
  { c with roc := if wraps then c.roc + 1 else c.roc, seq := some seq }

/-- A context after a packet of its queue, sent or not: the index is a function of the released packets (R318). -/
def SrtpCtx.after (c : SrtpCtx) (f : List Byte) : SrtpCtx :=
  match rtpParts f with
  | some r => c.pass r.seq
  | none => c

/-- What becomes of a packet under its context, which it has passed: the frame protected, or the cause of the drop; cause 3 stands
for a context that was never loaded (log entry 102). -/
def srtpApply (c : Option SrtpCtx) (f : List Byte) : Nat ⊕ List Byte :=
  match c, rtpParts f with
  | none, _ => .inl 3
  | some _, none => .inl 0
  | some c, some r =>
    let tag := tagBytes c.suite
    if 9600 < f.length + tag + 4 then .inl 1
    else if 2 ^ 32 ≤ c.roc then .inl 2
    else
      let body := srtpBody c.suite c.key c.salt c.saltLen (c.roc * 65536 + r.seq) r.head r.rtp
      let g := f.take (r.u + 8) ++ r.rtp.take r.head ++ body ++ f.drop (r.u + r.len)
      let g := patch g (r.ip + 2) (beBytes 2 (beAt g (r.ip + 2) 2 + tag))
      .inr (patch g (r.u + 4) (beBytes 2 (r.len + tag)))

/-- A frame padded with zeros to 60 bytes (table NET-4). -/
def padFrame (f : List Byte) : List Byte := f ++ List.replicate (60 - f.length) 0

/-! ### The start of a frame -/

/-- A frame starts on its link: its queue moves on, the link is occupied for the counted length, its delay is noted, its
timestamp taken; a CLOSING queue may close. -/
def State.txOccupy (s : State) (port link q : Nat) (p : TxPkt) (abort : Bool) : State :=
  let x := s.txq port q
  let e := s.eligibleAt x p.desc
  let len := s.counted port p.desc
  let now := s.nowNs
  let x' := { x.pop now with last := some (now, len), maxDelay := max x.maxDelay (now - e) }
  let s := s.setTxq port q x'
  let t := s.tsh port
  let s := s.setTsh port { t with
    busy := Tab.set t.busy link (now + ceilDiv (len * 8) (s.lineRate port))
    served := Tab.set t.served (link, qClass x.desc) q }
  let s := if txTsReq p.desc then s.txStamp port link (txTsid p.desc) abort else s
  (s.applyCharge (.txq port q)).txClosed port q

/-- A packet's context takes note of it: its frame is f (R318). -/
def State.srtpPass (s : State) (port : Nat) (d : W256) (f : List Byte) : State :=
  let t := s.tsh port
  match Tab.find? (txCtx d) t.ctxs with
  | some c => if txCtx d = 0 then s else s.setTsh port { t with ctxs := Tab.set t.ctxs (txCtx d) (c.after f) }
  | none => s

/-- The frame of a packet as it is stored, with zeros from the first byte that reads as poison on, and the number of bytes that
could be read. -/
def State.txData (s : State) (port : Nat) (d : W256) : (List Byte × Nat × Nat) × State :=
  match s.readRange (Src.tsh port) (txBuf d) (txLen d) with
  | (.ok b, s) => ((b, txLen d, 0), s)
  | (.poison a, s) | (.addrErr a, s) =>
    let n := a - txBuf d
    let ((b, _), s) := s.readOpen (Src.tsh port) (txBuf d) n (wordsOf (txBuf d) n) [] []
    ((b ++ List.replicate (txLen d - n) 0, n, max a (txBuf d)), s)

/-- The first n bytes of a frame, as they leave before the frame is ended for poison: the UDP checksum covers data that could not
be read, and is a free value (R319, R325). -/
def txCut (f : List Byte) (n : Nat) (sum : BitVec 16) : List Byte :=
  (match txUdp f with
   | some (ip, ihl) => patch f (ip + ihl + 6) (beBytes 2 sum.toNat)
   | none => f).take n

/-- The bytes of a frame that tell whether it carries RTP: up to the end of a fixed RTP header, or of an untagged or tagged
frame's fixed IPv4 header. -/
def rtpSeen (f : List Byte) : Nat :=
  match txUdp f with
  | some (ip, ihl) => ip + ihl + 20
  | none => 38

/-- A packet leaves its queue without starting. -/
def State.txDiscard (s : State) (port q : Nat) : State :=
  ((s.setTxq port q ((s.txq port q).pop s.nowNs)).applyCharge (.txq port q)).txClosed port q

/-- A row held back past `TIME` + `DUR` (R317): at most one event in a millisecond for each queue. -/
def State.paceOverrun (s : State) (port q : Nat) (p : TxPkt) : State :=
  let x := s.txq port q
  let lim := s.unpackTime (txTime p.desc) + txDur p.desc
  let e := s.eligibleAt x p.desc
  let quiet : Bool := match x.overAt with
    | some t => decide (s.nowNs < t + 1000000)
    | none => false
  if txKind p.desc = 2 ∧ lim < e ∧ ¬ quiet then
    (s.setTxq port q { x with overAt := some s.nowNs }).post (Src.tsh port) 0x1002 [.u 2 q, .u 4 (e - lim)]
  else s

/-- A frame has been put together and goes out: it is muted, or sent and counted. -/
def State.txSend (s : State) (port link q : Nat) (p : TxPkt) (f : List Byte) : State :=
  let muted := s.twinMutes port q
  let s := (s.paceOverrun port q p).txOccupy port link q p false
  if muted then s.fset F.TWN_MUTED_FRAMES 0 0 (s.fget F.TWN_MUTED_FRAMES 0 0 + 1)
  else
    let s := (s.netCount port link 6).chkBlock 3 (port + q * 8) ⟨BitVec.ofNat 64 (txBuf p.desc), f, false⟩
    s.setNet { s.net with out := s.net.out ++ [{ port := port, link := link, bytes := f }] }

/-- A packet is dropped for its context (R318). -/
def State.srtpDrop (s : State) (port q : Nat) (d : W256) (cause : Nat) : State :=
  ((s.setTsh port { s.tsh port with srtpDrops := (s.tsh port).srtpDrops + 1 }).post (Src.tsh port) 0x1004
    [.u 2 q, .u 1 (txCtx d), .u 1 cause]).txDiscard port q

/-- A frame whose data are poisoned from byte n on, at address a, starts: its first n bytes leave, protected and with the
checksums that they allow, and TX_POISON_ABORT ends it (R319, R325). -/
def State.txPoison (s : State) (port link q : Nat) (p : TxPkt) (f : List Byte) (n a : Nat) : State :=
  let muted := s.twinMutes port q
  let sum : BitVec 16 := s.free 16
  let s := (s.drawn.paceOverrun port q p).txOccupy port link q p true
  let t := s.tsh port
  s.setTsh port { t with abort := Tab.set t.abort link ⟨q, p, txCut (txChecksums f) n sum, a, muted⟩ }

/-- The head packet of a queue starts on its link: its data are read, protected and sent (R304, R311, R318, R319, R325). A packet
discarded on a link that is down passes its context too. -/
def State.txStart (s : State) (port link q : Nat) (p : TxPkt) : State :=
  let d := p.desc
  let up := s.linkUp port link
  if ¬ up ∧ txCtx d = 0 then (s.netCount port link 7).txDiscard port q
  else
    let ((f, n, a), s) := s.txData port d
    let seen := n = txLen d ∨ rtpSeen f ≤ n
    let s := if seen then s.srtpPass port d f else s
    if ¬ up then (s.netCount port link 7).txDiscard port q
    else
      match if txCtx d = 0 then .inr f else srtpApply (Tab.find? (txCtx d) (s.tsh port).ctxs) f with
      | .inl cause => if seen then s.srtpDrop port q d cause else s.txPoison port link q p f n a
      | .inr f =>
        if n = txLen d then s.txSend port link q p (padFrame (txChecksums f)) else s.txPoison port link q p f n a

end Sys2Proof.Machine
end

