-- ==== Sys2Proof/Machine/Chk.lean ====
section
/-! DEFINITION. The commands of the check-value units (chapter 15). -/

namespace Sys2Proof.Machine

/-- Whether an instance exists at a snoop point (tables INT-5, SCO-6, R399). -/
def State.chkInstOk (s : State) (point inst : Nat) : Bool :=
  match point with
  | 1 | 2 => decide (inst < 64)
  | 3 => true
  | 4 => decide (inst < 1024) && (s.rxFlow inst).on && rxKind (s.rxFlow inst).desc == 1
  | 5 | 6 => decide (inst < 32)
  | _ => false

/-- Whether a block of a stream is in progress: a descriptor that runs, a frame that is to be aborted. -/
def State.chkInBlock (s : State) (point inst : Nat) : Bool :=
  match point with
  | 3 => ((s.tsh (inst % 8)).abort.any (fun (x : Nat × TxAbort) => x.2.q == inst / 8))
  | 5 => (s.dc inst).run.isSome
  | _ => false

/-- A write of `CHK_CFG` (R399): a refused enable leaves the register as it is and sets `BAD`. -/
def State.chkCfgWrite (s : State) (n : Nat) (val : W32) : State :=
  let cmp := bitsOf val 23 22
  let point := bitsOf val 31 28
  let inst := s.fget F.CHK_INST_INST n 0
  if s.flag F.CHK_CFG_EN n 0 then
    if bitOf val 0 then s else (s.fset F.CHK_CFG_EN n 0 0).setChk n {}
  else if ¬ bitOf val 0 then s.wrReg .CHK_CFG n 0 val
  else if ¬ s.chkInstOk point inst ∨ cmp = 3 ∨ (cmp = 2 ∧ s.fget F.CHK_TBL_LO_TBL n 0 % 8 ≠ 0) then
    s.fset F.CHK_STAT_BAD n 0 1
  else
    ((s.wrReg .CHK_CFG n 0 val).fset F.CHK_STAT_MISCNT n 0 0).setReg .CHK_BLOCKS n 0 0
      |>.setChk n { skip := s.chkInBlock point inst }

/-- CHK_ENABLE: a write of `CHK_CFG` with `EN` = 1 (R399). -/
def execChkEnable (_req n : Nat) (val : BitVec 32) (s : State) : Res :=
  s.need (decide (n < 32)) "check-value unit" fun s => if bitOf val 0 then s.chkCfgWrite n val else s

/-- CHK_DISABLE: a write of `CHK_CFG` with `EN` = 0; the block in progress is discarded (R399). -/
def execChkDisable (_req n : Nat) (val : BitVec 32) (s : State) : Res :=
  s.need (decide (n < 32)) "check-value unit" fun s => if bitOf val 0 then s else s.chkCfgWrite n val

/-- The fold bytes of a block (R398). -/
def State.chkFold (s : State) (n : Nat) (x : ChkUnit) (blk : ChkBlock) : List Byte :=
  let alive := leBytes 4 ((s.fget F.CHK_ALIVE_ALIVE n 0 + x.b) % 2 ^ 32)
  let ident := leBytes 8 blk.ident.toNat
  match s.fget F.CHK_CFG_FOLD n 0 with
  | 0 => []
  | 1 => alive
  | 2 => ident
  | _ => if s.fget F.CHK_PHASE_PHASE 0 0 = 1 then alive else ident

/-- The expected value of block b (R400). -/
def State.chkExpect (s : State) (n b : Nat) : ChkExpect × State :=
  match s.fget F.CHK_CFG_CMP n 0 with
  | 1 => (.value (s.pair .CHK_EXP_LO .CHK_EXP_HI n 0), s)
  | 2 =>
    let a := bitsOf (s.pair .CHK_TBL_LO .CHK_TBL_HI n 0) 47 0 + 8 * (b % 2 ^ min 16 (s.fget F.CHK_CFG_LOG2 n 0))
    match s.readRange (Src.chk n) a 8 with
    | (.ok l, s) => (.value (BitVec.ofNat 64 (leNat l)), s)
    | (_, s) => (.poisoned a, s)
  | _ => (.none, s)

/-- CHK_BLOCK_START: the next block of the stream starts; its fold is fixed and its table entry read (R398, R400). -/
def execChkBlockStart (n : Nat) (s : State) : Res :=
  s.need (decide (n < 32)) "check-value unit" fun s =>
    let x := s.chkUnit n
    match x.feed, x.cur with
    | blk :: t, none =>
      let fold := s.chkFold n x blk
      let (e, s) := s.chkExpect n x.b
      s.setChk n { x with feed := t, cur := some (blk, fold, e) }
    | _, _ => s

/-- A block ends with a result that is compared, or not, and counts (R400). -/
def State.chkResult (s : State) (n b : Nat) (blk : ChkBlock) (fold : List Byte) (want : Option W64) : State :=
  let poly := s.fget F.CHK_CFG_POLY n 0
  let c := crcSel poly (fold ++ blk.bytes)
  let s := (s.setPair .CHK_LAST_LO .CHK_LAST_HI n 0 c).setReg .CHK_BLOCKS n 0 (s.reg .CHK_BLOCKS n 0 + 1)
  let same : Bool := match want with
    | none => true
    | some w => c.toNat == w.toNat % 2 ^ crcWidth poly
  if same then s
  else
    let s := if s.flag F.CHK_STAT_MISMATCH n 0 then s else s.setReg .CHK_MISBLK n 0 (BitVec.ofNat 32 b)
    let s := s.fset F.CHK_STAT_MISMATCH n 0 1
    let s := s.fset F.CHK_STAT_MISCNT n 0 (min (s.fget F.CHK_STAT_MISCNT n 0 + 1) 0xFFFF)
    s.post (Src.chk n) 0x1400 [.u 1 n, .u 4 b, .u 8 c.toNat]

/-- CHK_BLOCK_END: the block in progress ends (R400). -/
def execChkBlockEnd (n : Nat) (s : State) : Res :=
  s.need (decide (n < 32)) "check-value unit" fun s =>
    let x := s.chkUnit n
    match x.cur with
    | none => s
    | some (blk, fold, e) =>
      let s := s.setChk n { x with cur := none, b := (x.b + 1) % 2 ^ 32 }
      if blk.incomplete then (s.fset F.CHK_STAT_INCOMP n 0 1).post (Src.chk n) 0x1401 [.u 1 n, .u 4 x.b]
      else match e with
        | .poisoned a => (s.fset F.CHK_STAT_TPOISON n 0 1).post (Src.chk n) 0x1402 [.u 1 n, .u 4 x.b, .u 6 a]
        | .value w => s.chkResult n x.b blk fold (some w)
        | .none => s.chkResult n x.b blk fold none

end Sys2Proof.Machine
end

