-- ==== Sys2Proof/Machine/Dma.lean ====
section
/-! DEFINITION. The commands of the DMA channels (chapter 13). -/

namespace Sys2Proof.Machine

/-- Run the meaning of a channel that exists. -/
def State.needDc (s : State) (n : Nat) (f : State → State) : Res := s.need (decide (n < 32)) "DMA channel" f

/-- DMA_PCMD: a descriptor reaches a channel (R354), when its queue has room. With owner 1 or `EN` 0 it completes at once with
status 4. -/
def execDmaPcmd (n : Nat) (desc : BitVec 256) (s : State) : Res :=
  s.needDc n fun s =>
    if s.dmaTakes n ∧ 16 ≤ s.dmaQueued n then s
    else match s.popCmd 14 n 0 desc with
    | none => s
    | some s =>
      if s.flag F.DMA_CFG_OWNER n 0 ∨ ¬ s.flag F.DMA_CFG_EN n 0 then
        let s := s.dmaStatus n 4
        let s := if s.flag F.DMA_CFG_EN n 0 then
            s.fset F.DMA_COUNT_COUNT n 0 ((s.fget F.DMA_COUNT_COUNT n 0 + 1) % 2 ^ 32) else s
        let s := s.post (Src.dma n) 0x0E00 [.u 1 4, .u 2 (dTag desc), .u 4 0]
        s.dmaToken n desc 4 0
      else s.setDc n { s.dc n with queue := (s.dc n).queue ++ [desc] }

/-- A write of `DMA_SUBMIT_HI` (R354): the committed address is submitted, or the write sets `DROPPED`. -/
def State.dmaSubmitWrite (s : State) (req n : Nat) (val : W32) : State :=
  let low := Tab.getD s.helds (req, .DMA_SUBMIT_LO, n) (s.reg .DMA_SUBMIT_LO n 0)
  let s := { s with helds := Tab.erase (req, .DMA_SUBMIT_LO, n) s.helds }
  if 16 ≤ s.dmaHeld n ∨ (s.dc n).submit.isSome ∨ ¬ s.flag F.DMA_CFG_OWNER n 0 ∨ ¬ s.flag F.DMA_CFG_EN n 0 ∨
      low.toNat % 32 ≠ 0 then
    s.fset F.DMA_STAT_DROPPED n 0 1
  else
    let s := (s.setReg .DMA_SUBMIT_LO n 0 low).wrReg .DMA_SUBMIT_HI n 0 val
    s.setDc n { s.dc n with submit := some (bitsOf val 15 0 * 2 ^ 32 + low.toNat) }

/-- DMA_SUBMIT: a write of `DMA_SUBMIT_HI` (R354). -/
def execDmaSubmit (req n : Nat) (val : BitVec 32) (s : State) : Res := s.needDc n fun s => s.dmaSubmitWrite req n val

/-- DMA_SUBMIT_READ: the read of a submitted descriptor ends (R354): it is queued, or dma-error is posted with status 9 or 25. -/
def execDmaSubmitRead (n : Nat) (s : State) : Res :=
  s.needDc n fun s =>
    match (s.dc n).submit with
    | none => s
    | some a =>
      let s := s.setDc n { s.dc n with submit := none }
      let (r, s) := s.memRead (Src.dma n) a
      let fail (s : State) (st : Nat) : State :=
        (s.fset F.DMA_STAT_ERR n 0 1).post (Src.dma n) 0x0E00 [.u 1 st, .u 2 0, .u 4 0]
      match r with
      | .ok d => s.setDc n { s.dc n with queue := (s.dc n).queue ++ [d] }
      | .poison _ => fail s 9
      | .addrErr => fail s 25

/-- DMA_START: the channel starts the first queued descriptor (R355, R358). -/
def execDmaStart (n : Nat) (s : State) : Res :=
  s.needDc n fun s =>
    match (s.dc n).run, (s.dc n).queue with
    | none, d :: _ => if s.flag F.DMA_CFG_EN n 0 then s.dmaStart n d else s
    | _, _ => s

/-- Whether a domain that a running descriptor touches is held, so that its channel issues no beat (R364). -/
def State.dmaHeldOff (s : State) (r : DmaRun) : Bool := r.domains.any (fun d => s.dom d == .hold)

/-- DMA_BEAT_DONE: a beat of the running descriptor is issued and completes (R360 to R362), unless a domain it touches is held
(R364). -/
def execDmaBeatDone (n : Nat) (s : State) : Res :=
  s.needDc n fun s =>
    match (s.dc n).run with
    | some r => if r.status.isNone ∧ ¬ (s.dc n).paused ∧ ¬ s.dmaHeldOff r then s.dmaBeat n r else s
    | none => s

/-- DMA_COMPLETE: the running descriptor ends with its status (R355, R356, R363). -/
def execDmaComplete (n : Nat) (s : State) : Res :=
  s.needDc n fun s =>
    match (s.dc n).run with
    | some r => match r.status with
      | some st => s.dmaComplete n r st
      | none => s
    | none => s

/-- DMA_PAUSED: a domain that the running descriptor touches is held, and its issued beats have completed (R364). -/
def execDmaPaused (n : Nat) (s : State) : Res :=
  s.needDc n fun s =>
    match (s.dc n).run with
    | some r =>
      if r.status.isNone ∧ ¬ (s.dc n).paused ∧ s.dmaHeldOff r then
        (s.setDc n { s.dc n with paused := true }).post (Src.dma n) 0x0E04 [.u 2 (dTag r.desc), .u 4 r.done]
      else s
    | none => s

/-- DMA_RESUMED: every domain that a paused descriptor touches is ON again (R364). -/
def execDmaResumed (n : Nat) (s : State) : Res :=
  s.needDc n fun s =>
    match (s.dc n).run with
    | some r =>
      if (s.dc n).paused ∧ r.domains.all (fun d => s.dom d == .on) then
        (s.setDc n { s.dc n with paused := false }).post (Src.dma n) 0x0E05 [.u 2 (dTag r.desc), .u 4 r.done]
      else s
    | none => s

/-- A write of `DMA_CFG` (table DMA-4): `OWNER` is writable only while `EN` is 0; a set of `EN` clears `DMA_COUNT`, a clear
drops everything (R366). -/
def State.dmaCfgWrite (s : State) (n : Nat) (val : W32) : State :=
  if s.flag F.DMA_CFG_EN n 0 then (if bitOf val 0 then s else s.dmaDrop n)
  else
    let s := s.wrReg .DMA_CFG n 0 val
    if bitOf val 0 then s.fset F.DMA_COUNT_COUNT n 0 0 else s

/-- DMA_ENABLE: a write of `DMA_CFG` with `EN` 1. -/
def execDmaEnable (_req n : Nat) (val : BitVec 32) (s : State) : Res :=
  s.needDc n fun s => if bitOf val 0 then s.dmaCfgWrite n val else s

/-- DMA_DISABLE: a write of `DMA_CFG` with `EN` 0 (R366). -/
def execDmaDisable (_req n : Nat) (val : BitVec 32) (s : State) : Res :=
  s.needDc n fun s => if bitOf val 0 then s else s.dmaCfgWrite n val

end Sys2Proof.Machine
end

