-- ==== Sys2Proof/Machine/Crust.lean ====
section
/-! DEFINITION. The crust format of reference buffers (R227 to R232): planes, block headers, the choice of mode, and the
reads and writes of a picture's blocks. -/

namespace Sys2Proof.Machine

/-- A sample, held as a 10-bit value (R228). -/
abbrev Sample := BitVec 10

/-- One plane of a reference buffer: its size in samples, and the addresses of its header and data areas. -/
structure Plane where
  w : Nat
  h : Nat
  hdr : Nat
  dat : Nat
  deriving DecidableEq, Repr

/-- The number of groups of a plane across (R227). -/
def Plane.gx (p : Plane) : Nat := ceilDiv p.w 64

/-- The number of groups of a plane down (R227). -/
def Plane.gy (p : Plane) : Nat := ceilDiv p.h 64

/-- Bytes of a plane's header and data areas (R227). -/
def planeBytes (w h : Nat) : Nat := 5184 * (ceilDiv w 64 * ceilDiv h 64)

/-- A plane laid out at an address: header area, then data area. -/
def planeAt (a w h : Nat) : Plane := ⟨w, h, a, a + 64 * (ceilDiv w 64 * ceilDiv h 64)⟩

/-- The width and height of a chroma plane: 4:2:0 or 4:2:2. -/
def chromaSize (w h : Nat) (c422 : Bool) : Nat × Nat := (w / 2, if c422 then h else h / 2)

/-- The planes Y, Cb, Cr of a reference buffer at an address (R227). -/
def crustPlanes (a w h : Nat) (c422 : Bool) : List Plane :=
  let (cw, ch) := chromaSize w h c422
  let a1 := a + planeBytes w h
  [planeAt a w h, planeAt a1 cw ch, planeAt (a1 + planeBytes cw ch) cw ch]

/-- The size S of a reference buffer, a multiple of 4 KiB (R227). -/
def crustSize (w h : Nat) (c422 : Bool) : Nat :=
  let (cw, ch) := chromaSize w h c422
  ceilDiv (planeBytes w h + 2 * planeBytes cw ch) 4096 * 4096

/-- The number of bits of a value: bits(0) = 0 (R231). -/
def bitLen (v : Nat) : Nat := if v = 0 then 0 else Nat.log2 v + 1

/-- The zigzag of a difference (R230). -/
def zigzag (x p : Nat) : Nat := if p ≤ x then 2 * (x - p) else 2 * (p - x) - 1

/-- The residuals of differential mode: `line` holds the value 64 samples back where a line starts (R230). -/
def diffResiduals (x : List Nat) : List Nat :=
  (List.range x.length).map (fun k =>
    let p := if k = 0 then x.getD 0 0 else if k % 64 = 0 then x.getD (k - 64) 0 else x.getD (k - 1) 0
    zigzag (x.getD k 0) p)

/-- The least of a list of samples. -/
def minList (x : List Nat) : Nat := x.foldl min (x.headD 0)

/-- The greatest of a list of samples. -/
def maxList (x : List Nat) : Nat := x.foldl max 0

/-- Mode, base and width of a block (R231). -/
def crustMode (x : List Nat) : Nat × Nat × Nat :=
  let lo := minList x
  let hi := maxList x
  if lo = hi then (1, lo, 0)
  else
    let w2 := bitLen (hi - lo)
    let w3 := bitLen (maxList (diffResiduals x))
    if 10 ≤ min w2 w3 then (0, 0, 10)
    else if w3 < w2 then (3, x.headD 0, w3)
    else (2, lo, w2)

/-- The residuals of a block in a mode (R230). -/
def crustResiduals (x : List Nat) (mode base : Nat) : List Nat :=
  if mode = 0 then x else if mode = 2 then x.map (fun v => v - base) else if mode = 3 then diffResiduals x else []

/-- Words of a block's slot in use (table BSD-9). -/
def crustWords (mode width : Nat) : Nat := if mode = 0 then 10 else if mode = 1 then 0 else width

/-- A block's header (table BSD-9). -/
def crustHeader (x : List Nat) : Nat :=
  let (mode, base, width) := crustMode x
  mode + crustWords mode width * 2 ^ 4 + base * 2 ^ 8 + width * 2 ^ 18

/-- Residuals packed at a width, lowest first (R230). -/
def packBits (width : Nat) : List Nat → Nat
  | [] => 0
  | u :: t => u % 2 ^ width + 2 ^ width * packBits width t

/-- The words of a block's data slot in use, lowest first. -/
def crustData (x : List Nat) : List W256 :=
  let (mode, base, width) := crustMode x
  let v := packBits width (crustResiduals x mode base)
  (List.range (crustWords mode width)).map (fun i => BitVec.ofNat 256 (v / 2 ^ (256 * i)))

/-- The 256 samples of block k of group (X, Y): a sample outside the plane takes the nearest inside it (R228). -/
def blockSamples (p : Plane) (sample : Nat → Nat → Nat) (X Y k : Nat) : List Nat :=
  (List.range 256).map (fun t => sample (min (64 * X + t % 64) (p.w - 1)) (min (64 * Y + 4 * k + t / 64) (p.h - 1)))

/-- Write words at rising addresses; an error of a write changes nothing else. -/
def State.putWords (s : State) (req a : Nat) : List W256 → State
  | [] => s
  | w :: t => State.putWords (s.memWrite req a w).2 req (a + 32) t

/-- Write half b of group G of a plane, blocks 8b to 8b + 7: the word of its header record, then the words in use of each block
(R228, R232). -/
def State.crustHalf (s : State) (req : Nat) (p : Plane) (sample : Nat → Nat → Nat) (G b : Nat) : State :=
  let blk (k : Nat) : List Nat := blockSamples p sample (G % p.gx) (G / p.gx) (8 * b + k)
  let hdr : W256 := BitVec.ofNat 256 (packBits 32 ((List.range 8).map (fun k => crustHeader (blk k))))
  let s := s.putWords req (p.hdr + 64 * G + 32 * b) [hdr]
  (List.range 8).foldl (fun s k => s.putWords req (p.dat + 5120 * G + 320 * (8 * b + k)) (crustData (blk k))) s

/-- Write one group of a plane. -/
def State.crustGroup (s : State) (req : Nat) (p : Plane) (sample : Nat → Nat → Nat) (G : Nat) : State :=
  (s.crustHalf req p sample G 0).crustHalf req p sample G 1

/-- Write half-rows of a plane: half-row h holds lines 32h to 32h + 31. -/
def State.crustHalves (s : State) (req : Nat) (p : Plane) (sample : Nat → Nat → Nat) (hs : List Nat) : State :=
  hs.foldl (fun s h => (List.range p.gx).foldl (fun s X => s.crustHalf req p sample (h / 2 * p.gx + X) (h % 2)) s) s

/-- Write a whole plane. -/
def State.crustPlane (s : State) (req : Nat) (p : Plane) (sample : Nat → Nat → Nat) : State :=
  (List.range (p.gx * p.gy)).foldl (fun s G => s.crustGroup req p sample G) s

/-- Write a whole picture: plane number, x and y give a sample. -/
def State.crustPicture (s : State) (req : Nat) (ps : List Plane) (sample : Nat → Nat → Nat → Nat) : State :=
  (List.range ps.length).foldl (fun s i => match ps[i]? with
    | some p => s.crustPlane req p (sample i)
    | none => s) s

/-- The samples of a block from its header and data (R229, R230). -/
def crustDecode (hdr : Nat) (data : Nat) : List Nat :=
  let mode := hdr % 16
  let base := hdr / 2 ^ 8 % 1024
  let width := hdr / 2 ^ 18 % 16
  let u (k : Nat) : Nat := data / 2 ^ (width * k) % 2 ^ width
  let unzig (p v : Nat) : Nat := if v % 2 = 0 then p + v / 2 else p - (v + 1) / 2
  if mode = 0 then (List.range 256).map u
  else if mode = 1 then List.replicate 256 base
  else if mode = 2 then (List.range 256).map (fun k => base + u k)
  else
    (List.range 256).foldl (fun acc k =>
      let p := if k = 0 then base else if k % 64 = 0 then acc.getD (k - 64) 0 else acc.getD (k - 1) 0
      acc ++ [unzig p (u k)]) []

/-- Read n words at rising addresses, each of them: their value, unless one failed. -/
def State.takeWords (s : State) (req a : Nat) : Nat → Option Nat × State
  | 0 => (some 0, s)
  | n + 1 =>
    let (r, s) := s.memRead req a
    let (v, s) := State.takeWords s req (a + 32) n
    match r, v with
    | .ok d, some v => (some (d.toNat + 2 ^ 256 * v), s)
    | _, _ => (none, s)

/-- Read one block of a group: its header's word, then the words in use of its slot (R230). Its samples, unless a word failed, and
the bytes read. -/
def State.takeBlock (s : State) (req : Nat) (p : Plane) (G k : Nat) : (Option (List Nat) × Nat) × State :=
  let (r, s) := s.memRead req (p.hdr + 64 * G + 32 * (k / 8))
  match r with
  | .ok d =>
    let hdr := bitsOf d (32 * (k % 8) + 31) (32 * (k % 8))
    let n := hdr / 16 % 16
    let (v, s) := s.takeWords req (p.dat + 5120 * G + 320 * k) n
    ((v.map (crustDecode hdr), 32 * (n + 1)), s)
  | _ => ((none, 32), s)

/-- Read some blocks of a group: those that could be read, whether one failed, the bytes read. -/
def State.takeBlocks (s : State) (req : Nat) (p : Plane) (G : Nat) : List Nat → (List (Nat × List Nat) × Bool × Nat) × State
  | [] => (([], false, 0), s)
  | k :: t =>
    let ((a, x), s) := s.takeBlock req p G k
    let ((l, b, y), s) := State.takeBlocks s req p G t
    match a with
    | some v => (((k, v) :: l, b, x + y), s)
    | none => ((l, true, x + y), s)

/-- The blocks of a group whose lines lie among the luma lines lo to hi: a block covers `step` luma lines from line `first`
on. -/
def blocksIn (first step lo hi : Nat) : List Nat :=
  (List.range 16).filter (fun k => decide (first + step * k ≤ hi ∧ lo < first + step * (k + 1)))

/-- Read the reference data of the 64×64 CTU area in column X and row Y of reference r, luma lines lo to hi of it: the blocks of
its luma group and of the chroma groups that cover it (R159, R160). What was read, whether a word failed, and the bytes read. -/
def State.takeArea (s : State) (req a w h : Nat) (c422 : Bool) (r X Y lo hi : Nat) : (RefArea × Bool × Nat) × State :=
  let lo := max lo (64 * Y)
  let hi := min hi (64 * Y + 63)
  match crustPlanes a w h c422 with
  | [y, cb, cr] =>
    let ((l0, b0, n0), s) := s.takeBlocks req y (Y * y.gx + X) (blocksIn (64 * Y) 4 lo hi)
    let cy := if c422 then Y else Y / 2
    let ks := if c422 then blocksIn (64 * Y) 4 lo hi else blocksIn (128 * cy) 8 lo hi
    let ((l1, b1, n1), s) := s.takeBlocks req cb (cy * cb.gx + X / 2) ks
    let ((l2, b2, n2), s) := s.takeBlocks req cr (cy * cr.gx + X / 2) ks
    ((⟨r, X, Y, l0, l1, l2⟩, b0 || b1 || b2, n0 + n1 + n2), s)
  | _ => ((⟨r, X, Y, [], [], []⟩, false, 0), s)

end Sys2Proof.Machine
end

