-- ==== Sys2Proof/Machine/HeadOps.lean ====
section
/-! DEFINITION. What a display head does (chapter 9): timing and plane descriptors and their rules, ring planes, the
blending of a line, line packets, frame boundaries. -/

namespace Sys2Proof.Machine

/-- A head. -/
def State.head (s : State) (n : Nat) : Head := Tab.getD s.heads n {}

/-- The state with a head changed. -/
def State.setHead (s : State) (n : Nat) (h : Head) : State := { s with heads := Tab.set s.heads n h }

/-- A plane. -/
def Head.plane (h : Head) (p : Nat) : HeadPlane := Tab.getD h.planes p {}

/-- The head with a plane changed. -/
def Head.setPlane (h : Head) (p : Nat) (x : HeadPlane) : Head := { h with planes := Tab.set h.planes p x }

/-! ### Timing descriptor (table DSP-2) -/

def tHact (t : BitVec 512) : Nat := bitsOf t 15 0
def tVact (t : BitVec 512) : Nat := bitsOf t 31 16
def tHtot (t : BitVec 512) : Nat := bitsOf t 47 32
def tVtot (t : BitVec 512) : Nat := bitsOf t 63 48
def tFrNum (t : BitVec 512) : Nat := bitsOf t 95 64
def tFrDen (t : BitVec 512) : Nat := bitsOf t 127 96
def tOut (t : BitVec 512) : Nat := bitsOf t 129 128
def tLanes (t : BitVec 512) : Nat := 2 ^ bitsOf t 131 130
def tBpc (t : BitVec 512) : Nat := 8 + 2 * bitsOf t 133 132
def tYcc (t : BitVec 512) : Bool := bitOf t 134
def tPair (t : BitVec 512) : Nat := bitsOf t 136 135
def tPace (t : BitVec 512) : Bool := bitOf t 137
def tTepol (t : BitVec 512) : Bool := bitOf t 138
def tFtok (t : BitVec 512) : Bool := bitOf t 139
def tLrate (t : BitVec 512) : Nat := bitsOf t 191 160
def tTeWait (t : BitVec 512) : Nat := bitsOf t 239 224
def tBudget (t : BitVec 512) : Nat := bitsOf t 287 256
def tToken (t : BitVec 512) : W64 := t.extractLsb' 320 64

/-- N of the cadence generator (R280). -/
def tN (t : BitVec 512) : Nat := tHtot t * tVtot t * tFrNum t
/-- M of the cadence generator (R280). -/
def tM (t : BitVec 512) : Nat := tFrDen t * 1200000000

/-- One PCLK of the cadence generator: the pixel periods that advance, and acc (R280). -/
def cadence (n m acc : Nat) : Nat × Nat :=
  let acc := acc + n
  let k := if 2 * m ≤ acc then 2 else if m ≤ acc then 1 else 0
  (k, acc - k * m)

/-- The cadence generator over the PCLKs in which a number of pixel periods pass: acc in the last of them, and the periods by which
it ran past. While acc < M and N ≤ 2M, j PCLKs advance (acc + j·N) / M periods (`cadence_clocks`). -/
def cadenceAfter (n m acc periods : Nat) : Nat × Nat :=
  let total := acc + ceilDiv (periods * m - acc) n * n
  (total % m, total / m - periods)

/-- The cadence generator runs for a number of lines. -/
def Head.runLines (h : Head) (lines : Nat) : Head :=
  let (acc, ahead) := cadenceAfter (tN h.timing) (tM h.timing) h.acc (lines * tHtot h.timing - h.ahead)
  { h with acc := acc, ahead := ahead }

/-- Whether a timing is one of the rasters of table DSP-6. -/
def sdiRaster (t : BitVec 512) : Bool :=
  let k := (tOut t, tHact t, tVact t, tHtot t, tVtot t)
  let r (n d : Nat) : Bool := tFrNum t == n && tFrDen t == d
  let r50 := tFrNum t == 50 * tFrDen t
  let r25 := tFrNum t == 25 * tFrDen t
  let rHi := tFrNum t == 60 * tFrDen t || r 60000 1001
  let r24 := tFrNum t == 24 * tFrDen t || r 24000 1001
  let r30 := tFrNum t == 30 * tFrDen t || r 30000 1001
  (k == (1, 1920, 1080, 2640, 1125) && r50) || (k == (1, 1920, 1080, 2200, 1125) && rHi) ||
  (k == (1, 3840, 2160, 5500, 2250) && r24) ||
  (k == (1, 3840, 2160, 5280, 2250) && (r25 || r50)) ||
  (k == (1, 3840, 2160, 4400, 2250) && (r30 || rHi)) ||
  (k == (2, 7680, 4320, 10560, 4500) && r50) || (k == (2, 7680, 4320, 8800, 4500) && rHi)

/-- The lane rates of SLP in kbit/s (table LAN-2). -/
def slpRates : List Nat := [10312500, 12890625, 20625000, 25781250]

/-- The rules of table DSP-2, R280, R281 and, for SDI, R299, for head n. -/
def timingOk (n : Nat) (t : BitVec 512) : Bool :=
  let sdi := tOut t != 0
  tHact t % 8 == 0 && tVact t % 8 == 0 &&
  decide (640 ≤ tHact t ∧ tHact t ≤ 8192 ∧ 360 ≤ tVact t ∧ tVact t ≤ 4352 ∧ tHact t + 64 ≤ tHtot t ∧ tVact t + 8 ≤ tVtot t) &&
  tFrNum t != 0 && tFrDen t != 0 && tOut t != 3 &&
  (if sdi then bitsOf t 131 130 == 0 && bitsOf t 133 132 == 1 && tYcc t && tLrate t == 0 && sdiRaster t
   else bitsOf t 131 130 != 3 && bitsOf t 133 132 != 3 && slpRates.contains (tLrate t)) &&
  tPair t != 3 && (tPair t == 0 || n % 2 == 0) && bitsOf t 159 140 == 0 && bitsOf t 223 212 == 0 && tTeWait t != 0 &&
  bitsOf t 255 240 == 0 && tokenDestOk (tToken t) && bitsOf t 511 384 == 0 &&
  -- R280
  decide (tN t < 2 ^ 62 ∧ tM t < 2 ^ 62 ∧ tN t ≤ 2 * tM t) &&
  -- R281
  decide (24000 * (tVtot t * tFrNum t) ≤ (tVtot t - tVact t) * tM t ∧ 24000 * (tVtot t * tFrNum t) ≤ 16 * tM t)

/-- Whether the lanes carry a timing's line packets (R298). -/
def slpFits (t : BitVec 512) : Bool :=
  tOut t != 0 || decide (128 + ceilDiv (tHact t) (tLanes t) * 3 * tBpc t ≤
    tLrate t * 1000 * 16384 * 40 * tHtot t * tFrDen t / (16448 * 41 * tN t))

/-- The lanes that a head scans out on (R298, R299). -/
def headLanes (t : BitVec 512) : Nat := if tOut t = 2 then 4 else tLanes t

/-- The charges of a timing (R300). -/
def timingCharge (n : Nat) (t : BitVec 512) : Charge :=
  let rate := ceilDiv (tHtot t * tVtot t * tFrNum t) (tFrDen t * 1000)
  [(32 + n, rate)] ++ (if tPair t = 0 then [] else [(33 + n, rate)]) ++ [(52, tBudget t), (53, tBudget t)]

/-- The width of the panel space (R287). -/
def panelWidth (t : BitVec 512) : Nat := if tPair t = 1 then 2 * tHact t else tHact t

/-! ### Plane descriptor (table DSP-5) -/

def plEn (d : BitVec 512) : Bool := bitOf d 0
/-- The plane reads a compositor ring. -/
def plRing (d : BitVec 512) : Bool := bitOf d 1
def plFormat (d : BitVec 512) : Nat := bitsOf d 3 2
def plCmp (d : BitVec 512) : Nat := bitsOf d 6 4
def plOut (d : BitVec 512) : Nat := bitsOf d 9 7
def plAlpha (d : BitVec 512) : Nat := bitsOf d 47 32
def plX (d : BitVec 512) : Nat := bitsOf d 79 64
def plY (d : BitVec 512) : Nat := bitsOf d 95 80
def plW (d : BitVec 512) : Nat := bitsOf d 111 96
def plH (d : BitVec 512) : Nat := bitsOf d 127 112
def plPitch (d : BitVec 512) : Nat := bitsOf d 159 128
def plBase (d : BitVec 512) : Nat := bitsOf d 239 192
def plStride (d : BitVec 512) : Nat := bitsOf d 287 256
/-- Bytes per pixel. -/
def plBpp (d : BitVec 512) : Nat := if plFormat d = 0 then 8 else 4

/-- The rules of table DSP-5. -/
def planeOk (d : BitVec 512) : Bool :=
  plFormat d != 3 && (!plRing d || plFormat d == 0) && bitsOf d 31 10 == 0 && bitsOf d 63 48 == 0 &&
  decide (8 ≤ plW d ∧ plW d ≤ 16384 ∧ 8 ≤ plH d ∧ plH d ≤ 4352 ∧ plW d * plBpp d ≤ 61440 ∧ plW d * plBpp d ≤ plPitch d) &&
  plPitch d % 32 == 0 && bitsOf d 255 240 == 0 && bitsOf d 511 288 == 0 &&
  (if plRing d then plBase d % 4096 == 0 && plStride d % 4096 == 0 && decide (plPitch d * plH d ≤ plStride d)
   else plBase d == 0 && plStride d == 0)

/-- Whether a plane lies inside the panel of a timing (R287). -/
def planeInside (d t : BitVec 512) : Bool := decide (plX d + plW d ≤ panelWidth t ∧ plY d + plH d ≤ tVact t)

/-- A plane's fetch need at a timing's frame rate (R300). -/
def planeNeed (d t : BitVec 512) : Nat :=
  ceilDiv (tFrNum t * plPitch d * plH d) (tFrDen t * 1000000) * (if plRing d then 2 else 1)

/-- The most recently accepted timing. -/
def Head.lastTiming (h : Head) : BitVec 512 := match h.next with
  | some (t, _) => t
  | none => h.timing

/-- The most recently accepted configuration of a plane. -/
def HeadPlane.last (p : HeadPlane) : BitVec 512 := p.next.getD p.cur

/-- The configurations of the enabled planes, as last accepted. -/
def Head.enabled (h : Head) : List (BitVec 512) :=
  ((List.range 4).map (fun p => (h.plane p).last)).filter plEn

/-- The fetch need of all of a list of planes. -/
def needs (l : List (BitVec 512)) (t : BitVec 512) : Nat := l.foldl (fun a d => a + planeNeed d t) 0

/-! ### Completion -/

/-- A command of a head completes with a status. -/
def State.headDone (s : State) (n : Nat) (c : W256) (st : Nat) : State :=
  let s := (s.fset F.DH_CMD_STAT_OPCODE n 0 (cOp c)).fset F.DH_CMD_STAT_STATUS n 0 st
  s.cmdToken (Src.head n) c st

/-- A head posts an event; a SLAVE head posts none (R301). -/
def State.headPost (s : State) (n code : Nat) (items : List PItem) : State :=
  if (s.head n).st = .slave then s else s.post (Src.head n) code items

/-- A command is refused (R282). -/
def State.headRefuse (s : State) (n : Nat) (c : W256) (st : Nat) : State :=
  ((s.fset F.DH_CMD_STAT_REFUSED n 0 1).headPost n 0x0D00 [.u 1 (cOp c), .u 1 st]).headDone n c st

/-- `DH_STAT` follows a head's state and timing. -/
def State.headShow (s : State) (n : Nat) : State :=
  let h := s.head n
  let st := match h.st with
    | .off => 0
    | .black => 1
    | .run => 2
    | .stopping => 3
    | .slave => 4
  let s := (s.fset F.DH_STAT_STATE n 0 st).fset F.DH_STAT_PAIR n 0 (tPair h.timing)
  (s.fset F.DH_STAT_TEPACE n 0 (b2n (tPace h.timing)))

/-- `DH_STAT.PLANES` shows the planes of the frame in progress. -/
def State.headShowPlanes (s : State) (n : Nat) : State :=
  s.fset F.DH_STAT_PLANES n 0 ((List.range 4).foldl (fun a p => a + b2n (plEn ((s.head n).plane p).cur) * 2 ^ p) 0)

/-- The frame count of a head. -/
def State.headFrame (s : State) (n : Nat) : Nat := s.fget F.DH_FRAME_FRAMES n 0

/-! ### Ring planes (R288, R289) -/

/-- The planes that name an output of a compositor: head and plane. -/
def State.headTakers (s : State) (m q : Nat) : List (Nat × Nat) :=
  ((List.range 4).flatMap (fun n => (List.range 4).map (fun p => (n, p)))).filter (fun x =>
    let d := ((s.head x.1).plane x.2).cur
    plEn d && plRing d && plCmp d == m && plOut d == q)

/-- W: the lowest-numbered buffer that is neither S nor R. -/
def HeadPlane.pickWrite (p : HeadPlane) : Option Nat :=
  (List.range 3).find? (fun b => p.scan != some b && p.ready != some b)

/-- Lines of C12 pixels as bytes (R287): c0, c1, c2 of 12 bits each in 8 bytes. -/
def c12Line (l : List Px) : List Byte :=
  l.flatMap (fun p => leBytes 8 (p.c0 + p.c1 * 2 ^ 16 + p.c2 * 2 ^ 32))

/-- Write lines at a pitch. -/
def State.putLines (s : State) (req a pitch : Nat) : List (List Byte) → State
  | [] => s
  | l :: t => State.putLines (s.writeRange req a l).2 req (a + pitch) pitch t

/-- A band of a compositor output reaches a plane (R288, R289): the first line y0, whether it is the first and the last of its
frame, the output's size. -/
def State.headBand (s : State) (m q n p y0 w h : Nat) (first last : Bool) (lines : List (List Byte)) : State :=
  let hd := s.head n
  let pl := hd.plane p
  let d := pl.cur
  let fits := plW d == w && plH d == h
  let s := if first ∧ ¬ fits then
      s.headPost n 0x0D05 [.u 1 p, .u 1 m, .u 1 q, .u 4 (s.headFrame n)]
    else s
  let wr := if first then (if fits then pl.pickWrite else none) else pl.write
  match wr with
  | none => s.setHead n (hd.setPlane p { pl with write := none })
  | some b =>
    let s := s.putLines (Src.cmp m) (plBase d + b * plStride d + y0 * plPitch d) (plPitch d) lines
    s.setHead n (hd.setPlane p (if last then { pl with ready := some b, write := none } else { pl with write := some b }))

/-! ### Blending (R262, R268, R291) -/

/-- A 10-bit value as 16 bits. -/
def up10 (v : Nat) : Nat := v * 64 ||| v / 16

/-- mul(x, y) of R268. -/
def mul16 (x y : Nat) : Nat := (x * y + 32767) / 65535

/-- A straight-alpha layer over an opaque colour (R268). -/
def blendStraight (d c a : Nat) : Nat := min 65535 (mul16 c a + mul16 d (65535 - a))

/-- A pixel of a plane from its bytes (R262, R291). -/
def planePixel (fmt v : Nat) : Px :=
  let up12 (x : Nat) : Nat := x * 16 ||| x / 256
  if fmt = 0 then ⟨up12 (v % 4096), up12 (v / 2 ^ 16 % 4096), up12 (v / 2 ^ 32 % 4096), 65535⟩
  else if fmt = 1 then ⟨v % 256 * 257, v / 2 ^ 8 % 256 * 257, v / 2 ^ 16 % 256 * 257, v / 2 ^ 24 % 256 * 257⟩
  else ⟨up10 (v % 1024), up10 (v / 2 ^ 10 % 1024), up10 (v / 2 ^ 20 % 1024), v / 2 ^ 30 % 4 * 21845⟩

/-- Read bytes word by word: `none` for the bytes of a word that fails, and the first address that failed. -/
def State.readMarked (s : State) (req a n : Nat) : List Nat → List (Option Byte) → Option Nat →
    (List (Option Byte) × Option Nat) × State
  | [], acc, bad => ((acc, bad), s)
  | w :: t, acc, bad =>
    let lo := max w a
    let hi := min (w + 32) (a + n)
    let (r, s) := s.memRead req w
    match r with
    | .ok d => State.readMarked s req a n t (acc ++ (((leBytes 32 d.toNat).drop (lo - w)).take (hi - lo)).map some) bad
    | _ => State.readMarked s req a n t (acc ++ List.replicate (hi - lo) none) (bad.or (some w))

/-- Bytes that were all read, as a number. -/
def allBytes : List (Option Byte) → Option Nat
  | [] => some 0
  | none :: _ => none
  | some b :: t => (allBytes t).map (fun v => b.toNat + 256 * v)

/-- The pixels of a line of a plane: a pixel with a byte that failed is transparent (R294). -/
def planeLine (d : BitVec 512) (b : List (Option Byte)) : List PlanePixel :=
  (List.range (plW d)).map (fun x => (allBytes ((b.drop (x * plBpp d)).take (plBpp d))).map (planePixel (plFormat d)))

/-- The surface that a plane scans in the frame in progress: its base address. -/
def HeadPlane.base (p : HeadPlane) : Option Nat :=
  if plRing p.cur then p.scan.map (fun b => plBase p.cur + b * plStride p.cur) else p.surf

/-- Whether one rectangle lies wholly inside another. -/
def rectIn (x y w h X Y W H : Nat) : Bool := decide (X ≤ x ∧ x + w ≤ X + W ∧ Y ≤ y ∧ y + h ≤ Y + H)

/-- Whether a plane is fetched in the frame in progress: it is enabled and has a surface, and no opaque plane above covers it
(R292). -/
def Head.fetches (h : Head) (p : Nat) : Bool :=
  let x := h.plane p
  let d := x.cur
  !h.black && plEn d && x.base.isSome && !(List.range 4).any (fun k =>
    let y := h.plane k
    let e := y.cur
    decide (p < k) && plEn e && plFormat e == 0 && plAlpha e == 65535 && y.base.isSome &&
      rectIn (plX d) (plY d) (plW d) (plH d) (plX e) (plY e) (plW e) (plH e))

/-- The black of R286 in 16-bit values. -/
def blackPixel (t : BitVec 512) : Px := if tYcc t then ⟨64 * 64, 512 * 64, 512 * 64, 65535⟩ else ⟨0, 0, 0, 65535⟩

/-- One plane over a pixel of panel column x, line y. -/
def Head.overlay (h : Head) (x y : Nat) (c : Px) (p : Nat) : Px :=
  let pl := h.plane p
  let d := pl.cur
  if h.fetches p ∧ plX d ≤ x ∧ x < plX d + plW d ∧ plY d ≤ y ∧ y < plY d + plH d then
    match ((Tab.getD pl.lines (y - plY d) []).getD (x - plX d) none) with
    | some q =>
      let al := mul16 q.a (plAlpha d)
      ⟨blendStraight c.c0 q.c0 al, blendStraight c.c1 q.c1 al, blendStraight c.c2 q.c2 al, 65535⟩
    | none => c
  else c

/-- The blended pixel of panel column x in active line y (R291). -/
def Head.pixel (h : Head) (x y : Nat) : Px :=
  if h.black then blackPixel h.timing else (List.range 4).foldl (fun c p => h.overlay x y c p) (blackPixel h.timing)

/-- A 16-bit value rounded to a component width (R291). -/
def toBits (bpc v : Nat) : Nat := min (2 ^ bpc - 1) ((v + 2 ^ (15 - bpc)) / 2 ^ (16 - bpc))

/-! ### Lines (R298, R299) -/

/-- The CRC-16-CCITT of bits, in the order in which the lane sends them. -/
def crc16Bits : List Bool → BitVec 16 → BitVec 16
  | [], c => c
  | b :: t, c => crc16Bits t (crcBitL 0x1021#16 (if b then c ^^^ 0x8000#16 else c))

/-- A line packet of a lane: header, pixels, trailer (R298). -/
def linePacket (head lane : Nat) (t : BitVec 512) (header : Nat) (px : List Px) : HeadOut :=
  let bpc := tBpc t
  let mine := ((List.range px.length).filter (fun i => i % tLanes t == lane)).map (fun i => px.getD i ⟨0, 0, 0, 0⟩)
  let vals := mine.flatMap (fun p => [toBits bpc p.c0, toBits bpc p.c1, toBits bpc p.c2])
  let bits := packBits bpc vals
  let len := bpc * vals.length
  let c := crc16Bits (bitList header 64 ++ bitList bits len) 0xFFFF#16
  .slp head lane (BitVec.ofNat 64 header) bits len (BitVec.ofNat 64 c.toNat)

/-- A line of the SDI link on a lane: its samples with the payload identifier, line number and CRCs of its standard (R299). -/
def sdiLink (t : BitVec 512) (lane y : Nat) (luma cb cr : List Nat) : SdiLine :=
  let number := Config.sdiNumber t y
  ⟨y, luma, cb, cr, Config.sdiIdent t lane, number, Config.sdiCrcs t number luma cb cr⟩

/-- The link lines of active line y: a single link on lane 0; on a quad link, the two-sample interleave division: an even line
goes to lanes 0 and 1 and an odd one to lanes 2 and 3, by turns of two luma samples with their Cb and Cr (R299). -/
def sdiLinks (n : Nat) (t : BitVec 512) (y : Nat) (luma cb cr : List Nat) : List HeadOut :=
  if tOut t = 2 then
    let pick (f k : Nat) (l : List Nat) : List Nat :=
      ((List.range l.length).filter (fun i => i / f % 2 == k)).map (fun i => l.getD i 0)
    [0, 1].map (fun k => .sdi n (2 * (y % 2) + k)
      (sdiLink t (2 * (y % 2) + k) (y / 2) (pick 2 k luma) (pick 1 k cb) (pick 1 k cr)))
  else [.sdi n 0 (sdiLink t 0 y luma cb cr)]

/-- What a head sends of active line y from panel columns x0 on; `right` marks the right half of a locked pair. -/
def Head.sendLine (h : Head) (n frame y x0 : Nat) (right : Bool) : List HeadOut :=
  let t := h.timing
  let px := (List.range (tHact t)).map (fun x => h.pixel (x0 + x) y)
  if tOut t = 0 then
    let header := y + frame % 65536 * 2 ^ 16 + b2n (y == 0) * 2 ^ 32 + b2n (y + 1 == tVact t) * 2 ^ 33 +
      b2n h.black * 2 ^ 34 + b2n right * 2 ^ 35
    (List.range (tLanes t)).map (fun l => linePacket n l t header px)
  else
    let sub (f : Px → Nat) : List Nat := (List.range (tHact t / 2)).map (fun x =>
      toBits 10 ((f (px.getD (2 * x) ⟨0, 0, 0, 0⟩) + f (px.getD (2 * x + 1) ⟨0, 0, 0, 0⟩) + 1) / 2))
    sdiLinks n t y (px.map (fun p => toBits 10 p.c0)) (sub (fun p => p.c1)) (sub (fun p => p.c2))

/-- The panel columns that a head's quad shows, and whether it is the right half of a locked pair (R296): n is the head whose
timing and planes are used, m the head whose quad sends. -/
def Head.sendTo (h : Head) (n m frame y : Nat) : List HeadOut :=
  if n = m ∨ tPair h.timing ≠ 1 then h.sendLine m frame y 0 false else h.sendLine m frame y (tHact h.timing) true

/-- The bits of a line packet in the order in which its lane sends them. -/
def HeadOut.packet : HeadOut → List Bool
  | .slp _ _ header bits len trailer => bitList header.toNat 64 ++ bitList bits len ++ bitList trailer.toNat 64
  | .sdi _ _ _ => []

/-- The packets and link lines of a quad's lanes leave: SLP lanes without a packet send idle words only, at `LRATE` (R380). -/
def State.headSend (out : List HeadOut) (q : Nat) (s : State) (l : Nat) : State :=
  let slp := out.findSome? (fun o => match o with
    | .slp _ k _ _ _ _ => if k = l then some o.packet else none
    | .sdi _ _ _ => none)
  let sdi := out.findSome? (fun o => match o with
    | .sdi _ k x => if k = l then some x else none
    | .slp _ _ _ _ _ _ => none)
  match sdi with
  | some x => s.laneSent q l [.sdi x]
  | none => match slp with
    | some p => s.laneSend q l p
    | none => if (out.any fun o => match o with
        | .sdi _ _ _ => true
        | .slp _ _ _ _ _ _ => false) then s else s.laneSend q l []

/-! ### Frame boundaries (R285) -/

/-- A plane whose source changes starts with no surface of the new one; a plane of `SRC` 0 keeps its surface, and the fields of
a ring mean nothing to it (R288). -/
def HeadPlane.apply (p : HeadPlane) (d : BitVec 512) : HeadPlane :=
  let same := plRing p.cur == plRing d && (!plRing d || (plBase p.cur == plBase d && plStride p.cur == plStride d &&
    plCmp p.cur == plCmp d && plOut p.cur == plOut d))
  if same then { p with cur := d, next := none }
  else { p with cur := d, next := none, surf := none, scan := none, ready := none, write := none }

/-- What a plane latches at a content frame boundary (R288): the plane, the PRESENT that completes, whether a surface is new,
whether a ring buffer is repeated. -/
def HeadPlane.latch (p : HeadPlane) : HeadPlane × Option W256 × Bool × Bool :=
  let p := match p.next with
    | some d => p.apply d
    | none => p
  let p := { p with fetched := 0, lines := [], late := false, poison := false }
  if ¬ plEn p.cur then (p, none, false, false)
  else if plRing p.cur then
    match p.ready with
    | some b => ({ p with scan := some b, ready := none }, none, true, false)
    | none => (p, none, false, p.scan.isSome)
  else match p.wait with
    | some (c, base) => ({ p with surf := some base, wait := none }, some c, true, false)
    | none => (p, none, false, false)

/-- Latch the planes of a head in order: whether a surface is new, whether a ring repeated. -/
def State.headLatch (n : Nat) : List Nat → State → Bool × Bool × State
  | [], s => (false, false, s)
  | p :: t, s =>
    let (pl, cmd, new, rep) := ((s.head n).plane p).latch
    let s := s.setHead n ((s.head n).setPlane p pl)
    let s := match cmd with
      | some c => s.headDone n c 0
      | none => s
    let (a, b, s) := State.headLatch n t s
    (new || a, rep || b, s)

/-- The frame token of a boundary (R286). -/
def State.frameToken (s : State) (n : Nat) (new black edge timeout : Bool) : State :=
  let t := (s.head n).timing
  if tFtok t then
    s.sendToken (Src.head n) (tToken t) (BitVec.ofNat 64 (s.headFrame n + b2n new * 2 ^ 32 + b2n black * 2 ^ 33 +
      b2n edge * 2 ^ 34 + b2n timeout * 2 ^ 35))
  else s

/-- A head's quad after OFF: SLP lanes keep sending idle frames at the last `LRATE`, SDI lanes hold electrical idle (R380). -/
def State.quadRest (s : State) (q : Nat) : State :=
  let h := s.head (q - 10)
  match h.sends with
  | none => s
  | some t =>
    if tOut t = 0 then (List.range 4).foldl (fun s l => s.laneSend q l []) s
    else (List.range 4).foldl (fun s l => s.laneDrive q l false) (s.setHead (q - 10) { h with sends := none })

/-- The odd head of a pair follows the even head into and out of SLAVE (R297). -/
def State.headPartner (s : State) (n : Nat) : State :=
  if n % 2 = 1 then s
  else
    let slave := tPair (s.head n).timing != 0 && (s.head n).st != .off
    let o := s.head (n + 1)
    if slave ∧ o.st ≠ .slave then (s.setHead (n + 1) { o with st := .slave }).headShow (n + 1)
    else if ¬ slave ∧ o.st = .slave then ((s.setHead (n + 1) { o with st := .off }).headShow (n + 1)).quadRest (11 + n)
    else s

/-- The lanes of a quad that a timing drives, and not the others (R380). -/
def State.quadDrive (t : BitVec 512) (s : State) (q : Nat) : State :=
  let s := s.setHead (q - 10) { s.head (q - 10) with sends := some t }
  (List.range 4).foldl (fun s l => s.laneDrive q l (tOut t = 0 ∨ l < headLanes t)) s

/-- A timing takes effect on a head's quad, and on its partner's in a pair mode (R296, R380). -/
def State.headDrive (s : State) (n : Nat) (t : BitVec 512) : State :=
  (if tPair t = 0 then [10 + n] else [10 + n, 11 + n]).foldl (State.quadDrive t) s

/-- The cadence generator runs through the extension of the blanking that pacing gave before frame f (R295). -/
def Head.extended (h : Head) (n f : Nat) : Head :=
  { h with acc := (h.acc + Config.paceClocks n f * tN h.timing) % tM h.timing, ahead := 0 }

/-- A frame starts. `edge` and `timeout` say what it followed. -/
def State.headFrameStart (s : State) (n : Nat) (edge timeout : Bool) : State :=
  let h := s.head n
  -- step 1
  let (newT, s) := match h.next with
    | some (t, c) =>
      let s := s.setHead n { h with
        timing := t, next := none, st := .black, black := true, line := 0, teEdge := false, acc := 0, ahead := 0 }
      let s := (((s.applyCharge (.head n)).headShow n).headPartner n).headDrive n t
      (some c, s)
    | none =>
      let h := { h with st := .run, black := false, line := 0, teEdge := false }
      let h := if edge ∨ timeout then h.extended n (s.headFrame n + 1) else h
      (none, (s.setHead n h).headShow n)
  -- step 2
  let (new, rep, s) := if newT.isSome then (false, false, s) else State.headLatch n [0, 1, 2, 3] s
  let s := if rep then s.fset F.DH_STAT_REPEATS n 0 (min (s.fget F.DH_STAT_REPEATS n 0 + 1) 0xFFFF) else s
  let s := s.headShowPlanes n
  -- step 3
  let s := s.fset F.DH_FRAME_FRAMES n 0 ((s.headFrame n + 1) % 2 ^ 32)
  -- step 4
  let s := if new then
      ((s.fset F.DH_FLIP_NS_NS n 0 s.time.ns).fset F.DH_FLIP_SEC_SEC n 0 (s.time.sec.toNat % 2 ^ 32)).fset
        F.DH_FLIP_FRM_FRAME n 0 (s.headFrame n)
    else s
  -- step 5
  let s := s.frameToken n new newT.isSome edge timeout
  match newT with
  | some c => (s.headPost n 0x0D01 [.u 4 (s.headFrame n), .u 1 (tPair (s.head n).timing)]).headDone n c 0
  | none => s

/-- A head enters OFF at the end of a frame: its charges are released, its STOP completes (R282, R283). -/
def State.headOff (s : State) (n : Nat) : State :=
  let h := s.head n
  let s := (((s.setHead n { h with st := .off, stop := none, black := false }).headShow n).headPartner n).quadRest (10 + n)
  let s := s.releaseCharge (.head n)
  match h.stop with
  | some c => s.headDone n c 0
  | none => s

end Sys2Proof.Machine
end

