-- ==== Sys2Proof/Machine/Net.lean ====
section
/-! DEFINITION. The commands of the Ethernet ports and their schedulers (chapter 10). -/

namespace Sys2Proof.Machine

/-- Run the meaning of a port that exists. -/
def State.needPort (s : State) (n : Nat) (f : State → State) : Res := s.need (decide (n < 8)) "Ethernet port" f

/-- Run the meaning of a link of a port that exists. -/
def State.needLink (s : State) (n link : Nat) (f : State → State) : Res :=
  s.need (decide (n < 8 ∧ link < 4)) "Ethernet link" f

/-! ### Reception -/

/-- FRAME_RECEIVED: a frame without its FCS, and the FCS that followed it. -/
def execFrameReceived (port link : Nat) (frame : List Byte) (fcs : BitVec 32) (s : State) : Res :=
  s.needLink port link fun s =>
    if ¬ s.linkUp port link then s
    else
      let s := s.netCount port link 0
      if crc crc32 frame ≠ fcs then s.netCount port link 1
      else if 9600 < frame.length + 4 then s.netCount port link 2
      else s.rxClassified port link frame

/-- BAND_TIMEOUT: `TMO` µs have passed since a packet of a later band or frame, or, when `idle`, since the flow's last packet
(R309). -/
def execBandTimeout (flow : Nat) (idle : Bool) (s : State) : Res :=
  s.need (decide (flow < 1024)) "receive flow" fun s =>
    let x := s.rxFlow flow
    match x.frames with
    | [] => s
    | fr :: t =>
      if ¬ x.on then s
      else if idle then s.rxIdle flow
      else if fr.next + 1 < fr.reach ∨ ¬ t.isEmpty then s.rxCloseNext flow
      else s

/-! ### Ports (R302, R303, R370) -/

/-- The quad of a port under a value of `ETH_CFG` (R302). -/
def ethQuad (n : Nat) (cfg : W32) : Nat := if 6 ≤ n ∧ bitsOf cfg 1 0 = 2 ∧ bitOf cfg 8 then n + 8 else n

/-- Whether a mode has a link. -/
def modeHasLink (mode link : Nat) : Bool := (mode == 1 && link == 0) || (mode == 2 && decide (link < 4))

/-- A link changes state. -/
def State.setLink (s : State) (n link : Nat) (up : Bool) : State :=
  let bit := 2 ^ link
  let old := s.fget F.ETH_STAT_LINK n 0
  let an := s.fget F.ETH_STAT_ANDONE n 0
  let clear (v : Nat) : Nat := if v / bit % 2 = 1 then v - bit else v
  let set (v : Nat) : Nat := clear v + bit
  let s := s.fset F.ETH_STAT_LINK n 0 (if up then set old else clear old)
  let s := s.fset F.ETH_STAT_ANDONE n 0 (if up ∧ s.flag F.ETH_CFG_AN n 0 then set an else clear an)
  (s.fset F.ETH_STAT_CHG n 0 1).post (Src.eth n) 0x0F00 [.u 1 link, .u 1 (b2n up)]

/-- The coefficients that training sets: free values within the range of the FIR, `MAIN` ≥ 16 and a sum of at most 63 (R378). -/
def firOf (v : BitVec 24) : W32 :=
  let pre := bitsOf v 3 0
  let main := 16 + bitsOf v 11 4 % (48 - pre)
  let post := bitsOf v 23 12 % (64 - pre - main)
  BitVec.ofNat 32 (pre + main * 2 ^ 8 + post * 2 ^ 16)

/-- The start-up training sets the FIR coefficients of a lane (R303, R378). -/
def State.trained (s : State) (quad lane : Nat) : State :=
  let v : BitVec 24 := s.free 24
  s.drawn.setReg .LN_LANE_FIR quad lane (firOf v)

/-- ETH_LINK_CHANGE: a link comes up, with its training done, or goes down. -/
def execEthLinkChange (port link : Nat) (up : Bool) (s : State) : Res :=
  s.needLink port link fun s =>
    let mode := s.fget F.ETH_CFG_MODE port 0
    if s.linkUp port link = up ∨ (up ∧ ¬ modeHasLink mode link) then s
    else
      let s := s.setLink port link up
      let q := ethQuad port (s.reg .ETH_CFG port 0)
      if up then (if mode = 1 then (List.range 4).foldl (fun s l => s.trained q l) s else s.trained q link) else s

/-- ETH_MODE_WRITE: a write of `ETH_CFG` (R302, R370, table NET-8). MODE 3, and ALTQ where it means nothing, are read back as
written and give no link and no other quad (R16). -/
def execEthModeWrite (req n : Nat) (val : BitVec 32) (s : State) : Res :=
  let _ := req
  s.needPort n fun s =>
    let mode := bitsOf val 1 0
    let q := ethQuad n val
    if mode = 0 then
      let s := s.wrReg .ETH_CFG n 0 val
      (List.range 4).foldl (fun s l => if s.linkUp n l then s.setLink n l false else s) s
    else if s.fget F.ETH_CFG_MODE n 0 ≠ 0 ∨ s.fget F.LN_CFG_MODE q 0 ≠ 1 ∨ ¬ s.flag F.LN_CFG_READY q 0 then s
    else s.wrReg .ETH_CFG n 0 val

/-! ### Receive flow commands (R306) -/

/-- A receive flow command ends with a status. -/
def State.rxfDone (s : State) (k port st : Nat) : State :=
  let s := s.fset F.ETH_RXF_STAT_STATUS 0 0 st
  if st = 0 then s else (s.fset F.ETH_RXF_STAT_REFUSED 0 0 1).post (Src.eth port) 0x0F01 [.u 2 k, .u 1 st]

/-- RXF_ENABLE: a write of `ETH_RXF_CMD` with `OP` 1. -/
def execRxfEnable (req : Nat) (val : BitVec 32) (s : State) : Res :=
  let _ := req
  .next (
    let k := bitsOf val 17 8
    if bitsOf val 1 0 ≠ 1 then s
    else if (s.rxFlow k).on then s.rxfDone k (rxPortA (s.rxFlow k).desc) 4
    else match s.readRange (Src.eth 0) (bitsOf (s.pair .ETH_RXF_ADDR_LO .ETH_RXF_ADDR_HI 0 0) 47 0) 64 with
      | (.ok b, s) =>
        let d : RxDesc := bytesBv 512 b
        if rxDescOk d then
          let s := (s.setReg .ETH_RXF_RING 0 k 0).setReg .ETH_RXF_ERR 0 k 0
          (s.setRxFlow k { on := true, desc := d }).rxfDone k (rxPortA d) 0
        else s.rxfDone k (rxPortA d) 2
      | (_, s) => s.rxfDone k (rxPortA (s.rxFlow k).desc) 9)

/-- RXF_DISABLE: a write of `ETH_RXF_CMD` with `OP` 2; bands not yet closed send no token. -/
def execRxfDisable (req : Nat) (val : BitVec 32) (s : State) : Res :=
  let _ := req
  .next (
    let k := bitsOf val 17 8
    let d := (s.rxFlow k).desc
    if bitsOf val 1 0 ≠ 2 then s
    else if (s.rxFlow k).on then (s.setRxFlow k { desc := d }).rxfDone k (rxPortA d) 0
    else s.rxfDone k (rxPortA d) 4)

/-! ### Releases (R311) -/

/-- The descriptor at an address is discarded, counted and posted (R311). -/
def State.badDesc (s : State) (port q addr cause : Nat) : State :=
  (s.setTsh port { s.tsh port with bad := (s.tsh port).bad + 1 }).post (Src.tsh port) 0x1003 [.u 2 q, .u 6 addr, .u 1 cause]

/-- Descriptors of a release are discarded. -/
def State.badRelease (s : State) (port q addr cause : Nat) : Nat → State
  | 0 => s
  | n + 1 => (State.badRelease s port q addr cause n).badDesc port q (addr + 32 * n) cause

/-- Copy n descriptors from an address into a queue. -/
def State.takeDescs (port q addr : Nat) : Nat → State → State
  | 0, s => s
  | n + 1, s =>
    let s := State.takeDescs port q addr n s
    let a := addr + 32 * n
    match s.memRead (Src.tsh port) a with
    | (.ok d, s) =>
      let x := s.txq port q
      if txDescOk x.desc d then
        s.setTxq port q { x with
          pkts := x.pkts ++ [⟨d, a⟩], headAt := if x.pkts.isEmpty then s.nowNs else x.headAt }
      else s.badDesc port q a 3
    | (_, s) => s.badDesc port q a 2

/-- TX_RELEASE: the first release that waits at a queue is taken, or discarded, or waits on for room. -/
def execTxRelease (port q : Nat) (s : State) : Res :=
  s.need (decide (port < 8 ∧ q < 512)) "transmit queue" fun s =>
    match s.txWaiting port q with
    | [] => s
    | (flow, v) :: t =>
      let addr := bitsOf v 47 0
      let n := bitsOf v 55 48 + 1
      let x := s.txq port q
      let taken (s : State) : State :=
        let s : State := { s with releases := Tab.set s.releases (port, q) t }
        let f : Flow := s.flow flow
        match Tab.find? f.rel f.fates with
        | some (FlowFate.done []) => s.advanceFlow flow
        | _ => s
      if bitsOf v 63 56 ≠ 0 ∨ addr % 32 ≠ 0 then taken (State.badRelease s port q addr 0 n)
      else if x.st ≠ .opened then taken (State.badRelease s port q addr 1 n)
      else if qDepth x.desc < x.pkts.length + n then s
      else taken (State.takeDescs port q addr n s)

/-! ### Transmission -/

/-- PACKET_START: among the packets that may start on a link, the one of R315 does. -/
def execPacketStart (port link : Nat) (s : State) : Res :=
  s.needLink port link fun s =>
    match s.txPick port link with
    | none => s
    | some q => match (s.txq port q).pkts with
      | [] => s
      | p :: _ => s.txStart port link q p

/-- TX_POISON_ABORT: the frame whose data were poisoned ends with an inverted FCS (R325). -/
def execTxPoisonAbort (port link : Nat) (s : State) : Res :=
  s.needLink port link fun s =>
    let t := s.tsh port
    match Tab.find? link t.abort with
    | none => s
    | some a =>
      let s := s.setTsh port { t with abort := Tab.erase link t.abort }
      let s := (s.netCount port link 8).post (Src.tsh port) 0x1005 [.u 2 a.q, .u 6 a.addr]
      if a.muted then s.fset F.TWN_MUTED_FRAMES 0 0 (s.fget F.TWN_MUTED_FRAMES 0 0 + 1)
      else
        let s := s.chkBlock 3 (port + a.q * 8) ⟨BitVec.ofNat 64 (txBuf a.pkt.desc), a.sent, true⟩
        s.setNet { s.net with out := s.net.out ++ [{ port := port, link := link, bytes := a.sent, badFcs := true }] }

/-! ### Scheduler commands (R313, R319, R321) -/

/-- A scheduler command completes with a status. -/
def State.tshDone (s : State) (n o index st : Nat) : State :=
  let s := (s.fset F.TSH_CMD_STAT_OP n 0 o).fset F.TSH_CMD_STAT_STATUS n 0 st
  if st = 0 then s else (s.fset F.TSH_CMD_STAT_REFUSED n 0 1).post (Src.tsh n) 0x1000 [.u 1 o, .u 2 index, .u 1 st]

/-- A write of `TSH_CMD` with an operation: its index goes to the operation, unless the scheduler's domain is not ON (R489). -/
def State.tshCmd (s : State) (n o : Nat) (val : W32) (f : Nat → State → Nat × State) : State :=
  if bitsOf val 3 0 ≠ o then s
  else
    let (st, s) := if s.dom (138 + n) = .on then f (bitsOf val 16 8) s else (4, s)
    s.tshDone n o (bitsOf val 16 8) st

/-- `TSH_ADDR`. -/
def State.tshAddr (s : State) (n : Nat) : Nat := bitsOf (s.pair .TSH_ADDR_LO .TSH_ADDR_HI n 0) 47 0

/-- Read the record of a scheduler command: status 2 for an unaligned address, 9 for poison. -/
def State.tshRead (s : State) (n a len : Nat) : (Nat ⊕ List Byte) × State :=
  if a % 32 ≠ 0 then (.inl 2, s)
  else match s.readRange (Src.tsh n) a len with
    | (.ok b, s) => (.inr b, s)
    | (_, s) => (.inl 9, s)

/-- The queues of a port that are not closed, but for one, with their numbers. -/
def State.otherQueues (s : State) (n q : Nat) : List (Nat × TxQueue) :=
  (s.tsh n).queues.filter (fun x => x.1 != q && x.2.st != .closed)

/-- The charge of a queue on its port's entry as the ledger holds it: a change counts from its acceptance (R29, R313). -/
def State.queueHeld (s : State) (n q : Nat) : Nat := (s.ledger.holding (.txq n q)).on (54 + n)

/-- The `QDEPTH` of a port's open queues but for one; a CLOSING queue is not open (R313). -/
def State.otherDepth (s : State) (n q : Nat) : Nat :=
  (((s.otherQueues n q).filter (fun y => y.2.st == .opened)).map (fun y => qDepth y.2.desc)).sum

/-- The charges on a link but for one queue (R313). -/
def State.otherLoad (s : State) (n q link : Nat) : Nat :=
  (((s.otherQueues n q).filter (fun y => qLink y.2.desc == link)).map (fun y => s.queueHeld n y.1)).sum

/-- OPEN_Q on a queue, once its descriptor is read. -/
def State.openQueue (s : State) (n q : Nat) (d : W256) : Nat × State :=
  let x := s.txq n q
  let mode := s.fget F.ETH_CFG_MODE n 0
  if x.st = .closing then (4, s)
  else if ¬ queueDescOk mode d then (2, s)
  else if x.st = .opened ∧ (qClass d ≠ qClass x.desc ∨ qLink d ≠ qLink x.desc ∨ qPace d ≠ qPace x.desc) then (4, s)
  else if mode = 2 ∧ 23750 < s.otherLoad n q (qLink d) + max (s.queueHeld n q) (qMbps d) then (20, s)
  else if 49152 < s.otherDepth n q + qDepth d then (21, s)
  else match s.submit ⟨Src.tsh n, .txq n q, [(54 + n, qMbps d)]⟩ with
    | (false, s) => (1, s)
    | (true, s) =>
      let s := s.setTxq n q { x with st := .opened, desc := d }
      (0, if x.st = .closed then s.applyCharge (.txq n q) else s)

/-- OPEN_Q. -/
def execOpenQ (req n : Nat) (val : BitVec 32) (s : State) : Res :=
  let _ := req
  s.needPort n fun s => s.tshCmd n 1 val fun q s =>
    match s.tshRead n (s.tshAddr n) 32 with
    | (.inl st, s) => (st, s)
    | (.inr b, s) => s.openQueue n q (bytesBv 256 b)

/-- CLOSE_Q. -/
def execCloseQ (req n : Nat) (val : BitVec 32) (s : State) : Res :=
  let _ := req
  s.needPort n fun s => s.tshCmd n 2 val fun q s =>
    let x := s.txq n q
    if x.st ≠ .opened then (4, s) else (0, (s.setTxq n q { x with st := .closing }).txClosed n q)

/-- The start time of a list (R321): `BASE`, or a later cycle with `LATE`. -/
def State.gateStart (s : State) (n : Nat) (base : W64) (cycle : Nat) : Nat × State :=
  let due := s.nowNs + s.fget F.TSH_CTRL_MARGIN n 0 * 1000
  let b := s.unpackTime base
  if due ≤ b then (b, s)
  else
    let start := b + ceilDiv (due - b) cycle * cycle
    (start, (s.fset F.TSH_GATE_LATE n 0 1).post (Src.tsh n) 0x1001
      [.u 8 (packTime (BitVec.ofNat 64 (start / 1000000000)) (start % 1000000000)).toNat])

/-- A list becomes the pending one. -/
def State.gatePend (s : State) (n : Nat) (l : GateList) (start : Nat) : State :=
  (s.setTsh n { s.tsh n with pend := some (l, start) }).fset F.TSH_GATE_PEND n 0 1

/-- The entries of a gate list as stored. -/
def gateEntries (n : Nat) (b : List Byte) : List W64 :=
  (List.range n).map (fun i => BitVec.ofNat 64 (leNat ((b.drop (8 * i)).take 8)))

/-- GATE. -/
def execGate (req n : Nat) (val : BitVec 32) (s : State) : Res :=
  let _ := req
  s.needPort n fun s => s.tshCmd n 3 val fun _ s =>
    let a := s.tshAddr n
    if a = 0 then
      match (s.tsh n).op with
      | some l =>
        let (start, s) := s.gateStart n l.base l.cycle
        (0, s.gatePend n { l with entries := [] } start)
      | none => (0, s.gatePend n {} (s.nowNs + s.fget F.TSH_CTRL_MARGIN n 0 * 1000))
    else match s.tshRead n a 16 with
      | (.inl st, s) => (st, s)
      | (.inr h, s) =>
        let d : BitVec 128 := bytesBv 128 h
        let count := bitsOf d 8 0
        let cycle := bitsOf d 63 32
        if count = 0 ∨ 256 < count ∨ bitsOf d 15 9 ≠ 0 ∨ bitsOf d 31 17 ≠ 0 ∨ cycle < 1000 ∨ 1000000000 < cycle ∨
            1000000000 ≤ bitsOf d 93 64 then (2, s)
        else match s.readRange (Src.tsh n) (a + 16) (8 * count) with
          | (.ok b, s) =>
            let es := gateEntries count b
            if es.any (fun e => bitsOf e 31 8 != 0 || bitsOf e 63 32 == 0) then (2, s)
            else
              let base : W64 := d.extractLsb' 64 64
              let l : GateList := { guard := bitOf d 16, cycle := cycle, base := base,
                                    entries := es.map (fun e => (bitsOf e 7 0, bitsOf e 63 32)) }
              let (start, s) := s.gateStart n base cycle
              (0, s.gatePend n l start)
          | (_, s) => (9, s)

/-- The key length, in the code of `KLEN`, that a suite needs. -/
def suiteKlen (suite : Nat) : Nat := if suite = 3 then 2 else 1

/-- SRTP_LOAD (R319, R445). -/
def execSrtpLoad (req n : Nat) (val : BitVec 32) (s : State) : Res :=
  let _ := req
  s.needPort n fun s => s.tshCmd n 4 val fun ctx s =>
    let used := (s.tsh n).queues.any (fun x => x.2.pkts.any (fun p => txCtx p.desc == ctx))
    if ctx = 0 ∨ 255 < ctx then (2, s)
    else if used then (4, s)
    else match s.tshRead n (s.tshAddr n) 32 with
      | (.inl st, s) => (st, s)
      | (.inr b, s) =>
        let d : W256 := bytesBv 256 b
        let suite := bitsOf d 1 0
        if suite = 0 ∨ bitsOf d 7 2 ≠ 0 ∨ bitsOf d 31 14 ≠ 0 ∨ bitsOf d 255 64 ≠ 0 then (2, s)
        else match Tab.find? (bitsOf d 13 8) s.sec.keys with
          | some k =>
            if k.klen = suiteKlen suite then
              let c : SrtpCtx := { suite := suite, key := k.key, salt := k.salt, saltLen := k.saltLen, roc := bitsOf d 63 32 }
              (0, s.setTsh n { s.tsh n with ctxs := Tab.set (s.tsh n).ctxs ctx c })
            else (2, s)
          | none => (2, s)

/-- GATE_LIST_START: the pending list replaces the one in operation at its start (R321). -/
def execGateListStart (port : Nat) (s : State) : Res :=
  s.needPort port fun s =>
    let t := s.tsh port
    match t.pend with
    | none => s
    | some (l, start) =>
      if s.nowNs < start then s
      else
        let on := !l.entries.isEmpty
        let s := s.setTsh port { t with op := if on then some l else none, pend := none }
        let s := (s.fset F.TSH_GATE_PEND port 0 0).fset F.TSH_GATE_ACTIVE port 0 (b2n on)
        s.fset F.TSH_GATE_ENTRY port 0 (if on then s.gateEntry l s.nowNs else 0)

/-- GATE_ENTRY_CHANGE: `ENTRY` shows the entry that device time has reached (R320, R322). -/
def execGateEntryChange (port : Nat) (s : State) : Res :=
  s.needPort port fun s =>
    match (s.tsh port).op with
    | some l => s.fset F.TSH_GATE_ENTRY port 0 (s.gateEntry l s.nowNs)
    | none => s

/-- The record of a queue in a snapshot (R323). -/
def State.sampleQueue (s : State) (port q : Nat) : List Byte :=
  let x := s.txq port q
  let bytes := (x.pkts.map (fun p => s.counted port p.desc)).sum
  let delay := match x.pkts with
    | p :: _ => s.nowNs - s.eligibleAt x p.desc
    | [] => 0
  leBytes 4 (min bytes 0xFFFFFFFF) ++ leBytes 2 (min x.pkts.length 0xFFFF) ++ leBytes 2 0 ++
    leBytes 4 (min delay 0xFFFFFFFF) ++ leBytes 4 (min x.maxDelay 0xFFFFFFFF)

/-- QUEUE_SAMPLE (R323). -/
def execQueueSample (port : Nat) (s : State) : Res :=
  s.needPort port fun s =>
    let period := s.fget F.TSH_SMP_CFG_PERIOD port 0
    if period < 10 ∨ 1000000 < period then s
    else
      let n := s.fget F.TSH_SMP_CNT_COUNT port 0
      let log2 := min (s.fget F.TSH_SMP_CFG_LOG2 port 0) 8
      let base := bitsOf (s.pair .TSH_SMP_BASE_LO .TSH_SMP_BASE_HI port 0) 47 0
      let b := leBytes 8 s.now.toNat ++ leBytes 4 n ++ leBytes 20 0 ++ (List.range 512).flatMap (fun q => s.sampleQueue port q)
      let s := (s.writeRange (Src.tsh port) (base + 8224 * (n % 2 ^ log2)) b).2
      let s := s.fset F.TSH_SMP_CNT_COUNT port 0 (n + 1)
      let t := s.tsh port
      s.setTsh port { t with queues := t.queues.map (fun x => (x.1, { x.2 with maxDelay := 0 })) }

end Sys2Proof.Machine
end

