-- ==== Sys2Proof/Machine/LaneOps.lean ====
section
/-! DEFINITION. The operations of the serial lanes and of SDI capture (chapter 14). -/

namespace Sys2Proof.Machine

/-! ### Quads -/

/-- The modes that a quad allows (table LAN-1). -/
def laneModes (q : Nat) : List Nat :=
  if q < 8 then [0, 1, 6] else if q < 10 then [0, 2, 6] else if q < 14 then [0, 3, 6] else [0, 1, 4, 5, 6]

/-- The ports that run on a quad with a mode other than 0. -/
def State.quadPorts (s : State) (q : Nat) : List Nat :=
  (List.range 8).filter (fun n => s.fget F.ETH_CFG_MODE n 0 != 0 && ethQuad n (s.reg .ETH_CFG n 0) == q)

/-- Q6 or Q7 while its port runs on Q14 or Q15: free for no other use (R302). -/
def State.quadHeld (s : State) (q : Nat) : Bool :=
  decide (q = 6 ∨ q = 7) && s.fget F.ETH_CFG_MODE q 0 != 0 && ethQuad q (s.reg .ETH_CFG q 0) != q

/-- The timing by which a head scans out: a SLAVE follows its even partner (R296). -/
def State.scanTiming (s : State) (n : Nat) : BitVec 512 :=
  if (s.head n).st = .slave then (s.head (n - 1)).timing else (s.head n).timing

/-- The head of a quad is not OFF. -/
def State.headBusy (s : State) (q : Nat) : Bool :=
  decide (10 ≤ q ∧ q < 14) && (s.head (q - 10)).st != .off

/-- Whether a quad's user is active (R369). -/
def State.quadBusy (s : State) (q : Nat) : Bool :=
  !(s.quadPorts q).isEmpty || s.quadHeld q || s.headBusy q || (decide (q = 8 ∨ q = 9) && s.flag F.TWN_CTRL_EN 0 0) ||
    (decide (14 ≤ q) && s.fget F.LN_SDI_STAT_EN q 0 != 0) ||
    (s.fget F.LN_CFG_MODE q 0 == 6 && (List.range 4).any (fun l => s.fget F.LN_LANE_CTRL_PAT q l != 0))

/-- A lane's lock changes, and lane-lock is posted (R376). -/
def State.laneLock (s : State) (q l : Nat) (up : Bool) : State :=
  if s.flag F.LN_LANE_STAT_LOCK q l = up then s
  else (s.fset F.LN_LANE_STAT_LOCK q l (b2n up)).post (Src.quad q) 0x1300 [.u 1 l, .u 1 (b2n up)]

/-- Errors count in `ERRS`, which stops at 0xFFFF. -/
def State.laneErrs (s : State) (q l n : Nat) : State :=
  s.fset F.LN_LANE_STAT_ERRS q l (min (s.fget F.LN_LANE_STAT_ERRS q l + n) 0xFFFF)

/-- A PRBS31 checker stops. -/
def State.prbsOff (s : State) (q l : Nat) : State := { s with prbs := Tab.erase (q, l) s.prbs }

/-- A lane in electrical idle receives nothing and loses its lock; the quads that mirror it follow (R369, R380). -/
def State.laneIdle (q : Nat) (s : State) (l : Nat) : State :=
  ((((s.laneDrive q l false).fset F.LN_LANE_STAT_RXUP q l 0).laneLock q l false).prbsOff q l)

/-- Whether an awake transmitter of a quad has something to send, and does not hold electrical idle (R368, R380, R381): in mode 3
what its head's timing drives, in mode 5 what the mirrored lane sends, in mode 6 a pattern. -/
def State.laneLive (s : State) (q l : Nat) : Bool :=
  match s.fget F.LN_CFG_MODE q 0 with
  | 0 => false
  | 3 => match (s.head (q - 10)).sends with
    | some t => tOut t == 0 || decide (l < headLanes t)
    | none => false
  | 5 =>
    let src := s.fget F.LN_CFG_SRC q 0
    decide (10 ≤ src ∧ src < 14) && s.flag F.LN_LANE_STAT_TXUP src l
  | 6 => s.fget F.LN_LANE_CTRL_PAT q l == 1 || s.fget F.LN_LANE_CTRL_PAT q l == 2
  | _ => true

/-- Once its lane PLL has locked, a mirror quad sends what its source sends (R380). -/
def State.mirrorStart (q : Nat) (s : State) (l : Nat) : State :=
  if s.fget F.LN_CFG_MODE q 0 = 5 then s.laneDrive q l (s.laneLive q l) else s

/-- A write of `LN_CFG` (R369, table LAN-5). -/
def State.laneCfgWrite (s : State) (q : Nat) (val : W32) : State :=
  let s := if bitOf val 31 then s.fset F.LN_CFG_DENIED q 0 0 else s
  let mode := bitsOf val 2 0
  let newMode := mode != s.fget F.LN_CFG_MODE q 0
  let newSrc := bitsOf val 11 8 != s.fget F.LN_CFG_SRC q 0
  if !(laneModes q).contains mode || ((newMode || newSrc) && s.quadBusy q) then s.fset F.LN_CFG_DENIED q 0 1
  else
    let s := ((s.fset F.LN_CFG_SRC q 0 (bitsOf val 11 8)).fset F.LN_CFG_RATE q 0 (bitsOf val 7 4)).fset F.LN_CFG_MODE q 0 mode
    if newMode then
      let s := if 10 ≤ q ∧ q < 14 then s.setHead (q - 10) { s.head (q - 10) with sends := none } else s
      (List.range 4).foldl (State.laneIdle q) (s.fset F.LN_CFG_READY q 0 0)
    else if newSrc then (List.range 4).foldl (State.mirrorStart q) s
    else s

/-! ### Lane registers -/

/-- A write of `LN_LANE_FIR` (R378). -/
def State.laneFirWrite (s : State) (q l : Nat) (val : W32) : State :=
  let main := bitsOf val 13 8
  if main < 16 ∨ 63 < bitsOf val 3 0 + main + bitsOf val 21 16 ∨ ¬ (s.quadPorts q).isEmpty then s.fset F.LN_CFG_DENIED q 0 1
  else s.wrReg .LN_LANE_FIR q l val

/-- The equaliser settings of a lane now: free values, which `FREEZE` and a sleeping receiver hold (R377). -/
def State.laneEq (s : State) (q l : Nat) : State :=
  if s.flag F.LN_LANE_CTRL_FREEZE q l || s.flag F.LN_LANE_CTRL_RX_SLEEP q l then s
  else
    let v : W32 := s.free 32
    s.drawn.setReg .LN_LANE_EQ q l v

/-- A write of `LN_LANE_CTRL` (R377, R379, R381). -/
def State.laneCtrlWrite (s : State) (q l : Nat) (val : W32) : State :=
  if bitOf val 16 && !s.flag F.LN_LANE_CTRL_TX_SLEEP q l && s.headBusy q && decide (l < headLanes (s.scanTiming (q - 10))) then
    s.fset F.LN_CFG_DENIED q 0 1
  else
    let s := if bitOf val 18 || bitOf val 17 then s.laneEq q l else s
    let s := s.wrReg .LN_LANE_CTRL q l val
    let s := if bitOf val 16 then s.laneDrive q l false else s
    let s := if bitOf val 17 then s.fset F.LN_LANE_STAT_RXUP q l 0 else s
    if s.fget F.LN_CFG_MODE q 0 = 6 ∧ bitsOf val 1 0 ≠ 1 then (s.laneLock q l false).prbsOff q l else s

/-- One bit reaches a PRBS31 checker: the sequence goes on, and a bit that differs counts (R381). -/
def prbsBit (x : BitVec 31 × Nat) (b : Bool) : BitVec 31 × Nat :=
  let k := x.1.getLsbD 30 != x.1.getLsbD 27
  ((x.1 <<< 1) ||| BitVec.ofNat 31 (b2n k), if b = k then x.2 else x.2 + 1)

/-- Received bits reach the checker of a lane: the first 31 seed it (R381). -/
def State.prbsTake (s : State) (q l : Nat) (bits : List Bool) : State :=
  match Tab.find? (q, l) s.prbs with
  | some r =>
    let (r, n) := bits.foldl prbsBit (r, 0)
    { (s.laneErrs q l n) with prbs := Tab.set s.prbs (q, l) r }
  | none =>
    if bits.length < 31 then s
    else
      let seed := (bits.take 31).foldl (fun (r : BitVec 31) b => (r <<< 1) ||| BitVec.ofNat 31 (b2n b)) 0
      let (r, n) := (bits.drop 31).foldl prbsBit (seed, 0)
      let s := (s.laneLock q l true).laneErrs q l n
      { s with prbs := Tab.set s.prbs (q, l) r }

/-! ### SDI capture -/

/-- A capture. -/
def State.sdiCap (s : State) (q l : Nat) : SdiCap := Tab.getD s.sdi (q, l) {}

/-- The state with a capture changed. -/
def State.setSdi (s : State) (q l : Nat) (x : SdiCap) : State := { s with sdi := Tab.set s.sdi (q, l) x }

def sdW (d : W256) : Nat := bitsOf d 15 0
def sdH (d : W256) : Nat := bitsOf d 31 16
def sdQuad (d : W256) : Bool := bitOf d 32
def sdBufs (d : W256) : Nat := bitsOf d 47 40
def sdBase (d : W256) : Nat := bitsOf d 111 64
def sdPitch (d : W256) : Nat := bitsOf d 159 128
def sdStride (d : W256) : Nat := bitsOf d 191 160
def sdToken (d : W256) : W64 := d.extractLsb' 192 64

/-- The rules of table LAN-3 for a command of lane l. -/
def sdiDescOk (l : Nat) (d : W256) : Bool :=
  let size := (sdW d, sdH d)
  (size == (1920, 1080) || size == (3840, 2160) || (size == (7680, 4320) && sdQuad d)) && (!sdQuad d || l == 0) &&
    decide (2 ≤ sdBufs d ∧ sdBufs d ≤ 64) && bitsOf d 63 48 == 0 && bitsOf d 39 33 == 0 && sdBase d % 4096 == 0 &&
    bitsOf d 127 112 == 0 && sdPitch d % 32 == 0 && decide (4 * ceilDiv (sdW d) 3 ≤ sdPitch d) && sdStride d % 4096 == 0 &&
    decide (2 * sdPitch d * sdH d ≤ sdStride d) && tokenDestOk (sdToken d)

/-- A bit of a field of `LN_SDI_STAT` for a lane. -/
def State.sdiBit (s : State) (f : Fld) (q l : Nat) (on : Bool) : State :=
  let v := s.fget f q 0
  let clear := if v / 2 ^ l % 2 = 1 then v - 2 ^ l else v
  s.fset f q 0 (if on then clear + 2 ^ l else clear)

/-- A capture command ends with a status (R383). -/
def State.sdiDone (s : State) (q l st : Nat) : State :=
  let s := s.fset F.LN_SDI_STAT_STATUS q 0 st
  if st = 0 then s else (s.fset F.LN_SDI_STAT_REFUSED q 0 1).post (Src.quad q) 0x1303 [.u 1 l, .u 1 st]

/-- A write of `LN_SDI_CMD` (R383). -/
def State.sdiCmd (s : State) (q : Nat) (val : W32) : State :=
  let l := bitsOf val 5 4
  let on := (s.sdiCap q l).on
  match bitsOf val 1 0 with
  | 1 =>
    if on then s.sdiDone q l 4
    else match s.readRange (Src.quad q) (bitsOf (s.pair .LN_SDI_ADDR_LO .LN_SDI_ADDR_HI q 0) 47 5 * 32) 32 with
      | (.ok b, s) =>
        let d : W256 := bytesBv 256 b
        if sdiDescOk l d then ((s.setSdi q l { on := true, desc := d }).sdiBit F.LN_SDI_STAT_EN q l true).sdiDone q l 0
        else s.sdiDone q l 2
      | (_, s) => s.sdiDone q l 9
  | 2 =>
    if on then
      (((s.setSdi q l {}).sdiBit F.LN_SDI_STAT_EN q l false).sdiBit F.LN_SDI_STAT_REPEAT q l false).sdiDone q l 0
    else s.sdiDone q l 4
  | _ => s

/-- The bands of a frame, and the lines of a band. -/
def sdBands (d : W256) : Nat := ceilDiv (sdH d) 64
def sdBandLines (d : W256) (b : Nat) : Nat := min 64 (sdH d - 64 * b)

/-- The lines of a band in a buffer, luma then chroma: address and bytes of each (R307, R384). -/
def sdLines (d : W256) (buf b : Nat) : List (Nat × Nat) :=
  let at_ (i : Nat) : Nat × Nat := (sdBase d + buf * sdStride d + i * sdPitch d, 4 * ceilDiv (sdW d) 3)
  (List.range (sdBandLines d b)).map (fun i => at_ (64 * b + i)) ++
    (List.range (sdBandLines d b)).map (fun i => at_ (sdH d + 64 * b + i))

/-- A line of samples packed three to a 4-byte word (R152). -/
def sdiPackLine (l : List (BitVec 10)) : List Byte :=
  (List.range (ceilDiv l.length 3)).flatMap (fun i =>
    leBytes 4 ((l.getD (3 * i) 0).toNat + (l.getD (3 * i + 1) 0).toNat * 2 ^ 10 + (l.getD (3 * i + 2) 0).toNat * 2 ^ 20))

/-- Write the lines of a band. -/
def State.sdiPut (req w : Nat) : List (Nat × Nat) → List (BitVec 10) → State → State
  | [], _, s => s
  | (a, _) :: t, l, s => State.sdiPut req w t (l.drop w) (s.writeRange req a (sdiPackLine (l.take w))).2

/-- A band passes its signature to the twin unit with its token (R384, R385, R413). -/
def State.sdiBand (s : State) (q l b : Nat) (crc : BitVec 32) (buf : Nat) (repeated : Bool) : State :=
  let x := s.sdiCap q l
  s.twinBand {
    sdi := true, id := l + (if q = 15 then 8 else 0), band := b, ident := x.start, period := x.period.getD 0, crc := crc
    complete := true, repeated := repeated, lines := sdLines x.desc buf b, src := Src.quad q, dest := sdToken x.desc
    value := rowReady x.f b true (b + 1 == sdBands x.desc) buf ||| BitVec.ofNat 64 (b2n repeated * 2 ^ 52) }

/-- The buffer of a frame that starts (R384). -/
def SdiCap.nextBuf (x : SdiCap) : Nat :=
  let n := sdBufs x.desc
  let c := match x.buf with
    | none => 0
    | some b => (b + 1) % n
  match x.complete with
  | some (b, _) => if b = c then (c + 1) % n else c
  | none => c

/-- A received frame starts (R384, R385). -/
def State.sdiStart (s : State) (q l w h : Nat) : State :=
  let x := s.sdiCap q l
  if (w, h) = (sdW x.desc, sdH x.desc) then
    let now := s.nowNs
    let s := s.sdiBit F.LN_SDI_STAT_REPEAT q l false
    s.setSdi q l { x with
      f := (x.f + 1) % 2 ^ 32, buf := some x.nextBuf, inFrame := true, lost := false, start := s.now, sigs := [], t := some now
      lastStart := some now
      period := match x.lastStart with
        | some p => some (now - p)
        | none => none }
  else
    (s.setSdi q l { x with inFrame := false, lost := true }).post (Src.quad q) 0x1302 [.u 1 l, .u 2 w, .u 2 h]

/-- The next band of the frame in progress closes with its samples: luma lines, then chroma lines (R384). -/
def State.sdiClose (s : State) (q l : Nat) (samples : List (BitVec 10)) : State :=
  let x := s.sdiCap q l
  let b := x.sigs.length
  match x.buf with
  | none => s
  | some buf =>
    if ¬ x.inFrame ∨ sdBands x.desc ≤ b ∨ samples.length ≠ 2 * sdW x.desc * sdBandLines x.desc b then s
    else
      let lines := sdLines x.desc buf b
      let s := State.sdiPut (Src.quad q) (sdW x.desc) lines samples s
      let (bytes, s) := s.readBand (Src.quad q) lines
      let c := crc crc32c bytes
      let sigs := x.sigs ++ [c]
      let s := s.setSdi q l { x with sigs := sigs, complete := if b + 1 = sdBands x.desc then some (buf, sigs) else x.complete }
      s.sdiBand q l b c buf false

/-- A repeat starts at t + P (R385). -/
def State.sdiRepeat (s : State) (q l : Nat) : State :=
  let x := s.sdiCap q l
  match x.complete, x.t, x.period with
  | some (buf, sigs), some t, some p =>
    if ¬ x.on ∨ ¬ x.lost ∨ s.nowNs < t + p then s
    else
      let f := (x.f + 1) % 2 ^ 32
      let t' := t + p
      let x := { x with f := f, t := some t', start := packTime (BitVec.ofNat 64 (t' / 1000000000)) (t' % 1000000000) }
      let s := (s.setSdi q l x).sdiBit F.LN_SDI_STAT_REPEAT q l true
      let s := (sigs.zip (List.range sigs.length)).foldl (fun s (y : BitVec 32 × Nat) => s.sdiBand q l y.2 y.1 buf true) s
      s.post (Src.quad q) 0x1301 [.u 1 l, .u 4 f, .u 1 buf]
  | _, _, _ => s

end Sys2Proof.Machine
end

