-- ==== Sys2Proof/Machine/Lane.lean ====
section
/-! DEFINITION. The commands of the serial lanes and of SDI capture (chapter 14). -/

namespace Sys2Proof.Machine

/-- Run a meaning for a lane that exists. -/
def State.needLane (s : State) (q l : Nat) (f : State → State) : Res := s.need (decide (q < 16 ∧ l < 4)) "lane" f

/-- Run a meaning for a lane of an SDI input quad. -/
def State.needSdi (s : State) (q l : Nat) (f : State → State) : Res := s.need (decide ((q = 14 ∨ q = 15) ∧ l < 4)) "SDI lane" f

/-- LANE_MODE_WRITE: a write of `LN_CFG` (R369). -/
def execLaneModeWrite (_req q : Nat) (val : BitVec 32) (s : State) : Res :=
  s.need (decide (q < 16)) "quad" fun s => s.laneCfgWrite q val

/-- LANE_READY: a quad's lane PLL locks in its mode (R369). -/
def execLaneReady (q : Nat) (s : State) : Res :=
  s.need (decide (q < 16)) "quad" fun s => (List.range 4).foldl (State.mirrorStart q) (s.fset F.LN_CFG_READY q 0 1)

/-- LANE_LOCK: an SLP receiver of a quad in mode 2 counts errors and finds or loses the sync pattern (R374, R376). -/
def execLaneLock (q l : Nat) (lock : Bool) (errs : Nat) (s : State) : Res :=
  s.needLane q l fun s =>
    if s.fget F.LN_CFG_MODE q 0 = 2 then (s.laneErrs q l errs).laneLock q l lock else s

/-- LANE_FIR_WRITE: a write of `LN_LANE_FIR` (R378). -/
def execLaneFirWrite (_req q l : Nat) (val : BitVec 32) (s : State) : Res :=
  s.needLane q l fun s => s.laneFirWrite q l val

/-- LANE_SLEEP_WRITE: a write of `LN_LANE_CTRL` (R379). -/
def execLaneSleepWrite (_req q l : Nat) (val : BitVec 32) (s : State) : Res :=
  s.needLane q l fun s => s.laneCtrlWrite q l val

/-- LANE_WAKE_COMPLETE: a transmitter that is awake and has something to send sends valid bits, or a receiver has recovered its clock and adapts anew
(R377, R379). -/
def execLaneWakeComplete (q l : Nat) (rx : Bool) (s : State) : Res :=
  s.needLane q l fun s =>
    if rx then
      if s.flag F.LN_LANE_CTRL_RX_SLEEP q l || s.flag F.LN_LANE_STAT_RXUP q l then s
      else
        let v : W32 := s.free 32
        (s.drawn.setReg .LN_LANE_EQ q l v).fset F.LN_LANE_STAT_RXUP q l 1
    else if s.flag F.LN_LANE_CTRL_TX_SLEEP q l || !s.laneLive q l then s
    else s.laneDrive q l true

/-- PRBS31_CHECKER_LOCK: received bits reach the checker of a lane in test mode with `PAT` = 1 (R381). -/
def execPrbs31CheckerLock (q l : Nat) (bits : List Bool) (s : State) : Res :=
  s.needLane q l fun s =>
    if s.fget F.LN_CFG_MODE q 0 = 6 ∧ s.fget F.LN_LANE_CTRL_PAT q l = 1 ∧ ¬ s.flag F.LN_LANE_CTRL_RX_SLEEP q l then
      s.prbsTake q l bits
    else s

/-- SDI_CAPTURE_ENABLE: a write of `LN_SDI_CMD` with `OP` 1 (R383). -/
def execSdiCaptureEnable (_req q : Nat) (val : BitVec 32) (s : State) : Res :=
  s.needSdi q 0 fun s => if bitsOf val 1 0 = 1 then s.sdiCmd q val else s

/-- SDI_CAPTURE_DISABLE: a write of `LN_SDI_CMD` with `OP` 2 (R383). -/
def execSdiCaptureDisable (_req q : Nat) (val : BitVec 32) (s : State) : Res :=
  s.needSdi q 0 fun s => if bitsOf val 1 0 = 2 then s.sdiCmd q val else s

/-- SDI_LOCK_ACQUIRED: a lane in mode 4 locks to an input that carries a raster of table DSP-6 (R382). -/
def execSdiLockAcquired (q l errs : Nat) (s : State) : Res :=
  s.needSdi q l fun s =>
    if s.fget F.LN_CFG_MODE q 0 = 4 ∧ ¬ s.flag F.LN_LANE_CTRL_RX_SLEEP q l then (s.laneErrs q l errs).laneLock q l true else s

/-- SDI_LOCK_LOSS: no valid timing reference within 2 line periods; the band in progress never closes (R382, R384). -/
def execSdiLockLoss (q l errs : Nat) (s : State) : Res :=
  s.needSdi q l fun s =>
    if s.fget F.LN_CFG_MODE q 0 = 4 ∧ s.flag F.LN_LANE_STAT_LOCK q l then
      let s := (s.laneErrs q l errs).laneLock q l false
      if (s.sdiCap q l).on then s.setSdi q l { s.sdiCap q l with inFrame := false, lost := true } else s
    else s

/-- Whether a locked lane of mode 4 has its capture enabled. -/
def State.sdiRuns (s : State) (q l : Nat) : Bool :=
  s.fget F.LN_CFG_MODE q 0 == 4 && s.flag F.LN_LANE_STAT_LOCK q l && (s.sdiCap q l).on

/-- SDI_FRAME_START: a received frame of w × h starts (R384). -/
def execSdiFrameStart (q l w h : Nat) (s : State) : Res :=
  s.needSdi q l fun s => if s.sdiRuns q l then s.sdiStart q l w h else s

/-- SDI_BAND_CLOSE: the next band of the frame in progress has been received whole (R384). -/
def execSdiBandClose (q l : Nat) (samples : List (BitVec 10)) (s : State) : Res :=
  s.needSdi q l fun s => if s.sdiRuns q l then s.sdiClose q l samples else s

/-- SDI_REPEAT: device time reaches t + P while the input is missing (R385). -/
def execSdiRepeat (q l : Nat) (s : State) : Res := s.needSdi q l fun s => s.sdiRepeat q l

end Sys2Proof.Machine
end

