-- ==== Sys2Proof/Machine/RakeOps.lean ====
section
/-! DEFINITION. The rakes' operations (chapter 2): their states, faults, positions and spares, image loads. -/

namespace Sys2Proof.Machine

/-- A rake after device reset: RAKE0 to RAKE95 are EMPTY and back SP0 to SP95, the others are SPARE (R48, table ISA-19). -/
def Rake.reset (n : Nat) : Rake :=
  if n < 96 then { st := .empty, pos := some n } else {}

/-- A rake. -/
def State.rake (s : State) (n : Nat) : Rake := Tab.getD s.rakes n (Rake.reset n)

/-- The state with a rake changed. -/
def State.setRake (s : State) (n : Nat) (r : Rake) : State := { s with rakes := Tab.set s.rakes n r }

/-- The rake that backs a position. -/
def State.rakeOf (s : State) (p : Nat) : Option Nat :=
  (List.range 104).find? (fun n => (s.rake n).pos == some p)

/-- The lowest-numbered rake in SPARE that no SWAP holds (R86, R514). -/
def State.lowestSpare (s : State) : Option Nat :=
  (List.range 104).find? (fun n => (s.rake n).st == .spare && !(s.rake n).held)

/-- The device address of a position's image in HBM (R49). -/
def State.imageAddr (s : State) (p : Nat) : Nat := (s.fget F.RK_IMG_BASE_BASE 0 0 + p) * 0x80000

/-- A rake starts loading an image for a position it backs from now on. -/
def State.startLoad (s : State) (rk p addr : Nat) : State :=
  s.setRake rk { ({} : Rake) with st := .loading, pos := some p, loadFrom := some addr }

/-- The result of an `RK_CMD` for one of its positions; when every position has ended, the command ends with the
result of the lowest-numbered one that did not complete, or 0 (R515). -/
def State.cmdResult (s : State) (p result : Nat) : State :=
  match s.mgr.cmd with
  | none => s
  | some c =>
    if c.open_.contains p then
      let c' : RkCmd := { open_ := c.open_.filter (· ≠ p), results := Tab.set c.results p result }
      if c'.open_.isEmpty then
        let bad := (List.range 96).find? (fun q => Tab.getD c'.results q 0 ≠ 0)
        let st := match bad with | some q => Tab.getD c'.results q 0 | none => 0
        ({ s with mgr := { s.mgr with cmd := none } }).fset F.RK_CMD_STAT_STATUS 0 0 st
      else { s with mgr := { s.mgr with cmd := some c' } }
    else s

/-- The rake manager reports a change of the rake that backs a position (R86). -/
def State.remapped (s : State) (p old new : Nat) : State :=
  s.post Src.rakeMgr 0x0601 [.u 1 p, .u 1 old, .u 1 new]

/-- A position whose rake is gone is mapped to the lowest-numbered spare, which starts loading its image; with no
spare it is lost, and the tasks pinned to it end (R86, R88). -/
def State.mapPosition (s : State) (p old : Nat) : State :=
  match s.lowestSpare with
  | some n => (s.startLoad n p (s.imageAddr p)).remapped p old n
  | none =>
    let s := { s with mgr := { s.mgr with lost := Tab.set s.mgr.lost p old } }
    ((s.post Src.rakeMgr 0x0602 [.u 1 p, .u 1 old]).failPinned p).cmdResult p 2

/-- A rake enters SPARE, held by no SWAP (log entry 83); while any position is lost it is mapped at once to the lowest-numbered one (R88). -/
def State.toSpare (s : State) (rk : Nat) : State :=
  let s := s.setRake rk {}
  match (List.range 96).find? (fun p => (Tab.find? p s.mgr.lost).isSome) with
  | none => s
  | some p =>
    let old := Tab.getD s.mgr.lost p 0
    let s := { s with mgr := { s.mgr with lost := Tab.erase p s.mgr.lost } }
    (s.startLoad rk p (s.imageAddr p)).remapped p old rk

/-- The chosen spare of a SWAP takes over a position (R514). A chosen rake that is no longer SPARE leaves the mapping to R86. -/
def State.swapIn (s : State) (p old spare : Nat) : State :=
  if (s.rake spare).st = .spare then (s.startLoad spare p (s.imageAddr p)).remapped p old spare
  else s.mapPosition p old

/-- What a rake does when its task has ended by commit or by a class P fault (table ISA-2): it enters IDLE, or does what
its DRAIN requires. A store error that still waits as another fault ends the task is dropped (log entry 81). -/
def State.rakeFree (s : State) (rk : Nat) : State :=
  let r := s.rake rk
  let r' : Rake := { r with
    st := .idle, task := none, outbox := [], devLoad := none, storeErr := none, posted := [], ending := false, drainTo := none }
  match r.drainTo, r.pos with
  | some .load, some p => s.startLoad rk p (s.imageAddr p)
  | some (.swap sp), some p => (s.setRake rk { r' with pos := none }).swapIn p rk sp |>.toSpare rk
  | _, _ => s.setRake rk r'

/-- Record a fault in the rake's registers and post rake-fault (R81): `addr` is the faulting address or jump target, or
the reason of TFAIL. -/
def State.recordFault (s : State) (rk cause pc slot replay addr : Nat) : State :=
  let s := s.fset F.RK_FAULT_COUNT rk 0 (min (s.fget F.RK_FAULT_COUNT rk 0 + 1) 0xFFFF)
  let s := (s.fset F.RK_FAULT_NEW rk 0 1).fset F.RK_FAULT_CAUSE rk 0 cause
  let s := ((s.fset F.RK_FAULT_PC_REPLAY rk 0 replay).fset F.RK_FAULT_PC_SLOT rk 0 slot).fset F.RK_FAULT_PC_PC rk 0 pc
  let s := (s.fset F.RK_FAULT_ADDR_LO_ADDR rk 0 (addr % 2 ^ 32)).fset F.RK_FAULT_ADDR_HI_ADDR rk 0 (addr / 2 ^ 32)
  s.post (Src.rake rk) 0x0600 [.u 1 cause, .u 2 pc, .u 6 addr, .u 2 slot, .u 1 replay]

/-- A rake takes a fault (R81 to R83, R512): the outbox is discarded, the fault recorded and rake-fault posted, and the
tally told of the task. After class P the rake is free for its next task; after class M it is RETIRED and its
position is mapped to a spare. A rake without a task records PC, slot and replay count 0, in LOADING and IDLE too (log entry 82);
the old rake of a SWAP leaves its position to the spare that the SWAP holds (log entry 83). -/
def State.rakeFault (s : State) (rk cause pc addr : Nat) : State :=
  let r := s.rake rk
  let slot := match r.task with | some t => t.slot | none => 0
  let rep := match r.task with | some t => t.replay | none => 0
  let s := s.recordFault rk cause (if r.task.isSome then pc else 0) slot rep addr
  let s := if cause < 0x20 then s.pmuAdd rk 0x00A [] 1 pc else s
  if 0x20 ≤ cause then
    let s := s.setRake rk { ({} : Rake) with st := .retired }
    let s := if r.task.isSome then s.taskFault slot cause else s
    match r.pos, r.drainTo with
    | some p, some (.swap sp) => s.swapIn p rk sp
    | some p, _ => s.mapPosition p rk
    | none, _ => s
  else
    let s := if r.task.isSome then s.taskFault slot cause else s
    s.rakeFree rk

/-- Debug access is unlocked (R449), which makes `RK_CTRL.DBG_EN` effective. -/
def State.debugOpen (s : State) : Bool := s.flag F.SEC_STAT_DBG 0 0

/-- A rake leaves HALT for RUN, at the instruction after the BRK; when that would lie beyond the store the instruction-fetch fault
is raised (R52, R62). -/
def State.resume (s : State) (rk : Nat) : State :=
  let r := s.rake rk
  if r.st = .halt then
    let s := s.setRake rk { r with st := .run }
    if 0x10000 ≤ r.pc then s.rakeFault rk 0x02 0xFFFC 0x10000 else s
  else s

/-- Debug access becomes locked: every rake in HALT returns to RUN (R52). -/
def State.resumeAll (s : State) : State := (List.range 104).foldl State.resume s

/-- Copy the words of an image into a rake's bank (R49): a word that reads as poison is copied as the poison pattern
(table MEM-3). The reads are the rake manager's (R87); either write fires an armed injection (R143). -/
def State.copyImage (src dst : Nat) : List Nat → State → State
  | [], s => s
  | i :: t, s =>
    let (r, s) := s.memRead Src.rakeMgr (src + 32 * i)
    let s := match r with
      | .ok d => s.storeWord (.bank (bankAt dst)) (dst + 32 * i) (encodeWord d)
      | _ => s.storeWord (.bank (bankAt dst)) (dst + 32 * i) poisonWord
    State.copyImage src dst t s

/-- Whether every word of an image is served by a unit that accepts accesses (R87). -/
def State.imageReadable (s : State) (src : Nat) : Bool :=
  (List.range 1024).all (fun i => match memUnit (src + 512 * i) with | some u => s.unitReady u | none => false)

/-! ### `RK_CMD` (R87, R90, R514, R515) -/

/-- A position's automatic image load is in progress (R90); the boot load of R438 counts as one (log entry 84). -/
def State.autoLoading (s : State) (p : Nat) : Bool :=
  match s.rakeOf p with
  | some rk => (s.rake rk).st == .loading && (match s.mgr.cmd with | some c => !c.open_.contains p | none => true)
  | none => false

/-- Begin the LOAD of one position: an EMPTY or IDLE rake loads, a running one drains first (table ISA-2). -/
def State.loadPosition (s : State) (p : Nat) : State :=
  match s.rakeOf p with
  | none => s
  | some rk =>
    let r := s.rake rk
    if r.st = .run then s.setRake rk { r with st := .drain, drainTo := some .load } else s.startLoad rk p (s.imageAddr p)

/-- A write of `RK_CMD` that is not dropped. -/
def State.rkCmdDo (s : State) (o target : Nat) : State :=
  let status (s : State) (v : Nat) : State := s.fset F.RK_CMD_STAT_STATUS 0 0 v
  let begin (s : State) (ps : List Nat) : State :=
    status { s with mgr := { s.mgr with cmd := some ⟨ps, []⟩ } } 1
  let able (p : Nat) : Bool := match s.rakeOf p with
    | some rk => (s.rake rk).st == .empty || (s.rake rk).st == .idle || (s.rake rk).st == .run
    | none => false
  match o with
  | 1 =>
    if 65535 < s.fget F.RK_IMG_BASE_BASE 0 0 + 95 then status s 3
    else if target = 0x7F then
      let ps := (List.range 96).filter (fun p => match s.rakeOf p with | some rk => (s.rake rk).st == .empty | none => false)
      if ps.isEmpty then status s 0 else ps.foldl State.loadPosition (begin s ps)
    else if able target then (begin s [target]).loadPosition target
    else status s 3
  | 2 =>
    if !able target then status s 3
    else match s.lowestSpare, s.rakeOf target with
      | none, _ => status s 2
      | some sp, some rk =>
        let s := begin s [target]
        let r := s.rake rk
        if r.st = .run then
          (s.setRake rk { r with st := .drain, drainTo := some (.swap sp) }).setRake sp { s.rake sp with held := true }
        else ((s.setRake rk { r with st := .retired, pos := none }).swapIn target rk sp).toSpare rk
      | some _, none => status s 3
  | 3 =>
    if (s.rake target).st = .spare ∧ ¬ (s.rake target).held ∧ target < 104 then
      status (s.setRake target { ({} : Rake) with st := .retired }) 0
    else status s 3
  | 4 =>
    if (s.rake target).st = .retired ∧ target < 104 then status (s.toSpare target) 0 else status s 3
  | _ => status s 3

/-- A write of `RK_CMD` (R90): OP 0 has no effect; a write while a command or an automatic remap of its position is in
progress is dropped. -/
def State.rkCmdWrite (s : State) (val : W32) : State :=
  let o := bitsOf val 3 0
  let target := bitsOf val 14 8
  if o = 0 then s
  else if s.mgr.cmd.isSome ∨ ((o = 1 ∨ o = 2) ∧ s.autoLoading target) then s.fset F.RK_CMD_STAT_DROPPED 0 0 1
  else s.rkCmdDo o target

end Sys2Proof.Machine
end

