-- ==== Sys2Proof/Machine/Operands.lean ====
section
/-! DEFINITION. The operand forms of the Glidel instructions (R53, R57, R58, R64, R70) and the issue of one: guard,
register reads and writes, the program counter, effective addresses, vector lanes. -/

namespace Sys2Proof.Machine

/-! ### Registers (table ISA-3) -/

/-- g(i); g0 reads 0. -/
def Rake.getG (r : Rake) (i : BitVec 5) : W64 :=
  if i = 0 then 0 else r.g[i.toNat]'(by have := i.isLt; omega)

/-- Write g(i); a write of g0 is discarded. -/
def Rake.setG (r : Rake) (i : BitVec 5) (v : W64) : Rake :=
  if i = 0 then r else { r with g := r.g.set i.toNat v (by have := i.isLt; omega) }

/-- p(i); p0 reads 1. -/
def Rake.getP (r : Rake) (i : BitVec 3) : Bool :=
  if i = 0 then true else r.p[i.toNat]'(by have := i.isLt; omega)

/-- Write p(i); a write of p0 is discarded. -/
def Rake.setP (r : Rake) (i : BitVec 3) (v : Bool) : Rake :=
  if i = 0 then r else { r with p := r.p.set i.toNat v (by have := i.isLt; omega) }

/-- w(i). -/
def Rake.getW (r : Rake) (i : BitVec 4) : W256 := r.w[i.toNat]'(by have := i.isLt; omega)

/-- Write w(i). -/
def Rake.setW (r : Rake) (i : BitVec 4) (v : W256) : Rake :=
  { r with w := r.w.set i.toNat v (by have := i.isLt; omega) }

/-! ### Issue -/

/-- A rake issues instructions of a task: it is in RUN or DRAIN, no device load is in flight (R68), and TEND has not
issued. -/
def Rake.issues (r : Rake) : Bool :=
  (r.st == .run || r.st == .drain) && r.task.isSome && r.devLoad.isNone && !r.ending

/-- The guard is true when p(PG) xor PN is 1 (R58). -/
def Rake.guard (r : Rake) (pg : BitVec 3) (pn : Bool) : Bool := xor (r.getP pg) pn

/-- The rake goes on to the next instruction in program order; after the instruction at 0xFFFC the instruction-fetch
fault is raised in its place (R62). -/
def State.advance (s : State) (rk : Nat) : State :=
  let r := s.rake rk
  if r.pc = 0xFFFC then s.rakeFault rk 0x02 0xFFFC 0x10000
  else s.setRake rk { r with pc := r.pc + 4 }

/-- The tag LFSR after one instruction (R459): x^24 + x^23 + x^22 + x^17 + 1. -/
def tagNext (l : BitVec 24) : BitVec 24 :=
  (l <<< 1) ||| (BitVec.ofBool (xor (xor (l.getLsbD 23) (l.getLsbD 22)) (xor (l.getLsbD 21) (l.getLsbD 16)))).zeroExtend 24

/-- What the counters and the tag unit take of an instruction that issued in `s0` and left `s` (R452, R456, R459): `ran` says
that its guard was true, `addr` is its device address. -/
def State.issued (s0 s : State) (rk : Nat) (ran : Bool) (addr : Nat) : State :=
  let r := s0.rake rk
  let fault := (s.rake rk).task.isNone
  let s := s.pmuAdd rk (if fault then 0x004 else 0x003) [] 1 r.pc
  let s := if ran then s else s.pmuAdd rk 0x007 [] 1 r.pc
  match Tab.find? rk s.tags with
  | none => s
  | some u =>
    let u := { u with lfsr := tagNext u.lfsr }
    let u := if u.cur.isSome then u
      else if u.left ≤ 1 then
        let t : Nat × Nat := match r.task with
          | some t => (t.slot, t.replay)
          | none => (0, 0)
        let flags := 2 * b2n (!ran) + 4 * b2n fault + 8 * b2n (decide (0 < t.2)) + 16 * b2n (decide (0 < addr))
        { u with left := 0, cur := some (r.pc, flags, t.1, addr, s0.now) }
      else { u with left := u.left - 1 }
    { s with tags := Tab.set s.tags rk u }

/-- Execute an instruction on a rake (R55, R58, R59): an illegal encoding faults whatever its guard; one whose guard
is false only advances the PC; otherwise `f` is its effect. A rake that issues nothing executes nothing. -/
def State.issue (s : State) (rk : Nat) (pg : BitVec 3) (pn legal : Bool) (f : State → State) : Res :=
  s.need (decide (rk < 104)) "rake" fun s =>
    let r := s.rake rk
    if r.issues then
      if legal && guardOk pg pn then
        (if r.guard pg pn then s.issued (f s) rk true 0 else s.issued (s.advance rk) rk false 0)
      else s.issued (s.rakeFault rk 0x01 r.pc 0) rk true 0
    else s

/-- Change a rake's registers and go on to the next instruction. -/
def State.compute (s : State) (rk : Nat) (f : Rake → Rake) : State :=
  (s.setRake rk (f (s.rake rk))).advance rk

/-- An instruction that only writes one general register. -/
def State.issueG (s : State) (rk : Nat) (pg : BitVec 3) (pn : Bool) (legal : Bool) (rd : BitVec 5) (v : Rake → W64) : Res :=
  s.issue rk pg pn legal fun s => s.compute rk fun r => r.setG rd (v r)

/-- An instruction that only writes one predicate. -/
def State.issueP (s : State) (rk : Nat) (pg : BitVec 3) (pn : Bool) (pd : BitVec 3) (v : Rake → Bool) : Res :=
  s.issue rk pg pn true fun s => s.compute rk fun r => r.setP pd (v r)

/-- An instruction that only writes one vector register. -/
def State.issueW (s : State) (rk : Nat) (pg : BitVec 3) (pn : Bool) (legal : Bool) (wd : BitVec 4) (v : Rake → W256) : Res :=
  s.issue rk pg pn legal fun s => s.compute rk fun r => r.setW wd (v r)

/-- Jump to a target: a target outside the store, or not on a word, raises the instruction-fetch fault at the jump,
with no effect of the jump (R62, R81). `link` is applied to the rake when the jump is taken. -/
def State.jump (s : State) (rk : Nat) (target : Int) (link : Rake → Rake) : State :=
  let r := s.rake rk
  if 0 ≤ target ∧ target ≤ 0xFFFC ∧ target % 4 = 0 then s.setRake rk { link r with pc := target.toNat }
  else s.rakeFault rk 0x02 r.pc (target % 2 ^ 64).toNat

/-! ### Immediates -/

/-- sext(imm12). -/
def sext12 (imm : BitVec 12) : W64 := imm.signExtend 64

/-- zext(imm12). -/
def zext12 (imm : BitVec 12) : W64 := imm.zeroExtend 64

/-- EA ← ra + sext(off8) × scale, modulo 2^64 (R64). -/
def effAddr (ra : W64) (off : BitVec 8) (scale : Nat) : Nat :=
  (ra + off.signExtend 64 * BitVec.ofNat 64 scale).toNat

/-- The device address of a byte of a rake's scratch (table MEM-4). -/
def scratchAddr (rk ea : Nat) : Nat := bankBase (16 + rk) + 0x10000 + ea

/-! ### Vector lanes (R70) -/

/-- The lane width of LT, in bits. -/
def laneBits (lt : BitVec 2) : Nat := 8 * 2 ^ lt.toNat

/-- Lane i of width b. -/
def laneOf (b : Nat) (w : W256) (i : Nat) : BitVec b := w.extractLsb' (b * i) b

/-- A vector made of lanes of width b, lane 0 first. -/
def ofLanes (b : Nat) : List (BitVec b) → Nat
  | [] => 0
  | x :: t => x.toNat + 2 ^ b * ofLanes b t

/-- Apply a function to each pair of lanes. -/
def mapLanes (lt : BitVec 2) (f : (b : Nat) → BitVec b → BitVec b → BitVec b) (x y : W256) : W256 :=
  let b := laneBits lt
  BitVec.ofNat 256 (ofLanes b ((List.range (256 / b)).map (fun i => f b (laneOf b x i) (laneOf b y i))))

/-- The sum of the lanes of a vector as unsigned numbers. -/
def sumLanes (b : Nat) (w : W256) : Nat := ((List.range (256 / b)).map (fun i => (laneOf b w i).toNat)).sum

/-- A vector with one lane replaced. -/
def setLane (lt : BitVec 2) (w : W256) (lane : Nat) (v : W64) : W256 :=
  let b := laneBits lt
  BitVec.ofNat 256 (ofLanes b ((List.range (256 / b)).map (fun i => if i = lane then v.setWidth b else laneOf b w i)))

end Sys2Proof.Machine
end

