-- ==== Sys2Proof/Machine/Outbox.lean ====
section
/-! DEFINITION. The token, pipeline-command and system instructions (R71 to R78), and what brings a task to its end. -/

namespace Sys2Proof.Machine

/-! ### The outbox -/

/-- Whether a PCMD target is a valid command queue (R72, R181, R235, R248, R282, R354). -/
def queueOk (win inst q : Nat) : Bool :=
  match win with
  | 10 => q == 0 && (decide (inst < 16) || decide (64 ≤ inst ∧ inst < 128))
  | 11 => decide (inst < 4 ∧ q < 8)
  | 12 => decide (inst < 8 ∧ q < 8)
  | 13 => q == 0 && decide (inst < 4)
  | 14 => q == 0 && decide (inst < 32)
  | _ => false

/-- Whether a PCMD target has the layout of R72 and names a valid queue. -/
def pcmdTargetOk (t : W64) : Bool :=
  decide (bitsOf t 63 16 = 0) && queueOk (bitsOf t 12 8) (bitsOf t 7 0) (bitsOf t 15 13)

/-- Add an entry to the outbox after the checks of its operands (R71, R73): a failed check raises fault 0x08, a 49th entry
fault 0x09. -/
def State.addEntry (s : State) (rk : Nat) (ok : Bool) (e : OutEntry) : State :=
  let r := s.rake rk
  if !ok then s.rakeFault rk 0x08 r.pc 0
  else if 48 ≤ r.outbox.length then s.rakeFault rk 0x09 r.pc 0
  else (s.setRake rk { r with outbox := r.outbox ++ [e] }).advance rk

/-- TSEND: a token (table TLY-1, port 0 to 3). -/
def execTsend (rk : Nat) (pg : BitVec 3) (pn : Bool) (ra rb : BitVec 5) (s : State) : Res :=
  s.issue rk pg pn true fun s =>
    let r := s.rake rk
    s.addEntry rk (tokenDestOk (r.getG ra)) (.token (r.getG ra) (r.getG rb))

/-- TDELAY: a delayed token, counted from the commit point (R93). -/
def execTdelay (rk : Nat) (pg : BitVec 3) (pn : Bool) (rd ra rb : BitVec 5) (s : State) : Res :=
  s.issue rk pg pn true fun s =>
    let r := s.rake rk
    s.addEntry rk (delayOk (r.getG rd) && delayDestOk (r.getG ra)) (.delayed (r.getG rd) (r.getG ra) (r.getG rb))

/-- TCANCEL: a cancel request. -/
def execTcancel (rk : Nat) (pg : BitVec 3) (pn : Bool) (ra : BitVec 5) (s : State) : Res :=
  s.issue rk pg pn true fun s =>
    let r := s.rake rk
    s.addEntry rk (cancelOk (r.getG ra)) (.cancel (r.getG ra))

/-- TARM: an arm request with a slot descriptor (R92). -/
def execTarm (rk : Nat) (pg : BitVec 3) (pn : Bool) (ra rb : BitVec 5) (s : State) : Res :=
  s.issue rk pg pn true fun s =>
    let r := s.rake rk
    s.addEntry rk (armTargetOk (r.getG ra) && descOk (r.getG rb)) (.arm (r.getG ra) (r.getG rb))

/-- The flow of the task a rake runs, if it is in one (ATTR bit [2], FLOW). -/
def Rake.taskFlow (r : Rake) : Option Nat :=
  match r.task with
  | some t => if bitOf t.attr 2 then some (bitsOf t.flow 9 0) else none
  | none => none

/-- FREL: a flow release for the task's own flow (R71). -/
def execFrel (rk : Nat) (pg : BitVec 3) (pn : Bool) (ra rb : BitVec 5) (s : State) : Res :=
  s.issue rk pg pn true fun s =>
    let r := s.rake rk
    s.addEntry rk (r.taskFlow == some (r.getG ra).toNat) (.frel (r.getG ra).toNat (r.getG rb))

/-- EVPOST: a program-defined event with payload w(rb)[111:0]. -/
def execEvpost (rk : Nat) (pg : BitVec 3) (pn : Bool) (ra : BitVec 5) (wb : BitVec 4) (s : State) : Res :=
  s.issue rk pg pn true fun s =>
    let r := s.rake rk
    let code := (r.getG ra).extractLsb' 0 16
    s.addEntry rk (decide (0xC000 ≤ code.toNat)) (.event code ((r.getW wb).extractLsb' 0 112))

/-- PCMD: a 32-byte command for a command queue (R72). -/
def execPcmd (rk : Nat) (pg : BitVec 3) (pn : Bool) (ra : BitVec 5) (wb : BitVec 4) (s : State) : Res :=
  s.issue rk pg pn true fun s =>
    let r := s.rake rk
    s.addEntry rk (pcmdTargetOk (r.getG ra)) (.pcmd (r.getG ra) (r.getW wb))

/-! ### The end of a task -/

/-- Take the error of a posted store, at the store's PC (R68). -/
def State.takeStoreErr (s : State) (rk : Nat) (e : StoreErr) : State := s.rakeFault rk e.cause e.pc e.addr

/-- TEND: no further instruction of the task issues; a store fault that has arrived is taken (R68, table ISA-14). -/
def execTend (rk : Nat) (pg : BitVec 3) (pn : Bool) (s : State) : Res :=
  s.issue rk pg pn true fun s =>
    let r := s.rake rk
    match r.storeErr with
    | some e => s.takeStoreErr rk e
    | none => s.setRake rk { r with ending := true }

/-- TFAIL: the task ends as a class P fault with cause 0x0C and the reason ra[15:0] (R77). -/
def execTfail (rk : Nat) (pg : BitVec 3) (pn : Bool) (ra : BitVec 5) (s : State) : Res :=
  s.issue rk pg pn true fun s =>
    let r := s.rake rk
    s.rakeFault rk 0x0C r.pc ((r.getG ra).toNat % 65536)

/-! ### System instructions (tables ISA-13, ISA-15) -/

/-- NOP. -/
def execNop (rk : Nat) (pg : BitVec 3) (pn : Bool) (s : State) : Res :=
  s.issue rk pg pn true fun s => s.advance rk

/-- FENCE: takes any pending store fault; every earlier device write has then completed (R68). -/
def execFence (rk : Nat) (pg : BitVec 3) (pn : Bool) (s : State) : Res :=
  s.issue rk pg pn true fun s =>
    match (s.rake rk).storeErr with
    | some e => s.takeStoreErr rk e
    | none => (s.setRake rk { s.rake rk with posted := [] }).advance rk

/-- BRK: HALT when `DBG_EN` is effective, to go on at the next instruction; otherwise fault 0x0B (R52). Table ISA-2 has no way from
DRAIN to HALT: there BRK only advances (R51, log entry 85). -/
def execBrk (rk : Nat) (pg : BitVec 3) (pn : Bool) (s : State) : Res :=
  s.issue rk pg pn true fun s =>
    let r := s.rake rk
    if s.flag F.RK_CTRL_DBG_EN rk 0 ∧ s.debugOpen then
      if r.st = .run then s.setRake rk { r with st := .halt, pc := r.pc + 4 } else s.advance rk
    else s.rakeFault rk 0x0B r.pc 0

/-- CYCLE of a rake now: as last taken, and a free number of ECLK since, for it follows the moment of execution (R55). -/
def State.cycleNow (s : State) (rk : Nat) : W64 := (s.rake rk).cycle + s.free 64

/-- The value of a system register (table ISA-15). -/
def State.sysReg (s : State) (rk : Nat) (t : TaskCtx) (num : Nat) : W64 :=
  let r := s.rake rk
  match num with
  | 0x000 => BitVec.ofNat 64 t.slot
  | 0x001 => t.attr
  | 0x002 => t.flow
  | 0x003 => BitVec.ofNat 64 t.opcnt
  | 0x004 => BitVec.ofNat 64 t.replay
  | 0x008 => BitVec.ofNat 64 (r.pos.getD 0)
  | 0x009 => BitVec.ofNat 64 rk
  | 0x010 => s.cycleNow rk
  | 0x011 => t.tstart
  | 0x018 => s.time.sec
  | 0x019 => r.latNs
  | 0x01A => r.latFrac
  | _ => BitVec.ofNat 64 r.outbox.length

/-- SRD: rd receives a system register; a read of TIME_SEC latches TIME_NS and TIME_FRAC, and one of CYCLE takes the count
(table ISA-15). -/
def execSrd (rk : Nat) (pg : BitVec 3) (pn : Bool) (rd : BitVec 5) (num : BitVec 12) (s : State) : Res :=
  s.issue rk pg pn (sysReadable num) fun s =>
    let r := s.rake rk
    match r.task with
    | none => s
    | some t =>
      let v := s.sysReg rk t num.toNat
      let s := if num.toNat = 0x010 then s.drawn else s
      let r := if num.toNat = 0x010 then { r with cycle := v } else r
      let r := if num.toNat = 0x018 then
          { r with latNs := BitVec.ofNat 64 s.time.ns, latFrac := BitVec.ofNat 64 s.time.frac } else r
      (s.setRake rk (r.setG rd v)).advance rk

/-- SWR: every register of table ISA-15 is read-only, and any other number is unlisted, so every SWR is an illegal
encoding (R78) and raises the illegal-instruction fault whatever its guard (R58). -/
def execSwr (rk : Nat) (pg : BitVec 3) (pn : Bool) (_ra : BitVec 5) (_num : BitVec 12) (s : State) : Res :=
  s.issue rk pg pn false fun s => s

/-- ILLEGAL_INSTRUCTION: the rake meets a word that no instruction encodes (R59); a word that one does encode is no illegal
encoding and nothing happens. -/
def execIllegalInstruction (rk : Nat) (word : BitVec 32) (s : State) : Res :=
  s.need (decide (rk < 104)) "rake" fun s =>
    let r := s.rake rk
    if r.issues ∧ (decodeGlidel rk word).isNone then s.issued (s.rakeFault rk 0x01 r.pc 0) rk true 0 else s

/-! ### Asynchronous ends (R52, R68, R74, R76, R512, R513) -/

/-- STORE_FAULT: the error of a posted device store arrives and is taken (R68); at TEND or before the commit point it discards
the commit (R76). In HALT it waits: table ISA-2 has no way from HALT to IDLE (R51). -/
def execStoreFault (rk : Nat) (s : State) : Res :=
  s.need (decide (rk < 104)) "rake" fun s =>
    match (s.rake rk).storeErr, (s.rake rk).task with
    | some e, some _ => if (s.rake rk).st = .halt then s else s.takeStoreErr rk e
    | _, _ => s

/-- WATCHDOG_FAULT: a task's run time exceeds the budget (R513). No check is made with `BUDGET` 0, and none in HALT (R52). -/
def execWatchdogFault (rk : Nat) (s : State) : Res :=
  s.need (decide (rk < 104)) "rake" fun s =>
    let r := s.rake rk
    if (r.st = .run ∨ r.st = .drain) ∧ r.task.isSome ∧ s.fget F.RK_WDOG_BUDGET 0 0 ≠ 0 then
      s.rakeFault rk 0x0A r.pc 0
    else s

/-- SELF_CHECK_FAILURE: a class M fault of the rake itself (R512): cause 0x22, in every state in which its bank is ON, or cause
0x20 for an uncorrectable word of the instruction store, which a rake reads in RUN and DRAIN. A rake in OFF or RETIRED records
none. RK_FAULT_ADDR is 0 (log entry 82). -/
def execSelfCheckFailure (rk : Nat) (storeError : Bool) (s : State) : Res :=
  s.need (decide (rk < 104)) "rake" fun s =>
    let r := s.rake rk
    if r.st = .off ∨ r.st = .retired ∨ s.bank (16 + rk) ≠ .on ∨ (storeError ∧ ¬ (r.st = .run ∨ r.st = .drain)) then s
    else s.rakeFault rk (if storeError then 0x20 else 0x22) r.pc 0

/-- RESUME: a write of `RK_CTRL` (R52): DBG_EN takes its bit, and RESUME returns a halted rake to RUN. -/
def execResume (req rk : Nat) (val : BitVec 32) (s : State) : Res :=
  s.need (decide (rk < 104)) "rake" fun s =>
    let _ := req
    let s := s.fset F.RK_CTRL_DBG_EN rk 0 (bitsOf val 0 0)
    if bitOf val 1 then s.resume rk else s

/-- The flow releases of an outbox, in program order. -/
def OutEntry.frels (l : List OutEntry) : List W64 :=
  l.filterMap fun e => match e with | .frel _ v => some v | _ => none

/-- Post the events of an outbox, in program order, from the service position (R392). -/
def State.postOutbox (s : State) (p : Nat) (l : List OutEntry) : State :=
  l.foldl (fun s e => match e with
    | .event c pl => s.postRaw (Src.pos p) c.toNat false pl
    | _ => s) s

/-- An entry at its commit point in tick c: a delayed token is counted from there (R99). -/
def OutEntry.commitAt (c : Nat) : OutEntry → OutEntry
  | .delayed delay dest value => .due (bitsOf delay 21 20) (c + bitsOf delay 19 0) dest value
  | e => e

/-- Entries that the tally still has to deliver after the commit point: tokens, delays, cancels, arms, commands. -/
def OutEntry.later (l : List OutEntry) : List OutEntry :=
  l.filter fun e => match e with | .frel _ _ => false | .event _ _ => false | _ => true

/-- TASK_COMMIT: the commit point (R74): the slot becomes FREE, the flow releases go to the flow store (R109), the events
are posted (R388, R392), every other entry awaits delivery in program order, and the rake is free. -/
def execTaskCommit (rk : Nat) (s : State) : Res :=
  s.need (decide (rk < 104)) "rake" fun s =>
    let r := s.rake rk
    match r.task, r.ending, r.storeErr with
    | some t, true, none =>
      let p := r.pos.getD 0
      let s := (s.setFate (s.slot t.slot) (.done (OutEntry.frels r.outbox))).freeSlot t.slot
      let s := s.postOutbox p r.outbox
      let s := { s with tally := { s.tally with
        commits := Tab.set s.tally.commits p (Tab.getD s.tally.commits p [] ++
          (OutEntry.later r.outbox).map (OutEntry.commitAt s.tally.tick)) } }
      (s.pmuAdd rk 0x009 [] 1 r.pc).rakeFree rk
    | _, _, _ => s

end Sys2Proof.Machine
end

