-- ==== Sys2Proof/Machine/Bits.lean ====
section
/-! DEFINITION. Bit strings as the syntaxes of ITU-T H.265 and AV1 write them, first bit first (chapter 7).
PRESUMED: the spec names the syntax elements and their values; their descriptors, their order and the packing are those of the two
standards (log entry 105). -/

namespace Sys2Proof.Machine

/-- A bit string. -/
abbrev Bits := List Bool

/-- u(n), f(n): the low n bits of a value, highest first. -/
def bitsU (n v : Nat) : Bits := (List.range n).map (fun i => v / 2 ^ (n - 1 - i) % 2 == 1)

/-- A flag. -/
def bitsFlag (b : Bool) : Bits := [b]

/-- ue(v): the Exp-Golomb code. -/
def bitsUe (v : Nat) : Bits := List.replicate (Nat.log2 (v + 1)) false ++ bitsU (Nat.log2 (v + 1) + 1) (v + 1)

/-- se(v): the signed Exp-Golomb code. -/
def bitsSe (v : Int) : Bits := bitsUe (if 0 < v then (2 * v - 1).toNat else (-2 * v).toNat)

/-- ns(n) of AV1: a value below n in the fewest bits. -/
def bitsNs (n v : Nat) : Bits :=
  let w := Nat.log2 n + 1
  let m := 2 ^ w - n
  if v < m then bitsU (w - 1) v else bitsU (w - 1) (m + (v - m) / 2) ++ bitsU 1 ((v - m) % 2)

/-- Bits up to a byte boundary. -/
def bitsPad (l : Bits) : Bits := l ++ List.replicate ((8 - l.length % 8) % 8) false

/-- A bit 1, then zeros up to a byte boundary: rbsp_trailing_bits, byte_alignment and trailing_bits. -/
def bitsTrail (l : Bits) : Bits := bitsPad (l ++ [true])

/-- Whole bytes of a bit string, the first bit highest. -/
def bitsBytes (l : Bits) : List Byte :=
  (List.range (l.length / 8)).map (fun i =>
    BitVec.ofNat 8 (((l.drop (8 * i)).take 8).foldl (fun a b => 2 * a + b.toNat) 0))

/-- Emulation prevention: a byte 3 before a byte below 4 that follows two zeros; `zeros` counts the zeros before. -/
def emulate : Nat → List Byte → List Byte
  | _, [] => []
  | zeros, b :: t =>
    if 2 ≤ zeros ∧ b.toNat ≤ 3 then 3 :: b :: emulate (if b = 0 then 1 else 0) t
    else b :: emulate (if b = 0 then zeros + 1 else 0) t

/-- leb128 in n bytes. -/
def leb128 : Nat → Nat → List Byte
  | 0, _ => []
  | n + 1, v => BitVec.ofNat 8 (v % 128 + (if n = 0 then 0 else 128)) :: leb128 n (v / 128)

/-- leb128 in the fewest bytes. -/
def leb128Short (v : Nat) : List Byte := leb128 (Nat.log2 v / 7 + 1) v

end Sys2Proof.Machine
end

