-- ==== Sys2Proof/Machine/PanCfg.lean ====
section
/-! DEFINITION. A programme's configuration (chapters 5 to 7): the fields of tables PAN-9, RAT-1 and BSD-1, the rules that
refuse a descriptor or a block, the level limits, the charges of R149, the row times of R168. -/

namespace Sys2Proof.Machine

/-! ### Descriptor (table PAN-9) -/

def PgmCfg.codec (c : PgmCfg) : Nat := bitsOf c.desc 1 0
def PgmCfg.profile (c : PgmCfg) : Nat := bitsOf c.desc 3 2
def PgmCfg.bits10 (c : PgmCfg) : Bool := bitOf c.desc 4
def PgmCfg.c422 (c : PgmCfg) : Bool := bitOf c.desc 5
def PgmCfg.tier (c : PgmCfg) : Bool := bitOf c.desc 6
def PgmCfg.level (c : PgmCfg) : Nat := bitsOf c.desc 15 8
/-- Class B. -/
def PgmCfg.classB (c : PgmCfg) : Bool := bitOf c.desc 16
def PgmCfg.slotsField (c : PgmCfg) : Nat := bitsOf c.desc 18 17
/-- The number of slots. -/
def PgmCfg.slots (c : PgmCfg) : Nat := 2 ^ c.slotsField
def PgmCfg.nref (c : PgmCfg) : Nat := bitsOf c.desc 20 19
/-- The speculation depth k. -/
def PgmCfg.spec (c : PgmCfg) : Nat := bitsOf c.desc 22 21
/-- Memory input mode. -/
def PgmCfg.memIn (c : PgmCfg) : Bool := bitOf c.desc 23
def PgmCfg.cmp (c : PgmCfg) : Nat := bitsOf c.desc 26 24
def PgmCfg.width (c : PgmCfg) : Nat := bitsOf c.desc 47 32
def PgmCfg.height (c : PgmCfg) : Nat := bitsOf c.desc 63 48
def PgmCfg.frNum (c : PgmCfg) : Nat := bitsOf c.desc 95 64
def PgmCfg.frDen (c : PgmCfg) : Nat := bitsOf c.desc 127 96
/-- D. -/
def PgmCfg.delay (c : PgmCfg) : Nat := bitsOf c.desc 133 128
def PgmCfg.rai (c : PgmCfg) : Nat := bitsOf c.desc 159 144
def PgmCfg.inStride (c : PgmCfg) : Nat := bitsOf c.desc 191 160
def PgmCfg.reconBase (c : PgmCfg) : Nat := bitsOf c.desc 239 192
def PgmCfg.bsBase (c : PgmCfg) : Nat := bitsOf c.desc 303 256
def PgmCfg.bsLog2 (c : PgmCfg) : Nat := bitsOf c.desc 324 320
def PgmCfg.rowLog2 (c : PgmCfg) : Nat := bitsOf c.desc 332 328
def PgmCfg.rowBase (c : PgmCfg) : Nat := bitsOf c.desc 431 384
def PgmCfg.rowToken (c : PgmCfg) : W64 := c.desc.extractLsb' 448 64
def PgmCfg.inBase (c : PgmCfg) : Nat := bitsOf c.desc 559 512
def PgmCfg.inPitch (c : PgmCfg) : Nat := bitsOf c.desc 607 576
def PgmCfg.inPics (c : PgmCfg) : Nat := bitsOf c.desc 615 608
def PgmCfg.qsBase (c : PgmCfg) : Nat := bitsOf c.desc 687 640
/-- The rate and quality block of the descriptor (R180). -/
def PgmCfg.descBlk (c : PgmCfg) : BitVec 512 := c.desc.extractLsb' 768 512
/-- The stream block (table BSD-1). -/
def PgmCfg.stream (c : PgmCfg) : BitVec 256 := c.desc.extractLsb' 1280 256

/-- CTU rows of a picture. -/
def PgmCfg.nrows (c : PgmCfg) : Nat := ceilDiv c.height 64
/-- CTUs of a row. -/
def PgmCfg.ctus (c : PgmCfg) : Nat := ceilDiv c.width 64
/-- Luma lines of picture row i. -/
def PgmCfg.rowLines (c : PgmCfg) (i : Nat) : Nat := min 64 (c.height - 64 * i)

/-- Bytes of a CTU row in the input ring (R147). -/
def PgmCfg.rowBytes (c : PgmCfg) : Nat := if c.c422 then 4 * ceilDiv (128 * c.width) 3 else 128 * c.width
/-- Rows that the input ring holds (R147). -/
def PgmCfg.ringRows (c : PgmCfg) : Nat := 1310720 * c.slots / c.rowBytes

/-- Whether picture row i belongs to a paired row, a tile of two superblock rows (R156). -/
def PgmCfg.paired (c : PgmCfg) (i : Nat) : Bool := c.codec == 1 && decide (64 < c.nrows ∧ 128 - c.nrows ≤ i)
/-- The first row of a paired row. -/
def PgmCfg.pairFirst (c : PgmCfg) (i : Nat) : Bool := c.paired i && (i - (128 - c.nrows)) % 2 == 0
/-- The second row of a paired row. -/
def PgmCfg.pairSecond (c : PgmCfg) (i : Nat) : Bool := c.paired i && (i - (128 - c.nrows)) % 2 == 1

/-! ### Level limits (R153, R189)

PRESUMED: the spec names the levels of ITU-T H.265 and AV1 and not their numbers, which are taken from those standards
(log entry 21). -/

/-- The limits of a level: luma samples of a picture, width, height, luma samples per second, kbit/s. -/
structure LevelLimit where
  samples : Nat
  width : Nat
  height : Nat
  rate : Nat
  kbps : Nat

/-- MaxLumaPs, MaxLumaSr, MaxBR of Main tier and of High tier (0: no High tier) of an H.265 level, by general_level_idc. -/
def hevcLevel : Nat → Option (Nat × Nat × Nat × Nat)
  | 30 => some (36864, 552960, 128, 0)
  | 60 => some (122880, 3686400, 1500, 0)
  | 63 => some (245760, 7372800, 3000, 0)
  | 90 => some (552960, 16588800, 6000, 0)
  | 93 => some (983040, 33177600, 10000, 0)
  | 120 => some (2228224, 66846720, 12000, 30000)
  | 123 => some (2228224, 133693440, 20000, 50000)
  | 150 => some (8912896, 267386880, 25000, 100000)
  | 153 => some (8912896, 534773760, 40000, 160000)
  | 156 => some (8912896, 1069547520, 60000, 240000)
  | 180 => some (35651584, 1069547520, 60000, 240000)
  | 183 => some (35651584, 2139095040, 120000, 480000)
  | _ => none

/-- The limits of an AV1 level, by seq_level_idx, Main tier. -/
def av1Level : Nat → Option LevelLimit
  | 0 => some ⟨147456, 2048, 1152, 4423680, 1500⟩
  | 1 => some ⟨278784, 2816, 1584, 8363520, 3000⟩
  | 4 => some ⟨665856, 4352, 2448, 19975680, 6000⟩
  | 5 => some ⟨1065024, 5504, 3096, 31950720, 10000⟩
  | 8 => some ⟨2359296, 6144, 3456, 70778880, 12000⟩
  | 9 => some ⟨2359296, 6144, 3456, 141557760, 20000⟩
  | 12 => some ⟨8912896, 8192, 4352, 267386880, 30000⟩
  | 13 => some ⟨8912896, 8192, 4352, 534773760, 40000⟩
  | 14 => some ⟨8912896, 8192, 4352, 1069547520, 60000⟩
  | 15 => some ⟨8912896, 8192, 4352, 1069547520, 60000⟩
  | 16 => some ⟨35651584, 16384, 8704, 1069547520, 60000⟩
  | 17 => some ⟨35651584, 16384, 8704, 2139095040, 100000⟩
  | _ => none

/-- The whole root of a number below 2^32, bit by bit from the highest. -/
def root32 (n : Nat) : Nat :=
  (List.range 16).foldl (fun r i => if (r + 2 ^ (15 - i)) ^ 2 ≤ n then r + 2 ^ (15 - i) else r) 0

/-- The greatest width or height of an H.265 picture: the whole root of 8 times the level's luma samples. -/
def hevcDim (ps : Nat) : Nat := root32 (8 * ps)

/-- The limits of a programme's level and tier, if the level exists. -/
def PgmCfg.limits (c : PgmCfg) : Option LevelLimit :=
  if c.codec = 0 then
    match hevcLevel c.level with
    | some (ps, sr, main, high) =>
      if c.tier ∧ high = 0 then none
      else
        let br := if c.tier then high else main
        some ⟨ps, hevcDim ps, hevcDim ps, sr, br * (if c.profile = 2 then 1667 else 1000) / 1000⟩
    | none => none
  else av1Level c.level

/-! ### Checks of a descriptor -/

/-- The rules of table PAN-9, of table BSD-1 and of table BSD-2, and the bounds of R153 that are no level limit. -/
def PgmCfg.fieldsOk (c : PgmCfg) : Bool :=
  let d := c.desc
  let st := c.stream
  let wh := c.width * c.height
  decide (c.codec ≤ 1) && !bitOf d 7 && bitsOf d 31 27 == 0 && c.slotsField != 3 && c.nref != 3 &&
  (if c.codec = 0 then decide (c.profile ≤ 2) && c.bits10 == (c.profile != 0) && (!c.c422 || c.profile == 2)
   else c.profile == 0 && !c.tier && !c.c422) &&
  c.limits.isSome &&
  c.frNum != 0 && c.frDen != 0 && decide (4 ≤ c.delay ∧ c.delay ≤ 34) && bitsOf d 143 134 == 0 &&
  (if c.memIn then
    c.inBase % 32 == 0 && c.inPitch % 32 == 0 && decide (4 * ceilDiv c.width 3 ≤ c.inPitch) && c.inPics != 0 &&
      c.inStride % 32 == 0 && decide (c.inPitch * c.height * (if c.c422 then 4 else 3) ≤ 2 * c.inStride)
   else c.inStride == 0) &&
  c.reconBase % 4096 == 0 && bitsOf d 255 240 == 0 && c.bsBase % 4096 == 0 && bitsOf d 319 304 == 0 &&
  decide (20 ≤ c.bsLog2 ∧ c.bsLog2 ≤ 30 ∧ 6 ≤ c.rowLog2 ∧ c.rowLog2 ≤ 16) &&
  bitsOf d 327 325 == 0 && bitsOf d 383 333 == 0 && c.rowBase % 4096 == 0 && bitsOf d 447 432 == 0 &&
  tokenDestOk c.rowToken && bitsOf d 575 560 == 0 && c.qsBase % 32 == 0 && bitsOf d 703 688 == 0 &&
  bitsOf d 767 704 == 0 &&
  -- R153
  c.width % 8 == 0 && c.height % 8 == 0 && decide (640 ≤ c.width ∧ c.width ≤ 8192 ∧ 360 ≤ c.height ∧ c.height ≤ 4352) &&
  decide (wh ≤ 35651584) && decide (c.frDen ≤ c.frNum ∧ c.frNum ≤ 300 * c.frDen) &&
  -- tables BSD-1 and BSD-2
  decide (bitsOf st 2 0 ≤ 3) && (c.codec == 0 || bitsOf st 5 4 == 0) &&
  (!bitOf st 6 || bitsOf st 2 0 == 2 || bitsOf st 2 0 == 3) && bitsOf st 63 8 == 0 && bitsOf st 127 112 == 0 &&
  bitsOf st 255 128 == 0 && (!bitOf st 6 || bitsOf c.hdr 255 224 == 0)

/-- Whether a level limit of R153 is broken. -/
def PgmCfg.overLevel (c : PgmCfg) : Bool :=
  match c.limits with
  | some l => decide (l.samples < c.width * c.height ∨ l.width < c.width ∨ l.height < c.height ∨
      l.rate * c.frDen < c.width * c.height * c.frNum)
  | none => false

/-- R170. -/
def PgmCfg.delayShort (c : PgmCfg) : Bool :=
  decide (c.delay < c.spec + 4 + b2n (c.codec == 1 && decide (64 < c.nrows)))

/-! ### The rate and quality block (table RAT-1) -/

def blkQbase (b : BitVec 512) : Nat := bitsOf b 7 0
def blkQmin (b : BitVec 512) : Nat := bitsOf b 15 8
def blkQmax (b : BitVec 512) : Nat := bitsOf b 23 16
def blkRapOff (b : BitVec 512) : Int := sextNat 8 (bitsOf b 31 24)
def blkDownStep (b : BitVec 512) : Nat := bitsOf b 35 32
def blkAqStr (b : BitVec 512) : Nat := bitsOf b 47 40
def blkProtHold (b : BitVec 512) : Nat := bitsOf b 55 48
def blkFill (b : BitVec 512) : Nat := bitsOf b 63 56
def blkCapRate (b : BitVec 512) : Nat := bitsOf b 95 64
def blkCapBuf (b : BitVec 512) : Nat := bitsOf b 127 96
def blkTolPm (b : BitVec 512) : Nat := bitsOf b 143 128
def blkTolMin (b : BitVec 512) : Nat := bitsOf b 159 144
def blkK0Rap (b : BitVec 512) : Nat := bitsOf b 191 160
def blkK0Inter (b : BitVec 512) : Nat := bitsOf b 223 192
def blkRoiAddr (b : BitVec 512) : Nat := bitsOf b 303 256
def blkRoiEn (b : BitVec 512) : Nat := bitsOf b 335 320

/-- A region of the ROI table (table RAT-2). -/
def roiRegion (t : BitVec 1024) (r : Nat) : BitVec 64 := t.extractLsb' (64 * r) 64
def roiX0 (r : BitVec 64) : Nat := bitsOf r 7 0
def roiX1 (r : BitVec 64) : Nat := bitsOf r 15 8
def roiY0 (r : BitVec 64) : Nat := bitsOf r 23 16
def roiY1 (r : BitVec 64) : Nat := bitsOf r 31 24
def roiOffset (r : BitVec 64) : Int := sextNat 5 (bitsOf r 36 32)
def roiProt (r : BitVec 64) : Bool := bitOf r 37

/-- An enabled region keeps the rules of R197. -/
def roiOk (r : BitVec 64) : Bool :=
  decide (roiX0 r ≤ roiX1 r ∧ roiY0 r ≤ roiY1 r) && bitsOf r 36 32 != 16 && bitsOf r 63 38 == 0

/-- The cap's grant to the first n rows of a block (R190). -/
def capGrant (rate frNum frDen nrows n : Nat) : Nat := rate * 1000 * n * frDen / (8 * frNum * nrows)

/-- The rules of R189 with status 2, for a programme of a configuration. -/
def PgmCfg.blkOk (c : PgmCfg) (b : BitVec 512) (roi : BitVec 1024) : Bool :=
  decide (blkQbase b ≤ 51 ∧ blkQmin b ≤ 51 ∧ blkQmax b ≤ 51 ∧ blkQmin b ≤ blkQbase b ∧ blkQbase b ≤ blkQmax b) &&
  decide (-12 ≤ blkRapOff b ∧ blkRapOff b ≤ 12) && blkDownStep b != 0 && bitsOf b 39 36 == 0 &&
  decide (blkAqStr b ≤ 32 ∧ blkProtHold b ≤ 51) && blkFill b != 0 && blkCapRate b != 0 &&
  decide (4096 ≤ blkCapBuf b ∧ blkCapBuf b ≤ 268435456 ∧ 1 ≤ blkTolPm b ∧ blkTolPm b ≤ 1000) &&
  blkK0Rap b != 0 && blkK0Inter b != 0 && bitsOf b 255 224 == 0 && bitsOf b 319 304 == 0 && bitsOf b 383 336 == 0 &&
  bitsOf b 511 384 == 0 &&
  (List.range 16).all (fun r => !blkRoiEn b / 2 ^ r % 2 == 1 || roiOk (roiRegion roi r)) &&
  decide (512 + 16 * c.ctus ≤ capGrant (blkCapRate b) c.frNum c.frDen c.nrows 1)

/-- The rule of R189 with status 7. -/
def PgmCfg.overRate (c : PgmCfg) (b : BitVec 512) : Bool :=
  match c.limits with
  | some l => decide (l.kbps < blkCapRate b)
  | none => false

/-! ### Charges (R149) -/

/-- 512 times M, with the references taken as nref and the row term as given. -/
def PgmCfg.m512 (c : PgmCfg) (refs : Nat) (rowTerm : Nat) : Nat :=
  let wh := c.width * c.height
  let s8 := wh * (if c.c422 then 20 else 15)
  (if c.memIn then 64 * s8 else 0) + 65 * s8 * refs + 64 * wh + 512 * rowTerm

/-- M in 1/512 byte. -/
def PgmCfg.m (c : PgmCfg) : Nat := c.m512 (1 + 4 * (if c.nref = 0 then 1 else c.nref)) (c.nrows * 136 * c.width)

/-- M_f in 1/512 byte. -/
def PgmCfg.mFloor (c : PgmCfg) : Nat := c.m512 4 0

/-- Bytes per picture as MB/s, rounded up. -/
def PgmCfg.mbps (c : PgmCfg) (m : Nat) : Nat := ceilDiv (c.frNum * m) (c.frDen * 512 * 1000000)

/-- The charges of programme k. -/
def PgmCfg.charge (c : PgmCfg) (k : Nat) : Charge :=
  let stall := if c.spec = 0 then 24896 * c.nrows else 0
  [(k / 4, ceilDiv (c.frNum * (c.width * c.height + stall)) (c.frDen * 1000)), (36 + k / 4, c.slots),
   (52, c.mbps c.m), (53, if c.classB then c.mbps c.mFloor else c.mbps c.m)]

/-! ### Row times (R168, R169) -/

/-- The frame period in ns. -/
def PgmCfg.frame (c : PgmCfg) : Frac := Frac.mk' (c.frDen * 1000000000) c.frNum

/-- The row period p. -/
def PgmCfg.period (c : PgmCfg) : Frac := c.frame.part c.nrows

/-- The glass time of row i of a picture with picture time T. -/
def PgmCfg.glass (c : PgmCfg) (t : Frac) (i : Nat) : Frac := t.add (c.period.times (i + 1))

/-- The release start t_i, in whole ns; the two rows of a pair share that of the first (log entry 22). -/
def PgmCfg.release (c : PgmCfg) (t : Frac) (i : Nat) : Nat :=
  ((c.glass t (if c.pairSecond i then i - 1 else i)).add (c.period.times c.delay)).floor

/-- The commit deadline, exact; the first row of a pair has that of the row before it (R169). -/
def PgmCfg.deadlineAt (c : PgmCfg) (t : Frac) (i : Nat) : Frac :=
  (c.glass t (if c.pairFirst i then i - 1 else i)).add (c.period.times (c.delay - 1))

/-- The commit deadline c_i, in whole ns. -/
def PgmCfg.deadline (c : PgmCfg) (t : Frac) (i : Nat) : Nat := (c.deadlineAt t i).floor

/-- The abandon point a_i in whole ns: 256 N + 2,048 PCLK of 5/6 ns before the deadline. -/
def PgmCfg.abandon (c : PgmCfg) (t : Frac) (i : Nat) : Nat :=
  ((c.deadlineAt t i).sub (Frac.mk' (5 * (256 * c.ctus + 2048)) 6)).floor

end Sys2Proof.Machine
end

