-- ==== Sys2Proof/Machine/PanRate.lean ====
section
/-! DEFINITION. Rate control (chapter 6): the cap, the quality scale, regions and activity, row planning, the state
update of a commit, the rollback test. -/

namespace Sys2Proof.Machine

/-! ### The cap (R190) -/

/-- A(n) of a configuration. -/
def PgmCfg.capA (c : PgmCfg) (n : Nat) : Nat := capGrant (blkCapRate c.blk) c.frNum c.frDen c.nrows n

/-- The grant d of programme row j. -/
def PgmCfg.grant (c : PgmCfg) (j : Nat) : Nat := c.capA (j - c.n0 + c.nAdd + 1) - c.capA (j - c.n0 + c.nAdd)

/-! ### The quality scale (R195) -/

/-- λ of a QP. -/
def lambdaQ8 (bits10 : Bool) (q : Nat) : Nat :=
  ([146, 184, 232].getD (q % 3) 0 * 2 ^ (q / 3)) / (if bits10 then 1 else 16)

/-- λm of a QP. -/
def lambdaMQ8 (bits10 : Bool) (q : Nat) : Nat :=
  ([193, 217, 243, 273, 306, 344].getD (q % 6) 0 * 2 ^ (q / 6)) / (if bits10 then 1 else 4)

/-- A motion cost (R195): SATD and rate in 1/32 bit. -/
def motionCost (bits10 : Bool) (q satd r : Nat) : Nat := 8192 * satd + lambdaMQ8 bits10 q * r

/-- A mode cost (R195). -/
def modeCost (bits10 : Bool) (q sse r : Nat) : Nat := 8192 * sse + lambdaQ8 bits10 q * r

/-! ### Quarter-scale samples and activity (R157, R196) -/

/-- The quarter-scale samples of a row: lines of W/4 samples, each the rounded mean of 16 luma samples. -/
def quarterRow (luma : List (List (BitVec 10))) (width lines : Nat) : List (List Nat) :=
  (List.range (lines / 4)).map (fun y =>
    (List.range (width / 4)).map (fun x =>
      let sum := (List.range 16).foldl (fun a k => a + ((luma.getD (4 * y + k / 4) []).getD (4 * x + k % 4) 0).toNat) 0
      (sum + 8) / 16))

/-- The quarter-scale samples of CTU column c that lie inside the picture. -/
def quarterBlock (q : List (List Nat)) (c : Nat) : List Nat :=
  (q.map (fun l => (l.drop (16 * c)).take 16)).flatten

/-- lg of a block: log2 of its activity in 1/8 units. -/
def blockLg (b : List Nat) : Nat :=
  let m := b.foldl (· + ·) 0 / b.length
  let act := 1 + b.foldl (fun a x => a + ((x - m) + (m - x))) 0
  let z := 63 - Nat.log2 act
  8 * (63 - z) + act * 2 ^ z / 2 ^ 60 % 8

/-- lg of each CTU of a row. -/
def rowLgs (q : List (List Nat)) (n : Nat) : List Nat := (List.range n).map (fun c => blockLg (quarterBlock q c))

/-- An integer held between two bounds. -/
def clampI (x lo hi : Int) : Int := max lo (min x hi)

/-- The activity offset of a CTU. -/
def activityOffset (aqStr lg lgRef : Nat) : Int := clampI (Int.tdiv (((lg : Int) - lgRef) * aqStr) 32) (-8) 8

/-! ### Regions (R198) -/

/-- The region of a CTU: the lowest-numbered enabled one that covers it. -/
def PgmCfg.region (c : PgmCfg) (col row : Nat) : Option (BitVec 64) :=
  ((List.range 16).find? (fun r =>
    let x := roiRegion c.roi r
    blkRoiEn c.blk / 2 ^ r % 2 == 1 && decide (roiX0 x ≤ col ∧ col ≤ roiX1 x ∧ roiY0 x ≤ row ∧ row ≤ roiY1 x))).map
    (roiRegion c.roi)

/-- roi of a CTU. -/
def PgmCfg.roi1 (c : PgmCfg) (col row : Nat) : Int := match c.region col row with
  | some r => roiOffset r
  | none => 0

/-- Whether a CTU is protected. -/
def PgmCfg.prot1 (c : PgmCfg) (col row : Nat) : Bool := match c.region col row with
  | some r => roiProt r
  | none => false

/-- roisum[i]. -/
def PgmCfg.roiSum (c : PgmCfg) (i : Nat) : Int := (List.range c.ctus).foldl (fun a x => a + c.roi1 x i) 0

/-- nprot[i]. -/
def PgmCfg.nprot (c : PgmCfg) (i : Nat) : Nat := (List.range c.ctus).foldl (fun a x => a + b2n (c.prot1 x i)) 0

/-- The QP of a CTU (R199). -/
def PgmCfg.ctuQp (c : PgmCfg) (plan : RowPlan) (lg col row : Nat) : Nat :=
  let b := c.blk
  if plan.floor then
    if c.prot1 col row then max (blkQmin b) (blkQmax b - blkProtHold b) else blkQmax b
  else
    let hold := if c.prot1 col row then min (plan.q - plan.qb) (blkProtHold b) else 0
    (clampI ((plan.q : Int) - hold + c.roi1 col row + activityOffset (blkAqStr b) lg plan.lgRef)
      (blkQmin b) (blkQmax b)).toNat

/-! ### Rate state (R200) -/

/-- hist of a type at activation. -/
def PgmCfg.hist0 (c : PgmCfg) (k0 : Nat) : List Nat :=
  (List.range c.nrows).map (fun i => c.width * c.rowLines i * k0 / 8000)

/-- A rate state with hist at its activation value for a configuration. -/
def PgmCfg.freshHist (c : PgmCfg) (st : RateSt) : RateSt :=
  { st with histRap := c.hist0 (blkK0Rap c.blk), histInter := c.hist0 (blkK0Inter c.blk) }

/-- hist[t][i]. -/
def RateSt.hist (st : RateSt) (rap : Bool) (i : Nat) : Nat :=
  if rap then st.histRap.getD i 0 else st.histInter.getD i 0

/-- The state with hist[t][i] changed. -/
def RateSt.setHist (st : RateSt) (rap : Bool) (i v : Nat) : RateSt :=
  if rap then { st with histRap := st.histRap.set i v } else { st with histInter := st.histInter.set i v }

/-- What changes at the first row of a picture (R193): the bucket under a new block, hist for a new size. -/
def RateSt.enter (st : RateSt) (o : PicOpen) : RateSt :=
  let st := if o.newBlk then { st with v := min st.v (blkCapBuf o.cfg.blk) } else st
  if o.resized then o.cfg.freshHist st else st

/-! ### Planning (R201) -/

/-- e: bytes at a QP of a complexity at QP 30. -/
def eBytes (kv q : Nat) : Nat := kv * [32768, 29193, 26008, 23170, 20643, 18390].getD (q % 6) 0 / 2 ^ (10 + q / 6)

/-- The base qb of a picture. -/
def PgmCfg.qb (c : PgmCfg) (rap : Bool) : Nat :=
  (clampI ((blkQbase c.blk : Int) + (if rap then blkRapOff c.blk else 0)) (blkQmin c.blk) (blkQmax c.blk)).toNat

/-- qeff: the mean CTU QP of picture row i at row QP q. -/
def PgmCfg.qeff (c : PgmCfg) (qb i q : Nat) : Nat :=
  let hold := min (q - qb) (blkProtHold c.blk)
  (clampI ((q : Int) + Int.tdiv (c.roiSum i - (hold * c.nprot i : Nat)) c.ctus) 0 51).toNat

/-- proj: the projected bytes of picture row i at row QP q. -/
def RateSt.proj (st : RateSt) (c : PgmCfg) (rap : Bool) (i q : Nat) : Nat :=
  let p := eBytes (st.hist rap i) (c.qeff (c.qb rap) i q)
  if 4096 ≤ st.predSum then p * max 64 (min 1024 (st.actSum * 256 / st.predSum)) / 256 else p

/-- The bucket after a row of given bytes (R191). -/
def bucket (v b d : Nat) : Nat := v + b - d

/-- Whether the bucket, projected through rows i to the picture's end at row QP q, stays within the planning limit. -/
def RateSt.fits (st : RateSt) (c : PgmCfg) (rap : Bool) (j i q v lim : Nat) : Bool :=
  ((List.range (c.nrows - i)).foldl (fun (a : Nat × Bool) k =>
    let v := bucket a.1 (st.proj c rap (i + k) q) (c.grant (j + k))
    (v, a.2 && decide (v ≤ lim))) (v, true)).2

/-- The plan of programme row j, row i of a picture, from the state at its basis row, the bucket projected up to the row,
and the row QP of the row before it (`qprev`); `floor` and `classFloor` say whether it is planned cap-floor. -/
def planRow (st : RateSt) (o : PicOpen) (c i j v qprev : Nat) (floor classFloor : Bool) : RowPlan :=
  let cf := o.cfg
  let b := cf.blk
  let qb := cf.qb o.rap
  let lim := blkCapBuf b * blkFill b / 256
  let qlo := if i = 0 then qb else max qb (qprev - blkDownStep b)
  let made (q : Nat) (fl : Bool) : RowPlan :=
    { q := q, p := st.proj cf o.rap i q, floor := fl, classFloor := classFloor, qb := qb, lgRef := st.lgRef,
      d := cf.grant j, pic := c }
  if floor then made (blkQmax b) true
  else match (List.range (blkQmax b + 1 - qlo)).find? (fun x => st.fits cf o.rap j i (qlo + x) v lim) with
    | some x => made (qlo + x) false
    | none => made (blkQmax b) true

/-! ### Commit (R202, R203) -/

/-- The bytes of a row. -/
def RowRec.bytes (r : RowRec) : List Byte := r.head ++ r.ctus.flatten ++ r.tail ++ r.suffix

/-- B of a row. -/
def RowRec.size (r : RowRec) : Nat := r.bytes.length

/-- Whether a row holds minimum CTUs (R171, R176, R207). -/
def RowRec.minCtus (r : RowRec) : Bool := r.cf.isSome || r.deadline || r.poisonMin

/-- `LENGTH` of a row's record: nothing for the first row of a pair, both rows' bytes for the second (R224). -/
def RateSt.length (st : RateSt) (c : PgmCfg) (r : RowRec) : Nat :=
  if c.pairFirst r.i then 0 else if c.pairSecond r.i then st.held + r.size else r.size

/-- The bucket takes a row's `LENGTH` (R191). -/
def RateSt.fill (st : RateSt) (c : PgmCfg) (r : RowRec) : RateSt :=
  { st with v := bucket st.v (st.length c r) r.plan.d, held := if c.pairFirst r.i then r.size else 0 }

/-- The rate state after a row commits (R202). The bucket takes `LENGTH`, as R191 says; the complexity takes the row's own bytes (log
entry 107). -/
def RateSt.commit (st : RateSt) (o : PicOpen) (r : RowRec) : RateSt :=
  let c := o.cfg
  let b := r.size
  let qe := c.qeff r.plan.qb r.i r.plan.q
  let st := st.fill c r
  let st := if r.plan.floor ∨ r.minCtus then st
    else
      let h := st.hist o.rap r.i
      let seen := b * [32768, 36781, 41285, 46341, 52016, 58386].getD (qe % 6) 0 * 2 ^ (qe / 6) / 2 ^ 20
      let st := { st with predSum := st.predSum + eBytes h qe, actSum := st.actSum + b }
      st.setHist o.rap r.i ((h + seen + 1) / 2)
  let st := if r.plan.floor then { st with picFloor := true } else st
  let st := { st with lgSum := st.lgSum + r.lgs.foldl (· + ·) 0, lgCnt := st.lgCnt + c.ctus }
  if r.i + 1 = c.nrows then
    { st with lgRef := st.lgSum / st.lgCnt, actSum := 0, predSum := 0, picFloor := false, lgSum := 0, lgCnt := 0 }
  else st

/-- Whether a row fails the rollback test (R203). -/
def PgmCfg.testFails (c : PgmCfg) (r : RowRec) : Bool :=
  !(r.plan.floor || r.minCtus) &&
    decide (max (blkTolMin c.blk) (r.plan.p * blkTolPm c.blk / 1000) < (r.size - r.plan.p) + (r.plan.p - r.size))

end Sys2Proof.Machine
end

