-- ==== Sys2Proof/Machine/Hevc.lean ====
section
/-! DEFINITION. The units of an HEVC stream other than a row's coded data (R215 to R218): parameter sets, delimiter, metadata,
slice segment headers, picture hash. The syntax is that of ITU-T H.265 (log entry 105). -/

namespace Sys2Proof.Machine

/-! ### The stream block (table BSD-1) -/

def PgmCfg.cspace (c : PgmCfg) : Nat := bitsOf c.stream 2 0
def PgmCfg.fullRange (c : PgmCfg) : Bool := bitOf c.stream 3
def PgmCfg.aud (c : PgmCfg) : Bool := bitOf c.stream 4
def PgmCfg.hash (c : PgmCfg) : Bool := bitOf c.stream 5
def PgmCfg.hdrOn (c : PgmCfg) : Bool := bitOf c.stream 6
def PgmCfg.psAll (c : PgmCfg) : Bool := bitOf c.stream 7

/-- Primaries, transfer and matrix code points (table BSD-5). -/
def PgmCfg.codePoints (c : PgmCfg) : Nat × Nat × Nat :=
  match c.cspace with
  | 0 => (1, 1, 1)
  | 1 => (9, if c.bits10 then 14 else 1, 9)
  | 2 => (9, 16, 9)
  | _ => (9, 18, 9)

/-- The code points, 8 bits each. -/
def PgmCfg.pointBits (c : PgmCfg) : Bits :=
  let (p, t, m) := c.codePoints
  bitsU 8 p ++ bitsU 8 t ++ bitsU 8 m

/-- The HDR record's bytes [o, o + n), as a number (table BSD-2). -/
def PgmCfg.hdrAt (c : PgmCfg) (o n : Nat) : Nat := c.hdr.toNat / 2 ^ (8 * o) % 2 ^ (8 * n)

/-! ### NAL units (R215) -/

/-- A NAL unit of a type from its payload's bytes: start code, header, payload with emulation prevention. -/
def nalUnit (ty : Nat) (payload : List Byte) : List Byte :=
  [0, 0, 0, 1, BitVec.ofNat 8 (2 * ty), 1] ++ emulate 0 payload

/-- A NAL unit whose payload ends with trailing bits. -/
def nalBits (ty : Nat) (l : Bits) : List Byte := nalUnit ty (bitsBytes (bitsTrail l))

/-- One SEI message. -/
def seiMessage (ty : Nat) (payload : List Byte) : List Byte :=
  [BitVec.ofNat 8 ty, BitVec.ofNat 8 payload.length] ++ payload

/-- An SEI NAL unit of messages. -/
def seiUnit (nal : Nat) (messages : List Byte) : List Byte := nalUnit nal (messages ++ [0x80])

/-! ### Parameter sets (R216, table BSD-4) -/

/-- general_profile_idc. -/
def PgmCfg.profileIdc (c : PgmCfg) : Nat := match c.profile with
  | 0 => 1
  | 1 => 2
  | _ => 4

/-- The compatibility flags: a Main stream is a Main 10 stream too. -/
def PgmCfg.compatBits (c : PgmCfg) : Bits :=
  (List.range 32).map (fun j => j == c.profileIdc || (c.profileIdc == 1 && j == 2))

/-- The 43 bits after the source flags and the bit after them: the constraint flags of Main 4:2:2 10, zeros otherwise. -/
def PgmCfg.constraintBits (c : PgmCfg) : Bits :=
  (if c.profileIdc = 4 then [true, true, false, true, false, false, false, false, true] else List.replicate 9 false) ++
    List.replicate 35 false

/-- profile_tier_level of one sub-layer. -/
def PgmCfg.ptlBits (c : PgmCfg) : Bits :=
  bitsU 2 0 ++ bitsFlag c.tier ++ bitsU 5 c.profileIdc ++ c.compatBits ++
    -- progressive_source, interlaced_source, non_packed_constraint, frame_only_constraint
    [true, false, false, true] ++ c.constraintBits ++ bitsU 8 c.level

/-- max_dec_pic_buffering_minus1, max_num_reorder_pics, max_latency_increase_plus1, after the flag that they are present. -/
def PgmCfg.bufferingBits (c : PgmCfg) : Bits := [true] ++ bitsUe c.nref ++ bitsUe 0 ++ bitsUe 0

/-- The video parameter set. -/
def PgmCfg.vps (c : PgmCfg) : List Byte :=
  nalBits 32 (bitsU 4 0 ++ [true, true] ++ bitsU 6 0 ++ bitsU 3 0 ++ [true] ++ bitsU 16 0xFFFF ++ c.ptlBits ++ c.bufferingBits ++
    bitsU 6 0 ++ bitsUe 0 ++
    -- timing and extension absent
    [false, false])

/-- The short-term reference picture sets: set 0 = {−1}, set 1 = {−1, −2}. -/
def PgmCfg.rpsBits (c : PgmCfg) : Bits :=
  bitsUe c.nref ++
    (if 1 ≤ c.nref then bitsUe 1 ++ bitsUe 0 ++ bitsUe 0 ++ [true] else []) ++
    (if 2 ≤ c.nref then [false] ++ bitsUe 2 ++ bitsUe 0 ++ bitsUe 0 ++ [true] ++ bitsUe 0 ++ [true] else [])

/-- The VUI: signal type with the code points, timing, nothing else. -/
def PgmCfg.vuiBits (c : PgmCfg) : Bits :=
  -- aspect ratio, overscan
  [false, false] ++
    -- video_signal_type: unspecified video format, range, colour description
    [true] ++ bitsU 3 5 ++ bitsFlag c.fullRange ++ [true] ++ c.pointBits ++
    -- chroma location, neutral chroma, field_seq, frame_field_info, default display window
    [false, false, false, false, false] ++
    [true] ++ bitsU 32 c.frDen ++ bitsU 32 c.frNum ++ [false, false] ++
    -- bitstream restriction
    [false]

/-- The sequence parameter set. -/
def PgmCfg.sps (c : PgmCfg) : List Byte :=
  let depth := if c.bits10 then 2 else 0
  nalBits 33 (bitsU 4 0 ++ bitsU 3 0 ++ [true] ++ c.ptlBits ++ bitsUe 0 ++ bitsUe (if c.c422 then 2 else 1) ++
    bitsUe c.width ++ bitsUe c.height ++ [false] ++ bitsUe depth ++ bitsUe depth ++ bitsUe 12 ++ c.bufferingBits ++
    -- block sizes and depths
    bitsUe 0 ++ bitsUe 3 ++ bitsUe 0 ++ bitsUe 3 ++ bitsUe 3 ++ bitsUe 3 ++
    -- scaling lists, amp, sao, pcm
    [false, false, true, false] ++ c.rpsBits ++
    -- long-term references, temporal mvp, strong intra smoothing
    [false, false, true] ++ [true] ++ c.vuiBits ++ [false])

/-- The picture parameter set. -/
def PgmCfg.pps (_c : PgmCfg) : List Byte :=
  nalBits 34 (bitsUe 0 ++ bitsUe 0 ++
    -- dependent slices, output flag, extra header bits, sign data hiding, cabac_init
    [true, false] ++ bitsU 3 0 ++ [true, false] ++ bitsUe 0 ++ bitsUe 0 ++ bitsSe 0 ++
    -- constrained intra, transform skip, cu_qp_delta with depth 0
    [false, true, true] ++ bitsUe 0 ++ bitsSe 0 ++ bitsSe 0 ++
    -- slice chroma offsets, weighted, weighted bi, transquant bypass, tiles, wavefront
    [false, false, false, false, false, true] ++
    -- loop filter across slices, deblocking control, scaling lists, lists modification
    [false, false, false, false] ++ bitsUe 0 ++
    -- slice header extension, extension
    [false, false])

/-- VPS, SPS and PPS: functions of the descriptor alone (R216). -/
def PgmCfg.paramSets (c : PgmCfg) : List Byte := c.vps ++ c.sps ++ c.pps

/-- The access unit delimiter of a picture: pic_type by the slice types that it holds. -/
def hevcAud (sliceTypes : Nat) : List Byte := nalBits 35 (bitsU 3 sliceTypes)

/-- The mastering display colour volume and content light level messages: the record's values unchanged (R212). -/
def PgmCfg.hdrSei (c : PgmCfg) : List Byte :=
  seiUnit 39 (
    seiMessage 137 ((List.range 8).flatMap (fun i => beBytes 2 (c.hdrAt (2 * i) 2)) ++ beBytes 4 (c.hdrAt 16 4) ++
      beBytes 4 (c.hdrAt 20 4)) ++
    seiMessage 144 (beBytes 2 (c.hdrAt 24 2) ++ beBytes 2 (c.hdrAt 26 2)))

/-! ### Slice segments (R217, R218) -/

/-- Slice type of a picture: I without references, P with one reference in the programme, B with two. -/
def PgmCfg.sliceType (c : PgmCfg) (rap : Bool) : Nat := if rap then 2 else if c.nref = 1 then 1 else 0

/-- The bits of a CTU address. -/
def PgmCfg.addrBits (c : PgmCfg) : Nat := Nat.log2 (c.ctus * c.nrows - 1) + 1

/-- The slice segment header of row i of a picture m after its random-access picture, and its NAL type: independent at row 0,
dependent after it, without entry points. -/
def PgmCfg.sliceHead (c : PgmCfg) (rap : Bool) (m i : Nat) : List Byte :=
  let first := i == 0
  let intra := rap
  let refs := min c.nref m
  let start : Bits := bitsFlag first ++ (if rap then [false] else []) ++ bitsUe 0 ++
    (if first then [] else [true] ++ bitsU c.addrBits (i * c.ctus))
  let poc : Bits := if rap then []
    else bitsU 16 (m % 65536) ++ [true] ++ (if c.nref = 2 then bitsU 1 (if m = 1 then 0 else 1) else [])
  let lists : Bits := if intra then []
    else [true] ++ bitsUe (refs - 1) ++ (if c.nref = 2 then bitsUe (refs - 1) ++ [false] else []) ++ bitsUe 0
  let own : Bits := if first then
      bitsUe (c.sliceType rap) ++ poc ++ [true, true] ++ lists ++ bitsSe ((c.qb rap : Int) - 26)
    else []
  nalBits (if rap then 20 else 1) (start ++ own ++ bitsUe 0)

/-- The units of HEVC row i before its coded data (table BSD-3). -/
def PgmCfg.hevcHead (c : PgmCfg) (rap : Bool) (m i : Nat) : List Byte :=
  (if i = 0 then
    (if c.aud then hevcAud (2 - c.sliceType rap) else []) ++ (if rap || c.psAll then c.paramSets else []) ++
      (if rap && c.hdrOn then c.hdrSei else [])
   else []) ++ c.sliceHead rap m i

/-! ### QP syntax (R194, R218) -/

/-- The predicted QpY of a CTU of a row: the slice QP for the first, which the wavefront starts afresh, else the QpY of the CTU
before it, since the CTUs beside and above lie in other CTUs (H.265 clause 8.6.1). -/
def qpPred (qb : Nat) (prev : Option Nat) : Nat := prev.getD qb

/-- CuQpDeltaVal for a QP q and a prediction, which wraps in the range that the bit depth gives. -/
def cuQpDelta (bits10 : Bool) (q pred : Nat) : Int :=
  let off : Int := if bits10 then 12 else 0
  ((q : Int) - pred + 26 + off / 2) % (52 + off) - (26 + off / 2)

/-! ### Picture hash (R215) -/

/-- One bit of the picture CRC. -/
def hashBit (crc : BitVec 16) (b : Bool) : BitVec 16 :=
  let next := (crc <<< 1) ||| (BitVec.ofBool b).setWidth 16
  if crc.getLsbD 15 then next ^^^ 0x1021#16 else next

/-- The CRC of a plane's samples, each one or two bytes, the lower first, and two zero bytes. -/
def planeHash (bits10 : Bool) (samples : List Nat) : BitVec 16 :=
  let bytes := samples.flatMap (fun v => leBytes (if bits10 then 2 else 1) v) ++ [0, 0]
  (bytes.flatMap (fun b => bitsU 8 b.toNat)).foldl hashBit 0xFFFF#16

/-- The suffix SEI with the decoded picture hash of three planes. -/
def hashSei (bits10 : Bool) (planes : List (List Nat)) : List Byte :=
  seiUnit 40 (seiMessage 132 (1 :: planes.flatMap (fun p => beBytes 2 (planeHash bits10 p).toNat)))

end Sys2Proof.Machine
end

