-- ==== Sys2Proof/Machine/Av1.lean ====
section
/-! DEFINITION. The units of an AV1 stream other than a tile's coded data (R219 to R222): temporal delimiter, sequence header,
metadata, frame header, tile group headers. The syntax is that of AV1 (log entry 105). -/

namespace Sys2Proof.Machine

/-- An OBU of a type with its payload's size in the fewest bytes. -/
def obu (ty : Nat) (payload : List Byte) : List Byte :=
  [BitVec.ofNat 8 (ty * 8 + 2)] ++ leb128Short payload.length ++ payload

/-- An OBU whose payload ends with trailing bits. -/
def obuBits (ty : Nat) (l : Bits) : List Byte := obu ty (bitsBytes (bitsTrail l))

/-- The bits of a size field: at least those that the size less 1 needs. -/
def av1Bits (size : Nat) : Nat := min 16 (Nat.log2 (size - 1) + 1 + Config.av1SizeBits size)

/-! ### Sequence header and metadata (R212, R220) -/

/-- color_config: depth, code points, range, 4:2:0 with sample position 0. -/
def PgmCfg.av1Color (c : PgmCfg) : Bits :=
  bitsFlag c.bits10 ++ [false] ++ [true] ++ c.pointBits ++ bitsFlag c.fullRange ++ bitsU 2 0 ++ [false]

/-- The sequence header OBU (table BSD-6). -/
def PgmCfg.av1Seq (c : PgmCfg) : List Byte :=
  let wb := av1Bits c.width
  let hb := av1Bits c.height
  obuBits 1 (bitsU 3 0 ++ [false, false] ++
    -- timing info, initial display delay, one operating point
    [false, false] ++ bitsU 5 0 ++ bitsU 12 0 ++ bitsU 5 c.level ++ (if 7 < c.level then [false] else []) ++
    bitsU 4 (wb - 1) ++ bitsU 4 (hb - 1) ++ bitsU wb (c.width - 1) ++ bitsU hb (c.height - 1) ++
    -- frame ids, 128×128 superblocks, filter intra, intra edge filter
    [false, false, false, true] ++
    -- inter-intra, masked compound, warped motion, dual filter, order hint
    [false, false, false, false, false] ++
    -- screen content tools: not chosen per frame, off
    [false, false] ++
    -- superres, cdef, restoration
    [false, true, false] ++ c.av1Color ++ [false])

/-- A chromaticity of the HDR record as AV1 carries it. -/
def PgmCfg.av1Chroma (c : PgmCfg) (i : Nat) : List Byte := beBytes 2 (c.hdrAt (2 * i) 2 * 8192 / 6250)

/-- The metadata OBUs HDR_MDCV, then HDR_CLL: primaries red, green, blue; the conversions of R212. -/
def PgmCfg.av1Hdr (c : PgmCfg) : List Byte :=
  let meta_ (ty : Nat) (b : List Byte) : List Byte := obu 5 (leb128Short ty ++ b ++ [0x80])
  meta_ 2 ([4, 5, 0, 1, 2, 3, 6, 7].flatMap c.av1Chroma ++ beBytes 4 (c.hdrAt 16 4 * 256 / 10000) ++
    beBytes 4 (c.hdrAt 20 4 * 16384 / 10000)) ++
  meta_ 1 (beBytes 2 (c.hdrAt 24 2) ++ beBytes 2 (c.hdrAt 26 2))

/-! ### Tiles (R156) -/

/-- The tile rows of a picture. -/
def PgmCfg.tileRows (c : PgmCfg) : Nat := min c.nrows 64

/-- The superblock rows of a tile: the first 128 − `nrows` tiles of a tall picture hold one, the others two. -/
def PgmCfg.tileHeight (c : PgmCfg) (t : Nat) : Nat := if 64 < c.nrows ∧ 128 - c.nrows ≤ t then 2 else 1

/-- The tile that holds a superblock row. -/
def PgmCfg.tileOf (c : PgmCfg) (i : Nat) : Nat :=
  if 64 < c.nrows ∧ 128 - c.nrows ≤ i then 128 - c.nrows + (i - (128 - c.nrows)) / 2 else i

/-- The bits of a tile number. -/
def PgmCfg.tileBits (c : PgmCfg) : Nat := Nat.log2 (c.tileRows - 1) + 1

/-- The heights of the tiles from a superblock row on; `n` bounds them. -/
def PgmCfg.heightBits (c : PgmCfg) (maxH : Nat) : Nat → Nat → Nat → Bits
  | 0, _, _ => []
  | n + 1, t, start =>
    if start < c.nrows then
      bitsNs (min (c.nrows - start) maxH) (c.tileHeight t - 1) ++ c.heightBits maxH n (t + 1) (start + c.tileHeight t)
    else []

/-- tile_info: not uniform, one column, the tile heights of R156, no context to update from, sizes of one byte. -/
def PgmCfg.tileInfo (c : PgmCfg) : Bits :=
  let area := c.ctus * c.nrows
  -- the smallest number of tiles that a tile of at most 2,304 superblocks allows
  let minLog2 := max (if c.ctus ≤ 64 then 0 else 1) (Nat.log2 (ceilDiv area 2304 - 1) + (if 2304 < area then 1 else 0))
  let maxArea := if minLog2 = 0 then area else area / 2 ^ (minLog2 + 1)
  [false] ++
    (if c.ctus ≤ 64 then bitsNs (min c.ctus 64) (c.ctus - 1) else bitsU 6 (Config.av1WideColumn c.width).toNat) ++
    c.heightBits (max 1 (maxArea / c.ctus)) c.nrows 0 0 ++ bitsU c.tileBits 0 ++ bitsU 2 0

/-! ### Frame header (R220 to R222) -/

/-- The qindex of a quality QP (R194, R222). -/
def av1Qindex (q : Nat) : Nat := max 1 (5 * q)

/-- The reference slot of LAST, of LAST2 and of the others of inter picture m (R221). -/
def av1Slot (m ref : Nat) : Nat := if ref = 1 then (m - 2) % 2 else (m - 1) % 2

/-- The slots that a picture refreshes: all of them, or slot m mod 2 (R221). -/
def av1Refresh (rap : Bool) (m : Nat) : Nat := if rap then 255 else 2 ^ (m % 2)

/-- Loop filter and CDEF parameters: the levels and strengths are open. -/
def PgmCfg.filterBits (c : PgmCfg) (pic qidx : Nat) : Bits :=
  let f := Config.av1Filters c.desc pic qidx
  let l0 := bitsOf f 5 0
  let l1 := bitsOf f 11 6
  let n := bitsOf f 25 24
  bitsU 6 l0 ++ bitsU 6 l1 ++ (if l0 ≠ 0 ∨ l1 ≠ 0 then bitsU 12 (bitsOf f 23 12) else []) ++ bitsU 3 (bitsOf f 30 28) ++ [false] ++
    bitsU 2 (bitsOf f 27 26) ++ bitsU 2 n ++ bitsU (12 * 2 ^ n) (bitsOf f 127 32)

/-- The frame header OBU of picture `pic`, m after its key frame. -/
def PgmCfg.av1Frame (c : PgmCfg) (rap : Bool) (m pic : Nat) : List Byte :=
  let q := av1Qindex (c.qb rap)
  obuBits 3 (
    -- show_existing_frame, frame_type, show_frame
    [false] ++ bitsU 2 (if rap then 0 else 1) ++ [true] ++
    -- error_resilient_mode is inferred for a shown key frame
    (if rap then [] else [false]) ++
    -- disable_cdf_update, frame_size_override
    [false, false] ++
    -- render_and_frame_size_different; for an inter frame first primary_ref_frame, the refresh flags and the references, then
    -- precision, filter and motion mode
    (if rap then [false]
     else bitsU 3 7 ++ bitsU 8 (av1Refresh rap m) ++ (List.range 7).flatMap (fun i => bitsU 3 (av1Slot m i)) ++ [false] ++ [false] ++
       [false] ++ bitsU 2 0 ++ [false]) ++
    -- disable_frame_end_update_cdf
    [true] ++ c.tileInfo ++
    -- quantisation: base_q_idx, no deltas, no matrices
    bitsU 8 q ++ [false, false, false, false] ++
    -- segmentation, delta_q with resolution 0, delta_lf
    [false] ++ [true] ++ bitsU 2 0 ++ [false] ++ c.filterBits pic q ++
    -- TX_MODE_SELECT, reference_select
    [true] ++ (if rap then [] else bitsFlag (c.nref == 2)) ++
    -- reduced_tx_set, identity global motion
    [true] ++ (if rap then [] else List.replicate 7 false))

/-! ### Rows (R219) -/

/-- The header of the tile group that holds one tile, whose data take n bytes: its size always in 4 bytes. -/
def PgmCfg.tileGroup (c : PgmCfg) (tile n : Nat) : List Byte :=
  let head := bitsBytes (bitsPad ([true] ++ bitsU c.tileBits tile ++ bitsU c.tileBits tile))
  [BitVec.ofNat 8 (4 * 8 + 2)] ++ leb128 4 (head.length + n) ++ head

/-- A tile group's bytes with its size set again: b starts at its header. -/
def sizeTileGroup (b : List Byte) : List Byte := b.take 1 ++ leb128 4 (b.length - 5) ++ b.drop 5

/-- The units of AV1 row i before its coded data, which take n bytes; the second row of a pair has none. -/
def PgmCfg.av1Head (c : PgmCfg) (rap : Bool) (m pic i n : Nat) : List Byte :=
  if c.pairSecond i then []
  else
    (if i = 0 then
      [0x12, 0x00] ++ (if rap || c.psAll then c.av1Seq else []) ++ (if rap && c.hdrOn then c.av1Hdr else []) ++
        c.av1Frame rap m pic
     else []) ++ c.tileGroup (c.tileOf i) n

end Sys2Proof.Machine
end

