-- ==== Sys2Proof/Machine/Search.lean ====
section
/-! DEFINITION. Motion search (R158 to R162, R195): the coarse search in the quarter-scale copy, the centres and the far patches,
the fine search in the window. -/

namespace Sys2Proof.Machine

/-- A vector, or an offset: across, down. -/
abbrev Mv := Int × Int

/-- Whether a cost and vector come before another: the smaller cost, then the smaller |x| + |y|, the smaller y, the smaller x
(R162). -/
def mvBefore (a b : Nat × Mv) : Bool :=
  let len (v : Mv) : Nat := v.1.natAbs + v.2.natAbs
  decide (a.1 < b.1 ∨ (a.1 = b.1 ∧ (len a.2 < len b.2 ∨ (len a.2 = len b.2 ∧ (a.2.2 < b.2.2 ∨ (a.2.2 = b.2.2 ∧ a.2.1 < b.2.1))))))

/-- A candidate joins a list held in the order of `mvBefore`. -/
def mvInsert (a : Nat × Mv) : List (Nat × Mv) → List (Nat × Mv)
  | [] => [a]
  | b :: t => if mvBefore a b then a :: b :: t else b :: mvInsert a t

/-- The n best of some vectors under a cost, best first; a vector without a cost is never chosen. -/
def mvBest (n : Nat) (cost : Mv → Option Nat) (l : List Mv) : List (Nat × Mv) :=
  l.foldl (fun best v => match cost v with
    | some c => if best.any (fun b => b.2 == v) then best else (mvInsert (c, v) best).take n
    | none => best) []

/-- The integers from −n to n at a step. -/
def span (n step : Nat) : List Int := (List.range (2 * (n / step) + 1)).map (fun i => ((i * step : Nat) : Int) - (n / step * step : Nat))

/-- The eight neighbours of a vector at a distance. -/
def around (d : Int) (v : Mv) : List Mv :=
  [(-d, -d), (0, -d), (d, -d), (-d, 0), (d, 0), (-d, d), (0, d), (d, d)].map (fun o => (v.1 + o.1, v.2 + o.2))

/-! ### Coarse search (R157, R158) -/

/-- A coordinate held inside n samples. -/
def inside (n : Nat) (x : Int) : Nat := min x.toNat (n - 1)

/-- A sample of a quarter-scale copy at an address, from the words loaded; positions outside the copy take the nearest edge
sample; none where the word failed. -/
def coarseSample (words : Tab Nat (Option W256)) (base qw qh : Nat) (x y : Int) : Option Nat :=
  let a := base + (inside qh y * qw + inside qw x) * 2
  (Tab.getD words (a / 32 * 32) none).map (fun w => w.toNat / 2 ^ (8 * (a % 32)) % 65536)

/-- The SAD of CTU (c, i)'s quarter-scale block at an offset: q is the row's own copy, lines from 16 i on. -/
def coarseCost (words : Tab Nat (Option W256)) (base qw qh c i : Nat) (q : List (List Nat)) (v : Mv) : Option Nat :=
  (List.range 256).foldl (fun (acc : Option Nat) t => match acc with
    | none => none
    | some sum =>
      let x := 16 * c + t % 16
      let y := t / 16
      let own := (q.getD (min y (q.length - 1)) []).getD (min x (qw - 1)) 0
      (coarseSample words base qw qh (x + v.1) ((16 * i + y : Nat) + v.2)).map (fun r => sum + ((own - r) + (r - own)))) (some 0)

/-- The coarse candidates, at quarter scale: the four best distinct offsets over the even offsets and the neighbours of the four best
of those. -/
def coarseBest (cost : Mv → Option Nat) : List (Nat × Mv) :=
  let even := (span 128 2).flatMap (fun y => (span 512 2).map (fun x => (x, y)))
  let first := mvBest 4 cost even
  let near := (first.flatMap (fun b => around 1 b.2)).filter (fun v => decide (v.1.natAbs ≤ 512 ∧ v.2.natAbs ≤ 128))
  mvBest 4 cost (first.map (fun b => b.2) ++ near)

/-! ### Centres and far patches (R160, R161) -/

/-- The centres of a CTU for a reference, in luma samples: the coarse candidates, the zero vector, the vector of the CTU to the left,
each once. -/
def searchCentres (coarse : List Mv) (left : Mv) : List Mv :=
  (coarse.map (fun (v : Mv) => ((4 * v.1, 4 * v.2) : Mv)) ++ [((0, 0) : Mv), (left.1 / 4, left.2 / 4)]).eraseDups

/-- Whether a centre's search area, ±16 with 4 samples of margin, lies inside the fine window of ±256 by ±64. -/
def centreInside (v : Mv) : Bool := decide (v.1.natAbs + 20 ≤ 256 ∧ v.2.natAbs + 20 ≤ 64)

/-- The centre that a far patch would serve: the outside one of lowest coarse cost, which the order of the candidates shows; a centre
without a coarse cost comes last (log entry 106). -/
def patchCentre (centres : List Mv) : Option Mv := centres.find? (fun v => !centreInside v)

/-! ### Fine search (R160, R162, R195) -/

/-- A luma sample of reference r from the areas held; positions outside the picture take the nearest edge sample. -/
def refSample (areas : List RefArea) (w h r : Nat) (x y : Int) : Option Nat :=
  let X := inside w x
  let Y := inside h y
  (areas.find? (fun a => a.r == r && a.X == X / 64 && a.Y == Y / 64 && a.luma.any (fun b => b.1 == Y % 64 / 4))).bind (fun a =>
    (a.luma.find? (fun b => b.1 == Y % 64 / 4)).bind (fun b => b.2[64 * (Y % 4) + X % 64]?))

/-- The interpolation filter of a codec at a quarter-sample position: HEVC's, or AV1's EIGHTTAP regular (PRESUMED, the two
standards; log entry 105). -/
def subTaps (av1 : Bool) (f : Nat) : List Int :=
  if av1 then
    match f with
    | 0 => [0, 0, 0, 128, 0, 0, 0, 0]
    | 1 => [0, 2, -14, 110, 38, -10, 2, 0]
    | 2 => [0, 2, -14, 76, 76, -14, 2, 0]
    | _ => [0, 2, -10, 38, 110, -14, 2, 0]
  else
    match f with
    | 0 => [0, 0, 0, 64, 0, 0, 0, 0]
    | 1 => [-1, 4, -10, 58, 17, -5, 1, 0]
    | 2 => [-1, 4, -11, 40, 40, -11, 4, -1]
    | _ => [0, 1, -5, 17, 58, -10, 4, -1]

/-- A sum of eight samples under taps, none when a sample is missing. -/
def tapSum (taps : List Int) (sample : Int → Option Int) : Option Int :=
  (List.range 8).foldl (fun (acc : Option Int) t => match acc with
    | none => none
    | some a => if taps.getD t 0 = 0 then some a else (sample ((t : Int) - 3)).map (fun v => a + taps.getD t 0 * v)) (some 0)

/-- A value over 2^n, rounded half up. -/
def roundShift (v : Int) (n : Nat) : Int := Int.fdiv (v + (2 ^ n / 2 : Nat)) (2 ^ n : Nat)

/-- The predicted sample at a quarter-sample position of a reference, as the codec's motion compensation forms it. -/
def predSample (av1 bits10 : Bool) (sample : Int → Int → Option Nat) (x y : Int) : Option Int :=
  let depth := if bits10 then 10 else 8
  let (ix, fx, iy, fy) := (x / 4, (x % 4).toNat, y / 4, (y % 4).toNat)
  let line (dy : Int) : Option Int := tapSum (subTaps av1 fx) (fun dx => (sample (ix + dx) (iy + dy)).map (fun v => (v : Int)))
  let clip (v : Int) : Int := clampI v 0 (2 ^ depth - 1 : Nat)
  if av1 then (tapSum (subTaps av1 fy) (fun dy => (line dy).map (fun v => roundShift v 3))).map (fun v => clip (roundShift v 11))
  else
    let s1 := depth - 8
    let s3 := 14 - depth
    let v := if fx = 0 ∧ fy = 0 then (sample ix iy).map (fun v => (v : Int) * 2 ^ s3)
      else if fy = 0 then (line 0).map (fun v => Int.fdiv v (2 ^ s1 : Nat))
      else if fx = 0 then
        (tapSum (subTaps av1 fy) (fun dy => (sample ix (iy + dy)).map (fun v => (v : Int)))).map (fun v => Int.fdiv v (2 ^ s1 : Nat))
      else (tapSum (subTaps av1 fy) (fun dy => (line dy).map (fun v => Int.fdiv v (2 ^ s1 : Nat)))).map (fun v => Int.fdiv v 64)
    v.map (fun v => clip (roundShift v s3))

/-- One pass of a Hadamard transform over eight values: sums and differences of the two halves. -/
def hadamard1 (l : List Int) : List Int :=
  let at_ (i : Nat) : Int := l.getD i 0
  let step (f : Nat → Int) (n : Nat) : Nat → Int := fun i => if i / n % 2 = 0 then f i + f (i + n) else f (i - n) - f i
  (List.range 8).map (step (step (step at_ 4) 2) 1)

/-- The sum of the magnitudes of the 8 × 8 Hadamard transform of a difference. -/
def hadamardSum (d : Nat → Nat → Int) : Nat :=
  let rows := (List.range 8).map (fun y => hadamard1 ((List.range 8).map (fun x => d x y)))
  let cols := (List.range 8).map (fun x => hadamard1 (rows.map (fun r => r.getD x 0)))
  (cols.flatten).foldl (fun a v => a + v.natAbs) 0

/-- The cost of a bin or symbol whose value had probability n / d, in 1/32 bit: round(−32 log2 P), half up (R195). -/
def binCost (n d : Nat) : Nat := (Nat.log2 (d ^ 64 / n ^ 64) + 1) / 2

/-- What the fine search of a CTU works on. -/
structure FineIn where
  av1 : Bool
  bits10 : Bool
  w : Nat
  h : Nat
  col : Nat
  row : Nat
  q : Nat
  ctx : Nat
  luma : List (List (BitVec 10))
  areas : List RefArea

/-- The motion cost of a vector in quarter samples for a reference (R162, R195): none where it needs a sample that is not held. -/
def FineIn.cost (f : FineIn) (r : Nat) (v : Mv) : Option Nat :=
  let bw := min 64 (f.w - 64 * f.col) / 8
  let bh := min 64 (f.h - 64 * f.row) / 8
  let down (x : Nat) : Nat := if f.bits10 then x else x / 4
  let own (x y : Nat) : Int := down ((f.luma.getD y []).getD (64 * f.col + x) 0).toNat
  let pred (x y : Nat) : Option Int :=
    predSample f.av1 f.bits10 (refSample f.areas f.w f.h r) (4 * ((64 * f.col + x : Nat) : Int) + v.1)
      (4 * ((64 * f.row + y : Nat) : Int) + v.2)
  let rate := (Config.vectorBins f.ctx f.col r v).foldl (fun a p => a + binCost p.1 p.2) 0
  let whole := (List.range (8 * bw)).all (fun x => (List.range (8 * bh)).all (fun y => (pred x y).isSome))
  if whole then
    let satd := (List.range (bw * bh)).foldl (fun a b =>
      a + Config.satdOf (hadamardSum (fun x y =>
        own (8 * (b % bw) + x) (8 * (b / bw) + y) - (pred (8 * (b % bw) + x) (8 * (b / bw) + y)).getD 0))) 0
    some (motionCost f.bits10 f.q satd rate)
  else none

/-- The search around a centre given in luma samples: every integer offset of ±16 by ±16, then the eight half-sample and the eight
quarter-sample neighbours. -/
def FineIn.around (f : FineIn) (r : Nat) (centre : Mv) : List (Nat × Mv) :=
  let ints := (span 16 1).flatMap (fun y => (span 16 1).map (fun x => (4 * (centre.1 + x), 4 * (centre.2 + y))))
  let refine (d : Int) (l : List (Nat × Mv)) : List (Nat × Mv) :=
    mvBest 1 (f.cost r) (l.flatMap (fun b => b.2 :: Machine.around d b.2))
  refine 1 (refine 2 (mvBest 1 (f.cost r) ints))

/-- The final vector of a CTU for a reference, in quarter samples: the best over its centres; zero when none could be costed. -/
def FineIn.search (f : FineIn) (r : Nat) (centres : List Mv) : Mv :=
  match mvBest 1 (f.cost r) ((centres.flatMap (f.around r)).map (fun b => b.2)) with
  | b :: _ => b.2
  | [] => (0, 0)

end Sys2Proof.Machine
end

