-- ==== Sys2Proof/Machine/PanOps.lean ====
section
/-! DEFINITION. What a pan does with its programmes (chapters 5 to 7): completion of commands, pictures, input rows,
planning, coding, commit. Programme k belongs to pan k div 4. -/

namespace Sys2Proof.Machine

/-- A programme. -/
def State.pgm (s : State) (k : Nat) : Pgm := Tab.getD s.pgms k {}

/-- n occurrences of a pan event reach the counters of a programme's pan (table PMU-3). -/
def State.pmuPan (s : State) (k ev n : Nat) : State := s.pmuAdd (128 + k / 4) ev [k % 4] n 0

/-- The state with a programme changed. -/
def State.setPgm (s : State) (k : Nat) (p : Pgm) : State := { s with pgms := Tab.set s.pgms k p }

/-- Bits of slots 0 to 3 of a pan that programmes cover which are not IDLE (table PAN-14), programme k not counted. -/
def State.panSlots (s : State) (n : Nat) (but : Option Nat) : Nat :=
  (List.range 4).foldl (fun a x =>
    let p := s.pgm (4 * n + x)
    if p.st = .idle ∨ but = some (4 * n + x) then a else a ||| lowMask p.cfg.slots * 2 ^ x % 16) 0

/-- `PAN_STAT.ACTIVE` and `PAN_PGM_STATE` follow a programme's state (tables PAN-14, PAN-16). -/
def State.panShow (s : State) (k : Nat) : State :=
  let p := s.pgm k
  let st := match p.st with
    | .idle => 0
    | .active => 1
    | .stopping => 2
  (s.fset F.PAN_PGM_STATE_STATE (64 + k) 0 st).fset F.PAN_STAT_ACTIVE (k / 4) 0 (s.panSlots (k / 4) none)

/-- The configuration in force shows in `PAN_PGM_STATE` and `PAN_PGM_DESC` (tables PAN-16 to PAN-18). -/
def State.panShowCfg (s : State) (k : Nat) (c : PgmCfg) : State :=
  let s := (s.fset F.PAN_PGM_STATE_CLASS (64 + k) 0 (b2n c.classB)).fset F.PAN_PGM_STATE_SLOTS (64 + k) 0 c.slotsField
  s.setPair .PAN_PGM_DESC_LO .PAN_PGM_DESC_HI (64 + k) 0 (BitVec.ofNat 64 c.addr)

/-- A command of pan n completes with a status (R182): `PAN_CMD_STAT`, command-refused for a status other than 0, the
token. -/
def State.panFinish (s : State) (n : Nat) (c : W256) (st : Nat) : State :=
  let k := cSel c % 64
  let s := ((s.fset F.PAN_CMD_STAT_PGM n 0 k).fset F.PAN_CMD_STAT_OPCODE n 0 (cOp c)).fset F.PAN_CMD_STAT_STATUS n 0 st
  let s := if st = 0 then s
    else (s.fset F.PAN_CMD_STAT_REFUSED n 0 1).post (Src.pan n) 0x0A00 [.u 1 (cOp c), .u 1 k, .u 1 st]
  s.cmdToken (Src.pan n) c st

/-! ### Pictures -/

/-- The configuration that applies from picture c, as the MODIFY commands accepted so far have it (R184). -/
def Pgm.cfgAt (p : Pgm) (c : Nat) : PgmCfg :=
  p.mods.foldl (fun cfg m => if m.start ≤ c then m.cfg else cfg) p.cfg

/-- Whether a change of configuration makes its picture a random-access picture (R184, R213). -/
def PgmCfg.needsRap (a b : PgmCfg) : Bool :=
  !(a.width == b.width && a.height == b.height && a.frNum == b.frNum && a.frDen == b.frDen && a.profile == b.profile &&
    a.bits10 == b.bits10 && a.c422 == b.c422 && a.nref == b.nref && a.stream == b.stream && a.hdr == b.hdr)

/-- A programme's charges when a MODIFY takes effect: those of its descriptor, with the larger of the changes still to
come pending (R29). -/
def State.modCharge (s : State) (k : Nat) (m : ModCmd) (rest : List ModCmd) : State :=
  let nxt := match rest with
    | [] => none
    | x :: t => some (t.foldl (fun a (y : ModCmd) => Charge.join a y.charge) x.charge)
  ({ s with ledger := { s.ledger with
      holdings := Tab.set s.ledger.holdings (.pgm k) { cur := m.charge, next := nxt }
      pgms := Tab.set s.ledger.pgms k {
        classA := !m.cfg.classB, floor52 := m.floor52, next52 := (rest.map (fun (x : ModCmd) => x.floor52)).foldl max 0 } } }).balance

/-- A MODIFY takes effect at the picture that opens: `rest` are those still to come (R184). -/
def State.applyMod (s : State) (k : Nat) (m : ModCmd) (rest : List ModCmd) : State :=
  let p := s.pgm k
  let cfg := { m.cfg with n0 := p.nextRow, nAdd := 0 }
  let s := s.setPgm k { p with cfg := cfg, mods := rest }
  ((s.modCharge k m rest).panShowCfg k cfg).panFinish (k / 4) m.cmd 0

/-- The MODIFY commands named for picture c or an earlier one take effect, in the order of their acceptance. -/
def State.applyMods (k c : Nat) : List ModCmd → State → State
  | [], s => s
  | m :: t, s =>
    if m.start ≤ c then State.applyMods k c t (s.applyMod k m ((s.pgm k).mods.erase m)) else State.applyMods k c t s

/-- The RATE commands of a picture take effect (R188, R193). -/
def State.applyRates (k : Nat) : List RateCmd → State → State
  | [], s => s
  | r :: t, s =>
    let p := s.pgm k
    let s := s.setPgm k { p with cfg := { p.cfg with blk := r.blk, roi := r.roi, n0 := p.nextRow, nAdd := 0 } }
    State.applyRates k t (s.panFinish (k / 4) r.cmd 0)

/-- The first picture whose configuration is not fixed yet. -/
def Pgm.unopened (p : Pgm) : Option PicRec := p.pics.find? (fun x => x.open_.isNone)

/-- The configuration of the latest picture: the one in force once it is open. -/
def Pgm.lastCfg (p : Pgm) : PgmCfg := if p.unopened.isSome then p.cfgAt (p.nextPic - 1) else p.cfg

/-- T as the next picture is expected to have it: a frame period of the picture before after that picture's (R186). -/
def Pgm.expected (p : Pgm) : Option Frac := p.lastT.map (fun t => t.add p.lastCfg.frame)

/-- Whether a picture is the sync picture of a state copy: its T lies within a quarter frame period (R425). -/
def Pgm.isSync (p : Pgm) (x : PicRec) : Bool :=
  match p.syncT with
  | some t => !p.cfg.frame.lt ((x.t.dist t).times 4)
  | none => false

/-- The programme with picture c changed. -/
def Pgm.mapPic (p : Pgm) (c : Nat) (f : PicRec → PicRec) : Pgm :=
  { p with pics := p.pics.map (fun x => if x.c = c then f x else x) }

/-- The programme with an open picture c changed. -/
def Pgm.mapOpen (p : Pgm) (c : Nat) (f : PicOpen → PicOpen) : Pgm := p.mapPic c (fun x => { x with open_ := x.open_.map f })

/-- Whether a picture is due to be a random-access picture (R214). -/
def Pgm.rapDue (p : Pgm) (x : PicRec) (named : Bool) : Bool :=
  x.c == 0 || p.cfg.nref == 0 || x.force || named || p.rapNext || p.isSync x ||
    (p.cfg.rai != 0 && decide (p.cfg.rai ≤ x.c - p.lastRap))

/-- The next picture opens: what applies from it takes effect, and its type is fixed (R184, R186, R188, R193, R214). A late
inter picture moves a random-access picture that is due to the next. -/
def State.panOpen (s : State) (k : Nat) : State :=
  match (s.pgm k).unopened with
  | none => s
  | some x =>
    let old := (s.pgm k).cfg
    let s := State.applyMods k x.c (s.pgm k).mods s
    let mid := (s.pgm k).cfg
    let s := State.applyRates k x.rates s
    let p := s.pgm k
    let due := p.rapDue x (old.needsRap mid)
    let moved := x.cmd.isNone && p.cfg.nref != 0
    let rap := due && !moved
    let lastRap := if rap then x.c else p.lastRap
    let sync := p.isSync x
    let o : PicOpen := {
      j0 := p.nextRow, cfg := p.cfg, rap := rap, m := x.c - lastRap, sync := sync
      resized := old.width != p.cfg.width || old.height != p.cfg.height
      newBlk := p.cfg.n0 == p.nextRow && p.cfg.nAdd == 0 }
    let p := p.mapPic x.c (fun y => { y with open_ := some o })
    s.setPgm k { p with
      inPics := if x.cmd.isSome then p.inPics ++ [(x, o)] else p.inPics
      nextRow := p.nextRow + p.cfg.nrows, lastRap := lastRap, rapNext := due && moved
      syncT := if sync then none else p.syncT
      rollNext := if sync then max p.rollNext p.nextRow else p.rollNext }

/-- The open picture that holds programme row j. -/
def Pgm.picOf (p : Pgm) (j : Nat) : Option (PicRec × PicOpen) :=
  p.pics.findSome? (fun x => match x.open_ with
    | some o => if o.j0 ≤ j ∧ j < o.j0 + o.cfg.nrows then some (x, o) else none
    | none => none)

/-- The picture that holds programme row j, opened if it is the next to open. -/
def State.panReach (s : State) (k j : Nat) : Option (PicRec × PicOpen) × State :=
  match (s.pgm k).picOf j with
  | some x => (some x, s)
  | none => if j = (s.pgm k).nextRow then (((s.panOpen k).pgm k).picOf j, s.panOpen k) else (none, s)

/-- The open picture of a count. -/
def Pgm.openOf (p : Pgm) (c : Nat) : Option PicOpen := (p.pics.find? (fun x => x.c == c)).bind (fun x => x.open_)

/-! ### Input rows (R150, R151, R186) -/

/-- Open pictures until one has rows still to enter the ring: `fuel` bounds the late pictures passed over, which take no
input. -/
def State.panOpenInput (k : Nat) : Nat → State → State
  | 0, s => s
  | fuel + 1, s =>
    if (s.pgm k).inPics.isEmpty ∧ (s.pgm k).unopened.isSome then State.panOpenInput k fuel (s.panOpen k) else s

/-- The row that may enter a programme's input ring next, with its picture and the state in which that is open: its PICTURE
command has been accepted, and the ring has a free row (R150, R151, R186). -/
def State.panNextIn (s : State) (k : Nat) : Option (Nat × PicRec × PicOpen) × State :=
  let s := State.panOpenInput k (s.pgm k).pics.length s
  let p := s.pgm k
  match p.inPics with
  | [] => (none, s)
  | (x, o) :: _ =>
    if p.ring.length < o.cfg.ringRows then (some (max p.inRows o.j0, x, o), s) else (none, s)

/-- The samples of a row as a programme takes them: an 8-bit programme uses bits [9:2] of each (R152). -/
def PgmCfg.samples (c : PgmCfg) (l : List (List (BitVec 10))) : List (List (BitVec 10)) :=
  if c.bits10 then l else l.map (fun line => line.map (fun v => v &&& 0x3FC#10))

/-- The address of the quarter-scale copy of picture c (R157). -/
def PgmCfg.quarterBuf (c : PgmCfg) (pic : Nat) : Nat :=
  c.qsBase + pic % (c.nref + 1) * (c.width / 4 * (c.height / 4) * 2)

/-- IN writes a row's part of the quarter-scale copy as the row arrives (R157). -/
def State.quarterWrite (s : State) (k pic : Nat) (c : PgmCfg) (i : Nat) (luma : List (List (BitVec 10))) : State :=
  (s.writeRange (Src.pan (k / 4)) (c.quarterBuf pic + 16 * i * (c.width / 4) * 2)
    (((quarterRow luma c.width (c.rowLines i)).flatten).flatMap (fun v => leBytes 2 v))).2

/-- A complete row of picture x enters a programme's input ring. One whose row has committed already, in deadline mode, is freed at
once. -/
def State.panRowIn (s : State) (k : Nat) (x : PicRec) (o : PicOpen) (r : InRow) : State :=
  let r : InRow := { r with luma := o.cfg.samples r.luma, chroma := o.cfg.samples r.chroma }
  let s := s.quarterWrite k x.c o.cfg (r.j - o.j0) r.luma
  let p := s.pgm k
  s.setPgm k { p with
    ring := if r.j < p.committed then p.ring else p.ring ++ [r], inRows := r.j + 1
    inPics := if r.j + 1 = o.j0 + o.cfg.nrows then p.inPics.tail else p.inPics }

/-- The samples of a line packed three to a word (R152). -/
def unpackLine (b : List Byte) (n : Nat) : List (BitVec 10) :=
  (List.range n).map (fun x => BitVec.ofNat 10 (leNat ((b.drop (4 * (x / 3))).take 4) / 2 ^ (10 * (x % 3))))

/-- Read lines of n samples at a pitch: the lines, and the CTU columns of samples whose word failed. -/
def State.readLines (s : State) (req a pitch n : Nat) : Nat → (List (List (BitVec 10)) × List Nat) × State
  | 0 => (([], []), s)
  | l + 1 =>
    let bytes := 4 * ceilDiv n 3
    let ((b, bad), s) := s.readOpen req a bytes (wordsOf a bytes) [] []
    let ((ls, cols), s) := State.readLines s req (a + pitch) pitch n l
    ((unpackLine b n :: ls, bad.map (fun i => min (i / 4 * 3) (n - 1) / 64) ++ bad.map (fun i => min (i / 4 * 3 + 2) (n - 1) / 64) ++ cols), s)

/-- Post input-poison for the CTUs of a row (R176). -/
def State.inputPoison (s : State) (k c row : Nat) : List Nat → State
  | [] => s
  | col :: t => State.inputPoison (s.post (Src.pan (k / 4)) 0x0A03 [.u 1 k, .u 4 (c % 2 ^ 32), .u 1 col, .u 1 row]) k c row t

/-- Read row j of a memory-mode picture into the ring (R151, R152, R176). -/
def State.panReadRow (s : State) (k j : Nat) (x : PicRec) (o : PicOpen) : State :=
  let c := o.cfg
  let req := Src.pan (k / 4)
  let i := j - o.j0
  let base := c.inBase + x.idx * c.inStride
  let lines := c.rowLines i
  let cl := if c.c422 then lines else lines / 2
  let cfirst := if c.c422 then 64 * i else 32 * i
  let ((luma, b0), s) := s.readLines req (base + 64 * i * c.inPitch) c.inPitch c.width lines
  let ((chroma, b1), s) := s.readLines req (base + (c.height + cfirst) * c.inPitch) c.inPitch c.width cl
  let bad := (b0 ++ b1).eraseDups.mergeSort (fun a b => a ≤ b)
  (s.inputPoison k x.c i bad).panRowIn k x o ⟨j, luma, chroma, bad⟩

/-! ### Planning (R148, R163, R201) -/

/-- The number of rows that the basis of row j covers: the basis row is the one before that number (R163). -/
def Pgm.basis (p : Pgm) (o : PicOpen) (j : Nat) : Nat := max (j - o.cfg.spec) p.rollNext

/-- The rate state after nb rows: as saved, or, for rows that have left EC and not committed, as their commits will leave
it (R148); an installed state record stands at its row (R426). -/
def Pgm.stateAt (p : Pgm) (nb : Nat) : RateSt :=
  let go (from_ : Nat) (base : RateSt) : RateSt :=
    ((p.rows.drop (from_ - p.committed)).take (nb - from_)).foldl (fun st r => match p.openOf r.plan.pic with
      | some o => (if r.i = 0 then st.enter o else st).commit o r
      | none => st) base
  match p.sync with
  | some x => if x.j0 ≤ nb then go x.j0 x.st else go p.committed (Tab.getD p.states (min nb p.committed) {})
  | none => go p.committed (Tab.getD p.states (min nb p.committed) {})

/-- Whether the bit count of a basis row is known (R148). -/
def Pgm.known (p : Pgm) (nb : Nat) : Bool :=
  decide (nb ≤ p.committed) || (p.rows.take (nb - p.committed)).all (fun r => r.stage == .encoded) &&
    decide (nb - p.committed ≤ p.rows.length)

/-- The plan of programme row m, committed or not. -/
def Pgm.planOf (p : Pgm) (m : Nat) : Option RowPlan :=
  if m < p.committed then Tab.find? m p.plans else (p.rows[m - p.committed]?).map (fun r => r.plan)

/-- The rate state projected from nb rows up to row j of a picture: the bucket through the plans of the rows between, and
what changes at the picture's first row (R193, R201). -/
def Pgm.projected (p : Pgm) (o : PicOpen) (nb j : Nat) : RateSt :=
  let st := (List.range (j - nb)).foldl (fun st d =>
    let st := if nb + d = o.j0 then st.enter o else st
    match p.planOf (nb + d) with
    | some pl => { st with v := bucket st.v pl.p pl.d }
    | none => st) (p.stateAt nb)
  if j = o.j0 then st.enter o else st

/-- Whether a row between the basis and row j of the same picture was planned cap-floor. -/
def Pgm.floorBetween (p : Pgm) (c nb j : Nat) : Bool :=
  (List.range (j - nb)).any (fun d => match p.planOf (nb + d) with
    | some pl => pl.pic == c && pl.floor
    | none => false)

/-- class_floor of a picture as its row 0 is planned: whether a precedence step holds the programme in cap-floor mode
(R208). -/
def State.classFloor (s : State) (k : Nat) : Bool := s.ledger.reduced.contains k

/-- Row 0 of a picture is planned for the first time: `CAPFLOOR` follows a precedence step or its reversal, with its event,
and the ledger sees the boundary pass (R37, R208). -/
def State.floorBoundary (s : State) (k c : Nat) : State :=
  let p := s.pgm k
  let cf := s.classFloor k
  let s := s.setPgm k { p.mapOpen c (fun o => { o with classFloor := some cf }) with capFloor := cf }
  let s := if cf = p.capFloor then s
    else (s.fset F.PAN_PGM_STATE_CAPFLOOR (64 + k) 0 (b2n cf)).post (Src.pan (k / 4)) (if cf then 0x0A12 else 0x0A13)
      [.u 1 k, .u 4 c]
  if cf then s else s.boundaryPassed k

/-- The next row to plan. -/
def Pgm.nextPlan (p : Pgm) : Nat := p.committed + p.rows.length

/-- Whether row j of an open picture is eligible to be planned (R148, R426): its picture's command came and its input is in
the ring, the bit count of its basis row is known, the row before it has entered IN, and no state record is awaited. The rows of a
skipped picture are only coded in deadline mode (R209). -/
def Pgm.eligible (p : Pgm) (j : Nat) (x : PicRec) (o : PicOpen) : Bool :=
  x.cmd.isSome && !o.skip && decide (j < p.inRows) && p.known (p.basis o j) &&
    p.rows.all (fun r => r.stage != .planned) && !(o.sync && j == o.j0 && p.syncHold)

/-- Plan row j (R201). -/
def State.panPlan (s : State) (k j : Nat) (x : PicRec) (o : PicOpen) : State :=
  let i := j - o.j0
  let s := if i = 0 ∧ o.classFloor.isNone then s.floorBoundary k x.c else s
  let p := s.pgm k
  let cf := match p.openOf x.c with
    | some o => o.classFloor.getD p.capFloor
    | none => p.capFloor
  let nb := p.basis o j
  let base := p.stateAt nb
  let st := p.projected o nb j
  let qprev := match p.planOf (j - 1) with
    | some pl => pl.q
    | none => 0
  let plan := planRow st o x.c i j st.v qprev (cf || base.picFloor || p.floorBetween x.c nb j) cf
  s.setPgm k { p with rows := p.rows ++ [{ i := i, plan := plan }] }

/-! ### Reference fetches (R157 to R161, R175) -/

/-- The references of a picture (R217): none for a random-access picture. -/
def PicOpen.refs (o : PicOpen) (floor : Bool) : Nat :=
  if o.rap then 0 else if floor then min 1 o.m else min o.cfg.nref o.m

/-- The address of reference r's buffer for picture c (R227). -/
def PgmCfg.refBuf (c : PgmCfg) (pic r : Nat) : Nat :=
  c.reconBase + (pic - 1 - r) % (c.nref + 1) * crustSize c.width c.height c.c422

/-- The CTUs of a picture whose fine window holds an area (R175). -/
def PgmCfg.windowCtus (c : PgmCfg) (X Y : Nat) : Nat :=
  (min (X + 4) (c.ctus - 1) + 1 - (X - 4)) * (min (Y + 1) (c.nrows - 1) + 1 - (Y - 1))

/-- An area of a reference becomes unavailable for the rest of the picture (R175). -/
def State.unavailable (s : State) (k c r X Y : Nat) : State :=
  match (s.pgm k).openOf c with
  | none => s
  | some o =>
    if o.unavail.contains (r, X, Y) then s
    else
      let s := s.setPgm k ((s.pgm k).mapOpen c (fun o => { o with unavail := (r, X, Y) :: o.unavail }))
      s.post (Src.pan (k / 4)) 0x0A02
        [.u 1 k, .u 4 (c % 2 ^ 32), .u 1 r, .u 1 X, .u 1 Y, .u 1 (o.cfg.windowCtus X Y)]

/-- Fetch areas of references: (reference, column, row) each, the luma lines lo to hi. -/
def State.fetchAreas (k c : Nat) (cfg : PgmCfg) (lo hi : Nat) : List (Nat × Nat × Nat) → State → List RefArea × State
  | [], s => ([], s)
  | (r, X, Y) :: t, s =>
    let ((a, bad, n), s) := s.takeArea (Src.pan (k / 4)) (cfg.refBuf c r) cfg.width cfg.height cfg.c422 r X Y lo hi
    let s := s.pmuPan k 0x00D n
    let (l, s) := State.fetchAreas k c cfg lo hi t (if bad then s.unavailable k c r X Y else s)
    (a :: l, s)

/-- The areas of one fine-window column for picture row i: rows i − 1 to i + 1 inside the picture, each reference
(R159). -/
def columnAreas (refs nrows i col : Nat) : List (Nat × Nat × Nat) :=
  (List.range refs).flatMap (fun r => ((List.range 3).filter (fun d => decide (1 ≤ i + d ∧ i + d - 1 < nrows))).map
    (fun d => (r, col, i + d - 1)))

/-- The areas that a far patch of 104 × 104 luma samples at (x, y) covers inside the picture (R160). -/
def patchAreas (c : PgmCfg) (r : Nat) (x y : Int) : List (Nat × Nat × Nat) :=
  let x0 := inside c.width x / 64
  let y0 := inside c.height y / 64
  let x1 := inside c.width (x + 103) / 64
  let y1 := inside c.height (y + 103) / 64
  (List.range (y1 + 1 - y0)).flatMap (fun b => (List.range (x1 + 1 - x0)).map (fun a => (r, x0 + a, y0 + b)))

/-- Read words of reference 0's quarter-scale copy: each that fails is kept as a gap and makes the CTU areas of its samples
unavailable (R158, R175). -/
def State.coarseWords (k c base qw : Nat) : List Nat → State → List (Nat × Option W256) × State
  | [], s => ([], s)
  | w :: t, s =>
    let (r, s) := s.memRead (Src.pan (k / 4)) w
    let s := s.pmuPan k 0x00D 32
    match r with
    | .ok v =>
      let (l, s) := State.coarseWords k c base qw t s
      ((w, some v) :: l, s)
    | _ =>
      let areas := ((List.range 16).map (fun d =>
        let smp := (w - base) / 2 + d
        (smp % qw / 16, smp / qw / 16))).eraseDups
      let (l, s) := State.coarseWords k c base qw t (areas.foldl (fun s a => s.unavailable k c 0 a.1 a.2) s)
      ((w, none) :: l, s)

/-- Load the coarse window of picture row i from reference 0: 128 quarter-scale lines either side (R158). -/
def State.coarseLoad (s : State) (k c : Nat) (cfg : PgmCfg) (i : Nat) : List (Nat × Option W256) × State :=
  let qw := cfg.width / 4
  let base := cfg.quarterBuf (c - 1)
  let l0 := 16 * i - 128
  let l1 := min (16 * i + 144) (cfg.height / 4)
  State.coarseWords k c base qw (wordsOf (base + l0 * qw * 2) ((l1 - l0) * qw * 2)) s

/-! ### Row start (R148, R157, R196) -/

/-- The first planned row of a programme that may enter IN, with its commit deadline: the rows before it have. -/
def Pgm.toStart (p : Pgm) : Option (Nat × RowRec × PicRec × PicOpen) :=
  match p.rows.findIdx? (fun r => r.stage == .planned) with
  | none => none
  | some d => match p.rows[d]? with
    | none => none
    | some r => (p.picOf (p.committed + d)).map (fun x => (p.committed + d, r, x.1, x.2))

/-- The programme of a pan whose row starts: the earliest commit deadline, the lowest programme on a tie. -/
def State.panPick (s : State) (n : Nat) : Option Nat :=
  ((List.range 4).foldl (fun (best : Option (Nat × Nat)) x =>
    match (s.pgm (4 * n + x)).toStart with
    | some (_, r, pic, o) =>
      let d := o.cfg.deadline pic.t r.i
      match best with
      | some (k, b) => if d < b then some (4 * n + x, d) else some (k, b)
      | none => some (4 * n + x, d)
    | none => best) none).map (fun b => b.1)

/-- The programme with its uncommitted row of index d changed. -/
def Pgm.mapRow (p : Pgm) (d : Nat) (f : RowRec → RowRec) : Pgm :=
  { p with rows := p.rows.modify d f }

/-- The ring row that holds the input of programme row j. -/
def Pgm.inputOf (p : Pgm) (j : Nat) : Option InRow := p.ring.find? (fun r => r.j == j)

/-- The luma samples of programme row j, as far as its input is in the ring. -/
def Pgm.lumaOf (p : Pgm) (j : Nat) : List (List (BitVec 10)) := ((p.inputOf j).map (fun y => y.luma)).getD []

/-- Row j enters IN: lg of its CTUs, the coarse window. -/
def State.panStart (s : State) (k j : Nat) (r : RowRec) (x : PicRec) (o : PicOpen) : State :=
  let p := s.pgm k
  let c := o.cfg
  let lgs := rowLgs (quarterRow (p.lumaOf j) c.width (c.rowLines r.i)) c.ctus
  let s := s.setPgm k (p.mapRow (j - p.committed) (fun r => { r with stage := .running, lgs := lgs }))
  let s := s.pmuPan k 0x002 c.ctus
  if o.refs r.plan.floor = 0 ∨ r.plan.floor then s
  else
    let (l, s) := s.coarseLoad k x.c c r.i
    s.setPgm k ((s.pgm k).mapRow (j - p.committed) (fun r => { r with coarse := l }))

/-! ### Coding (R206, R207) -/

/-- The row that EC codes: the first that has not left EC, when it has entered IN. -/
def Pgm.inEc (p : Pgm) : Option (Nat × RowRec) :=
  match p.rows.findIdx? (fun r => r.stage != .encoded) with
  | none => none
  | some d => match p.rows[d]? with
    | some r => if r.stage = .running then some (d, r) else none
    | none => none

/-- The bucket left by the current encodings of the rows before the uncommitted row of index d, as row d finds it
(R193, R206): from their actual bytes, so that the first row of a pair counts at once (log entry 107). -/
def Pgm.bucketBefore (p : Pgm) (d : Nat) (o : PicOpen) (i : Nat) : Nat :=
  let st := (p.rows.take d).foldl (fun st r => match p.openOf r.plan.pic with
    | some o => (if r.i = 0 then RateSt.enter st o else st).fill o.cfg r
    | none => st) (p.stateAt p.committed)
  let st := if i = 0 then st.enter o else st
  st.v + st.held

/-- The bytes emitted up to and including CTU c fail the guard (R206). -/
def guardFails (emitted n c cap v d : Nat) : Bool := decide (cap + d < v + (emitted + 4 + (16 * (n - (c + 1)) + 64)))

/-- A guard trip at CTU c: the row re-enters IN with minimum CTUs from there on, every later row is dropped (R207, R518). -/
def Pgm.trip (p : Pgm) (d c : Nat) (r : RowRec) : Pgm :=
  { p with rows := p.rows.take d ++ [{ r with
      stage := .planned, cf := some c, firstHead := r.head, first := r.ctus.take c, firstInfo := r.info.take c, head := [], ctus := []
      tail := [], info := [], fetched := 0, areas := [], patches := [], coarse := [], far := (0, 0), qps := [] }] }

/-- Whether a CTU of a row is coded intra because its fine window holds an unavailable area (R175). -/
def PicOpen.forcedIntra (o : PicOpen) (i c : Nat) : Bool :=
  o.unavail.any (fun a => decide (a.2.1 ≤ c + 4 ∧ c ≤ a.2.1 + 4 ∧ a.2.2 ≤ i + 1 ∧ i ≤ a.2.2 + 1))

/-- Whether a CTU is a minimum CTU: past c_f of a guard trip, or with poisoned input (R176, R207). -/
def RowRec.minCtu (r : RowRec) (bad : List Nat) (c : Nat) : Bool :=
  bad.contains c || (match r.cf with
    | some cf => decide (cf ≤ c)
    | none => false)

/-- A programme enters STOPPING when every row up to the last of its STOP has left EC (R185). -/
def State.panStopping (s : State) (k : Nat) : State :=
  let p := s.pgm k
  match p.stopAt with
  | none => s
  | some c =>
    if p.st = .active ∧ p.rows.any (fun r => r.plan.pic == c && r.stage == .encoded && (match p.openOf c with
        | some o => r.i + 1 == o.cfg.nrows
        | none => false)) then (s.setPgm k { p with st := .stopping }).panShow k
    else s

/-! ### Stop (R185) -/

/-- Complete commands with a status, in order. -/
def State.panFinishAll (n st : Nat) : List W256 → State → State
  | [], s => s
  | c :: t, s => State.panFinishAll n st t (s.panFinish n c st)

/-- A programme enters IDLE after its last picture: charges released, programme-stopped posted; commands that wait for a
later picture complete with status 4, the STOP with status 0. -/
def State.panIdle (s : State) (k last : Nat) : State :=
  let p := s.pgm k
  let waiting := p.pics.filterMap (fun x => x.cmd) ++ (p.pics.flatMap (fun x => if x.open_.isSome then [] else x.rates.map (fun r => r.cmd))) ++
    p.mods.map (fun m => m.cmd) ++ p.rates.map (fun r => r.cmd)
  let s := (s.setPgm k {}).panShow k
  let s := (s.releaseCharge (.pgm k)).post (Src.pan (k / 4)) 0x0A06 [.u 1 k, .u 4 last]
  let s := State.panFinishAll (k / 4) 4 waiting s
  match p.stopCmd with
  | some c => s.panFinish (k / 4) c 0
  | none => s

/-! ### Commit (table PAN-6) -/

/-- A field of a programme's registers counts up and stops at 0xFFFF. -/
def State.countTo (s : State) (f : Fld) (inst : Nat) : State :=
  s.fset f inst 0 (min (s.fget f inst 0 + 1) 0xFFFF)

/-- The row record of table PAN-8. -/
def rowRecord (k : Nat) (x : PicRec) (o : PicOpen) (r : RowRec) (rolled : Bool) (off len : Nat) : W256 :=
  let c := o.cfg
  let flags := b2n (r.i == 0) + 2 * b2n (r.i + 1 == c.nrows) + 4 * b2n o.rap + 8 * b2n r.deadline + 16 * b2n r.forced +
    32 * b2n r.plan.floor + 64 * b2n rolled + 128 * b2n (c.pairSecond r.i)
  let rel := c.release x.t r.i
  BitVec.ofNat 256 (x.c % 2 ^ 32 + r.i * 2 ^ 32 + flags * 2 ^ 48 + k * 2 ^ 56 + off * 2 ^ 64 + len * 2 ^ 96 +
    rel / 1000000000 % 2 ^ 48 * 2 ^ 128 + rel % 1000000000 * 2 ^ 176 +
    x.t.num * 90000 / (x.t.den * 1000000000) % 2 ^ 32 * 2 ^ 208 + b2n r.cf.isSome * 2 ^ 240)

/-- The value of a row-committed token (R225). -/
def rowTokenValue (k records : Nat) (r : RowRec) (nrows : Nat) (pairedRec : Bool) : W64 :=
  BitVec.ofNat 64 (records % 2 ^ 32 + r.i * 2 ^ 32 + k * 2 ^ 48 + b2n (r.i + 1 == nrows) * 2 ^ 54 + b2n pairedRec * 2 ^ 55)

/-- Write bytes into a ring, wrapping at its end (R173). -/
def State.ringWrite (s : State) (req base size off : Nat) (b : List Byte) : State :=
  let s := (s.writeRange req (base + off) (b.take (size - off))).2
  (s.writeRange req base (b.drop (size - off))).2

/-- Whether the rings have room for a commit (R17, R174). -/
def State.panRoom (s : State) (k : Nat) (c : PgmCfg) (b : Nat) : Bool :=
  let inst := 64 + k
  let size := 2 ^ c.bsLog2
  decide (ringUsed (s.fget F.PAN_PGM_RRING_PROD inst 0) (s.fget F.PAN_PGM_RRING_CONS inst 0) < ringCap c.rowLog2) &&
    decide (((s.pgm k).wpos + size - s.fget F.PAN_PGM_BSCONS_OFFSET inst 0 % size) % size + b < size)

/-- The registers of a programme after a commit (tables PAN-19 to PAN-22, RAT-6 to RAT-8). -/
def State.panShowRow (s : State) (k : Nat) (r : RowRec) (credit v : Nat) : State :=
  let inst := 64 + k
  let s := (s.fset F.PAN_PGM_ROW_CREDIT inst 0 credit).fset F.PAN_PGM_ROW_ROW inst 0 r.i
  let s := (s.fset F.PAN_PGM_QP_MINCTU inst 0 (b2n r.minCtus)).fset F.PAN_PGM_QP_FLOOR inst 0 (b2n r.plan.floor)
  let s := (s.fset F.PAN_PGM_QP_QB inst 0 r.plan.qb).fset F.PAN_PGM_QP_QROW inst 0 r.plan.q
  let s := s.fset F.PAN_PGM_BUCKET_FILL inst 0 v
  let s := if r.deadline then s.countTo F.PAN_PGM_ROLL_DEADLINE inst else s
  let s := if r.cf.isSome then s.countTo F.PAN_PGM_LADDER_GUARD inst else s
  if r.plan.floor then s.countTo F.PAN_PGM_LADDER_FLOORROWS inst else s

/-- The events of a commit (R210). -/
def State.panCommitEvents (s : State) (k : Nat) (x : PicRec) (o : PicOpen) (r : RowRec) : State :=
  let s := if r.plan.floor ∧ ¬ r.plan.classFloor ∧ ¬ o.floorPosted then
      (s.setPgm k ((s.pgm k).mapOpen x.c (fun o => { o with floorPosted := true }))).post (Src.pan (k / 4)) 0x0A10
        [.u 1 k, .u 4 (x.c % 2 ^ 32), .u 2 r.i]
    else s
  match r.cf with
  | some cf => s.post (Src.pan (k / 4)) 0x0A11 [.u 1 k, .u 4 (x.c % 2 ^ 32), .u 2 r.i, .u 1 cf]
  | none => s

/-- The rows and the rate state after row j of a programme commits: steps 1 to 3 of table PAN-6, the credit, the bucket, and
whether the row rolled back those after it. -/
def Pgm.commitRow (p : Pgm) (j : Nat) (r : RowRec) (o : PicOpen) : Pgm × Bool :=
  let k := o.cfg.spec
  let credit := min 48 (p.credit + 3)
  let roll := k ≠ 0 ∧ o.cfg.testFails r ∧ 16 * k ≤ credit
  let st := Tab.getD p.states p.committed {}
  let st := (if r.i = 0 then st.enter o else st).commit o r
  let p := p.mapOpen r.plan.pic (fun o => { o with ctxs := o.ctxs ++ [r.ctx] })
  let p := { p with
    committed := j + 1, rows := p.rows.tail, credit := credit, rolled := p.rolled.filter (· ≠ j)
    states := ((j + 1, st) :: p.states).take 5, plans := ((j, r.plan) :: p.plans).take 8
    ring := p.ring.filter (fun y => y.j != j) }
  if roll then
    ({ p with rows := [], credit := credit - 16 * k, rollNext := j + 1
              rolled := p.rolled ++ ((List.range k).map (fun d => j + 1 + d)).filter (fun m => !p.rolled.contains m) }, true)
  else (p, false)

/-- Steps 4 and 5 of table PAN-6: the row's bytes, its record and its token (R173, R224, R225). The bytes stand in the ring already
unless it had no room for them before (R166); the second row of a pair completes the size of the tile group. -/
def State.panHandOff (s : State) (k : Nat) (x : PicRec) (o : PicOpen) (r : RowRec) (rolled : Bool) : State :=
  let p := s.pgm k
  let c := o.cfg
  let req := Src.pan (k / 4)
  let size := 2 ^ c.bsLog2
  let (off, all) := match p.pair with
    | some (o, b) => if c.pairSecond r.i then (o, sizeTileGroup (b ++ r.bytes)) else (p.wpos, r.bytes)
    | none => (p.wpos, r.bytes)
  let s := if r.placed ∧ ¬ c.pairSecond r.i then s else s.ringWrite req c.bsBase size off all
  let held := c.pairFirst r.i
  let bytes := if held then [] else all
  let (_, s) := s.memWrite req (c.rowBase + 32 * (p.records % 2 ^ c.rowLog2)) (rowRecord k x o r rolled off bytes.length)
  let s := s.setPgm k { s.pgm k with
    wpos := (p.wpos + r.size) % size, records := p.records + 1, pair := if held then some (p.wpos, r.bytes) else none }
  let s := s.fset F.PAN_PGM_RRING_PROD (64 + k) 0 ((s.fget F.PAN_PGM_RRING_PROD (64 + k) 0 + 1) % 65536)
  let s := s.chkBlock 2 k ⟨BitVec.ofNat 64 (p.records % 2 ^ 32), bytes, false⟩
  let s := (s.pmuPan k 0x00C bytes.length).twinCommit k p.records bytes
  s.sendToken req c.rowToken (rowTokenValue k p.records r c.nrows (c.pairSecond r.i))

/-- The last row of a picture has committed: its PICTURE command completes, a STOP that names it takes effect. -/
def State.panPicDone (s : State) (k : Nat) (x : PicRec) : State :=
  let p := s.pgm k
  let s := s.setPgm k { p with pics := p.pics.filter (fun y => y.c != x.c), done := x.c + 1 }
  let s := s.setReg .PAN_PGM_PIC (64 + k) 0 (BitVec.ofNat 32 (x.c + 1))
  let s := match x.cmd with
    | some c => s.panFinish (k / 4) c 0
    | none => s
  match p.stopAt with
  | some c => if c ≤ x.c then s.panIdle k x.c else s
  | none => s

/-- Row j commits. -/
def State.panCommit (s : State) (k j : Nat) (r : RowRec) (x : PicRec) (o : PicOpen) : State :=
  let rolled := (s.pgm k).rolled.contains j
  let dropped := ((s.pgm k).rows.tail.filter (fun r => r.stage != .planned)).length
  let (p, roll) := (s.pgm k).commitRow j r o
  let s := (s.setPgm k p).pmuPan k 0x003 1
  let s := if r.deadline then s.pmuPan k 0x007 1 else s
  let s := if r.plan.floor then s.pmuPan k 0x008 1 else s
  let s := if roll then ((s.countTo F.PAN_PGM_ROLL_ROLLS (64 + k)).pmuPan k 0x004 1).pmuPan k 0x005 dropped else s
  let s := s.panShowRow k r p.credit (Tab.getD p.states (j + 1) {}).v
  let s := (s.panHandOff k x o r rolled).panCommitEvents k x o r
  if r.i + 1 = o.cfg.nrows then s.panPicDone k x else s

end Sys2Proof.Machine
end

