-- ==== Sys2Proof/Machine/CmpOps.lean ====
section
/-! DEFINITION. What a compositor does (chapter 8): descriptors and their rules, scaling, colour, blending, signatures. -/

namespace Sys2Proof.Machine

/-! ### Output descriptor (table CMP-6) -/

def oType (d : BitVec 1024) : Nat := bitsOf d 1 0
def oC422 (d : BitVec 1024) : Bool := bitOf d 2
def oClass (d : BitVec 1024) : Bool := bitOf d 3
def oPgm (d : BitVec 1024) : Nat := bitsOf d 9 4
def oHead (d : BitVec 1024) : Nat := bitsOf d 11 10
def oWidth (d : BitVec 1024) : Nat := bitsOf d 47 32
def oHeight (d : BitVec 1024) : Nat := bitsOf d 63 48
def oFrNum (d : BitVec 1024) : Nat := bitsOf d 95 64
def oFrDen (d : BitVec 1024) : Nat := bitsOf d 127 96
/-- `BG0` to `BG2`. -/
def oBg (d : BitVec 1024) (c : Nat) : Nat := bitsOf d (143 + 16 * c) (128 + 16 * c)
def oBudget (d : BitVec 1024) : Nat := bitsOf d 223 192
def oBtok (d : BitVec 1024) : Bool := bitOf d 224
/-- `OM0` to `OM8`. -/
def oMat (d : BitVec 1024) (i : Nat) : Int := sextNat 16 (bitsOf d (271 + 16 * i) (256 + 16 * i))
/-- `OO0` to `OO2`. -/
def oOff (d : BitVec 1024) (i : Nat) : Int := sextNat 32 (bitsOf d (447 + 32 * i) (416 + 32 * i))
def oBase (d : BitVec 1024) : Nat := bitsOf d 559 512
def oPitch (d : BitVec 1024) : Nat := bitsOf d 607 576
def oStride (d : BitVec 1024) : Nat := bitsOf d 639 608
def oCount (d : BitVec 1024) : Nat := bitsOf d 647 640
def oSigBase (d : BitVec 1024) : Nat := bitsOf d 751 704
def oToken (d : BitVec 1024) : W64 := d.extractLsb' 768 64

/-- The bands of an output (R257). -/
def oBands (d : BitVec 1024) : Nat := ceilDiv (oHeight d) 64

/-- The rules of table CMP-6. -/
def outOk (d : BitVec 1024) : Bool :=
  let t := oType d
  (t != 3 || !oC422 d) && (t == 2 || !oClass d) && (t == 1 || oPgm d == 0) && (t == 3 || oHead d == 0) &&
  bitsOf d 31 12 == 0 && oWidth d % 8 == 0 && oHeight d % 8 == 0 &&
  decide (64 ≤ oWidth d ∧ oWidth d ≤ 8192 ∧ 64 ≤ oHeight d ∧ oHeight d ≤ 4352) && oFrNum d != 0 && oFrDen d != 0 &&
  bitsOf d 191 176 == 0 && bitsOf d 255 225 == 0 && bitsOf d 415 400 == 0 &&
  (t != 2 || (oBase d % 4096 == 0 && oPitch d % 32 == 0 && oStride d % 4096 == 0 &&
    decide (4 * ceilDiv (oWidth d) 3 ≤ oPitch d ∧ 2 * oPitch d * oHeight d ≤ oStride d ∧ 1 ≤ oCount d ∧ oCount d ≤ 64))) &&
  bitsOf d 575 560 == 0 && bitsOf d 671 648 == 0 && oSigBase d % 32 == 0 && bitsOf d 767 752 == 0 &&
  tokenDestOk (oToken d) && bitsOf d 1023 832 == 0

/-- The charges of an output (R277). -/
def outCharge (n : Nat) (d : BitVec 1024) : Charge :=
  if oType d = 0 then []
  else
    let extra := if oType d = 2 then
      ceilDiv (oFrNum d * oPitch d * oHeight d * (if oC422 d then 4 else 3)) (oFrDen d * 2 * 1000000) else 0
    [(24 + n, ceilDiv (oWidth d * oHeight d * oFrNum d) (oFrDen d * 1000)), (52, oBudget d + extra), (53, oBudget d + extra)]

/-! ### Layer descriptor (table CMP-7) -/

def lEn (d : BitVec 512) : Bool := bitOf d 0
def lFormat (d : BitVec 512) : Nat := bitsOf d 3 1
def lPremul (d : BitVec 512) : Bool := bitOf d 4
def lExpect (d : BitVec 512) : Bool := bitOf d 5
def lSlot (d : BitVec 512) : Nat := bitsOf d 9 8
def lMat (d : BitVec 512) : Bool := bitOf d 10
def lPre (d : BitVec 512) : Bool := bitOf d 11
def lLut (d : BitVec 512) : Bool := bitOf d 12
def lPost (d : BitVec 512) : Bool := bitOf d 13
/-- Taps of a code. -/
def tapsOf (v : Nat) : Nat := if v = 0 then 1 else 2 * v
def lTh (d : BitVec 512) : Nat := bitsOf d 18 16
def lTv (d : BitVec 512) : Nat := bitsOf d 22 20
def lAlpha (d : BitVec 512) : Nat := bitsOf d 47 32
def lSrcX (d : BitVec 512) : Nat := bitsOf d 79 64
def lSrcY (d : BitVec 512) : Nat := bitsOf d 95 80
def lSrcW (d : BitVec 512) : Nat := bitsOf d 111 96
def lSrcH (d : BitVec 512) : Nat := bitsOf d 127 112
def lDstX (d : BitVec 512) : Nat := bitsOf d 143 128
def lDstY (d : BitVec 512) : Nat := bitsOf d 159 144
def lDstW (d : BitVec 512) : Nat := bitsOf d 175 160
def lDstH (d : BitVec 512) : Nat := bitsOf d 191 176
def lPitch (d : BitVec 512) : Nat := bitsOf d 223 192
def lChroma (d : BitVec 512) : Nat := bitsOf d 255 224
def lFc (d : BitVec 512) : Px := ⟨bitsOf d 271 256, bitsOf d 287 272, bitsOf d 303 288, bitsOf d 319 304⟩

/-- FILL. -/
def lFill (d : BitVec 512) : Bool := lFormat d == 5
/-- Packed formats. -/
def lPacked (d : BitVec 512) : Bool := decide (lFormat d ≤ 1)
/-- Bytes per pixel of a format that is not packed. -/
def lBpp (d : BitVec 512) : Nat := if lFormat d = 4 then 8 else 4

/-- The rules of table CMP-7 that do not depend on the output. -/
def layerOk (d : BitVec 512) : Bool :=
  decide (lFormat d ≤ 5) && (!lFill d || !lExpect d) && bitsOf d 7 6 == 0 && bitsOf d 15 14 == 0 && bitOf d 19 == false &&
  bitsOf d 31 23 == 0 && decide (lTh d ≤ 4 ∧ lTv d ≤ 4 ∧ 8 ≤ lDstW d ∧ 8 ≤ lDstH d) &&
  (lFill d || decide (8 ≤ lSrcW d ∧ 8 ≤ lSrcH d)) && lPitch d % 32 == 0 &&
  (if lPacked d then lChroma d % 32 == 0 else lChroma d == 0) && (lFill d || bitsOf d 319 256 == 0) && bitsOf d 511 320 == 0

/-- The rules of R261 that a COMMIT checks (R254, step 1). -/
def layerFits (d : BitVec 512) (o : BitVec 1024) : Bool :=
  decide (lDstX d + lDstW d ≤ oWidth o ∧ lDstY d + lDstH d ≤ oHeight o ∧ lSrcW d * 65536 / lDstW d ≤ 0x40000) &&
  (!lPacked d || (lSrcX d % 6 == 0 && (lFormat d == 1 || (lSrcY d % 2 == 0 && lSrcH d % 2 == 0)))) &&
  (!lFill d || (bitsOf d 127 64 == 0 && lTh d == 0 && lTv d == 0))

/-- Whether a layer fits the line buffer (R264). -/
def layerLines (d : BitVec 512) : Bool :=
  lFill d || decide (tapsOf (lTv d) + ceilDiv (lSrcH d * 65536 / lDstH d) 65536 ≤ 9 ∧ lSrcW d ≤ 8192)

/-- Whether a layer needs its colour slot. -/
def layerSlot (d : BitVec 512) : Bool := lMat d || lPre d || lLut d || lPost d || lTh d != 0 || lTv d != 0

/-- Twice the bytes that a layer fetches in a frame (R277). -/
def layerFetch2 (d : BitVec 512) : Nat :=
  let lb := if lPacked d then 4 * ceilDiv (lSrcW d) 3 else lSrcW d * lBpp d
  let nb := (lDstY d + lDstH d - 1) / 64 - lDstY d / 64 + 1
  lb * (lSrcH d + 8 * nb) * (if lFormat d = 0 then 3 else if lFormat d = 1 then 4 else 2)

/-! ### Configurations (R253 to R255) -/

/-- A layer of a configuration. -/
def CmpCfg.layer (c : CmpCfg) (l : Nat) : BitVec 512 := Tab.getD c.layers l 0

/-- The enabled layers, bottom first. -/
def CmpCfg.enabled (c : CmpCfg) : List Nat := (List.range 16).filter (fun l => lEn (c.layer l))

/-- A configuration with each item of a staged set in place of its own. -/
def CmpCfg.apply (c : CmpCfg) (st : CmpStage) : CmpCfg :=
  { out := st.out.getD c.out, layers := st.layers.foldr (fun x t => Tab.set t x.1 x.2) c.layers, sig := st.sig.getD c.sig }

/-- The layers' fetch need in MB/s (R277). -/
def CmpCfg.need (c : CmpCfg) : Nat :=
  let sum2 := ((c.enabled.map c.layer).filter (fun d => !lFill d)).foldl (fun a d => a + layerFetch2 d) 0
  ceilDiv (oFrNum c.out * sum2) (oFrDen c.out * 2 * 1000000)

/-- Why a COMMIT is refused before admission, if it is (R254); `loaded` says which colour slots are loaded. -/
def CmpCfg.refusal (c : CmpCfg) (loaded : Nat → Bool) : Option Nat :=
  let ls := c.enabled.map c.layer
  if ls.any (fun d => !layerFits d c.out) then some 2
  else if ls.any (fun d => !layerLines d) then some 12
  else if ls.any (fun d => layerSlot d && !loaded (lSlot d)) then some 15
  else if oBudget c.out < c.need then some 13
  else none

/-- Whether an enabled layer names a colour slot of the output. -/
def CmpCfg.names (c : CmpCfg) (slot : Nat) : Bool := c.enabled.any (fun l => lSlot (c.layer l) == slot)

/-! ### Signature table (table CMP-11) -/

/-- Region r of a table. -/
def sigRegion (t : BitVec 2048) (r : Nat) : BitVec 128 := t.extractLsb' (128 * r) 128
def sX0 (g : BitVec 128) : Nat := bitsOf g 15 0
def sX1 (g : BitVec 128) : Nat := bitsOf g 31 16
def sY0 (g : BitVec 128) : Nat := bitsOf g 47 32
def sY1 (g : BitVec 128) : Nat := bitsOf g 60 48
def sMode (g : BitVec 128) : Nat := bitsOf g 62 61
def sAct (g : BitVec 128) : Bool := bitOf g 63
def sExpect (g : BitVec 128) : BitVec 32 := g.extractLsb' 64 32
def sFill (g : BitVec 128) (c : Nat) : Nat := bitsOf g (105 + 10 * c) (96 + 10 * c)

/-- Whether a region lies in one band of an output of a size (R271). -/
def sigInside (g : BitVec 128) (w h : Nat) : Bool :=
  decide (sX0 g ≤ sX1 g ∧ sX1 g < w ∧ sY0 g ≤ sY1 g ∧ sY1 g < h ∧ sY0 g / 64 = sY1 g / 64)

/-- The rules of R271 and table CMP-11. -/
def sigOk (t : BitVec 2048) (w h : Nat) : Bool :=
  (List.range 16).all (fun r =>
    let g := sigRegion t r
    sigInside g w h && (sMode g == 1 || (!sAct g && sExpect g == 0)) && bitsOf g 127 126 == 0)

/-! ### Colour block (table CMP-10) -/

/-- The size of a colour block. -/
def colourBytes : Nat := 43400

/-- Whether byte i of a block must be 0. -/
def colourZero (i : Nat) : Bool :=
  (decide (0x12 ≤ i ∧ i < 0x14) || decide (0x20 ≤ i ∧ i < 0x100) || decide (0x1C6 ≤ i ∧ i < 0x200) ||
    decide (0x2C6 ≤ i ∧ i < 0x400) || decide (0xC00 ≤ i ∧ i < 0x1000) || decide (0x1000 ≤ i ∧ 6 ≤ i % 8))

/-- Whether a block keeps table CMP-10. -/
def colourOk (b : List Byte) : Bool := (List.range b.length).all (fun i => !colourZero i || b[i]? == some 0)

/-- A 16-bit value of a block. -/
def cb16 (b : List Byte) (o : Nat) : Nat := leNat ((b.drop o).take 2)

/-- A signed 16-bit value of a block. -/
def cbS16 (b : List Byte) (o : Nat) : Int := sextNat 16 (cb16 b o)

/-- Clamp to 16 bits. -/
def clamp16 (v : Int) : Nat := (max 0 (min v 65535)).toNat

/-- A 3 × 3 matrix with offsets (R265). -/
def matrix (m off : Nat → Int) (p : Px) : Px :=
  let row (c : Nat) : Nat :=
    clamp16 ((m (3 * c) * p.c0 + m (3 * c + 1) * p.c1 + m (3 * c + 2) * p.c2 + 4096) / 8192 + off c)
  { p with c0 := row 0, c1 := row 1, c2 := row 2 }

/-- A 33-point curve at offset o of a block (R266). -/
def curve (b : List Byte) (o x : Nat) : Nat :=
  let k := x / 2048
  let y0 : Int := cb16 b (o + 2 * k)
  let y1 : Int := cb16 b (o + 2 * k + 2)
  clamp16 (y0 + ((y1 - y0) * (x % 2048 : Nat) + 1024) / 2048)

/-- The curves of three components, at o. -/
def curves (b : List Byte) (o : Nat) (p : Px) : Px :=
  { p with c0 := curve b o p.c0, c1 := curve b (o + 0x42) p.c1, c2 := curve b (o + 0x84) p.c2 }

/-- The 3D table (R267): the entries on the path from c000 to c111 in the order of the largest fractions (table CMP-9). -/
def lut3 (b : List Byte) (p : Px) : Px :=
  let (ir, ig, ib) := (p.c0 / 4096, p.c1 / 4096, p.c2 / 4096)
  let (fr, fg, fb) := (p.c0 % 4096, p.c1 % 4096, p.c2 % 4096)
  let t (c dr dg db : Nat) : Int := cb16 b (0x1000 + 8 * (289 * (ir + dr) + 17 * (ig + dg) + (ib + db)) + 2 * c)
  let out (c : Nat) : Nat :=
    let c000 := t c 0 0 0
    let c111 := t c 1 1 1
    let (w1, d1, w2, d2, w3, d3) : Nat × Int × Nat × Int × Nat × Int :=
      if fg ≤ fr ∧ fb ≤ fg then (fr, t c 1 0 0 - c000, fg, t c 1 1 0 - t c 1 0 0, fb, c111 - t c 1 1 0)
      else if fb ≤ fr ∧ fg < fb then (fr, t c 1 0 0 - c000, fb, t c 1 0 1 - t c 1 0 0, fg, c111 - t c 1 0 1)
      else if fr < fb ∧ fg ≤ fr then (fb, t c 0 0 1 - c000, fr, t c 1 0 1 - t c 0 0 1, fg, c111 - t c 1 0 1)
      else if fr < fg ∧ fb ≤ fr then (fg, t c 0 1 0 - c000, fr, t c 1 1 0 - t c 0 1 0, fb, c111 - t c 1 1 0)
      else if fb ≤ fg ∧ fr < fb then (fg, t c 0 1 0 - c000, fb, t c 0 1 1 - t c 0 1 0, fr, c111 - t c 0 1 1)
      else (fb, t c 0 0 1 - c000, fg, t c 0 1 1 - t c 0 0 1, fr, c111 - t c 0 1 1)
    clamp16 (c000 + ((w1 : Int) * d1 + w2 * d2 + w3 * d3 + 2048) / 4096)
  { p with c0 := out 0, c1 := out 1, c2 := out 2 }

/-- MAT, PRE, LUT and POST of a layer (R265). -/
def colourPath (d : BitVec 512) (b : List Byte) (p : Px) : Px :=
  let p := if lMat d then matrix (fun i => cbS16 b (2 * i)) (fun i => sextNat 32 (leNat ((b.drop (0x14 + 4 * i)).take 4))) p else p
  let p := if lPre d then curves b 0x100 p else p
  let p := if lLut d then lut3 b p else p
  if lPost d then curves b 0x200 p else p

/-! ### Scaling (R263) -/

/-- The position of output sample o on an axis from s to d samples, in 1/65,536. -/
def axisPos (s d o : Nat) : Int :=
  let step := s * 65536 / d
  (o * step : Nat) + ((step / 2 : Nat) : Int) - 32768

/-- The first and last sample that an output sample takes, before clamping to the crop. -/
def axisSpan (s d taps o : Nat) : Int × Int :=
  let p := axisPos s d o
  if taps = 1 then ((p + 32768) / 65536, (p + 32768) / 65536)
  else (p / 65536 - (taps / 2 : Nat) + 1, p / 65536 + (taps / 2 : Nat))

/-- An index within a crop. -/
def clampIdx (s : Nat) (i : Int) : Nat := (max 0 (min i ((s : Int) - 1))).toNat

/-- An output sample of an axis: coefficients by phase and tap, source samples by index. -/
def axisFilter (c : Nat → Nat → Int) (x : Nat → Nat) (s d taps o : Nat) : Nat :=
  let p := axisPos s d o
  if taps = 1 then x (clampIdx s ((p + 32768) / 65536))
  else
    let phase := (p / 1024 % 64).toNat
    let first := p / 65536 - (taps / 2 : Nat) + 1
    clamp16 (((List.range taps).foldl (fun (a : Int) t => a + c phase t * x (clampIdx s (first + t))) 0 + 8192) / 16384)

/-- The coefficients of a block: horizontal at 0x0400, vertical at 0x0800. -/
def coefs (b : List Byte) (o phase t : Nat) : Int := cbS16 b (o + 16 * phase + 2 * t)

/-- A source plane: its crop size, the first line held, lines of 16-bit values. -/
structure SrcPlane where
  w : Nat
  h : Nat
  lo : Nat
  lines : List (List Nat)

/-- An output line of a plane: scaled vertically, then horizontally. -/
def SrcPlane.line (g : SrcPlane) (d : BitVec 512) (b : List Byte) (oy : Nat) : List Nat :=
  let v := (List.range g.w).map (fun x =>
    axisFilter (coefs b 0x800) (fun y => (g.lines.getD (y - g.lo) []).getD x 0) g.h (lDstH d) (tapsOf (lTv d)) oy)
  (List.range (lDstW d)).map (fun ox => axisFilter (coefs b 0x400) (fun x => v.getD x 0) g.w (lDstW d) (tapsOf (lTh d)) ox)

/-! ### Fetching a layer (R262, R275) -/

/-- A 16-bit value in place of a poisoned sample. -/
def poisonSample : Nat := 0x8020

/-- A sample of a packed line. -/
def packedSample (b : List (Option Byte)) (x : Nat) : Nat :=
  match allBytes ((b.drop (4 * (x / 3))).take 4) with
  | some v => up10 (v / 2 ^ (10 * (x % 3)) % 1024)
  | none => poisonSample

/-- A pixel of a line of RGBA8, RGB10A2 or RGBA16. -/
def rgbaPixel (fmt bpp : Nat) (b : List (Option Byte)) (x : Nat) : Px :=
  match allBytes ((b.drop (bpp * x)).take bpp) with
  | some v =>
    if fmt = 4 then ⟨v % 2 ^ 16, v / 2 ^ 16 % 2 ^ 16, v / 2 ^ 32 % 2 ^ 16, v / 2 ^ 48 % 2 ^ 16⟩
    else planePixel (fmt - 1) v
  | none => ⟨poisonSample, poisonSample, poisonSample, 65535⟩

/-- Read lines of len bytes at a pitch: the bytes, and the first address that failed. -/
def State.fetchLines (s : State) (req a pitch len : Nat) : Nat → (List (List (Option Byte)) × Option Nat) × State
  | 0 => (([], none), s)
  | k + 1 =>
    let ((b, bad), s) := s.readMarked req a len (wordsOf a len) [] none
    let ((ls, bad'), s) := State.fetchLines s req (a + pitch) pitch len k
    ((b :: ls, bad.or bad'), s)

/-- The source lines that output lines o0 to o1 of a layer take on an axis: first, count. -/
def spanOf (s d taps o0 o1 : Nat) : Nat × Nat :=
  let lo := clampIdx s (axisSpan s d taps o0).1
  let hi := clampIdx s (axisSpan s d taps o1).2
  (lo, hi - lo + 1)

/-- The lines of a layer in a band: its first output line and the pixels after the colour path. -/
structure BandLayer where
  l : Nat
  d : BitVec 512
  y0 : Nat
  lines : List (List Px)

/-- Fetch, scale and colour a layer for its output lines o0 to o1 (R262 to R267): the lines, and the first address that
failed. -/
def State.layerLinesIn (s : State) (req buf : Nat) (d : BitVec 512) (b : List Byte) (o0 o1 : Nat) :
    (List (List Px) × Option Nat) × State :=
  let os := (List.range (o1 + 1 - o0)).map (· + o0)
  let taps := tapsOf (lTv d)
  if lFill d then ((os.map (fun _ => List.replicate (lDstW d) (colourPath d b (lFc d))), none), s)
  else if lPacked d then
    let (lo, k) := spanOf (lSrcH d) (lDstH d) taps o0 o1
    let off := lSrcX d / 3 * 4
    let ((ys, e0), s) := s.fetchLines req (buf + (lSrcY d + lo) * lPitch d + off) (lPitch d) (4 * ceilDiv (lSrcW d) 3) k
    let cw := ceilDiv (lSrcW d) 2
    let sub := if lFormat d = 0 then 2 else 1
    let ch := lSrcH d / sub
    let (clo, ck) := spanOf ch (lDstH d) taps o0 o1
    let ((cs, e1), s) := s.fetchLines req (buf + lChroma d + (lSrcY d / sub + clo) * lPitch d + off) (lPitch d)
      (4 * ceilDiv (2 * cw) 3) ck
    let py : SrcPlane := ⟨lSrcW d, lSrcH d, lo, ys.map (fun l => (List.range (lSrcW d)).map (packedSample l))⟩
    let pb : SrcPlane := ⟨cw, ch, clo, cs.map (fun l => (List.range cw).map (fun x => packedSample l (2 * x)))⟩
    let pr : SrcPlane := ⟨cw, ch, clo, cs.map (fun l => (List.range cw).map (fun x => packedSample l (2 * x + 1)))⟩
    let lines := os.map (fun oy =>
      (((py.line d b oy).zip (pb.line d b oy)).zip (pr.line d b oy)).map (fun v => colourPath d b ⟨v.1.1, v.1.2, v.2, 65535⟩))
    ((lines, e0.or e1), s)
  else
    let (lo, k) := spanOf (lSrcH d) (lDstH d) taps o0 o1
    let bpp := lBpp d
    let ((ls, e), s) := s.fetchLines req (buf + (lSrcY d + lo) * lPitch d + lSrcX d * bpp) (lPitch d) (lSrcW d * bpp) k
    let px := ls.map (fun l => (List.range (lSrcW d)).map (rgbaPixel (lFormat d) bpp l))
    let pl (f : Px → Nat) : SrcPlane := ⟨lSrcW d, lSrcH d, lo, px.map (fun l => l.map f)⟩
    let lines := os.map (fun oy =>
      let a := ((pl (·.c0)).line d b oy).zip ((pl (·.c1)).line d b oy)
      let c := ((pl (·.c2)).line d b oy).zip ((pl (·.a)).line d b oy)
      (a.zip c).map (fun v => colourPath d b ⟨v.1.1, v.1.2, v.2.1, v.2.2⟩))
    ((lines, e), s)

/-! ### Outputs -/

/-- An output. -/
def State.cmpOut (s : State) (n q : Nat) : CmpOut := Tab.getD s.cmps (n, q) {}

/-- The state with an output changed. -/
def State.setCmp (s : State) (n q : Nat) (x : CmpOut) : State := { s with cmps := Tab.set s.cmps (n, q) x }

/-- A command completes with a status. -/
def State.cmpDone (s : State) (n q : Nat) (c : W256) (st : Nat) : State :=
  let s := ((s.fset F.CMP_CMD_STAT_OUT n 0 q).fset F.CMP_CMD_STAT_OPCODE n 0 (cOp c)).fset F.CMP_CMD_STAT_STATUS n 0 st
  s.cmdToken (Src.cmp n) c st

/-- A command is refused (R252). -/
def State.cmpRefuse (s : State) (n q : Nat) (c : W256) (st : Nat) : State :=
  ((s.fset F.CMP_CMD_STAT_REFUSED n 0 1).post (Src.cmp n) 0x0C00 [.u 1 q, .u 1 (cOp c), .u 1 st]).cmpDone n q c st

/-- `CMP_STAT.OUTS` and `CMP_OUT_STATE` follow an output. -/
def State.cmpShow (s : State) (n q : Nat) : State :=
  let x := s.cmpOut n q
  let outs := (List.range 8).foldl (fun a i => a + b2n (oType (s.cmpOut n i).cur.out != 0) * 2 ^ i) 0
  let s := (s.fset F.CMP_OUT_STATE_TYPE n q (oType x.cur.out)).fset F.CMP_OUT_STATE_PENDING n q (b2n x.pend.isSome)
  (s.fset F.CMP_OUT_STATE_NEXTBAND n q x.next).fset F.CMP_STAT_OUTS n 0 outs

/-- Layers' late counters of an output at the enable. -/
def State.cmpClearLate (n q : Nat) : List Nat → State → State
  | [], s => s
  | l :: t, s => State.cmpClearLate n q t (s.setReg .CMP_LAYER_LATE n (q * 16 + l) 0)

/-- The pending configuration becomes current (R255): charges, counts of a newly enabled output, buffers of layers whose format
changes. -/
def State.cmpApply (s : State) (n q : Nat) : State :=
  let x := s.cmpOut n q
  match x.pend with
  | none => s
  | some c =>
    let was := oType x.cur.out
    let now := oType c.out
    let kept := x.latched.filter (fun b => lFormat (c.layer b.1) == lFormat (x.cur.layer b.1))
    let x := { x with cur := c, pend := none, pendSig := false, latched := kept, sigs := if x.pendSig then [] else x.sigs }
    let s := (s.setCmp n q x).cmpShow n q
    let s := if now = 0 then s.releaseCharge (.cmpOut n q) else s.applyCharge (.cmpOut n q)
    if was = 0 ∧ now ≠ 0 then
      State.cmpClearLate n q (List.range 16)
        (((s.setReg .CMP_OUT_FRAME n q 0).setReg .CMP_OUT_SIG n q 0).setCmp n q { x with sigs := [], alarms := 0, next := 0 })
    else s

/-- A layer latches a buffer at a frame boundary (R258, steps 2 and 3). -/
def State.cmpLatch (s : State) (n q f l : Nat) : State :=
  let x := s.cmpOut n q
  let d := x.cur.layer l
  let have_ := (Tab.find? l x.latched).isSome
  if ¬ lEn d ∨ lFill d then s.fset F.CMP_LAYER_LATE_NOBUF n (q * 16 + l) 0
  else match Tab.find? l x.present with
    | some b =>
      (s.setCmp n q { x with latched := Tab.set x.latched l b, present := Tab.erase l x.present }).fset
        F.CMP_LAYER_LATE_NOBUF n (q * 16 + l) 0
    | none =>
      let s := s.fset F.CMP_LAYER_LATE_NOBUF n (q * 16 + l) (b2n !have_)
      if have_ ∧ ¬ lExpect d then s
      else
        let s := s.fset F.CMP_LAYER_LATE_LATE n (q * 16 + l) (min (s.fget F.CMP_LAYER_LATE_LATE n (q * 16 + l) + 1) 0xFFFF)
        s.post (Src.cmp n) 0x0C01 [.u 1 q, .u 1 l, .u 4 f, .u 1 (b2n !have_)]

/-- Every layer latches, bottom first. -/
def State.cmpLatches (n q f : Nat) : List Nat → State → State
  | [], s => s
  | l :: t, s => State.cmpLatches n q f t (s.cmpLatch n q f l)

/-- The number of the frame in progress (R258, step 4). -/
def State.cmpFrame (s : State) (n q : Nat) : Nat := (s.fget F.CMP_OUT_FRAME_FRAMES n q + 2 ^ 32 - 1) % 2 ^ 32

/-- Whether programme k takes the bands of an output, by a configuration of the programme (R259). -/
def panMatches (c : PgmCfg) (n : Nat) (o : BitVec 1024) : Bool :=
  !c.memIn && c.cmp == n && c.width == oWidth o && c.height == oHeight o && c.c422 == oC422 o

/-- The steps of a frame boundary (R258), and the check of a pan output against the programme that takes the frame (R259). -/
def State.cmpBoundary (s : State) (n q : Nat) (pgm : Option PgmCfg) : State :=
  let s := s.cmpApply n q
  let s := s.fset F.CMP_OUT_FRAME_FRAMES n q ((s.fget F.CMP_OUT_FRAME_FRAMES n q + 1) % 2 ^ 32)
  let f := s.cmpFrame n q
  let s := State.cmpLatches n q f (List.range 16) s
  let x := s.cmpOut n q
  let o := x.cur.out
  let bad : Bool := oType o == 1 && match pgm with
    | some c => !panMatches c n o
    | none => true
  let s := s.setCmp n q { x with mismatch := bad, alarms := 0 }
  if bad then s.post (Src.cmp n) 0x0C04 [.u 1 q, .u 1 (oPgm o), .u 4 f] else s

/-! ### Composing a band -/

/-- Whether a layer of an output shows in the frame in progress: it is enabled and not transparent (R258). -/
def CmpOut.shows (x : CmpOut) (l : Nat) : Bool :=
  let d := x.cur.layer l
  lEn d && (lFill d || (Tab.find? l x.latched).isSome)

/-- The lines of a layer's rectangle within a band of lines y0 to y1 - 1, if any: first and last. -/
def layerIn (d : BitVec 512) (y0 y1 : Nat) : Option (Nat × Nat) :=
  let a := max y0 (lDstY d)
  let b := min y1 (lDstY d + lDstH d)
  if a < b then some (a, b - 1) else none

/-- Whether a layer hides those below it (R274). -/
def layerCovers (d : BitVec 512) : Bool :=
  (lPacked d || (lFill d && (lFc d).a == 65535)) && lAlpha d == 65535

/-- Whether a layer is not fetched in a band: within it, its rectangle lies inside that of one above that hides it (R274). -/
def CmpOut.hidden (x : CmpOut) (l y0 y1 : Nat) : Bool :=
  let d := x.cur.layer l
  match layerIn d y0 y1 with
  | none => true
  | some (a, b) => (List.range 16).any (fun m =>
    let e := x.cur.layer m
    decide (l < m) && x.shows m && layerCovers e &&
      rectIn (lDstX d) a (lDstW d) (b + 1 - a) (lDstX e) (lDstY e) (lDstW e) (lDstH e))

/-- The colour block of a slot as it stands in the compositor's bank; words that fail give free values. -/
def State.colourBlock (s : State) (n slot : Nat) : List Byte × State :=
  let a := bankBase (124 + n) + slot * 0xC000
  let ((b, _), s) := s.readOpen (Src.cmp n) a colourBytes (wordsOf a colourBytes) [] []
  (b, s)

/-- Fetch the layers of a band of lines y0 to y1 - 1, bottom first. -/
def State.cmpFetch (n q band y0 y1 : Nat) : List Nat → State → List BandLayer × State
  | [], s => ([], s)
  | l :: t, s =>
    let x := s.cmpOut n q
    let d := x.cur.layer l
    if ¬ x.shows l ∨ x.hidden l y0 y1 then State.cmpFetch n q band y0 y1 t s
    else match layerIn d y0 y1 with
      | none => State.cmpFetch n q band y0 y1 t s
      | some (a, b) =>
        let (blk, s) := if layerSlot d then s.colourBlock n (4 * q + lSlot d) else ([], s)
        let ((lines, bad), s) := s.layerLinesIn (Src.cmp n) (Tab.getD x.latched l 0) d blk (a - lDstY d) (b - lDstY d)
        let s := match bad with
          | some w => s.post (Src.cmp n) 0x0C03 [.u 1 q, .u 1 l, .u 2 band, .u 6 w]
          | none => s
        let (rest, s) := State.cmpFetch n q band y0 y1 t s
        (⟨l, d, a, lines⟩ :: rest, s)

/-- A layer over an opaque colour (R268). -/
def blendLayer (d : BitVec 512) (c p : Px) : Px :=
  let al := mul16 p.a (lAlpha d)
  if lPremul d then
    let f (D C : Nat) : Nat := min 65535 (mul16 C (lAlpha d) + mul16 D (65535 - al))
    ⟨f c.c0 p.c0, f c.c1 p.c1, f c.c2 p.c2, 65535⟩
  else ⟨blendStraight c.c0 p.c0 al, blendStraight c.c1 p.c1 al, blendStraight c.c2 p.c2 al, 65535⟩

/-- The blended pixel of column x, line y (R268). -/
def blendPixel (o : BitVec 1024) (ls : List BandLayer) (x y : Nat) : Px :=
  ls.foldl (fun c b =>
    if lDstX b.d ≤ x ∧ x < lDstX b.d + lDstW b.d ∧ b.y0 ≤ y then
      match (b.lines[y - b.y0]?).bind (fun l => l[x - lDstX b.d]?) with
      | some p => blendLayer b.d c p
      | none => c
    else c) ⟨oBg o 0, oBg o 1, oBg o 2, 65535⟩

/-- The lines of a band after OMAT (R265, R269). -/
def bandPixels (o : BitVec 1024) (ls : List BandLayer) (y0 y1 : Nat) : List (List Px) :=
  (List.range (y1 - y0)).map (fun dy => (List.range (oWidth o)).map (fun x => matrix (oMat o) (oOff o) (blendPixel o ls x (y0 + dy))))

/-- v10 of R269. -/
def to10 (v : Nat) : Nat := min 1023 ((v + 32) / 64)

/-! ### Signatures (R272, R273) -/

/-- The CRC of a region of a band that starts at line y0. -/
def sigCrc (g : BitVec 128) (px : List (List Px)) (y0 : Nat) : BitVec 32 :=
  crc crc32c (((px.drop (sY0 g - y0)).take (sY1 g + 1 - sY0 g)).flatMap (fun l =>
    ((l.drop (sX0 g)).take (sX1 g + 1 - sX0 g)).flatMap (fun p => leBytes 2 (to10 p.c0) ++ leBytes 2 (to10 p.c1) ++ leBytes 2 (to10 p.c2))))

/-- The pixels of a band with a region replaced by its fill. -/
def sigReplace (g : BitVec 128) (px : List (List Px)) (y0 : Nat) : List (List Px) :=
  px.mapIdx (fun dy l => if sY0 g ≤ y0 + dy ∧ y0 + dy ≤ sY1 g then
    l.mapIdx (fun x p => if sX0 g ≤ x ∧ x ≤ sX1 g then ⟨sFill g 0 * 64, sFill g 1 * 64, sFill g 2 * 64, 65535⟩ else p) else l)

/-- Evaluate the regions of a band: whether one alarmed, and the pixels that leave. `px` are the composed pixels, `acc` those
after the replacements so far. -/
def State.cmpSigs (n q f y0 y1 : Nat) (px : List (List Px)) : List Nat → List (List Px) → Bool → State →
    (Bool × List (List Px)) × State
  | [], acc, al, s => ((al, acc), s)
  | r :: t, acc, al, s =>
    let x := s.cmpOut n q
    let o := x.cur.out
    match x.cur.sig with
    | none => ((al, acc), s)
    | some tab =>
      let g := sigRegion tab r
      if sMode g = 0 ∨ ¬ sigInside g (oWidth o) (oHeight o) ∨ sY0 g < y0 ∨ y1 ≤ sY0 g then State.cmpSigs n q f y0 y1 px t acc al s
      else
        let c := sigCrc g px y0
        let alarm : Bool := (sMode g == 1 && c != sExpect g) || (sMode g == 3 && Tab.find? r x.sigs == some c)
        let rep := alarm && sMode g == 1 && sAct g
        let res := c.toNat + (f % 2 ^ 24) * 2 ^ 32 + b2n alarm * 2 ^ 56 + b2n rep * 2 ^ 57
        let s := (s.writeRange (Src.cmp n) (oSigBase o + 8 * r) (leBytes 8 res)).2
        let s := s.setCmp n q { x with sigs := Tab.set x.sigs r c, alarms := if alarm then x.alarms ||| 2 ^ r else x.alarms }
        let s := if alarm then
            (s.fset F.CMP_OUT_SIG_ALARMS n q (min (s.fget F.CMP_OUT_SIG_ALARMS n q + 1) 0xFFFF)).post (Src.cmp n) 0x0C02
              [.u 1 q, .u 1 r, .u 4 f, .u 4 c.toNat]
          else s
        State.cmpSigs n q f y0 y1 px t (if rep then sigReplace g acc y0 else acc) (al || alarm) s

/-! ### Delivery (R269, R270) -/

/-- The chroma lines of a band, Cb and Cr interleaved, at 10 bits. -/
def chromaLines (c422 : Bool) (px : List (List Px)) : List (List Nat) :=
  let h (l : List Px) (f : Px → Nat) (x : Nat) : Nat := f (l.getD (2 * x) ⟨0, 0, 0, 0⟩) + f (l.getD (2 * x + 1) ⟨0, 0, 0, 0⟩)
  if c422 then px.map (fun l => (List.range (l.length / 2)).flatMap (fun x =>
    [to10 ((h l (·.c1) x + 1) / 2), to10 ((h l (·.c2) x + 1) / 2)]))
  else (List.range (px.length / 2)).map (fun y =>
    let a := px.getD (2 * y) []
    let b := px.getD (2 * y + 1) []
    (List.range (a.length / 2)).flatMap (fun x =>
      [to10 ((h a (·.c1) x + h b (·.c1) x + 2) / 4), to10 ((h a (·.c2) x + h b (·.c2) x + 2) / 4)]))

/-- Luma lines at 10 bits. -/
def lumaLines (px : List (List Px)) : List (List Nat) := px.map (fun l => l.map (fun p => to10 p.c0))

/-- A pixel as C12 values (R269). -/
def to12 (p : Px) : Px :=
  let f (v : Nat) : Nat := min 4095 ((v + 8) / 16)
  ⟨f p.c0, f p.c1, f p.c2, 65535⟩

/-- A line packed three samples to a 32-bit word (R152). -/
def packLine10 (l : List Nat) : List Byte :=
  (List.range (ceilDiv l.length 3)).flatMap (fun i =>
    leBytes 4 (l.getD (3 * i) 0 + l.getD (3 * i + 1) 0 * 2 ^ 10 + l.getD (3 * i + 2) 0 * 2 ^ 20))

/-- Lines as a row of a programme takes them: lines and samples that no band supplied are free values. -/
def rowLinesOf (ctr n w : Nat) (l : List (List Nat)) : List (List (BitVec 10)) :=
  (List.range n).map (fun y => (List.range w).map (fun x =>
    match (l[y]?).bind (fun r => r[x]?) with
    | some v => BitVec.ofNat 10 v
    | none => Config.freeValue 10 (ctr + y * w + x)))

/-- A band enters the input ring of a programme as row j of the open picture x. -/
def State.cmpToPan (s : State) (k j : Nat) (x : PicRec) (o : PicOpen) (px : List (List Px)) : State :=
  let c := o.cfg
  let n := c.rowLines (j - o.j0)
  let cn := if c.c422 then n else n / 2
  let ctr := s.freeCtr
  let luma := rowLinesOf ctr n c.width (lumaLines px)
  let chroma := rowLinesOf (ctr + n * c.width) cn (2 * ceilDiv c.width 2) (chromaLines c.c422 px)
  ({ s with freeCtr := ctr + 2 * (n * c.width) + 2 * n }).panRowIn k x o ⟨j, luma, chroma, []⟩

/-- A band goes to the planes that take a display output. -/
def State.cmpToHeads (m q y0 : Nat) (o : BitVec 1024) (last : Bool) (lines : List (List Byte)) : List (Nat × Nat) → State → State
  | [], s => s
  | (n, p) :: t, s => State.cmpToHeads m q y0 o last lines t
    (s.headBand m q n p y0 (oWidth o) (oHeight o) (decide (y0 = 0)) last lines)

/-- The planes of the output's head that name it (R289). -/
def State.cmpTakers (s : State) (n q : Nat) (o : BitVec 1024) : List (Nat × Nat) :=
  (s.headTakers n q).filter (fun x => x.1 == oHead o)

/-- Deliver a composed band: the bytes that a check-value unit hashes (table INT-5). -/
def State.cmpDeliver (s : State) (n q f y0 : Nat) (row : Option (Nat × PicRec × PicOpen)) (last : Bool) (px : List (List Px)) :
    List Byte × State :=
  let o := (s.cmpOut n q).cur.out
  if oType o = 3 then
    let lines := px.map (fun l => c12Line (l.map to12))
    (lines.flatten, State.cmpToHeads n q y0 o last lines (s.cmpTakers n q o) s)
  else
    let luma := (lumaLines px).map packLine10
    let chroma := (chromaLines (oC422 o) px).map packLine10
    let bytes := luma.flatten ++ chroma.flatten
    match oType o, row with
    | 1, some (j, x, po) => (bytes, s.cmpToPan (oPgm o) j x po px)
    | 2, _ =>
      let base := oBase o + f % oCount o * oStride o
      let cy := if oC422 o then y0 else y0 / 2
      let s := s.putLines (Src.cmp n) (base + y0 * oPitch o) (oPitch o) luma
      (bytes, s.putLines (Src.cmp n) (base + oPitch o * oHeight o + cy * oPitch o) (oPitch o) chroma)
    | _, _ => (bytes, s)

/-- The band token's value (R260). -/
def bandToken (f band : Nat) (last alarm : Bool) : W64 :=
  BitVec.ofNat 64 (f + band * 2 ^ 32 + b2n last * 2 ^ 48 + b2n alarm * 2 ^ 49)

/-- The next band is expected; at the last, `LAST` shows the frame's alarms, and a pending disable applies (R255). -/
def State.cmpNext (s : State) (n q : Nat) (last : Bool) : State :=
  let x := s.cmpOut n q
  let s := (s.setCmp n q { x with next := if last then 0 else x.next + 1 }).cmpShow n q
  if last then
    let s := s.fset F.CMP_OUT_SIG_LAST n q x.alarms
    match x.pend with
    | some c => if oType c.out = 0 then s.cmpApply n q else s
    | none => s
  else s

/-- Compose and deliver a band (R257, R269 to R273). -/
def State.cmpCompose (s : State) (n q band : Nat) (row : Option (Nat × PicRec × PicOpen)) (cmd : W256) : State :=
  let o := (s.cmpOut n q).cur.out
  let f := s.cmpFrame n q
  let y0 := 64 * band
  let y1 := min (y0 + 64) (oHeight o)
  let last := band + 1 == oBands o
  let (ls, s) := State.cmpFetch n q band y0 y1 (List.range 16) s
  let px := bandPixels o ls y0 y1
  let ((alarm, px'), s) := State.cmpSigs n q f y0 y1 px (List.range 16) px false s
  let (bytes, s) := s.cmpDeliver n q f y0 row last px'
  let s := s.chkBlock 1 (n + 8 * q) ⟨BitVec.ofNat 64 (f * 65536 + band), bytes, false⟩
  let s := if oBtok o ∨ last then s.sendToken (Src.cmp n) (oToken o) (bandToken f band last alarm) else s
  (s.cmpNext n q last).cmpDone n q cmd 0

end Sys2Proof.Machine
end

