-- ==== Sys2Proof/Machine/HostOps.lean ====
section
/-! DEFINITION. The operations of the host port (chapter 19): functions, event rings, MSI-X messages, routes, doorbells. -/

namespace Sys2Proof.Machine

/-! ### Functions -/

/-- A PCIe function. -/
def State.hostFn (s : State) (fn : Nat) : HostFn := Tab.getD s.host.fns fn {}

/-- The state with a function changed. -/
def State.setHostFn (s : State) (fn : Nat) (x : HostFn) : State :=
  { s with host := { s.host with fns := Tab.set s.host.fns fn x } }

/-- The copy of a ring register of ring r of a function. -/
def ringSub (fn r : Nat) : Nat := fn * 32 + r

/-- The ring that a requester's `HST_RING_SEL` shows: a VF has ring 0 only (table HST-14). -/
def State.ringSel (s : State) (fn req : Nat) : Nat := if fn = 0 then s.fget F.HST_RING_SEL_RING 0 req else 0

/-- A ring's message state. -/
def State.ring (s : State) (sub : Nat) : Ring := Tab.getD s.host.rings sub {}

/-- The state with a ring's message state changed. -/
def State.setRing (s : State) (sub : Nat) (x : Ring) : State :=
  { s with host := { s.host with rings := Tab.set s.host.rings sub x } }

/-- What the part sends to the host. -/
def State.hostOut (s : State) (o : HostOut) : State := { s with host := { s.host with out := s.host.out ++ [o] } }

/-! ### Rings and messages (R470 to R472) -/

/-- A ring's message: a masked vector sets its pending bit. -/
def State.sendMsix (s : State) (fn sub : Nat) (masked : Bool) : State :=
  let v := s.fget F.HST_RING_CFG_VECTOR 0 sub
  if masked then
    let x := s.hostFn fn
    s.setHostFn fn { x with pend := if x.pend.contains v then x.pend else x.pend ++ [v] }
  else s.hostOut (.msix fn v)

/-- A message falls due after `PROD` has advanced: at once, or deferred while the last one is less than `HOLD` µs ago. -/
def State.ringMessage (s : State) (fn sub : Nat) (masked : Bool) : State :=
  if (s.ring sub).inHold then s.setRing sub { s.ring sub with deferred := true }
  else
    (s.sendMsix fn sub masked).setRing sub
      { inHold := decide (s.fget F.HST_RING_CFG_HOLD 0 sub ≠ 0), deferred := false }

/-- A record reaches a ring: it is dropped where the ring is disabled or full, and otherwise written to host memory. -/
def State.ringRecord (s : State) (fn r : Nat) (masked : Bool) (ev : EventRec) : State :=
  let sub := ringSub fn r
  let n := s.fget F.HST_RING_CFG_LOG2 0 sub
  let prod := s.fget F.HST_RING_IDX_PROD 0 sub
  if !s.flag F.HST_RING_CFG_EN 0 sub then s
  else if ringCap n ≤ ringUsed prod (s.fget F.HST_RING_IDX_CONS 0 sub) then s.fset F.HST_RING_CFG_FULL 0 sub 1
  else
    let base := s.pair .HST_RING_BASE_LO .HST_RING_BASE_HI 0 sub
    let s := s.hostOut (.record (base + BitVec.ofNat 64 (32 * (prod % 2 ^ n))) ev)
    (s.fset F.HST_RING_IDX_PROD 0 sub ((prod + 1) % 65536)).ringMessage fn sub masked

/-- The VF that has a DMA channel in its `HST_VF_DMA`. -/
def State.vfOfChannel (s : State) (c : Nat) : Option Nat :=
  (List.range 65).find? (fun v => v != 0 && bitOf (s.reg .HST_VF_DMA 0 v) c)

/-- The programme that the payload of a pan event names (table PAN-13): command-refused packs its opcode first. -/
def panEventPgm (ev : EventRec) : Nat :=
  if ev.code = 0x0A00 then bitsOf ev.payload 15 8 else bitsOf ev.payload 7 0

/-- The VF whose ring gets a copy of a record, if one does (R470). -/
def State.vfCopy (s : State) (ev : EventRec) : Option Nat :=
  if 0x040 ≤ ev.src ∧ ev.src < 0x050 then some (panEventPgm ev + 1)
  else if 0x020 ≤ ev.src ∧ ev.src < 0x040 then s.vfOfChannel (ev.src - 0x020)
  else if ev.src = Src.host ∧ ev.code = 0x0021 ∧ bitsOf ev.payload 7 0 ≠ 0 then some (bitsOf ev.payload 7 0)
  else none

/-- The route of a source (table HST-10): enabled, and the PF ring. -/
def State.route (s : State) (src : Nat) : Bool × Nat :=
  (s.flag F.HST_ROUTE_EN 0 src, s.fget F.HST_ROUTE_RING 0 src)

/-- The event router takes the oldest record of a source's post buffer to the rings (R470, R393). -/
def State.routeEvent (s : State) (src : Nat) (masked maskedVf : Bool) : State :=
  match (s.evSource src).buf with
  | [] => s
  | ev :: t =>
    let s := { s with events := Tab.set s.events src { s.evSource src with buf := t } }
    let s := if (s.route src).1 then s.ringRecord 0 (s.route src).2 masked ev else s
    match s.vfCopy ev with
    | some v => s.ringRecord v 0 maskedVf ev
    | none => s

/-- A write of `HST_ROUTE` (table HST-10): it selects a source for the requester, whose copy has sub 2^16 + requester, and
with `SET` sets that source's entry. -/
def State.routeWrite (s : State) (req : Nat) (val : W32) : State :=
  let src := bitsOf val 27 16
  let s := s.fset F.HST_ROUTE_SRC 0 (2 ^ 16 + req) src
  if bitOf val 15 then
    (s.fset F.HST_ROUTE_EN 0 src (bitsOf val 31 31)).fset F.HST_ROUTE_RING 0 src (bitsOf val 4 0)
  else s

/-- What a requester reads from `HST_ROUTE`. -/
def State.routeRead (s : State) (req : Nat) : W32 :=
  let src := s.fget F.HST_ROUTE_SRC 0 (2 ^ 16 + req)
  setBits (s.reg .HST_ROUTE 0 src &&& 0x8000001F#32) 27 16 src

/-- The vectors of a function's MSI-X table (R470). -/
def vectorsOf (fn : Nat) : Nat := if fn = 0 then 1024 else 16

/-- A write of `HST_RING_CFG` (table HST-16): `LOG2` and `VECTOR` change only while `EN` is 0; an enable zeroes both
indices, and one with a field out of range has no effect. -/
def State.ringCfgWrite (s : State) (fn req : Nat) (val : W32) : State :=
  let sub := ringSub fn (s.ringSel fn req)
  let s := if bitOf val 31 then s.fset F.HST_RING_CFG_FULL 0 sub 0 else s
  let s := s.fset F.HST_RING_CFG_HOLD 0 sub (bitsOf val 15 8)
  if s.flag F.HST_RING_CFG_EN 0 sub then
    if bitOf val 0 then s else s.fset F.HST_RING_CFG_EN 0 sub 0
  else
    let s := (s.fset F.HST_RING_CFG_LOG2 0 sub (bitsOf val 30 26)).fset F.HST_RING_CFG_VECTOR 0 sub (bitsOf val 25 16)
    let l := bitsOf val 30 26
    if bitOf val 0 ∧ 4 ≤ l ∧ l ≤ 16 ∧ bitsOf val 25 16 < vectorsOf fn then
      (s.fset F.HST_RING_CFG_EN 0 sub 1).setReg .HST_RING_IDX 0 sub 0
    else s

/-- A write of half of `HST_RING_BASE`, which is writable only while `EN` is 0. -/
def State.ringBaseCommit (s : State) (fn req : Nat) (v : W64) : State :=
  let sub := ringSub fn (s.ringSel fn req)
  if s.flag F.HST_RING_CFG_EN 0 sub then s else s.setPair .HST_RING_BASE_LO .HST_RING_BASE_HI 0 sub v

/-! ### Doorbells (R468, R469) -/

/-- A write of `HST_DB_VAL_HI` by a requester: the function's committed destination and the committed value are held
as a doorbell. With 16 held the port takes no write. -/
def State.doorbellWrite (s : State) (fn req : Nat) (val : W32) : State :=
  let x := s.hostFn fn
  if 16 ≤ x.held.length then s
  else
    let low := Tab.getD s.helds (req, .HST_DB_VAL_LO, 0) (s.reg .HST_DB_VAL_LO 0 fn)
    let s := { s with helds := Tab.erase (req, .HST_DB_VAL_LO, 0) s.helds }
    let s := (s.setReg .HST_DB_VAL_LO 0 fn low).setReg .HST_DB_VAL_HI 0 fn val
    s.setHostFn fn { x with held := x.held ++ [(x.dest.getD 0, val ++ low)] }

/-- Whether a VF may name a slot (table HST-7). -/
def State.vfSlotOk (s : State) (v slot : Nat) : Bool :=
  let l := s.fget F.HST_VF_SLOTS_LOG2 0 v
  let b := s.fget F.HST_VF_SLOTS_BASE 0 v
  decide (l ≤ 14 ∧ b ≤ slot ∧ slot < b + 2 ^ l)

/-- The oldest doorbell of a function leaves the port: a token to the tally, or a refusal (R469). -/
def State.deliverDoorbell (s : State) (fn : Nat) : State :=
  let x := s.hostFn fn
  match x.held with
  | [] => s
  | (d, v) :: t =>
    let s := s.setHostFn fn { x with held := t }
    if tokenDestOk d ∧ (fn = 0 ∨ s.vfSlotOk fn (bitsOf d 13 0)) then s.sendToken (Src.fn fn) d v
    else (s.fset F.HST_DB_STAT_DBERR 0 fn 1).post Src.host 0x0021 [.u 1 fn, .u 4 (bitsOf d 31 0)]

/-! ### Resets (R473) -/

/-- A requester's latches and held halves are discarded (R15). -/
def State.discardPairs (s : State) (req : Nat) : State :=
  { s with
    latches := s.latches.filter (fun (x : (Nat × Reg × Nat) × W32) => x.1.1 != req)
    helds := s.helds.filter (fun (x : (Nat × Reg × Nat) × W32) => x.1.1 != req) }

/-- A VF reset: its doorbells, its ring, its DMA channels (R473); the latches and held halves of the function that is reset go with
it (R15; log entry 77). -/
def State.vfReset (s : State) (v : Nat) : State :=
  let s := (s.discardPairs (Src.fn v)).setHostFn v { s.hostFn v with dest := none, held := [] }
  let s := (s.fset F.HST_RING_CFG_EN 0 (ringSub v 0) 0).setRing (ringSub v 0) {}
  let s := (List.range 32).foldl (fun s c =>
    if bitOf (s.reg .HST_VF_DMA 0 v) c ∧ s.flag F.DMA_CFG_EN c 0 then s.dmaDrop c else s) s
  s.post Src.host 0x0023 [.u 1 v]

/-- A register of a function page. -/
def Reg.isPage (r : Reg) : Bool := r.desc.win == 0 && decide (0x1000 ≤ r.desc.off ∧ r.desc.off < 0x1034)

/-- The number of VFs enabled. -/
def State.numVf (s : State) : Nat := s.fget F.HST_STAT_NUMVF 0 0

/-- Whether a register copy belongs to the PF's own function page. -/
def RegKey.pfPage (k : RegKey) : Bool :=
  k.reg.isPage &&
    match k.reg.desc.sub with
    | .perReq => k.sub == Src.fn 0
    | .sel _ => decide (k.sub < 32)
    | _ => k.sub == 0

/-- A PF reset: VF Enable clears, every VF enabled resets, and the PF's function page returns to its reset values. -/
def State.pfReset (s : State) : State :=
  let vfs := (List.range s.numVf).map (· + 1)
  let s := (vfs.foldl State.vfReset s).fset F.HST_STAT_NUMVF 0 0 0
  let s := { s with regs := s.regs.filter (fun p => !p.1.pfPage) }
  let s := { s with host := { s.host with rings := s.host.rings.filter (fun p => 32 ≤ p.1) } }
  (s.discardPairs (Src.fn 0)).setHostFn 0 { s.hostFn 0 with dest := none, held := [] }

/-- PERST_N with `PERST_DEV` 0 (R486): the link goes down, the functions reset, every HST_ register takes its reset value. -/
def State.hostReset (s : State) : State :=
  let wasUp := s.fget F.HST_STAT_SPEED 0 0 ≠ 0
  let s := s.pfReset
  let s := { s with
    regs := s.regs.filter (fun p => p.1.reg.desc.win ≠ 0)
    latches := s.latches.filter (fun p => p.1.2.1.desc.win ≠ 0)
    helds := s.helds.filter (fun p => p.1.2.1.desc.win ≠ 0)
    host := { s.host with fns := [], rings := [] } }
  if wasUp then s.post Src.host 0x0020 [.u 1 0, .u 1 0, .u 1 0] else s

end Sys2Proof.Machine
end

