-- ==== Sys2Proof/Machine/Memory.lean ====
section
/-! DEFINITION. The commands of memory (chapter 4): word reads and writes, buckets, injection, the harrow, the HBM
controllers. -/

namespace Sys2Proof.Machine

/-! ### Word accesses -/

/-- Run an access to a word: an address outside the 48-bit space faults, one that is not a word address is no such command,
and one in the register windows is no aligned 32-bit register access (R10). -/
def State.wordAccess (s : State) (req addr : Nat) (write : Bool) (f : State → State) : Res :=
  if 2 ^ 48 ≤ addr then .fault (.outsideAddressSpace addr)
  else s.need (decide (addr % 32 = 0)) "word address" fun s =>
    if inRegs addr then
      (s.accessError req addr 0).answer req (if write then .written else .data 32 0)
    else f s

/-- What a requester gets for a word it reads. -/
def RdRes.answer : RdRes → Answer
  | .ok d => .data 32 d
  | .poison _ => .poison
  | .addrErr => .addrErr

/-- What a requester gets for a word it writes. -/
def WrRes.answer : WrRes → Answer
  | .ok => .written
  | .poison _ => .writePoison
  | .addrErr => .addrErr

/-- MEMORY_READ: a word is read and decoded (R117 to R122, R124). -/
def execMemoryRead (req addr : Nat) (s : State) : Res :=
  s.wordAccess req addr false fun s =>
    let (r, s) := s.memRead req addr
    s.answer req r.answer

/-- PARTIAL_WRITE: the bytes of a word that the mask names are written (R123). -/
def execPartialWrite (req addr : Nat) (mask : BitVec 32) (data : BitVec 256) (s : State) : Res :=
  s.wordAccess req addr true fun s =>
    let (r, s) := s.memWriteMask req addr mask data
    s.answer req r.answer

/-- WHOLE_WORD_WRITE: a word is written as a new code word (R116), with an armed injection (R143). -/
def execWholeWordWrite (req addr : Nat) (data : BitVec 256) (s : State) : Res :=
  s.wordAccess req addr true fun s =>
    let (r, s) := s.memWrite req addr data
    s.answer req r.answer

/-! ### Buckets and injection -/

/-- A unit by kind and number; `none` beyond table MEM-4 or MC15. -/
def unitOf (bank : Bool) (n : Nat) : Option MemUnit :=
  if bank then (if n < 146 then some (.bank n) else none) else (if n < 16 then some (.hbm n) else none)

/-- A write of `_INJ` (R143): `ARM` is set by a 1. -/
def State.injWrite (s : State) (u : MemUnit) (val : W32) : State :=
  match u with
  | .hbm n => s.wrReg .MC_INJ n 0 val
  | .bank i => s.wrReg .BNK_INJ i 0 val

/-- INJ_ARM: a write of `_INJ` with `ARM` 1 (R143). -/
def execInjArm (_req : Nat) (bank : Bool) (n : Nat) (val : BitVec 32) (s : State) : Res :=
  match unitOf bank n with
  | none => .refused (.noSuchUnit "unit")
  | some u => .next (if bitOf val 31 then s.injWrite u val else s)

/-- BUCKET_LEAK: the bucket subtracts 1 from a count above 0 (R125). -/
def execBucketLeak (bank : Bool) (n : Nat) (s : State) : Res :=
  match unitOf bank n with
  | none => .refused (.noSuchUnit "unit")
  | some u => .next (s.fset u.regs.count u.regs.inst 0 (s.fget u.regs.count u.regs.inst 0 - 1))

/-- A write of `_ECC_CFG` (tables MEM-13, MEM-19): a 0 has no effect, and a threshold below `COUNT` sets `COUNT` to it. -/
def State.eccCfgWrite (s : State) (u : MemUnit) (val : W32) : State :=
  let r := u.regs
  let s := if bitsOf val 31 16 = 0 then s else s.fset r.leak r.inst 0 (bitsOf val 31 16)
  let th := bitsOf val 15 0
  if th = 0 then s
  else
    let s := s.fset r.thresh r.inst 0 th
    if th < s.fget r.count r.inst 0 then s.fset r.count r.inst 0 th else s

/-- ECC_CFG_WRITE: a write of `_ECC_CFG` (R125). -/
def execEccCfgWrite (_req : Nat) (bank : Bool) (n : Nat) (val : BitVec 32) (s : State) : Res :=
  match unitOf bank n with
  | none => .refused (.noSuchUnit "unit")
  | some u => .next (s.eccCfgWrite u val)

/-! ### The harrow (R128 to R130) -/

/-- The words of HBM, and of the banks: the harrow's index of a word runs over both in this order. -/
def hbmWords : Nat := 2 ^ 30

/-- The address of the word of a harrow index. -/
def harrowAddr (i : Nat) : Nat := if i < hbmWords then 32 * i else 0x001000000000 + 32 * (i - hbmWords)

/-- The harrow index of the first word of a bank. -/
def bankFirst (b : Nat) : Nat := hbmWords + (bankBase b - 0x001000000000) / 32

/-- The places at which the serving unit changes, from an index on: the next sixteen 512-byte blocks of HBM, then the banks. -/
def harrowStops (i : Nat) : List Nat :=
  (if i < hbmWords then i :: ((List.range 16).map (fun k => (i / 16 + k + 1) * 16)).filter (· < hbmWords) else []) ++
  (if hbmWords ≤ i ∧ i < hbmWords + 2 ^ 23 then [i] else []) ++
  ((List.range 146).map bankFirst).filter (fun x => i < x)

/-- Whether the word of an index is served by a unit that runs. -/
def State.harrowReady (s : State) (i : Nat) : Bool :=
  match memUnit (harrowAddr i) with
  | some u => s.unitReady u
  | none => false

/-- The next word of the pass that is not skipped (R128). -/
def State.harrowNext (s : State) (i : Nat) : Option Nat := (harrowStops i).find? s.harrowReady

/-- The words of the controllers in RUN and of the banks in ON (W of R128). -/
def State.runningWords (s : State) : Nat :=
  (List.range 16).foldl (fun a n => if s.unitReady (.hbm n) then a + 2 ^ 26 else a) 0 +
  (List.range 146).foldl (fun a i => if s.unitReady (.bank i) then a + bankSize i / 32 else a) 0

/-- A pass starts from the lowest address: W is counted and a new period applies. -/
def State.passStart (s : State) : State :=
  { s with harrow := { next := 0, seconds := s.fget F.HRW_PERIOD_SECONDS 0 0, words := s.runningWords, late := false } }

/-- A pass completes (R130): `PASSES` counts it, pass-complete is posted and the next pass starts. -/
def State.passComplete (s : State) : State :=
  let n := (s.fget F.HRW_STAT_PASSES 0 0 + 1) % 2 ^ 24
  ((s.fset F.HRW_STAT_PASSES 0 0 n).post Src.harrow 0x0901 [.u 4 n]).passStart

/-- The harrow goes on past a word; the pass completes when it leaves no word to read. -/
def State.harrowPast (s : State) (i : Nat) : State :=
  let s := { s with harrow := { s.harrow with next := i + 1 } }
  if (s.harrowNext (i + 1)).isNone then s.passComplete else s

/-- The harrow's action on a word (R129): a corrected word is written back, an uncorrectable one becomes the poison
pattern and word-poisoned is posted, besides the unit's own event (R122). -/
def State.harrowWord (s : State) (a : Nat) (u : MemUnit) : State :=
  match decodeWord (readCode s.mem a) with
  | .clean _ => s
  | .poisoned => s
  | .corrected d h0 h1 => (s.countCorrected u a h0 h1).storeWord u a (encodeWord d)
  | .uncorrectable s0 s1 =>
    let s := s.post u.src u.regs.evUnc [.u 4 (wordIndex a), .u 2 s0.toNat, .u 2 s1.toNat]
    (s.storeWord u a poisonWord).post Src.harrow 0x0900 [.u 6 a, .u 2 s0.toNat, .u 2 s1.toNat]

/-- HARROW_READ: the harrow reads its next word (R128, R129). -/
def execHarrowRead (s : State) : Res :=
  .next (if s.flag F.HRW_CTRL_EN 0 0 then
    match s.harrowNext s.harrow.next with
    | none => s
    | some i =>
      match memUnit (harrowAddr i) with
      | some u => (s.harrowWord (harrowAddr i) u).harrowPast i
      | none => s
  else s)

/-- HARROW_PASS_LATE: the period of a pass ends (R130). A pass with a word left to read is late; one with none is complete. -/
def execHarrowPassLate (s : State) : Res :=
  .next (if s.flag F.HRW_CTRL_EN 0 0 then
    if (s.harrowNext s.harrow.next).isSome then
      { s.fset F.HRW_STAT_LATE 0 0 1 with harrow := { s.harrow with late := true } }
    else s.passComplete
  else s)

/-- A write of `HRW_CTRL`: setting `EN` starts a new pass from the lowest address. -/
def State.hrwCtrlWrite (s : State) (val : W32) : State :=
  let was := s.flag F.HRW_CTRL_EN 0 0
  let s := s.wrReg .HRW_CTRL 0 0 val
  if !was && bitOf val 0 then s.passStart else s

/-- HRW_ENABLE: a write of `HRW_CTRL` with `EN` 1 (R128). -/
def execHrwEnable (_req : Nat) (val : BitVec 32) (s : State) : Res :=
  .next (if bitOf val 0 then s.hrwCtrlWrite val else s)

/-- HRW_DISABLE: a write of `HRW_CTRL` with `EN` 0 (R128). -/
def execHrwDisable (_req : Nat) (val : BitVec 32) (s : State) : Res :=
  .next (if bitOf val 0 then s else s.hrwCtrlWrite val)

/-- A write of `HRW_PERIOD`: a value outside 60 to 86,400 has no effect (table MEM-25). -/
def State.hrwPeriodWrite (s : State) (val : W32) : State :=
  if 60 ≤ bitsOf val 16 0 ∧ bitsOf val 16 0 ≤ 86400 then s.wrReg .HRW_PERIOD 0 0 val else s

/-- HRW_PERIOD_WRITE: a write of `HRW_PERIOD`; a new value applies from the next pass. -/
def execHrwPeriodWrite (_req : Nat) (val : BitVec 32) (s : State) : Res := .next (s.hrwPeriodWrite val)

/-! ### HBM controllers -/

/-- The state with a controller changed. -/
def State.setMc (s : State) (n : Nat) (m : Mc) : State := { s with mcs := Tab.set s.mcs n m }

/-- A controller changes its rate (R140): cause 0 host, 1 parity. The limit of entry 52 changes with it (R141). -/
def State.mcRate (s : State) (n : Nat) (half : Bool) (cause : Nat) : State :=
  if s.flag F.MC_STAT_HALFACT n 0 = half then s
  else ((s.fset F.MC_STAT_HALFACT n 0 (b2n half)).post (Src.mc n) 0x0803 [.u 1 (b2n half), .u 1 cause]).balance

/-- A write of `MC_CTRL` (table MEM-8): `EN` is only ever set, and its first set starts INIT (R139); `HALF` moves the
controller to or from half rate (R140). -/
def State.mcCtrlWrite (s : State) (n : Nat) (val : W32) : State :=
  let was := s.flag F.MC_CTRL_EN n 0
  let s := if bitOf val 0 && !was then
      (s.fset F.MC_CTRL_EN n 0 1).setMc n { st := .init, parity := 0 }
    else s
  (s.fset F.MC_CTRL_HALF n 0 (bitsOf val 1 1)).mcRate n (bitOf val 1) 0

/-- MC_ENABLE: a write of `MC_CTRL` with `EN` 1 (R139). -/
def execMcEnable (_req n : Nat) (val : BitVec 32) (s : State) : Res :=
  s.need (decide (n < 16)) "controller" fun s => if bitOf val 0 then s.mcCtrlWrite n val else s

/-- MC_HALF_WRITE: a write of `MC_CTRL` that changes `HALF` (R140). -/
def execMcHalfWrite (_req n : Nat) (val : BitVec 32) (s : State) : Res :=
  s.need (decide (n < 16)) "controller" fun s => s.mcCtrlWrite n val

/-- MC_INIT_COMPLETE: the controller has filled its 2 GiB with the poison pattern and enters RUN (R139). -/
def execMcInitComplete (n : Nat) (s : State) : Res :=
  s.need (decide (n < 16)) "controller" fun s =>
    if (s.mc n).st = .init then
      let mine (a : Nat) : Bool := inHbm a && a / 512 % 16 == n
      ({ s with mem := fillWords mine s.mem }).setMc n { s.mc n with st := .run }
    else s

/-- The stack's temperature is read (R138): above 85 °C refresh runs at 1.95 µs, at or below 82 °C at 3.9 µs again. -/
def State.mcTemperature (s : State) (n : Nat) (temp : BitVec 8) : State :=
  let s := s.fset F.MC_STAT_TEMP n 0 temp.toNat
  let was := s.flag F.MC_STAT_HOTREF n 0
  let now := if 85 < temp.toInt then true else if temp.toInt ≤ 82 then false else was
  if was = now then s
  else ((s.fset F.MC_STAT_HOTREF n 0 (b2n now)).post (Src.mc n) 0x0802 [.i 4 temp.toInt, .u 1 (b2n now)]).balance

/-- MC_INTERVAL_START: a 1 ms interval starts (R138, R140): the temperature is read and the parity count restarts. -/
def execMcIntervalStart (n : Nat) (temp : BitVec 8) (s : State) : Res :=
  s.need (decide (n < 16)) "controller" fun s =>
    if s.flag F.MC_CTRL_EN n 0 then (s.setMc n { s.mc n with parity := 0 }).mcTemperature n temp else s

/-- CA_PARITY_ERROR: a command-address parity error is counted; the 17th of an interval sets `HALF` (R140). -/
def execCaParityError (n : Nat) (s : State) : Res :=
  s.need (decide (n < 16)) "controller" fun s =>
    if s.flag F.MC_CTRL_EN n 0 then
      let c := (s.mc n).parity + 1
      let s := s.fset F.MC_STAT_CAPAR n 0 (min (s.fget F.MC_STAT_CAPAR n 0 + 1) 0xFFFF)
      let s := s.setMc n { s.mc n with parity := c }
      if c = 17 then (s.fset F.MC_CTRL_HALF n 0 1).mcRate n true 1 else s
    else s

/-- A write of `MC_CAL_VAL` or `MC_CAL_LAT` (R137): while `EN` is 1 it has no effect and sets `CALLOCK`. The lane is the one
that the requester's `MC_CAL_SEL` selects. -/
def State.mcCalWrite (s : State) (req n : Nat) (lat : Bool) (val : W32) : State :=
  if s.flag F.MC_CTRL_EN n 0 then s.fset F.MC_STAT_CALLOCK n 0 1
  else if lat then s.wrReg .MC_CAL_LAT n 0 val
  else s.wrReg .MC_CAL_VAL n (s.fget F.MC_CAL_SEL_LANE n req) val

/-- MC_CAL_WRITE: a write of a calibration register (R137). -/
def execMcCalWrite (req n : Nat) (lat : Bool) (val : BitVec 32) (s : State) : Res :=
  s.need (decide (n < 16)) "controller" fun s => s.mcCalWrite req n lat val

end Sys2Proof.Machine
end

