-- ==== Sys2Proof/Machine/Ecdsa.lean ====
section
/-! DEFINITION. The verification of an ECDSA signature on the curve P-384 (SEC 1, FIPS 186), which the spec names for images and
debug responses (R436, R449). PRESUMED: the spec names it and does not restate it (log entry 16). -/

namespace Sys2Proof.Machine

/-- The prime of the field. -/
def p384P : Nat := 2 ^ 384 - 2 ^ 128 - 2 ^ 96 + 2 ^ 32 - 1

/-- The coefficient b of y² = x³ − 3x + b. -/
def p384B : Nat :=
  0xB3312FA7E23EE7E4988E056BE3F82D19181D9C6EFE8141120314088F5013875AC656398D8A2ED19D2A85C8EDD3EC2AEF

/-- The order of the base point. -/
def p384N : Nat :=
  0xFFFFFFFFFFFFFFFFFFFFFFFFFFFFFFFFFFFFFFFFFFFFFFFFC7634D81F4372DDF581A0DB248B0A77AECEC196ACCC52973

/-- The base point. -/
def p384G : Nat × Nat :=
  (0xAA87CA22BE8B05378EB1C71EF320AD746E1D3B628BA79B9859F741E082542A385502F25DBF55296C3A545E3872760AB7,
   0x3617DE4A96262C6F5D9E98BF9292DC29F8F41DBD289A147CE9DA3113B5F0B8C00A60B1CE1D7E819D7A431D7C90EA0E5F)

/-- x to the power e modulo m, e of at most n bits. -/
def powMod (m : Nat) : Nat → Nat → Nat → Nat
  | 0, _, _ => 1
  | n + 1, x, e => (if e % 2 = 1 then x else 1) * powMod m n (x * x % m) (e / 2) % m

/-- The inverse modulo a prime of 384 bits. -/
def invMod (m x : Nat) : Nat := powMod m 384 (x % m) (m - 2)

/-- A point in Jacobian coordinates: (x, y, z) is the point (x / z², y / z³), and z = 0 the point at infinity. -/
structure P384 where
  x : Nat
  y : Nat
  z : Nat

/-- The point at infinity. -/
def P384.zero : P384 := ⟨1, 1, 0⟩

/-- a − b in the field. -/
def p384Sub (a b : Nat) : Nat := (a + (p384P - b % p384P)) % p384P

/-- Twice a point. -/
def P384.double (a : P384) : P384 :=
  let p := p384P
  let yy := a.y * a.y % p
  let zz := a.z * a.z % p
  let s := 4 * a.x * yy % p
  let m := 3 * p384Sub a.x zz * (a.x + zz) % p
  let x := p384Sub (m * m) (2 * s)
  ⟨x, p384Sub (m * p384Sub s x) (8 * yy * yy), 2 * a.y * a.z % p⟩

/-- The sum of two points. -/
def P384.add (a b : P384) : P384 :=
  if a.z = 0 then b
  else if b.z = 0 then a
  else
    let p := p384P
    let u := a.x * (b.z * b.z % p) % p
    let v := b.x * (a.z * a.z % p) % p
    let s := a.y * (b.z * b.z * b.z % p) % p
    let t := b.y * (a.z * a.z * a.z % p) % p
    if u = v then (if s = t then a.double else P384.zero)
    else
      let h := p384Sub v u
      let r := p384Sub t s
      let hh := h * h % p
      let x := p384Sub (p384Sub (r * r) (hh * h)) (2 * u * hh)
      ⟨x, p384Sub (r * p384Sub (u * hh) x) (s * (hh * h)), h * a.z * b.z % p⟩

/-- k times a point, k of at most n bits, added to another. -/
def P384.mulAdd : Nat → Nat → P384 → P384 → P384
  | 0, _, _, b => b
  | n + 1, k, a, b => P384.mulAdd n (k / 2) a.double (if k % 2 = 1 then P384.add b a else b)

/-- Whether coordinates are those of a point of the curve. -/
def p384On (x y : Nat) : Bool :=
  decide (x < p384P ∧ y < p384P) && y * y % p384P == (x * x * x + (p384P - 3) * x + p384B) % p384P

/-- Whether a signature (r, sg) verifies under a public key (qx, qy) over a digest. -/
def ecdsaOk (qx qy r sg digest : BitVec 384) : Bool :=
  let n := p384N
  if r.toNat = 0 ∨ n ≤ r.toNat ∨ sg.toNat = 0 ∨ n ≤ sg.toNat ∨ p384On qx.toNat qy.toNat = false then false
  else
    let w := invMod n sg.toNat
    let g : P384 := ⟨p384G.1, p384G.2, 1⟩
    let q : P384 := ⟨qx.toNat, qy.toNat, 1⟩
    let c := P384.mulAdd 384 (r.toNat * w % n) q (P384.mulAdd 384 (digest.toNat * w % n) g P384.zero)
    c.z != 0 && c.x * invMod p384P (c.z * c.z) % p384P % n == r.toNat

end Sys2Proof.Machine
end

