-- ==== Sys2Proof/Machine/TwinSync.lean ====
section
/-! DEFINITION. State copies between twins (R424 to R427): the sync list, the state record of table TWN-9, the transaction on
the active and on the standby. -/

namespace Sys2Proof.Machine

/-! ### The sync list (R424) -/

/-- The header's programme mask, `LEAD` and the segments of a sync list. -/
structure SyncList where
  mask : W64
  lead : Nat
  segs : List (Nat × Nat)

/-- Whether bytes of a 32-byte record outside the given ones are 0. -/
def zeroOutside (b : List Byte) (keep : List Nat) : Bool :=
  (List.range 32).all (fun i => keep.contains i || b.getD i 0 == 0)

/-- A segment record: address and length, when it keeps the rules. -/
def syncSegment (b : List Byte) : Option (Nat × Nat) :=
  let a := leNat (b.take 6)
  let n := leNat ((b.drop 8).take 4)
  if a % 32 = 0 ∧ n % 32 = 0 ∧ n ≠ 0 ∧ zeroOutside b [0, 1, 2, 3, 4, 5, 8, 9, 10, 11] then some (a, n) else none

/-- Read the list at `TWN_LIST`; `none` for one that breaks the rules or does not read. -/
def State.readSyncList (s : State) : Option SyncList × State :=
  let a := bitsOf (s.pair .TWN_LIST_LO .TWN_LIST_HI 0 0) 47 0
  match s.cmdRead Src.twin a 32 with
  | (.inl _, s) => (none, s)
  | (.inr h, s) =>
    let n := leNat ((h.drop 8).take 1)
    let lead := leNat ((h.drop 9).take 1)
    if ¬ zeroOutside h [0, 1, 2, 3, 4, 5, 6, 7, 8, 9] ∨ 64 < n ∨ lead < 2 ∨ 15 < lead then (none, s)
    else match s.cmdReadIf (n != 0) Src.twin (a + 32) (32 * n) with
      | (.inl _, s) => (none, s)
      | (.inr b, s) =>
        let segs := (List.range n).filterMap (fun i => syncSegment ((b.drop (32 * i)).take 32))
        let total := (segs.map (fun x => x.2)).sum
        if segs.length = n ∧ total ≤ s.fget F.TWN_STAGE_HI_SIZE 0 0 * 2 ^ 20 then
          (some ⟨BitVec.ofNat 64 (leNat (h.take 8)), lead, segs⟩, s)
        else (none, s)

/-- The staging address of a segment: the segments lie one after another from `TWN_STAGE`. -/
def State.stageAddr (s : State) (segs : List (Nat × Nat)) (i : Nat) : Nat :=
  bitsOf (s.pair .TWN_STAGE_LO .TWN_STAGE_HI 0 0) 47 12 * 4096 + ((segs.take i).map (fun x => x.2)).sum

/-! ### The state record (table TWN-9) -/

/-- The picture that commits next, when it is a programme's sync picture: its count, its first programme row and its
configuration. -/
def Pgm.nextSync (p : Pgm) : Option (Nat × Nat × PgmCfg) :=
  match p.pics with
  | x :: _ => match x.open_ with
    | some o => if o.sync ∧ o.j0 = p.committed then some (x.c, o.j0, o.cfg) else none
    | none => if p.isSync x then some (x.c, p.nextRow, p.cfg) else none
  | [] => match p.expected with
    | some e => if p.isSync { c := p.nextPic, t := e, cmd := none } then some (p.nextPic, p.nextRow, p.cfg) else none
    | none => none

/-- The state record of a programme before the picture of count c that starts at programme row j0. -/
def Pgm.record (p : Pgm) (c j0 : Nat) (cfg : PgmCfg) : List Byte :=
  let st := Tab.getD p.states p.committed {}
  let hist (l : List Nat) : List Byte := (List.range 68).flatMap (fun i => leBytes 4 (l.getD i 0))
  leBytes 8 st.v ++ leBytes 8 (j0 - cfg.n0 + cfg.nAdd) ++ leBytes 8 st.actSum ++ leBytes 8 st.predSum ++
    leBytes 1 (b2n st.picFloor + 2 * b2n p.capFloor) ++ leBytes 1 p.credit ++ leBytes 2 0 ++ leBytes 4 st.lgRef ++
    leBytes 8 st.lgSum ++ leBytes 4 st.lgCnt ++ leBytes 4 c ++ leBytes 4 p.records ++ leBytes 4 0 ++
    hist st.histRap ++ hist st.histInter ++ leBytes 416 0

/-- The rate state in a record. -/
def recordRate (b : List Byte) (rows : Nat) : RateSt :=
  let at_ (o n : Nat) : Nat := leNat ((b.drop o).take n)
  { v := at_ 0 8, actSum := at_ 16 8, predSum := at_ 24 8, picFloor := at_ 32 1 % 2 == 1, lgRef := at_ 36 4
    lgSum := at_ 40 8, lgCnt := at_ 48 4
    histRap := (List.range rows).map (fun i => at_ (64 + 4 * i) 4)
    histInter := (List.range rows).map (fun i => at_ (336 + 4 * i) 4) }

/-! ### The active (table TWN-8) -/

/-- Words of bytes, zero-padded. -/
def bytesWords (b : List Byte) : List W64 :=
  (List.range (ceilDiv b.length 8)).map (fun i => BitVec.ofNat 64 (leNat ((b.drop (8 * i)).take 8)))

/-- Send the bytes of one segment in messages of 4,096 bytes (step 4). -/
def State.sendSegment (s : State) (num i : Nat) (b : List Byte) : State :=
  (List.range (ceilDiv b.length 4096)).foldl (fun s d =>
    let part := (b.drop (4096 * d)).take 4096
    s.twinBulk 0x09 ([BitVec.ofNat 64 (num + i * 2 ^ 16), BitVec.ofNat 64 (4096 * d + part.length * 2 ^ 32)] ++ bytesWords part)) s

/-- After the last capture each segment is read and sent. -/
def State.syncSegments (s : State) : State :=
  match s.twin.trans with
  | none => s
  | some x =>
    if ¬ x.active ∨ ¬ x.todo.isEmpty ∨ x.segsSent then s
    else
      let s := (List.range x.segs.length).foldl (fun s i =>
        let (a, n) := x.segs.getD i (0, 0)
        let ((b, _), s) := s.readOpen Src.twin a n (wordsOf a n) [] []
        s.sendSegment x.num i b) s
      s.setTwin { s.twin with trans := some { x with segsSent := true } }

/-- At the commit of the last row before a sync picture the active captures the state record and sends SYNC_STATE. -/
def State.syncCapture (s : State) (k : Nat) : State :=
  match s.twin.trans, (Tab.getD s.pgms k {}).nextSync with
  | some x, some (c, j0, cfg) =>
    if x.active ∧ x.todo.contains k then
      let r := (Tab.getD s.pgms k {}).record c j0 cfg
      let s := s.twinBulk 0x08 (BitVec.ofNat 64 (x.num + k * 2 ^ 16) :: bytesWords r)
      let s := s.setTwin { s.twin with
        trans := some { x with todo := x.todo.filter (· ≠ k), records := Tab.set x.records k r } }
      s.syncSegments
    else s
  | _, _ => s

/-- The expected T of a programme's sync picture, `LEAD` frame periods after its latest accepted picture (R186). -/
def Pgm.syncPicT (p : Pgm) (lead : Nat) : Option Frac := p.lastT.map (fun t => t.add (p.lastCfg.frame.times lead))

/-- T packed as R333 states, rounded down to a nanosecond. -/
def packFrac (t : Frac) : W64 := packTime (BitVec.ofNat 64 (t.floor / 1000000000)) (t.floor % 1000000000)

/-- Steps 1 and 2 on the active: SYNC_OPEN is sent and the sync pictures are marked. -/
def State.syncStart (s : State) (l : SyncList) : State :=
  let pt (k : Nat) : Option Frac := (Tab.getD s.pgms k {}).syncPicT l.lead
  let ks := (maskPgms l.mask).filter (fun k => (Tab.getD s.pgms k {}).st == .active && (pt k).isSome)
  let mask : W64 := BitVec.ofNat 64 ((ks.map (fun k => 2 ^ k)).sum)
  let num := s.twin.nextTrans
  let s := s.twinCtl 0x07 ([BitVec.ofNat 64 (num + l.segs.length * 2 ^ 16 + l.lead * 2 ^ 24), mask] ++
    ks.map (fun k => packFrac ((pt k).getD {})))
  let s := { s with pgms := s.pgms.map (fun (x : Nat × Pgm) => if ks.contains x.1 then (x.1, { x.2 with syncT := pt x.1 }) else x) }
  (s.setTwin { s.twin with
    nextTrans := (num + 1) % 65536, trans := some { num := num, active := true, mask := mask, segs := l.segs, todo := ks } }).syncSegments

/-- Whether this part may start a transaction (R425). -/
def State.maySync (s : State) : Bool :=
  s.twin.st == .active && s.twin.link && (match s.twin.peer with
    | some p => p.st == 3
    | none => false) && s.twin.trans.isNone

/-! ### The standby (table TWN-8) -/

/-- The open or waiting picture marked as a programme's sync picture. -/
def Pgm.syncPic (p : Pgm) : Option PicRec :=
  p.pics.find? (fun x => match x.open_ with
    | some o => o.sync
    | none => p.isSync x)

/-- The first programme row of a picture: as it opened, or as it will. -/
def Pgm.firstRow (p : Pgm) (x : PicRec) : Nat :=
  match x.open_ with
  | some o => o.j0
  | none => p.nextRow + ((p.pics.filter (fun y => y.open_.isNone && decide (y.c < x.c))).map
      (fun y => (p.cfgAt y.c).nrows)).sum

/-- A state record is installed in a programme (R426), when row 0 of its sync picture has not been planned: the picture count
and the grants follow the record at once, the rest at that row. -/
def Pgm.install (p : Pgm) (b : List Byte) : Option Pgm :=
  match p.syncPic with
  | none => none
  | some x =>
    let j0 := p.firstRow x
    if j0 < p.committed + p.rows.length then none
    else
      let at_ (o n : Nat) : Nat := leNat ((b.drop o).take n)
      let c := at_ 52 4
      let move (y : Nat) : Nat := if x.c ≤ y then y + c - x.c else y
      let base := (match x.open_ with
        | some o => o.cfg
        | none => p.cfg).n0
      let shift (cfg : PgmCfg) : PgmCfg := if cfg.n0 = base then { cfg with n0 := j0, nAdd := at_ 8 8 } else cfg
      let pic (y : PicRec) : PicRec :=
        if x.c ≤ y.c then { y with c := move y.c, open_ := y.open_.map (fun o => { o with cfg := shift o.cfg }) } else y
      some { p with
        cfg := shift p.cfg, pics := p.pics.map pic, inPics := p.inPics.map (fun y => (pic y.1, y.2))
        nextPic := move p.nextPic, lastRap := move p.lastRap, syncHold := false, capFloor := at_ 32 1 / 2 % 2 == 1
        sync := some ⟨j0, recordRate b 68, at_ 33 1, at_ 56 4⟩ }

/-- What an installed record replaces once the rows before its picture have committed. -/
def State.syncApply (s : State) (k : Nat) : State :=
  let p := Tab.getD s.pgms k {}
  match p.sync with
  | none => s
  | some x =>
    if p.committed < x.j0 then s
    else
      let s := { s with pgms := Tab.set s.pgms k { p with
        states := Tab.set p.states x.j0 x.st, credit := x.credit, records := x.records, sync := none } }
      ((s.fset F.PAN_PGM_ROW_CREDIT (64 + k) 0 x.credit).fset F.PAN_PGM_BUCKET_FILL (64 + k) 0 x.st.v).fset
        F.PAN_PGM_STATE_CAPFLOOR (64 + k) 0 (b2n p.capFloor)

/-- Install the records of a transaction; the programmes installed. -/
def State.installAll : List (Nat × List Byte) → State → List Nat × State
  | [], s => ([], s)
  | (k, b) :: t, s =>
    match (Tab.getD s.pgms k {}).install b with
    | none => State.installAll t s
    | some p =>
      let (l, s) := State.installAll t ({ s with pgms := Tab.set s.pgms k p }.syncApply k)
      (k :: l, s)

/-- Copy words within memory: one that reads as poison is written as the poison pattern. -/
def State.copyWords (src dst : Nat) : List Nat → State → State
  | [], s => s
  | i :: t, s =>
    let (r, s) := s.memRead Src.twin (src + 32 * i)
    let s := match r with
      | .ok d => (s.memWrite Src.twin (dst + 32 * i) d).2
      | _ => s
    State.copyWords src dst t s

/-- The segment bytes received. -/
def SyncTrans.segBytes (x : SyncTrans) : Nat := (x.got.map (fun g => g.2.2)).sum

/-- Step 5 on the standby, once the counts of SYNC_COMMIT are met: the segments are copied, the records installed, the
programmes synchronised, and sync-done is posted. -/
def State.syncTry (s : State) : State :=
  match s.twin.trans with
  | none => s
  | some x =>
    match x.commit with
    | some (states, bytes) =>
      if ¬ x.active ∧ x.records.length = states ∧ x.segBytes = bytes then
        let s := (List.range x.segs.length).foldl (fun s i =>
          let (a, n) := x.segs.getD i (0, 0)
          if bytes = 0 then s else State.copyWords (s.stageAddr x.segs i) a (List.range (n / 32)) s) s
        let (ks, s) := State.installAll x.records s
        let s := s.setTwinSync (s.twinSync ||| BitVec.ofNat 64 ((ks.map (fun k => 2 ^ k)).sum))
        let s := { s with pgms := s.pgms.map (fun (y : Nat × Pgm) => if x.mask.getLsbD y.1 then (y.1, { y.2 with syncHold := false }) else y) }
        (s.setTwin { s.twin with trans := none }).post Src.twin 0x1505 [.u 2 x.num, .u 1 ks.length, .u 1 0]
      else s
    | none => s

/-- SYNC_OPEN at the standby (steps 1 and 2). -/
def State.syncOpened (s : State) (p : List W64) : State :=
  let w1 := p.getD 0 0
  let mask := p.getD 1 0
  let s := match s.twin.trans with
    | some x => s.clearSyncMarks x.mask
    | none => s
  let s := (maskPgms mask).foldl State.unsync s
  let (l, s) := s.readSyncList
  let segs := match l with
    | some l => if l.segs.length = bitsOf w1 23 16 then l.segs else []
    | none => []
  let ts := (maskPgms mask).zip (p.drop 2)
  let s := { s with pgms := s.pgms.map (fun (y : Nat × Pgm) => match ts.find? (fun (z : Nat × W64) => z.1 == y.1) with
    | some z => (y.1, { y.2 with syncT := some (Frac.ofNat (s.unpackTime z.2)), syncHold := true })
    | none => y) }
  s.setTwin { s.twin with trans := some { num := bitsOf w1 15 0, active := false, mask := mask, segs := segs } }

/-- A row of a programme has committed: what the twin unit does at it (R425, R426). -/
def State.syncRow (s : State) (k : Nat) (last : Bool) : State :=
  let s := s.syncApply k
  if last then s.syncCapture k else s

end Sys2Proof.Machine
end

