-- ==== Sys2Proof/Machine/Twin.lean ====
section
/-! DEFINITION. The commands of the twin unit (chapter 16). A row that names a message carries the words that arrived; a row
that names a write carries the requester and the value; one that names an elapsed time takes place when that time has
passed. -/

namespace Sys2Proof.Machine

/-! ### Enable, heartbeat, roles -/

/-- Whether quads Q8 and Q9 are in mode 2 with `READY` = 1 (R429). -/
def State.sluiceReady (s : State) : Bool :=
  [8, 9].all (fun q => s.fget F.LN_CFG_MODE q 0 == 2 && s.flag F.LN_CFG_READY q 0)

/-- TWIN_ENABLE: a write of `TWN_CTRL` that sets `EN` (R404, R429). -/
def execTwinEnable (req : Nat) (val : BitVec 32) (s : State) : Res :=
  let _ := req
  .next (
    if ¬ bitOf val 0 then s
    else if s.flag F.TWN_CTRL_EN 0 0 then s.wrReg .TWN_CTRL 0 0 val
    else if ¬ s.sluiceReady then s.fset F.TWN_STAT_DENIED 0 0 1
    else match s.submit ⟨Src.twin, .twin, [(52, 2000), (53, 2000)]⟩ with
      | (false, s) => s.fset F.TWN_STAT_DENIED 0 0 1
      | (true, s) =>
        let s := ((s.applyCharge .twin).wrReg .TWN_CTRL 0 0 val).fset F.TWN_ERR_MISMATCH 0 0 0
        (s.setTwin { s.twin with peer := none, current := false, peerActive := false, seen := none }).setRole .pairing 0)

/-- TWIN_DISABLE: a write of `TWN_CTRL` with `EN` = 0 (R404, R407, R429). -/
def execTwinDisable (req : Nat) (val : BitVec 32) (s : State) : Res :=
  let _ := req
  .next (
    if bitOf val 0 then s
    else
      let s := s.wrReg .TWN_CTRL 0 0 val
      if s.twin.st = .solo then s
      else
        let was := s.twin.link
        let s := (s.setRole .solo 8).releaseCharge .twin
        let s := s.setTwin { s.twin with link := false, current := false, peerActive := false, peer := none, seen := none }
        let s := if was then s.post Src.twin 0x1503 [.u 1 0] else s
        s.twinLetGo)

/-- HEARTBEAT_SEND (R411): a HEARTBEAT message and a pulse, except after a watchdog expiry (R423). -/
def execHeartbeatSend (s : State) : Res :=
  .next (
    if s.twin.st = .solo ∨ s.twin.silent then s
    else
      let t := s.twin
      let w1 := BitVec.ofNat 64 (t.beats.toNat + t.st.code * 2 ^ 32 + b2n s.primary * 2 ^ 35 + b2n s.warmReady * 2 ^ 36)
      let s := s.twinCtl 0x01 [w1, Config.uid, s.twinSync]
      s.setTwin { s.twin with beats := t.beats + 1, out := s.twin.out ++ [.pulse (t.st == .active)] })

/-- What the peer's state, as heard over the link, does to this part's (table TWN-2, R406, R422). -/
def State.heard (s : State) (p : Peer) : State :=
  match s.twin.st with
  | .pairing =>
    if p.st = 2 then s.setRole .standby 0
    else if p.st = 1 ∨ p.st = 3 then (if s.wins p then s.setRole .active 0 else s.setRole .standby 0)
    else s
  | .active =>
    if p.st = 2 ∧ ¬ s.wins p then (s.standDown 5).post Src.twin 0x1506 [.u 8 p.uid.toNat] else s
  | .solo | .standby | .isolated => s

/-- HEARTBEAT (R404, R406, R411, R422, R427). -/
def execHeartbeat (words : List (BitVec 64)) (s : State) : Res :=
  .next (s.twinReceive 0x01 words fun pl s =>
    let w1 := pl.getD 0 0
    let p : Peer := { count := w1.extractLsb' 0 32, st := bitsOf w1 34 32, primary := bitOf w1 35, warm := bitOf w1 36,
                      uid := pl.getD 1 0, sync := pl.getD 2 0 }
    let changed : Bool := match s.twin.peer with
      | some q => q.st != p.st
      | none => false
    let s := if changed then s.syncEnd 0 3 else s
    let s := s.setTwin { s.twin with peer := some p, current := true, peerActive := p.st == 2 }
    if s.twin.link then s.heard p else s)

/-- HB_PULSE: a high pulse of some ns on HB_IN (R411). One of active width makes a PAIRING or ACTIVE part STANDBY (table TWN-2,
R419); a part that loses a contention so posts dual-active (R406, R422). -/
def execHbPulse (ns : Nat) (s : State) : Res :=
  .next (
    if s.twin.st = .solo ∨ ns < 1000 ∨ 10000 < ns then s
    else
      let active := decide (ns < 4000)
      let s := s.setTwin { s.twin with current := true, peerActive := active }
      if ¬ active then s
      else match s.twin.st with
        | .pairing => s.setRole .standby 0
        | .active =>
          let loses : Bool := match s.twin.peer with
            | some p => !s.wins p
            | none => false
          let s' := s.standDown 4
          match loses, s.twin.peer with
          | true, some p => s'.post Src.twin 0x1506 [.u 8 p.uid.toNat]
          | _, _ => s'
        | .solo | .standby | .isolated => s)

/-- HEARTBEAT_LOST (R411, R412). -/
def execHeartbeatLost (s : State) : Res :=
  .next (
    if s.twin.st = .solo ∨ ¬ s.twin.current then s
    else
      let s := s.setTwin { s.twin with current := false }
      if (s.twin.st = .standby ∨ s.twin.st = .isolated) ∧ s.twin.peerActive then s.takeover 1 else s.twinLetGo)

/-- PAIRING_TIMEOUT: no peer heartbeat for 200 µs after PAIRING was entered (table TWN-2). -/
def execPairingTimeout (s : State) : Res :=
  .next (if s.twin.st = .pairing ∧ ¬ s.twin.current then s.setRole .active 0 else s)

/-- STANDBY_CONTENTION: the peer has been in STANDBY for 200 µs and this part wins (table TWN-2, R406). -/
def execStandbyContention (s : State) : Res :=
  .next (match s.twin.peer with
    | some p => if s.twin.st = .standby ∧ s.twin.current ∧ s.twin.link ∧ p.st = 3 ∧ s.wins p then s.takeover 5 else s
    | none => s)

/-! ### The link (R410, R421) -/

/-- At least one control lane and one bulk lane are locked. -/
def State.lanesLocked (s : State) : Bool :=
  [8, 9].any (fun q => s.flag F.LN_LANE_STAT_LOCK q 0) &&
    [8, 9].any (fun q => [1, 2, 3].any (fun l => s.flag F.LN_LANE_STAT_LOCK q l))

/-- SLUICE_LINK_UP: lanes are locked and a valid control message has arrived. -/
def execSluiceLinkUp (s : State) : Res :=
  .next (
    if s.twin.st = .solo ∨ s.twin.link ∨ ¬ s.lanesLocked then s
    else
      let s := (s.setTwin { s.twin with link := true }).post Src.twin 0x1503 [.u 1 1]
      if s.twin.st = .isolated then s.setRole .standby 7 else s)

/-- SLUICE_LINK_DOWN (R410, R413, R421, R427). -/
def execSluiceLinkDown (s : State) : Res :=
  .next (
    if ¬ s.twin.link then s
    else
      let s := (s.setTwin { s.twin with link := false, seen := none }).post Src.twin 0x1503 [.u 1 0]
      let s := s.syncEnd 0 3
      let s := if s.twin.st = .standby ∧ s.twin.current then
          (s.setRole .isolated 6).unsyncAll.fset F.TWN_STAT_ALARM 0 0 1
        else s
      s.twinLetGo)

/-! ### Input agreement (R413 to R415) -/

/-- IN_SIG. -/
def execInSig (words : List (BitVec 64)) (s : State) : Res :=
  .next (s.twinReceive 0x02 words fun pl s =>
    let p := bidOf (pl.getD 0 0) (pl.getD 1 0)
    if ¬ s.twinHolds then s
    else match s.heldFor p with
      | some (d, b) => s.twinAgree d b p
      | none =>
        if s.twin.bands.any (fun b => s.sameBand b p) then s
        else s.setTwin { s.twin with peerBands := s.twin.peerBands ++ [p] })

/-- BAND_HOLD_TIMEOUT: the oldest band without agreement has been held `RWAIT` µs (R414, R415). -/
def execBandHoldTimeout (s : State) : Res :=
  .next (match s.twin.bands.findIdx? (fun b => b.released.isNone) with
    | none => s
    | some d => match s.twin.bands[d]? with
      | none => s
      | some b => (s.setBands (s.twin.bands.modify d (fun b => b.release s.nowNs))).repairEvent b 2)

/-- Send a band's bytes, luma lines then chroma lines, in messages of 4,096 bytes (R415). -/
def State.sendBand (s : State) (b : HeldBand) : State :=
  let (bytes, s) := b.lines.foldl (fun (acc : List Byte × State) x =>
    let ((l, _), s) := acc.2.readOpen Src.twin x.1 x.2 (wordsOf x.1 x.2) [] []
    (acc.1 ++ l, s)) ([], s)
  let n := ceilDiv bytes.length 4096
  (List.range n).foldl (fun s d =>
    let part := (bytes.drop (4096 * d)).take 4096
    s.twinBulk 0x05 (bidWords b false ++
      [BitVec.ofNat 64 (4096 * d + part.length * 2 ^ 32 + b2n (d + 1 == n) * 2 ^ 48)] ++ bytesWords part)) s

/-- REPAIR_REQ: the band's bytes, or REPAIR_NAK when it is unknown or was released more than `RWAIT` µs before. -/
def execRepairReq (words : List (BitVec 64)) (s : State) : Res :=
  .next (s.twinReceive 0x04 words fun pl s =>
    let p := bidOf (pl.getD 0 0) (pl.getD 1 0)
    let known (b : HeldBand) : Bool := s.sameBand b p && (match b.released with
      | some t => decide (s.nowNs ≤ t + s.rwait)
      | none => true)
    match s.twin.bands.find? known with
    | some b => s.sendBand b
    | none => s.twinCtl 0x06 [pl.getD 0 0, pl.getD 1 0])

/-- REPAIR_DATA: bytes of the peer's band are written at their offset; the last of them releases the band (R414, R415). -/
def execRepairData (words : List (BitVec 64)) (s : State) : Res :=
  .next (s.twinReceive 0x05 words fun pl s =>
    let p := bidOf (pl.getD 0 0) (pl.getD 1 0)
    let w3 := pl.getD 2 0
    match s.heldFor p with
    | none => s
    | some (d, b) => match b.repair with
      | none => s
      | some (c, complete) =>
        let off := bitsOf w3 31 0
        let n := bitsOf w3 47 32
        let s := State.bandWrite b.lines (b.lines.length + 1) off ((wordBytes (pl.drop 3)).take n) s
        let b' := { b with got := Tab.set b.got off n }
        if b.size ≤ (b'.got.map (fun x => x.2)).sum then
          (s.setBands (s.twin.bands.modify d (fun _ => b'.repaired c complete s.nowNs))).repairEvent b 0
        else s.setBands (s.twin.bands.modify d (fun _ => b')))

/-- REPAIR_NAK (R415). -/
def execRepairNak (words : List (BitVec 64)) (s : State) : Res :=
  .next (s.twinReceive 0x06 words fun pl s =>
    match s.heldFor (bidOf (pl.getD 0 0) (pl.getD 1 0)) with
    | none => s
    | some (d, b) =>
      if b.repair.isSome then (s.setBands (s.twin.bands.modify d (fun b => b.release s.nowNs))).repairEvent b 1 else s)

/-! ### Output comparison (R417) -/

/-- OUT_SIG. -/
def execOutSig (words : List (BitVec 64)) (s : State) : Res :=
  .next (s.twinReceive 0x03 words fun pl s =>
    let w1 := pl.getD 0 0
    let peer : RowSig := ⟨bitsOf w1 5 0, (pl.getD 1 0).extractLsb' 0 32, w1.extractLsb' 32 32, bitsOf w1 15 8⟩
    if ¬ s.compares peer.pgm then s
    else match s.twin.rows.find? (fun r => r.same peer) with
      | some own => s.rowCompare own peer
      | none => s.setTwin { s.twin with peerRows := s.twin.peerRows ++ [peer] })

/-- OUT_SIG_TIMEOUT: the active's OUT_SIG for the oldest row that awaits one has not come. -/
def execOutSigTimeout (s : State) : Res :=
  .next (match s.twin.rows with
    | [] => s
    | own :: t =>
      if ¬ s.compares own.pgm then s
      else
        let last := Tab.getD s.twin.lastFi own.pgm (own.fi, own.fi)
        (s.setTwin { s.twin with rows := t }).rowDiffers own.pgm own.rec_ false (last.2 != own.fi))

/-! ### Takeover and planned switch (R419, R420, R428) -/

/-- UNMUTE: `SWITCH` µs have passed since the takeover decision. -/
def execUnmute (s : State) : Res :=
  .next (if s.twin.st = .active then s.setTwin { s.twin with muteUntil := false } else s)

/-- A ROLE message of a kind. -/
def State.roleMessage (s : State) (kind : Nat) (words : List W64) (f : W64 → State → State) : State :=
  if bitsOf (words.getD 1 0) 3 0 = kind then s.twinReceive 0x0C words (fun pl s => f (pl.getD 1 0) s)
  else match twinParse words with
    | none => s.twinReceive 0x0C words (fun _ s => s)
    | some _ => s

/-- ROLE_TAKE. -/
def execRoleTake (words : List (BitVec 64)) (s : State) : Res :=
  .next (s.roleMessage 1 words fun _ s => if s.twin.st = .active then s.standDown 4 else s)

/-- ROLE_YIELD. -/
def execRoleYield (words : List (BitVec 64)) (s : State) : Res :=
  .next (s.roleMessage 2 words fun _ s => if s.twin.st = .standby then s.takeover 3 else s)

/-- SWITCH_REQ: an ACTIVE part, or a warm-ready one, with the link up answers with SWITCH_ACK. -/
def execSwitchReq (words : List (BitVec 64)) (s : State) : Res :=
  .next (s.roleMessage 3 words fun t s =>
    if s.twin.link ∧ (s.twin.st = .active ∨ s.warmReady) then
      (s.twinCtl 0x0C [4, t]).setTwin { (s.twinCtl 0x0C [4, t]).twin with switchAt := some t }
    else s)

/-- SWITCH_ACK. -/
def execSwitchAck (words : List (BitVec 64)) (s : State) : Res :=
  .next (s.roleMessage 4 words fun t s =>
    if s.twin.asked then s.setTwin { s.twin with switchAt := some t } else s)

/-- PLANNED_SWITCH: the first tick at or after the agreed time; no ROLE TAKE is sent, and `TWN_SYNC` stays. -/
def execPlannedSwitch (s : State) : Res :=
  .next (match s.twin.switchAt with
    | none => s
    | some t =>
      if s.nowNs < s.unpackTime t then s
      else
        let asked := s.twin.asked
        let done (s : State) : State := if asked then s.post Src.twin 0x1507 [.u 1 1] else s
        match s.twin.st with
        | .active => done (s.setRole .standby 3)
        | .standby => done (s.setRole .active 3)
        | .solo | .pairing | .isolated => s.setTwin { s.twin with switchAt := none, asked := false })

/-- Ask the peer for a switch 1 ms from now. -/
def State.switchRequest (s : State) : State :=
  let (sec, ns) := (s.nowNs / 1000000000, s.nowNs % 1000000000 + 1000000)
  let t := packTime (BitVec.ofNat 64 (sec + ns / 1000000000)) (ns % 1000000000)
  let s := s.twinCtl 0x0C [3, t]
  (s.setTwin { s.twin with asked := true, switchAt := none }).post Src.twin 0x1507 [.u 1 0]

/-- REVERT_HOLDOFF. -/
def execRevertHoldoff (s : State) : Res :=
  .next (
    if s.primary ∧ s.warmReady ∧ s.fget F.TWN_CFG_HOLDOFF 0 0 ≠ 0 ∧ ¬ s.twin.asked then s.switchRequest else s)

/-- REVERT_TIMEOUT. -/
def execRevertTimeout (s : State) : Res :=
  .next (
    if s.twin.asked ∧ s.twin.switchAt.isNone then
      (s.setTwin { s.twin with asked := false }).post Src.twin 0x1507 [.u 1 2]
    else s)

/-! ### Watchdog (R423) -/

/-- WDOG_KICK: a write of `TWN_WDOG`. -/
def execWdogKick (req : Nat) (val : BitVec 32) (s : State) : Res :=
  let _ := req
  let s := s.wrReg .TWN_WDOG 0 0 val
  .next (if bitOf val 31 then s.setTwin { s.twin with silent := false } else s)

/-- WDOG_EXPIRY. -/
def execWdogExpiry (s : State) : Res :=
  .next (
    if s.fget F.TWN_WDOG_PERIOD 0 0 = 0 then s
    else
      let st := s.twin.st.code
      let s :=
        if s.twin.st = .active ∧ s.twin.current then
          let s := if s.twin.link then s.twinCtl 0x0C [2, 0] else s
          let s := s.standDown 3
          s.setTwin { s.twin with silent := true }
        else s
      s.post Src.twin 0x1508 [.u 1 st])

/-! ### State copy (R424 to R427) -/

/-- TWN_SYNC: a write of `TWN_CMD` with `OP` 1. -/
def execTwnSync (req : Nat) (val : BitVec 32) (s : State) : Res :=
  let _ := req
  .next (
    if bitsOf val 3 0 ≠ 1 then s
    else if ¬ s.maySync then s.fset F.TWN_STAT_CMDERR 0 0 1
    else match s.readSyncList with
      | (some l, s) => s.syncStart l
      | (none, s) => (s.fset F.TWN_STAT_CMDERR 0 0 1).post Src.twin 0x1505 [.u 2 s.twin.nextTrans, .u 1 0, .u 1 4])

/-- TWN_ABORT: a write of `TWN_CMD` with `OP` 2 ends the active's transaction. -/
def execTwnAbort (req : Nat) (val : BitVec 32) (s : State) : Res :=
  let _ := req
  .next (
    if bitsOf val 3 0 ≠ 2 then s
    else match s.twin.trans with
      | some x => if x.active then (s.twinCtl 0x0B [BitVec.ofNat 64 x.num]).syncEnd 0 1 else s
      | none => s)

/-- AUTO_SYNC: the peer's heartbeat shows a clear bit for a programme that is ACTIVE here. -/
def execAutoSync (s : State) : Res :=
  .next (
    if ¬ s.flag F.TWN_CTRL_AUTO 0 0 ∨ ¬ s.maySync then s
    else match s.twin.peer, s.readSyncList with
      | some p, (some l, s') =>
        let want : W64 := BitVec.ofNat 64 ((s.activePgms.map (fun k => 2 ^ k)).sum)
        let mask := l.mask &&& want &&& ~~~p.sync
        if mask = 0 then s else s'.syncStart { l with mask := mask }
      | _, _ => s)

/-- SYNC_OPEN at a standby. -/
def execSyncOpen (words : List (BitVec 64)) (s : State) : Res :=
  .next (s.twinReceive 0x07 words fun pl s => if s.twin.st = .standby then s.syncOpened pl else s)

/-- SYNC_STATE: the record is staged. -/
def execSyncState (words : List (BitVec 64)) (s : State) : Res :=
  .next (s.twinReceive 0x08 words fun pl s =>
    let w1 := pl.getD 0 0
    match s.twin.trans with
    | some x =>
      if ¬ x.active ∧ x.num = bitsOf w1 15 0 ∧ x.mask.getLsbD (bitsOf w1 21 16) then
        (s.setTwin { s.twin with
          trans := some { x with records := Tab.set x.records (bitsOf w1 21 16) (wordBytes (pl.drop 1)) } }).syncTry
      else s
    | none => s)

/-- SYNC_SEG: the bytes are staged. -/
def execSyncSeg (words : List (BitVec 64)) (s : State) : Res :=
  .next (s.twinReceive 0x09 words fun pl s =>
    let w1 := pl.getD 0 0
    let w2 := pl.getD 1 0
    match s.twin.trans with
    | some x =>
      let i := bitsOf w1 23 16
      let off := bitsOf w2 31 0
      let n := bitsOf w2 47 32
      if ¬ x.active ∧ x.num = bitsOf w1 15 0 ∧ i < x.segs.length ∧ off + n ≤ (x.segs.getD i (0, 0)).2 then
        let s := (s.writeRange Src.twin (s.stageAddr x.segs i + off) ((wordBytes (pl.drop 2)).take n)).2
        (s.setTwin { s.twin with trans := some { x with got := x.got ++ [(i, off, n)] } }).syncTry
      else s
    | none => s)

/-- SYNC_COMMIT_SEND: every bulk message of the transaction has been sent. -/
def execSyncCommitSend (s : State) : Res :=
  .next (match s.twin.trans with
    | some x =>
      if x.active ∧ x.todo.isEmpty ∧ x.segsSent then
        let s := s.twinCtl 0x0A [BitVec.ofNat 64 (x.num + x.records.length * 2 ^ 16),
          BitVec.ofNat 64 ((x.segs.map (fun g => g.2)).sum)]
        s.setTwin { s.twin with trans := none }
      else s
    | none => s)

/-- SYNC_COMMIT: the counts, which may be met at once. -/
def execSyncCommit (words : List (BitVec 64)) (s : State) : Res :=
  .next (s.twinReceive 0x0A words fun pl s =>
    let w1 := pl.getD 0 0
    match s.twin.trans with
    | some x =>
      if ¬ x.active ∧ x.num = bitsOf w1 15 0 then
        (s.setTwin { s.twin with trans := some { x with commit := some (bitsOf w1 23 16, (pl.getD 1 0).toNat) } }).syncTry
      else s
    | none => s)

/-- SYNC_COMMIT_TIMEOUT: the counts were not met within 50 µs. -/
def execSyncCommitTimeout (s : State) : Res :=
  .next (match s.twin.trans with
    | some x => if ¬ x.active ∧ x.commit.isSome then s.syncEnd 0 2 else s
    | none => s)

/-- SYNC_ABORT. -/
def execSyncAbort (words : List (BitVec 64)) (s : State) : Res :=
  .next (s.twinReceive 0x0B words fun pl s =>
    match s.twin.trans with
    | some x => if ¬ x.active ∧ x.num = bitsOf (pl.getD 0 0) 15 0 then s.syncEnd 0 1 else s
    | none => s)

end Sys2Proof.Machine
end

