-- ==== Sys2Proof/Machine/SecOps.lean ====
section
/-! DEFINITION. The operations of the security controller (chapter 17): image trial and boot, fuses and service commands,
key store, tamper, debug access. -/

namespace Sys2Proof.Machine

/-- The state with the security controller changed. -/
def State.setSec (s : State) (x : Sec) : State := { s with sec := x }

/-! ### Fuses (R440) -/

/-- A root key slot. -/
def Fuses.slot (f : Fuses) (i : Nat) : FuseSlot := Tab.getD f.slots i {}

/-- A slot's code in `SEC_FUSE` (table SEC-10): 0 = blank, 1 = usable, 2 = revoked, 3 = SPOILED. -/
def FuseSlot.code (x : FuseSlot) : Nat :=
  if x.valid then (if x.revoked then 2 else 1) else if x.hash = 0 then 0 else 3

/-- The slots that are usable. -/
def Fuses.usable (f : Fuses) : List Nat := (List.range 4).filter (fun i => (f.slot i).code == 1)

/-- The value of `SEC_FUSE`. -/
def Fuses.word (f : Fuses) : W32 :=
  BitVec.ofNat 32 (b2n f.pref * 2 ^ 16 + f.svn * 2 ^ 8 + (List.range 4).foldl (fun a i => a + (f.slot i).code * 4 ^ i) 0)

/-! ### Images (R435 to R437) -/

/-- The first address of the staging bank. -/
def stagingBase : Nat := 0x001000000000

def hdrAt (h : List Byte) (o n : Nat) : Nat := leNat ((h.drop o).take n)
def hdrSeq (h : List Byte) : Nat := hdrAt h 0x008 4
def hdrSvn (h : List Byte) : Nat := hdrAt h 0x00C 1
def hdrKeyIdx (h : List Byte) : Nat := hdrAt h 0x00D 1
def hdrEntry (h : List Byte) : Nat := hdrAt h 0x00E 2
def hdrPlen (h : List Byte) : Nat := hdrAt h 0x010 4
/-- A 48-byte big-endian integer of a header. -/
def hdrInt (h : List Byte) (o : Nat) : BitVec 384 := BitVec.ofNat 384 (beAt h o 48)

/-- Whether a header passes the check of result 2 (table SEC-3): its fixed fields and the bytes that must be 0. -/
def headerOk (h : List Byte) : Bool :=
  let zero (lo hi : Nat) : Bool := ((h.drop lo).take (hi - lo)).all (fun b => b == 0)
  hdrAt h 0x000 4 == 0x4C4D6496 && hdrAt h 0x004 4 == 1 && hdrEntry h % 4 == 0 && hdrPlen h % 32 == 0 &&
    decide (524288 ≤ hdrPlen h ∧ hdrPlen h ≤ 8387584) && zero 0x014 0x040 && zero 0x0D0 0x300 && zero 0x360 0x400

/-- The result of the checks 2 to 4 of table SEC-3, 0 when a header passes them. -/
def State.headerResult (s : State) (h : List Byte) : Nat :=
  let f := s.sec.fuses
  if !headerOk h then 2
  else if !(f.usable.contains (hdrKeyIdx h)) ∨ (f.slot (hdrKeyIdx h)).hash ≠ sha384 ((h.drop 0x070).take 96) then 3
  else if hdrSvn h < f.svn then 4
  else 0

/-- Whether a header's signature verifies. -/
def signatureOk (h : List Byte) : Bool :=
  ecdsaOk (hdrInt h 0x070) (hdrInt h 0x0A0) (hdrInt h 0x300) (hdrInt h 0x330) (sha384 (h.take 0x300))

/-- The result of an image is recorded; the host's has no field. -/
def State.setResult (s : State) (img r : Nat) : State :=
  match img with
  | 0 => s.fset F.SEC_BOOT_STAT_RES_A 0 0 r
  | 1 => s.fset F.SEC_BOOT_STAT_RES_B 0 0 r
  | _ => s

/-- Both flash images have failed: FAIL, or WAIT for the host's (R437, table SEC-1). -/
def State.bootFail (s : State) : State :=
  let s := s.setSec { s.sec with bankLock := false, trial := none, order := [] }
  let s := s.fset F.SEC_BOOT_STAT_STATE 0 0 (if s.fget F.SEC_BOOT_STAT_MODE 0 0 = 0 then 4 else 1)
  s.post Src.security 0x0301 [.u 1 (s.fget F.SEC_BOOT_STAT_RES_A 0 0), .u 1 (s.fget F.SEC_BOOT_STAT_RES_B 0 0)]

/-- Try images in order: the first whose header passes goes on to its signature. -/
def State.tryImages : List Nat → State → State
  | [], s => s.bootFail
  | i :: t, s =>
    let h := Tab.getD s.sec.headers i []
    let r := s.headerResult h
    if r = 0 then s.setSec { s.sec with trial := some ⟨i, h, .signature⟩, order := t }
    else State.tryImages t (s.setResult i r)

/-- The image on trial fails: the next one is tried, or the host may stage again (R437, R439). -/
def State.trialFails (s : State) (img r : Nat) : State :=
  if img = 2 then
    (s.setSec { s.sec with bankLock := false, trial := none }).fset F.SEC_BOOT_STAT_STATE 0 0 1
  else State.tryImages s.sec.order (s.setResult img r)

/-- The staged payload has been checked: SP0 starts its image load from the staging bank (R438 step 1). -/
def State.bootLoad (s : State) (t : Trial) : State :=
  match s.rakeOf 0 with
  | none => s
  | some rk => (s.setSec { s.sec with trial := some { t with stage := .loading } }).startLoad rk 0 (stagingBase + 1024)

/-- The payload of the image on trial is in staging: its hash is checked (R436). -/
def State.checkPayload (s : State) (t : Trial) : State :=
  match s.readRange Src.security (stagingBase + 1024) (hdrPlen t.hdr) with
  | (.ok b, s) => if sha384 b = hdrInt t.hdr 0x040 then s.bootLoad t else s.trialFails t.img 6
  | (_, s) => s.trialFails t.img 7

/-- The first task of the firmware (R438 step 2). -/
def bootDesc (h : List Byte) : W64 := BitVec.ofNat 64 (hdrEntry h / 4 + 15 * 2 ^ 32 + 2 ^ 36)

/-- SP0 has been loaded: the firmware starts (R438 steps 2 to 4). -/
def State.bootDone (s : State) (t : Trial) : State :=
  let s := (s.armArrives 0 (bootDesc t.hdr)).fset F.TLY_CTRL_DISPATCH 0 0 1
  let s := s.setSec { s.sec with bankLock := false, trial := none }
  let s := ((s.setResult t.img 1).fset F.SEC_BOOT_STAT_IMG 0 0 t.img).fset F.SEC_BOOT_STAT_STATE 0 0 3
  s.post Src.security 0x0300 [.u 1 (s.fget F.SEC_BOOT_STAT_MODE 0 0), .u 1 t.img, .u 4 (hdrSeq t.hdr)]

/-- A write of `SEC_BOOT_CMD` (R439). -/
def State.bootCmdWrite (s : State) (val : W32) : State :=
  if ¬ bitOf val 0 then s
  else if s.fget F.SEC_BOOT_STAT_STATE 0 0 = 1 ∧ (s.fget F.SEC_BOOT_STAT_MODE 0 0 = 3 → s.flag F.SEC_STAT_PRES 0 0) then
    let s := (s.setSec { s.sec with bankLock := true }).fset F.SEC_BOOT_STAT_STATE 0 0 2
    match s.readRange Src.security stagingBase 1024 with
    | (.ok h, s) =>
      let r := s.headerResult h
      if r = 0 then s.setSec { s.sec with trial := some ⟨2, h, .signature⟩ } else s.trialFails 2 r
    | (_, s) => s.trialFails 2 7
  else s.fset F.SEC_BOOT_STAT_GOREF 0 0 1

/-! ### Zeroisation, debug (R446, R449) -/

/-- Debug access is relocked (R449): halted rakes resume (R52). -/
def State.relock (s : State) : State :=
  if s.debugOpen then ((s.fset F.SEC_STAT_DBG 0 0 0).post Src.security 0x0304 [.u 1 0]).resumeAll else s

/-- Key slots, key buffers and, with main power, SRTP contexts are zeroised (R446). -/
def State.zeroise (s : State) : State :=
  let s := s.setSec { s.sec with keys := [] }
  let s : State := { s with regs := s.regs.filter (fun (x : RegKey × W32) => x.1.reg != .SEC_KEY_BUF) }
  if s.resets.mainGood then
    s.setNet { s.net with tsh := s.net.tsh.map (fun (x : Nat × Tsh) => (x.1, { x.2 with ctxs := [] })) }
  else s

/-- The tamper event is posted, once the main domain has power (R446). -/
def State.tamperEvent (s : State) (n : Nat) : State :=
  if s.resets.mainGood then s.post Src.security 0x0302 [.u 1 n] else s.setSec { s.sec with tamperPost := some n }

/-- The tamper loop opens. -/
def State.tamper (s : State) : State :=
  let n := s.sec.keys.length
  let s := (s.fset F.SEC_STAT_LOOP 0 0 1).zeroise
  (s.fset F.SEC_STAT_TAMPER 0 0 1).relock.tamperEvent n

/-- A write of `SEC_STAT` (table SEC-11). -/
def State.secStatWrite (s : State) (val : W32) : State :=
  let s := if bitOf val 31 ∧ ¬ s.flag F.SEC_STAT_LOOP 0 0 then s.fset F.SEC_STAT_TAMPER 0 0 0 else s
  if bitOf val 27 then s.relock else s

/-- The challenge: nonce, the part's identifier, zero bytes (table SEC-6). -/
def challenge (nonce : BitVec 256) : List Byte :=
  leBytes 32 nonce.toNat ++ leBytes 8 Config.uid.toNat ++ List.replicate 24 0

/-- The key hash of a public key (R436). -/
def keyHash (qx qy : BitVec 384) : BitVec 384 := sha384 (beBytes 48 qx.toNat ++ beBytes 48 qy.toNat)

/-- A response at Update-DR (R449). -/
def State.response (s : State) (qx qy r sg : BitVec 384) : State :=
  let f := s.sec.fuses
  let keyOk := f.usable.any (fun i => (f.slot i).hash == keyHash qx qy)
  let ok := s.flag F.SEC_STAT_PRES 0 0 && keyOk && (match s.sec.nonce with
    | some x => ecdsaOk qx qy r sg (sha384 (challenge x))
    | none => false)
  let s := s.setSec { s.sec with nonce := none }
  if ok then
    let was := s.debugOpen
    let s := (s.zeroise).fset F.SEC_STAT_DBG 0 0 1
    if was then s else s.post Src.security 0x0304 [.u 1 1]
  else s.setSec { s.sec with failed := s.sec.failed + 1 }

/-- The DBG_CHAL data register captures (R449): zeros after three failed responses. -/
def State.dbgChal (s : State) : State :=
  if 3 ≤ s.sec.failed then s.setSec { s.sec with tap := { s.sec.tap with ir := 0x20, dr := 0 } }
  else
    let (x, s) := match s.sec.nonce with
      | some x => (x, s)
      | none => (s.free 256, s.drawn)
    s.setSec { s.sec with nonce := some x, tap := { s.sec.tap with ir := 0x20, dr := leNat (challenge x) } }

/-! ### Key store (R444) -/

/-- Word i of a requester's key buffer. -/
def State.keyWord (s : State) (req i : Nat) : W32 := s.reg .SEC_KEY_BUF 0 (req * 16 + i)

/-- Words lo to lo + n - 1 of a requester's key buffer as one number. -/
def State.keyWords (s : State) (req lo n : Nat) : Nat :=
  (List.range n).foldl (fun a i => a + (s.keyWord req (lo + i)).toNat * 2 ^ (32 * i)) 0

/-- A write of `SEC_KEY_CMD` (R444): the command ends with a status, and the requester's buffer is cleared. -/
def State.keyCmdWrite (s : State) (req : Nat) (val : W32) : State :=
  let slot := bitsOf val 13 8
  let saltLen := bitsOf val 7 4
  let klen := bitsOf val 3 2
  let op := bitsOf val 1 0
  let st : Nat :=
    if op = 1 then
      (if (klen ≠ 1 ∧ klen ≠ 2) ∨ 14 < saltLen then 2 else if s.flag F.SEC_STAT_LOOP 0 0 then 32 else 0)
    else if op = 2 then 0 else 2
  let key : KeySlot := {
    key := BitVec.ofNat 256 (s.keyWords req 0 (if klen = 1 then 4 else 8)), klen := klen
    salt := BitVec.ofNat 112 (s.keyWords req 8 4 % 256 ^ saltLen), saltLen := saltLen }
  let s := if st ≠ 0 then s
    else if op = 1 then s.setSec { s.sec with keys := Tab.set s.sec.keys slot key }
    else s.setSec { s.sec with keys := Tab.erase slot s.sec.keys }
  let s : State := { s with regs := s.regs.filter (fun (x : RegKey × W32) => !(x.1.reg == .SEC_KEY_BUF && x.1.sub / 16 == req)) }
  (s.fset F.SEC_KEY_STAT_STATUS 0 0 st).post Src.security 0x0305 [.u 1 slot, .u 1 op, .u 1 st]

/-! ### Service commands (R442, R443) -/

/-- A service record. -/
structure SvcRec where
  op : Nat
  arg : Nat
  value : Nat
  hash : BitVec 384
  zeros : Bool

/-- A service record out of its 64 bytes. -/
def svcRec (b : List Byte) : SvcRec :=
  { op := leNat (b.take 1), arg := leNat ((b.drop 1).take 1), value := leNat ((b.drop 4).take 4)
    hash := BitVec.ofNat 384 (leNat ((b.drop 16).take 48))
    zeros := ((b.drop 2).take 2 ++ (b.drop 8).take 8).all (fun x => x == 0) }

/-- Whether a record's fields are those of table SEC-4. -/
def SvcRec.ok (r : SvcRec) : Bool :=
  r.zeros && (match r.op with
    | 1 | 2 => decide (r.arg < 4)
    | 3 => (r.arg == 0 && decide (1 ≤ r.value ∧ r.value ≤ 64)) || (r.arg == 1 && r.value == 1)
    | 4 => decide (1 ≤ r.arg ∧ r.arg ≤ 3)
    | _ => false)

/-- Whether a switchover has an ACTIVE part with a warm-ready peer (table SEC-4). -/
def State.switchable (s : State) : Bool :=
  match s.twin.peer with
  | none => false
  | some p => s.twin.current && ((s.twin.st == .active && p.warm) || (s.warmReady && p.st == 2))

/-- Whether a record is refused with status 4 (table SEC-4). -/
def State.svcWrongState (s : State) (r : SvcRec) : Bool :=
  let f := s.sec.fuses
  match r.op, r.arg with
  | 1, i => (f.slot i).code != 0
  | 2, i => (f.slot i).code != 1 || !(f.usable.any (fun j => j != i))
  | 3, 0 => decide (r.value ≤ f.svn)
  | 3, _ => f.pref
  | 4, 3 => !s.switchable
  | _, _ => false

/-- A fuse slot is changed. -/
def State.setFuse (s : State) (i : Nat) (x : FuseSlot) : State :=
  s.setSec { s.sec with fuses := { s.sec.fuses with slots := Tab.set s.sec.fuses.slots i x } }

/-- Carry out a record that passed its checks; `words` is how many fuse words are blown before presence ends, if it does
(R443). The status, and the state after it. -/
def State.svcRun (s : State) (r : SvcRec) (words : Option Nat) : Nat × State :=
  let f := s.sec.fuses
  match r.op, r.arg with
  | 1, i =>
    match words with
    | some k =>
      if k < 13 then (31, s.setFuse i { hash := BitVec.ofNat 384 (r.hash.toNat % 2 ^ (32 * k)) })
      else (0, s.setFuse i { hash := r.hash, valid := true })
    | none => (0, s.setFuse i { hash := r.hash, valid := true })
  | 2, i => if words = some 0 then (31, s) else (0, s.setFuse i { f.slot i with revoked := true })
  | 3, 0 =>
    let first := f.svn / 32
    let top := match words with
      | some k => min r.value (32 * (first + k))
      | none => r.value
    (if top < r.value then 31 else 0, s.setSec { s.sec with fuses := { f with svn := max f.svn top } })
  | 3, _ => if words = some 0 then (31, s) else (0, s.setSec { s.sec with fuses := { f with pref := true } })
  | 4, 3 => if words = some 0 then (31, s) else (0, s.switchRequest)
  | _, a => if words = some 0 then (31, s) else (0, s.fset F.TWN_STAT_PREF 0 0 (b2n (a == 1)))

/-- A service command ends with a status. -/
def State.svcDone (s : State) (op arg st : Nat) : State :=
  (s.fset F.SEC_SVC_STAT_STATUS 0 0 st).post Src.security 0x0303 [.u 1 op, .u 1 arg, .u 1 st]

/-- Read the service record. -/
def State.svcRead (s : State) : RdBytes × State :=
  s.readRange Src.security (bitsOf (s.pair .SEC_SVC_ADDR_LO .SEC_SVC_ADDR_HI 0 0) 47 5 * 32) 64

/-- A write of `SEC_SVC_CMD` (R442, R443). -/
def State.svcGo (s : State) (val : W32) (words : Option Nat) : State :=
  if ¬ bitOf val 0 then s
  else match s.svcRead with
    | (.ok b, s) =>
      let r := svcRec b
      if !s.flag F.SEC_STAT_PRES 0 0 then s.svcDone r.op r.arg 30
      else if !r.ok then s.svcDone r.op r.arg 2
      else if s.svcWrongState r then s.svcDone r.op r.arg 4
      else
        let (st, s) := s.svcRun r words
        let s := if st = 31 then s.fset F.SEC_STAT_PRES 0 0 0 else s
        s.svcDone r.op r.arg st
    | (_, s) => s.svcDone 0 0 9

/-- A service command whose record has an opcode. -/
def State.svcOp (s : State) (op : Nat) (val : W32) (words : Option Nat) : State :=
  match s.svcRead with
  | (.ok b, _) => if (svcRec b).op = op then s.svcGo val words else s
  | _ => s

end Sys2Proof.Machine
end

