-- ==== Sys2Proof/Machine/SluOps.lean ====
section
/-! DEFINITION. What a sluice does with a stream (chapter 7): descriptor, completion of commands, crust reads, the output process,
references, decoding. What the bytes of a unit code, and the samples they decode to, are the standards' (Config, log entry 24). -/

namespace Sys2Proof.Machine

/-- Run the meaning of a stream context that exists. -/
def State.needSlu (s : State) (n c : Nat) (f : State → State) : Res :=
  s.need (decide (n < 4 ∧ c < 8)) "stream context" f

/-- A stream context. -/
def State.slu (s : State) (n c : Nat) : SluCtx := Tab.getD s.slus (n, c) {}

/-- The state with a context changed. -/
def State.setSlu (s : State) (n c : Nat) (x : SluCtx) : State := { s with slus := Tab.set s.slus (n, c) x }

/-! ### Descriptor (table BSD-12) -/

def SluCtx.codec (x : SluCtx) : Nat := bitsOf x.desc 1 0
def SluCtx.bits10 (x : SluCtx) : Bool := bitOf x.desc 2
def SluCtx.c422 (x : SluCtx) : Bool := bitOf x.desc 3
def SluCtx.maxLevel (x : SluCtx) : Nat := bitsOf x.desc 15 8
def SluCtx.maxW (x : SluCtx) : Nat := bitsOf x.desc 47 32
def SluCtx.maxH (x : SluCtx) : Nat := bitsOf x.desc 63 48
def SluCtx.frNum (x : SluCtx) : Nat := bitsOf x.desc 95 64
def SluCtx.frDen (x : SluCtx) : Nat := bitsOf x.desc 127 96
def SluCtx.maxRate (x : SluCtx) : Nat := bitsOf x.desc 143 128
def SluCtx.dpbCount (x : SluCtx) : Nat := bitsOf x.desc 151 144
def SluCtx.outCount (x : SluCtx) : Nat := bitsOf x.desc 159 152
def SluCtx.outPitch (x : SluCtx) : Nat := bitsOf x.desc 191 160
def SluCtx.dpbBase (x : SluCtx) : Nat := bitsOf x.desc 239 192
def SluCtx.outBase (x : SluCtx) : Nat := bitsOf x.desc 303 256
def SluCtx.outStride (x : SluCtx) : Nat := bitsOf x.desc 351 320
def SluCtx.recLog2 (x : SluCtx) : Nat := bitsOf x.desc 356 352
def SluCtx.recBase (x : SluCtx) : Nat := bitsOf x.desc 431 384
def SluCtx.recToken (x : SluCtx) : W64 := x.desc.extractLsb' 448 64

/-- The rules of table BSD-12, with the highest levels of table BSD-11 and the sizes of R234. -/
def SluCtx.descOk (x : SluCtx) : Bool :=
  let d := x.desc
  x.codec != 3 && !(x.codec == 1 && x.c422) && bitsOf d 7 4 == 0 && bitsOf d 31 16 == 0 &&
    decide (x.maxLevel ≤ (if x.codec = 0 then 183 else if x.codec = 1 then 17 else 52)) &&
    decide (16 ≤ x.maxW ∧ x.maxW ≤ 8192 ∧ 16 ≤ x.maxH ∧ x.maxH ≤ 4352 ∧ x.maxW * x.maxH ≤ 35651584) &&
    x.frNum != 0 && x.frDen != 0 && decide (1 ≤ x.maxRate ∧ x.maxRate ≤ 2000 ∧ 2 ≤ x.dpbCount ∧ x.dpbCount ≤ 17 ∧
      2 ≤ x.outCount ∧ x.outCount ≤ 64) &&
    x.outPitch % 32 == 0 && decide (4 * ceilDiv x.maxW 3 ≤ x.outPitch) && x.dpbBase % 4096 == 0 &&
    bitsOf d 255 240 == 0 && x.outBase % 4096 == 0 && bitsOf d 319 304 == 0 && x.outStride % 4096 == 0 &&
    decide (2 * x.outPitch * x.maxH ≤ x.outStride ∧ 6 ≤ x.recLog2 ∧ x.recLog2 ≤ 16) && x.recBase % 4096 == 0 &&
    bitsOf d 447 432 == 0 && tokenDestOk x.recToken

/-- The charges of an OPEN (R237). -/
def SluCtx.charge (x : SluCtx) (n : Nat) : Charge :=
  let wh := x.maxW * x.maxH
  let s8 := wh * (if x.c422 then 20 else 15)
  -- s × 65/64 × 5 + s × 16/15 is s × 5899/960
  let mem := ceilDiv (x.frNum * s8 * 5899) (x.frDen * 960 * 8 * 1000000) + ceilDiv x.maxRate 8
  [(16 + n, ceilDiv (x.frNum * wh) (x.frDen * 1000)), (20 + n, x.maxRate), (52, mem), (53, mem)]

/-! ### Completion -/

/-- A command of a context completes with a status: `SLU_CMD_STAT` and the token. -/
def State.sluDone (s : State) (n c : Nat) (cmd : W256) (st : Nat) : State :=
  let s := ((s.fset F.SLU_CMD_STAT_CTX n 0 c).fset F.SLU_CMD_STAT_OPCODE n 0 (cOp cmd)).fset F.SLU_CMD_STAT_STATUS n 0 st
  s.cmdToken (Src.slu n) cmd st

/-- A command is refused: it changes nothing and posts command-refused (R238). -/
def State.sluRefuse (s : State) (n c : Nat) (cmd : W256) (st : Nat) : State :=
  ((s.fset F.SLU_CMD_STAT_REFUSED n 0 1).post (Src.slu n) 0x0B00 [.u 1 c, .u 1 (cOp cmd), .u 1 st]).sluDone n c cmd st

/-- The opcodes of a sluice queue (table BSD-13). -/
def sluOps : List Nat := [0x01, 0x02, 0x03, 0x04]

/-- A command leaves the queue of a context. -/
def State.sluTake (s : State) (n c op : Nat) (cmd : W256) (extra : Bool) (m0 m1 : Nat) (f : State → State) : State :=
  s.unitTake 11 n c (122 + n) sluOps op cmd (cSel cmd == 0 && extra && cmdFormOk cmd m0 m1) (fun st s => s.sluRefuse n c cmd st) f

/-- `SLU_STR_STATE` and `SLU_STAT.OPEN` follow a context's state. -/
def State.sluShow (s : State) (n c : Nat) : State :=
  let st := match (s.slu n c).st with
    | .closed => 0
    | .opened => 1
    | .flushing => 2
  let opens := (List.range 8).foldl (fun a i => if (s.slu n i).st = .closed then a else a + 2 ^ i) 0
  (s.fset F.SLU_STR_STATE_STATE n c st).fset F.SLU_STAT_OPEN n 0 opens

/-! ### Crust reads -/

/-- Read one block of a plane: its samples, or the address of a word that failed. -/
def State.crustRead (s : State) (req : Nat) (p : Plane) (G k : Nat) : (Nat ⊕ List Nat) × State :=
  let ha := p.hdr + 64 * G + 32 * (k / 8)
  let (r, s) := s.memRead req ha
  match r with
  | .ok d =>
    let hdr := d.toNat / 2 ^ (32 * (k % 8)) % 2 ^ 32
    match s.readRange req (p.dat + 5120 * G + 320 * k) (32 * (hdr / 16 % 16)) with
    | (.ok b, s) => (.inr (crustDecode hdr (leNat b)), s)
    | (.poison w, s) => (.inl w, s)
    | (.addrErr w, s) => (.inl w, s)
  | _ => (.inl ha, s)

/-- Read every block of a plane, grey for one that fails: the blocks by group and number, and the first address that failed. -/
def State.crustReadAll (s : State) (req grey : Nat) (p : Plane) : List (Nat × Nat) → List (List Nat) → Option Nat →
    (List (List Nat) × Option Nat) × State
  | [], acc, bad => ((acc, bad), s)
  | (G, k) :: t, acc, bad =>
    match s.crustRead req p G k with
    | (.inr b, s) => State.crustReadAll s req grey p t (acc ++ [b]) bad
    | (.inl w, s) => State.crustReadAll s req grey p t (acc ++ [List.replicate 256 grey]) (bad.or (some w))

/-- Read a plane: a sample function, and the first address that failed. -/
def State.crustReadPlane (s : State) (req grey : Nat) (p : Plane) : (List (List Nat) × Option Nat) × State :=
  s.crustReadAll req grey p ((List.range (p.gx * p.gy)).flatMap (fun G => (List.range 16).map (fun k => (G, k)))) [] none

/-- A sample of a plane that was read. -/
def planeSample (p : Plane) (blocks : List (List Nat)) (x y : Nat) : Nat :=
  (blocks.getD ((y / 64 * p.gx + x / 64) * 16 + y % 64 / 4) []).getD (y % 4 * 64 + x % 64) 0

/-- The mid level of a picture, as it is held (R242). -/
def midGrey (bits10 : Bool) : Nat := if bits10 then 512 else 128

/-- The planes of a picture's buffer. -/
def SluCtx.planes (x : SluCtx) (buf w h fmt : Nat) : List Plane :=
  crustPlanes (x.dpbBase + buf * crustSize x.maxW x.maxH x.c422) w h (fmt == 1)

/-- The planes that hold a picture. -/
def SluCtx.planesOf (x : SluCtx) (p : SluPic) : List Plane := x.planes p.buf p.pic.codedW p.pic.codedH p.pic.fmt

/-! ### Pictures held -/

/-- The picture that a name refers to. -/
def SluCtx.named (x : SluCtx) (n : Int) : Option SluPic := x.pics.find? (fun p => p.names.contains n)

/-- The buffers that no picture holds. -/
def SluCtx.freeBufs (x : SluCtx) : List Nat :=
  (List.range x.dpbCount).filter (fun b => !(x.pics.any (fun p => p.buf == b)))

/-- The lowest buffer that no picture holds. -/
def SluCtx.freeBuf (x : SluCtx) : Option Nat := x.freeBufs.head?

/-- A picture that nothing refers to, that is not still to be output and that is not due leaves its buffer. -/
def SluCtx.settle (x : SluCtx) : SluCtx :=
  { x with pics := x.pics.filter (fun p => !p.names.isEmpty || p.waiting || x.due.contains p.buf) }

/-- Every picture's names, but those that are to go. -/
def SluCtx.unname (x : SluCtx) (gone : Int → Bool) : SluCtx :=
  { x with pics := x.pics.map (fun p => { p with names := p.names.filter (fun n => !gone n) }) }

/-- The sliding window makes place for one reference among `size`: the short-term picture of lowest frame number goes, those above the
current number counting below it (H.264 clause 8.2.5.3). -/
def SluCtx.slide (x : SluCtx) (size num maxNum : Nat) : SluCtx :=
  let wrap (n : Int) : Int := if (num : Int) < n then n - maxNum else n
  let held := x.pics.filter (fun p => !p.names.isEmpty)
  let short := (held.flatMap (fun p => p.names)).filter (fun n => decide (0 ≤ n))
  if held.length < max 1 size then x
  else match short.foldl (fun (b : Option Int) n => match b with
      | some m => if wrap n < wrap m then some n else some m
      | none => some n) none with
    | some m => x.unname (fun n => n == m)
    | none => x

/-! ### The output process (R239): H.265 clause C.5.2, H.264 clause C.4.5, AV1's shown frames -/

/-- The pictures that are still to be output. -/
def SluCtx.waitingPics (x : SluCtx) : List SluPic := x.pics.filter (fun p => p.waiting)

/-- The first in output order of the pictures that wait. -/
def SluCtx.firstOut (x : SluCtx) : Option SluPic :=
  x.waitingPics.foldl (fun (b : Option SluPic) p => match b with
    | some q => if p.pic.order < q.pic.order then some p else some q
    | none => some p) none

/-- "Bumping": the first of the pictures that wait becomes due. -/
def SluCtx.bump (x : SluCtx) : SluCtx :=
  match x.firstOut with
  | some p => { x with due := x.due ++ [p.buf], pics := x.pics.map (fun q => if q.buf = p.buf then { q with waiting := false } else q) }
  | none => x

/-- Bumping while a condition holds, n times at most. -/
def SluCtx.bumpWhile (more : SluCtx → Bool) : Nat → SluCtx → SluCtx
  | 0, x => x
  | n + 1, x => if more x ∧ ¬ x.waitingPics.isEmpty then SluCtx.bumpWhile more n x.bump else x

/-- Every picture that waits becomes due, in output order. -/
def SluCtx.bumpAll (x : SluCtx) : SluCtx := SluCtx.bumpWhile (fun _ => true) x.pics.length x

/-- Whether too many pictures wait for one with these limits (H.265 clause C.5.2). -/
def SluCtx.overdue (p : AuPic) (x : SluCtx) : Bool :=
  decide (p.reorder < x.waitingPics.length) || (match p.latency with
    | some l => x.waitingPics.any (fun q => decide (l ≤ q.latency))
    | none => false)

/-- The pictures that the decoded picture buffer holds. -/
def SluCtx.fullness (x : SluCtx) : Nat := (x.pics.filter (fun p => !p.names.isEmpty || p.waiting)).length

/-- The output process before a picture is decoded: HEVC and AVC empty the buffer at a picture that ends what came before, and else
bump while the buffer is too full. An AVC picture that nothing refers to and that is the next to output needs no place. -/
def SluCtx.outBefore (x : SluCtx) (p : AuPic) : SluCtx :=
  if x.codec = 1 then x
  else if p.clears then
    (if p.noPrior then { x with pics := x.pics.map (fun q => { q with waiting := false }) } else x.bumpAll).settle
  else
    let direct := x.codec == 2 && p.names.isEmpty && x.waitingPics.all (fun q => decide (p.order < q.pic.order))
    let more (x : SluCtx) : Bool := decide (p.buffering ≤ x.fullness) || (x.codec == 0 && x.overdue p)
    (if direct then x else SluCtx.bumpWhile more x.pics.length x).settle

/-- The output process after picture `buf` has been decoded: AV1 outputs a shown frame at once; HEVC counts the latency of the pictures
that follow it in output order and bumps again; AVC outputs at once the picture that found no place. -/
def SluCtx.outAfter (x : SluCtx) (p : AuPic) (buf : Nat) : SluCtx :=
  if x.codec = 1 then (if p.show_ then { x with due := x.due ++ [buf] } else x).settle
  else if x.codec = 0 then
    let x := if p.show_ then { x with pics := x.pics.map (fun q =>
        if q.waiting ∧ q.buf ≠ buf ∧ p.order < q.pic.order then { q with latency := q.latency + 1 } else q) } else x
    (SluCtx.bumpWhile (SluCtx.overdue p) x.pics.length x).settle
  else
    let direct := p.names.isEmpty && p.field.isNone && decide (p.buffering < x.fullness) &&
      (match x.firstOut with
        | some q => q.buf == buf
        | none => false)
    (if direct then x.bump else x).settle

/-! ### Substitutes, poison, errors (R242, R244, R245) -/

/-- A grey picture in place of a reference that was never received (R242): it stands under the missing name, all its blocks intra. -/
def State.sluSubstitute (s : State) (n c buf : Nat) (missing : Int) (like : AuPic) : State :=
  let x := s.slu n c
  let s := s.crustPicture (Src.slu n) (x.planes buf like.codedW like.codedH like.fmt) (fun _ _ _ => midGrey like.bits10)
  let s := s.setSlu n c { x with pics := x.pics ++ [{
    buf := buf, pic := { like with refs := [], reads := [], order := missing, rap := false }, names := [missing], waiting := false
    concealed := true, substitute := true, decCnt := x.decCnt, pts := 0 }] }
  let s := s.fset F.SLU_STR_ERR_SUBST n c (min (s.fget F.SLU_STR_ERR_SUBST n c + 1) 0xFFFF)
  s.post (Src.slu n) 0x0B01 [.u 1 c, .u 4 (x.decCnt % 2 ^ 32), .i 4 missing]

/-- Substitutes for missing references, the sliding window moving for each; none when a buffer lacks. -/
def State.sluSubstitutes (n c : Nat) (like : AuPic) : List Int → State → Option State
  | [], s => some s
  | m :: t, s =>
    let s := match like.slide with
      | some size => s.setSlu n c ((s.slu n c).slide size m.toNat like.maxNum).settle
      | none => s
    match (s.slu n c).freeBuf with
    | some b => State.sluSubstitutes n c like t (s.sluSubstitute n c b m like)
    | none => none

/-- Post a poison event of a context (R245). -/
def State.sluPoison (s : State) (n c addr : Nat) : State :=
  s.post (Src.slu n) 0x0B03 [.u 1 c, .u 4 ((s.slu n c).decCnt % 2 ^ 32), .u 6 addr]

/-- The frame numbers between the latest reference's and a picture's (H.264 clause 8.2.5.2), when gaps are not allowed. -/
def SluCtx.gap (x : SluCtx) (p : AuPic) : List Int :=
  match x.prevNum with
  | some prev =>
    if x.codec ≠ 2 ∨ p.gaps ∨ p.rap ∨ p.maxNum = 0 ∨ p.num = prev then []
    else (List.range ((p.num + p.maxNum - prev - 1) % p.maxNum)).map (fun i => (((prev + 1 + i) % p.maxNum : Nat) : Int))
  | none => []

/-- The references that a picture needs and that were never received (table BSD-16). -/
def SluCtx.missing (x : SluCtx) (p : AuPic) : List Int :=
  if p.rap ∨ p.fills then []
  else (x.gap p ++ (p.retain.getD [] ++ p.refs).filter (fun n => (x.named n).isNone)).eraseDups

/-- Read the blocks of references: grey for one that fails, and the first address that failed. -/
def State.sluBlocks (s : State) (n c : Nat) (p : AuPic) : List (Nat × Nat × Nat × Nat) → (List (List Nat) × Option Nat) × State
  | [] => (([], none), s)
  | (ri, pl, G, k) :: t =>
    let grey := List.replicate 256 (midGrey p.bits10)
    let x := s.slu n c
    match ((p.refs[ri]?).bind x.named).bind (fun q => (x.planesOf q)[pl]?) with
    | none =>
      let ((l, bad), s) := State.sluBlocks s n c p t
      ((grey :: l, bad), s)
    | some q => match s.crustRead (Src.slu n) q G k with
      | (.inr b, s) =>
        let ((l, bad), s) := State.sluBlocks s n c p t
        ((b :: l, bad), s)
      | (.inl w, s) =>
        let ((l, _), s) := State.sluBlocks s n c p t
        ((grey :: l, some w), s)

/-- Whether a sample of a plane lies in the lost part of a picture. -/
def lostAt (fmt : Nat) (lost : List (Nat × Nat × Nat × Nat)) (pl x y : Nat) : Bool :=
  let x := if pl = 0 then x else 2 * x
  let y := if pl = 0 ∨ fmt = 1 then y else 2 * y
  lost.any (fun (r : Nat × Nat × Nat × Nat) => decide (r.1 ≤ x ∧ x < r.1 + r.2.2.1 ∧ r.2.1 ≤ y ∧ y < r.2.1 + r.2.2.2))

/-- The planes of the first reference of a picture, read for its lost part: grey when it has none, and the first address that failed
(R244). -/
def State.sluColocated (s : State) (n c : Nat) (p : AuPic) (lost : List (Nat × Nat × Nat × Nat)) :
    (List (Plane × List (List Nat)) × Option Nat) × State :=
  let x := s.slu n c
  match p.refs.head?.bind x.named with
  | none => (([], none), s)
  | some q =>
    (x.planesOf q).foldl (fun (a : (List (Plane × List (List Nat)) × Option Nat) × State) pl =>
      let ((l, bad), s) := a
      let all := (List.range (pl.gx * pl.gy)).flatMap (fun G => (List.range 16).map (fun k => (G, k)))
      let ((b, e), s) := if lost.isEmpty then (([], none), s) else s.crustReadAll (Src.slu n) (midGrey p.bits10) pl all [] none
      ((l ++ [(pl, b)], bad.or e), s)) (([], none), s)

/-- Post a decode-error for each error. -/
def State.sluErrors (n c : Nat) : List AuErr → State → State
  | [], s => s
  | e :: t, s => State.sluErrors n c t (s.post (Src.slu n) 0x0B02 [.u 1 c, .u 4 ((s.slu n c).decCnt % 2 ^ 32), .u 4 e.off])

/-- A count of a context's rejected and erroneous access units. -/
def State.sluErr (s : State) (n c : Nat) : State :=
  s.fset F.SLU_STR_ERR_ERRS n c (min (s.fget F.SLU_STR_ERR_ERRS n c + 1) 0xFFFF)

/-- Whether a profile is one of table BSD-11: Main, Main 10 and format range extensions; Main; High, High 10, High 4:2:2. -/
def SluCtx.knows (x : SluCtx) (profile : Nat) : Bool :=
  (if x.codec = 0 then [1, 2, 4] else if x.codec = 1 then [0] else [100, 110, 122]).contains profile

/-- Why a picture is rejected, if it is (R244): profile or tool, then level, then size or format beyond table BSD-11 or the
descriptor (log entry 108). -/
def SluCtx.rejects (x : SluCtx) (p : AuPic) : Option Nat :=
  if ¬ x.knows p.profile ∨ ¬ p.tools then some 0
  else if x.maxLevel < p.level then some 1
  else if x.maxW < p.codedW ∨ x.maxH < p.codedH ∨ p.codedW < 16 ∨ p.codedH < 16 ∨ (p.bits10 ∧ ¬ x.bits10) ∨
      (p.fmt = 1 ∧ ¬ x.c422) ∨ 2 < p.fmt ∨ (p.fmt = 2 ∧ x.codec ≠ 1) then some 2
  else none

/-- Why a unit is rejected: the reason of its first picture that is. -/
def SluCtx.rejectsUnit (x : SluCtx) (au : AuInfo) : Option Nat :=
  au.items.findSome? (fun i => match i with
    | .frame p => x.rejects p
    | .again .. => none)

/-! ### Writing pictures (R228, R246) -/

/-- The line of a field that stands at line y of its frame: its own, or for a line of the other field its line above, below for line
0. -/
def fieldLine (top : Bool) (y : Nat) : Nat := if (y % 2 == 0) == top then y / 2 else if y = 0 then 0 else (y - 1) / 2

/-- The samples of a field by plane, to be kept until its pair comes. -/
def fieldSamples (x : SluCtx) (p : AuPic) (sample : Nat → Nat → Nat → Nat) : List (List Nat) :=
  let planes := x.planes 0 p.codedW p.codedH p.fmt
  (List.range planes.length).map (fun pl => match planes[pl]? with
    | some q => (List.range (q.w * (q.h / 2))).map (fun t => sample pl (t % q.w) (t / q.w))
    | none => [])

/-- A sample of a frame: of a whole picture; of a field alone, its lines repeated; of a second field, with the first field's lines
between (R246). -/
def frameSample (x : SluCtx) (p : AuPic) (half : Option SluHalf) (sample : Nat → Nat → Nat → Nat) (pl px py : Nat) : Nat :=
  match p.field with
  | none => sample pl px py
  | some top =>
    match half with
    | none => sample pl px (fieldLine top py)
    | some h =>
      if (py % 2 == 0) == top then sample pl px (py / 2)
      else
        let w := ((x.planes 0 p.codedW p.codedH p.fmt)[pl]?.map (fun q => q.w)).getD 0
        (h.samples.getD pl []).getD (py / 2 * w + px) 0

/-- Write a decoded picture into its buffer; chroma of a monochrome picture is mid grey. -/
def State.sluWrite (s : State) (n : Nat) (x : SluCtx) (buf : Nat) (p : AuPic) (sample : Nat → Nat → Nat → Nat) : State :=
  s.crustPicture (Src.slu n) (x.planes buf p.codedW p.codedH p.fmt)
    (fun pl px py => if p.fmt = 2 ∧ pl ≠ 0 then midGrey p.bits10 else sample pl px py % (if p.bits10 then 1024 else 256))

/-! ### Decoding a unit -/

/-- The first field of a frame whose pair is this picture: the field before it, of the other parity (R246). -/
def SluCtx.pairOf (x : SluCtx) (p : AuPic) : Option SluHalf :=
  match x.half, p.field with
  | some h, some top => if p.second ∧ h.top ≠ top then some h else none
  | _, _ => none

/-- The field that waits is left without its pair: its frame is concealed and marked (R246). -/
def SluCtx.unpair (x : SluCtx) : SluCtx :=
  match x.half with
  | some h => { x with half := none, pics := x.pics.map (fun p => if p.buf = h.buf then { p with unpaired := true, concealed := true } else p) }
  | none => x

/-- Reference marking after a picture has been decoded: what its marking drops, the sliding window, and its own names, which leave the
pictures that held them. -/
def SluCtx.mark (x : SluCtx) (p : AuPic) (paired : Bool) : SluCtx :=
  let x := x.unname (fun n => p.unmark.contains n)
  let x := match p.slide with
    | some size => if p.names.isEmpty ∨ paired then x else x.slide size p.num p.maxNum
    | none => x
  x.unname (fun n => p.names.contains n)

/-- A picture joins the context's pictures, in place of the first field that it completes. -/
def SluCtx.addPic (x : SluCtx) (p : SluPic) : SluCtx :=
  { x with pics := x.pics.filter (fun q => q.buf != p.buf) ++ [p] }

/-- A picture of a unit is decoded: references kept, output process, substitutes, samples, concealment, marks. None when no buffer is
free for it. -/
def State.sluFrame (s : State) (n c : Nat) (cmd : W256) (p : AuPic) (errors : List AuErr)
    (sample : List (List Nat) → Nat → Nat → Nat → Nat) : Option State :=
  let x := s.slu n c
  let half := x.pairOf p
  let x := match p.retain with
    | some keep => x.unname (fun k => !keep.contains k)
    | none => x
  let x := if half.isSome then x else x.outBefore p
  let missing := x.missing p
  match State.sluSubstitutes n c p missing (s.setSlu n c x) with
  | none => none
  | some s =>
    let x := s.slu n c
    match (half.map (fun h => h.buf)).or x.freeBuf with
    | none => none
    | some buf =>
      let ((blocks, hit0), s) := s.sluBlocks n c p p.reads
      let lost := errors.flatMap (fun e => e.lost)
      let ((co, hit1), s) := s.sluColocated n c p lost
      let hit := hit0.or hit1
      let s := match hit with
        | some w => s.sluPoison n c w
        | none => s
      let own (pl px py : Nat) : Nat :=
        if lostAt p.fmt lost pl px py then (co[pl]?.map (fun q => planeSample q.1 q.2 px py)).getD (midGrey p.bits10)
        else sample blocks pl px py
      let refs := if p.rap then [] else (p.refs.filterMap x.named)
      let sub := !p.rap && (!missing.isEmpty || refs.any (fun q => q.substitute))
      let old := half.bind (fun h => x.pics.find? (fun q => q.buf == h.buf))
      let was (f : SluPic → Bool) : Bool := (old.map f).getD false
      let pic : SluPic := {
        buf := buf, pic := { p with
          refs := [], reads := [], rap := p.rap || was (fun q => q.pic.rap), interlaced := p.interlaced || p.field.isSome
          topFirst := if p.field.isSome then (half.map (fun h => h.top)).getD (p.field == some true) else p.topFirst }
        names := p.names ++ (old.map (fun q => q.names.filter (fun k => !p.names.contains k))).getD []
        waiting := x.codec != 1 && p.show_
        concealed := !errors.isEmpty || hit.isSome || sub || refs.any (fun q => q.concealed) || was (fun q => q.concealed)
        refsSubst := sub || was (fun q => q.refsSubst), error := !errors.isEmpty || was (fun q => q.error)
        decCnt := (old.map (fun q => q.decCnt)).getD x.decCnt, pts := (old.map (fun q => q.pts)).getD (cArg1 cmd) }
      let s := s.sluWrite n x buf p (frameSample x p half own)
      let y := (s.slu n c).mark p half.isSome
      let y := { y.addPic pic with
        prevNum := if p.names.isEmpty then y.prevNum else some p.num
        half := if half.isSome then none else p.field.map (fun top => ⟨buf, top, fieldSamples x p own⟩) }
      some (s.setSlu n c (y.outAfter p buf))

/-- What a unit codes, in order, from picture i on. -/
def State.sluItems (n c : Nat) (cmd : W256) (errors : List AuErr) (sample : Nat → List (List Nat) → Nat → Nat → Nat → Nat) :
    Nat → List AuItem → State → Option State
  | _, [], s => some s
  | i, .frame p :: t, s =>
    match s.sluFrame n c cmd p (errors.filter (fun e => e.frame == i)) (sample i) with
    | some s => State.sluItems n c cmd errors sample (i + 1) t s
    | none => none
  | i, .again slot takes :: t, s =>
    let x := s.slu n c
    let x := match x.named slot with
      | some p =>
        let y := x.unname (fun k => takes.contains k)
        { y with
          due := y.due ++ [p.buf]
          pics := y.pics.map (fun (q : SluPic) => if q.buf = p.buf then { q with names := q.names ++ takes } else q) }
      | none => x
    State.sluItems n c cmd errors sample (i + 1) t (s.setSlu n c x.settle)

/-- The errors of a unit whose bytes end at the first poisoned one: those before it, then one there, with what they lose
(R245). -/
def cutErrors (errors : List AuErr) : Option Nat → List AuErr
  | none => errors
  | some off =>
    let late := errors.filter (fun e => decide (off ≤ e.off))
    errors.filter (fun e => decide (e.off < off)) ++
      [⟨off, (late.head?.map (fun e => e.frame)).getD 0, late.flatMap (fun e => e.lost)⟩]

/-- An access unit is decoded or rejected (R242 to R246): `au` is what its bytes code, `bad` the offset of its first poisoned byte.
None while a buffer lacks. -/
def State.sluUnit (s : State) (n c : Nat) (cmd : W256) (bad : Option Nat) (au : AuInfo) (next : Nat)
    (sample : Nat → List (List Nat) → Nat → Nat → Nat → Nat) : Option State :=
  let x := s.slu n c
  let pairs := match au.items with
    | .frame p :: _ => (x.pairOf p).isSome
    | _ => false
  let x := if pairs then x else x.unpair
  match x.rejectsUnit au with
  | some reason =>
    let s := (s.setSlu n c { x with decCnt := x.decCnt + 1 }).post (Src.slu n) 0x0B04 [.u 1 c, .u 4 (x.decCnt % 2 ^ 32), .u 1 reason]
    some ((s.sluErr n c).sluDone n c cmd 10)
  | none =>
    let s := s.setSlu n c x
    let s := match bad with
      | some off => s.sluPoison n c (cArg0 cmd % 2 ^ 35 + off)
      | none => s
    let errors := cutErrors au.errors bad
    match State.sluItems n c cmd errors sample 0 au.items (State.sluErrors n c errors s) with
    | none => none
    | some s =>
      let y := s.slu n c
      let s := s.setSlu n c { y with decCnt := y.decCnt + 1, parse := next }
      some (if errors.isEmpty then s.sluDone n c cmd 0 else (s.sluErr n c).sluDone n c cmd 11)

end Sys2Proof.Machine
end

