-- ==== Sys2Proof/Machine/Sluice.lean ====
section
/-! DEFINITION. The commands of the sluices (chapter 7): contexts, decoding, output. -/

namespace Sys2Proof.Machine

/-! ### OPEN and CLOSE (R236 to R238) -/

/-- A context opens: its registers at their values of OPEN. -/
def State.sluOpen (s : State) (n c : Nat) (x : SluCtx) : State :=
  let s := s.setSlu n c { x with st := .opened }
  let s := ((s.setReg .SLU_STR_RRING n c 0).setReg .SLU_STR_ERR n c 0).setReg .SLU_STR_STATE n c 0
  let s := s.fset F.SLU_STR_STATE_CODEC n c x.codec
  (s.applyCharge (.sluCtx n c)).sluShow n c

/-- SLU_OPEN. -/
def execSluOpen (n c : Nat) (cmd : BitVec 256) (s : State) : Res :=
  s.needSlu n c fun s => s.sluTake n c 0x01 cmd true mask48 0 fun s =>
    if (s.slu n c).st ≠ .closed then s.sluRefuse n c cmd 4
    else match s.cmdRead (Src.slu n) (cArg0 cmd) 64 with
      | (.inl st, s) => s.sluRefuse n c cmd st
      | (.inr b, s) =>
        let x : SluCtx := { desc := bytesBv 512 b }
        if ¬ x.descOk then s.sluRefuse n c cmd 2
        else match s.submit ⟨Src.slu n, .sluCtx n c, x.charge n⟩ with
          | (false, s) => s.sluRefuse n c cmd 1
          | (true, s) => (s.sluOpen n c x).sluDone n c cmd 0

/-- SLU_CLOSE: the context closes at once, with a FLUSH in progress complete (R238). -/
def execSluClose (n c : Nat) (cmd : BitVec 256) (s : State) : Res :=
  s.needSlu n c fun s => s.sluTake n c 0x04 cmd true 0 0 fun s =>
    let x := s.slu n c
    if x.st = .closed then s.sluRefuse n c cmd 4
    else
      let s := (s.setSlu n c {}).sluShow n c
      let s := s.releaseCharge (.sluCtx n c)
      let s := match x.flush with
        | some f => s.sluDone n c f 0
        | none => s
      s.sluDone n c cmd 0

/-! ### DECODE and FLUSH (R238, R244) -/

/-- SLU_DECODE: one access unit is read up to its first poisoned byte and decoded, or rejected (R244). It waits while every buffer is
held or a FLUSH is in progress (R241). -/
def execSluDecode (n c : Nat) (cmd : BitVec 256) (s : State) : Res :=
  s.needSlu n c fun s0 => s0.sluTake n c 0x02 cmd (cArg0 cmd / 2 ^ 36 != 0) (lowMask 64 - 2 ^ 35) (lowMask 64) fun s =>
    let x := s.slu n c
    if x.st = .closed then s.sluRefuse n c cmd 4
    else if x.st = .flushing then s0
    else
      let a := cArg0 cmd % 2 ^ 35
      let len := cArg0 cmd / 2 ^ 36
      let ((b, bad), s) := s.readOpen (Src.slu n) a len (wordsOf a len) [] []
      let unit := b.take (bad.headD len)
      (s.sluUnit n c cmd bad.head? (Config.auParse x.codec x.parse unit) (Config.auNext x.codec x.parse unit)
        (fun i blocks pl px py => (Config.auSample x.codec x.parse unit i blocks pl px py).toNat)).getD s0

/-- SLU_FLUSH: every decoded picture is due, in output order, and no reference is kept, as at end of stream (R238). It completes when
the last is output. -/
def execSluFlush (n c : Nat) (cmd : BitVec 256) (s : State) : Res :=
  s.needSlu n c fun s0 => s0.sluTake n c 0x03 cmd true 0 0 fun s =>
    let x := s.slu n c
    if x.st = .closed then s.sluRefuse n c cmd 4
    else if x.st = .flushing then s0
    else
      let x := ((x.unpair.unname (fun _ => true)).bumpAll).settle
      if x.due.isEmpty then (s.setSlu n c x).sluDone n c cmd 0
      else (s.setSlu n c { x with st := .flushing, flush := some cmd }).sluShow n c

/-! ### Output (R239 to R241) -/

/-- A line packed three samples to a 32-bit word (R152). -/
def packLine (l : List Nat) : List Byte :=
  (List.range (ceilDiv l.length 3)).flatMap (fun i =>
    leBytes 4 (l.getD (3 * i) 0 + l.getD (3 * i + 1) 0 * 2 ^ 10 + l.getD (3 * i + 2) 0 * 2 ^ 20))

/-- The lines of an output picture, luma then chroma, and the first address that failed (R239, R245). Film grain is applied here. -/
def State.sluLines (s : State) (n : Nat) (x : SluCtx) (p : SluPic) : (List (List Byte) × List (List Byte) × Option Nat) × State :=
  let a := p.pic
  let grey := midGrey a.bits10
  let ps := x.planes p.buf a.codedW a.codedH a.fmt
  let at_ (i : Nat) : Plane := ps.getD i ⟨0, 0, 0, 0⟩
  let ((by_, e0), s) := s.crustReadPlane (Src.slu n) grey (at_ 0)
  let ((bb, e1), s) := if a.fmt = 2 then (([], none), s) else s.crustReadPlane (Src.slu n) grey (at_ 1)
  let ((br, e2), s) := if a.fmt = 2 then (([], none), s) else s.crustReadPlane (Src.slu n) grey (at_ 2)
  let up (v : Nat) : Nat := if a.bits10 then v % 1024 else v % 256 * 4
  let cy := if a.fmt = 1 then 1 else 2
  let cw := ceilDiv a.w 2
  let ch := ceilDiv a.h cy
  let lumaAt (px py : Nat) : Nat := planeSample (at_ 0) by_ (a.cropX + px) (a.cropY + py)
  let grain (pl px py v l : Nat) : Nat := if a.grain then (Config.grainSample a.grainSet pl px py v l).toNat else v
  let luma := (List.range a.h).map (fun y => packLine ((List.range a.w).map (fun px =>
    up (grain 0 px y (lumaAt px y) (lumaAt px y)))))
  let chroma := (List.range ch).map (fun y => packLine ((List.range (2 * cw)).map (fun px =>
    if a.fmt = 2 then 512
    else
      let i := 1 + px % 2
      up (grain i (px / 2) y (planeSample (at_ i) (if i = 1 then bb else br) (a.cropX / 2 + px / 2) (a.cropY / cy + y))
        (lumaAt (px / 2 * 2) (cy * y))))))
  ((luma, chroma, (e0.or e1).or e2), s)

/-- `FLAGS` of a picture record (table BSD-15). -/
def SluPic.flags (p : SluPic) (poisoned : Bool) : Nat :=
  b2n p.pic.rap + 2 * b2n (p.concealed || poisoned) + 4 * b2n p.refsSubst + 8 * b2n p.error + 16 * b2n p.unpaired +
    32 * b2n p.pic.interlaced + 64 * b2n p.pic.topFirst + 128 * b2n p.pic.grain

/-- The picture record (table BSD-15). -/
def sluRecord (p : SluPic) (out buf c flags : Nat) : W256 :=
  let a := p.pic
  BitVec.ofNat 256 (out % 2 ^ 32 + p.decCnt % 2 ^ 32 * 2 ^ 32 + p.pts % 2 ^ 64 * 2 ^ 64 + a.w % 2 ^ 16 * 2 ^ 128 +
    a.h % 2 ^ 16 * 2 ^ 144 + flags * 2 ^ 160 + (a.fmt % 4 + 4 * b2n a.bits10) * 2 ^ 168 + a.cp % 256 * 2 ^ 176 +
    a.tc % 256 * 2 ^ 184 + a.mc % 256 * 2 ^ 192 + b2n a.full * 2 ^ 200 + buf % 256 * 2 ^ 208 + c * 2 ^ 216)

/-- The value of a picture-output token (R240). -/
def sluTokenValue (out buf c flags : Nat) : W64 :=
  BitVec.ofNat 64 (out % 2 ^ 32 + buf % 256 * 2 ^ 32 + c * 2 ^ 40 + flags * 2 ^ 48)

/-- A due picture is output (R239, R240). -/
def State.sluOutput (s : State) (n c : Nat) (p : SluPic) : State :=
  let x := s.slu n c
  let b := x.outCnt % x.outCount
  let base := x.outBase + b * x.outStride
  let ((luma, chroma, bad), s) := s.sluLines n x p
  let s := match bad with
    | some w => s.post (Src.slu n) 0x0B03 [.u 1 c, .u 4 (p.decCnt % 2 ^ 32), .u 6 w]
    | none => s
  let s := (s.putLines (Src.slu n) base x.outPitch luma).putLines (Src.slu n) (base + x.outPitch * x.maxH) x.outPitch chroma
  let flags := p.flags bad.isSome
  let (_, s) := s.memWrite (Src.slu n) (x.recBase + 32 * (x.outCnt % 2 ^ x.recLog2)) (sluRecord p x.outCnt b c flags)
  let s := s.fset F.SLU_STR_RRING_PROD n c ((s.fget F.SLU_STR_RRING_PROD n c + 1) % 65536)
  let s := s.fset F.SLU_STR_STATE_CONCEAL n c (b2n (p.concealed || bad.isSome))
  let s := s.chkBlock 6 (n + 4 * c) ⟨BitVec.ofNat 64 (x.outCnt % 2 ^ 32), (luma ++ chroma).flatten, false⟩
  let s := s.sendToken (Src.slu n) x.recToken (sluTokenValue x.outCnt b c flags)
  -- a picture concealed at its output stays so for the pictures that refer to it (R243)
  let x := { x with
    outCnt := x.outCnt + 1, due := x.due.tail
    pics := x.pics.map (fun (q : SluPic) => if q.buf = p.buf then { q with concealed := q.concealed || bad.isSome } else q) }
  let x := x.settle
  match x.flush with
  | some f =>
    if x.due.isEmpty then ((s.setSlu n c { x with st := .opened, flush := none }).sluShow n c).sluDone n c f 0
    else s.setSlu n c x
  | none => s.setSlu n c x

/-- PICTURE_OUTPUT: the first due picture is output once the consumer allows (R239, R241). -/
def execPictureOutput (n c : Nat) (s : State) : Res :=
  s.needSlu n c fun s =>
    let x := s.slu n c
    let ahead := (x.outCnt + 65536 - s.fget F.SLU_STR_RRING_CONS n c) % 65536
    match x.due with
    | [] => s
    | b :: _ =>
      match x.pics.find? (fun p => p.buf == b) with
      | some p => if ahead < x.outCount then s.sluOutput n c p else s
      | none => s

end Sys2Proof.Machine
end

