-- ==== Sys2Proof/Machine/PowerOps.lean ====
section
/-! DEFINITION. The operations of clocks, resets and power domains (chapter 20). -/

namespace Sys2Proof.Machine

/-! ### Power domains (table CLK-3) -/

/-- The code of a domain state (table CLK-17). -/
def DomState.code : DomState → Nat
  | .off => 0
  | .fill => 1
  | .on => 2
  | .ret => 3
  | .wake => 4
  | .hold => 5

/-- The state with a domain changed. -/
def State.setDom (s : State) (d : Nat) (x : DomState) : State :=
  { s with power := { s.power with doms := Tab.set s.power.doms d x } }

/-- The target of a domain's transition. -/
def State.setTarget (s : State) (d : Nat) (x : DomState) : State :=
  { s with power := { s.power with targets := Tab.set s.power.targets d x } }

/-- The state with a bank changed. -/
def State.setBank (s : State) (i : Nat) (b : BankState) : State := { s with banks := Tab.set s.banks i b }

/-- The bank of a domain: that of the pan, rake, sluice, compositor, head or scheduler. -/
def domBank (d : Nat) : Option Nat := if 2 ≤ d ∧ d < 146 then some (d - 2) else none

/-- The states a domain allows. -/
def domAllows (d : Nat) (x : DomState) : Bool :=
  match x with
  | .on => decide (d < 148)
  | .ret => decide ((2 ≤ d ∧ d < 18) ∨ (122 ≤ d ∧ d < 148))
  | .off => decide (2 ≤ d ∧ d < 146)
  | _ => false

/-- Whether a domain may leave ON. -/
def State.domIdle (s : State) (d : Nat) : Bool :=
  if d < 2 then false
  else if d < 18 then (List.range 4).all (fun i => (Tab.getD s.pgms (4 * (d - 2) + i) {}).st == .idle)
  else if d < 122 then (s.rake (d - 18)).st == .spare
  else if d < 126 then (List.range 8).all (fun c => (Tab.getD s.slus (d - 122, c) {}).st == .closed)
  else if d < 134 then
    (List.range 8).all (fun q =>
      let x := Tab.getD s.cmps (d - 126, q) {}
      bitsOf x.cur.out 1 0 == 0 && (match x.pend with | some p => bitsOf p.out 1 0 == 0 | none => true))
  else if d < 138 then (s.head (d - 134)).st == .off
  else if d < 146 then
    s.fget F.ETH_CFG_MODE (d - 138) 0 == 0 && (s.tsh (d - 138)).queues.all (fun (x : Nat × TxQueue) => x.2.st == .closed)
  else s.ledger.used 52 == 0 && (List.range 16).all (fun n => (s.mc n).st != .init)

/-- A request is refused (R487). -/
def State.powerRefuse (s : State) (d target reason : Nat) : State :=
  (((s.fset F.PWR_STAT_REFUSED 0 0 1).fset F.PWR_STAT_REASON 0 0 reason).fset F.PWR_STAT_DOMAIN 0 0 d).post Src.power 0x0201
    [.u 1 d, .u 1 target, .u 1 reason]

/-- A domain starts to leave ON; a rake leaves SPARE at once (R490). -/
def State.domLeave (s : State) (d : Nat) (x : DomState) : State :=
  let s := (s.setDom d .hold).setTarget d x
  if 18 ≤ d ∧ d < 122 then s.setRake (d - 18) { ({} : Rake) with st := .off } else s

/-- The bank of a domain enters a state. -/
def State.domBankTo (s : State) (d : Nat) (b : BankState) : State :=
  match domBank d with
  | some i => s.setBank i b
  | none => s

/-- A write of `PWR_REQ` (R487, tables CLK-3, CLK-4). Table CLK-4 has no way from OFF to RET: refused as a state that the domain
does not allow (log entry 56). -/
def State.powerReq (s : State) (val : W32) : State :=
  let d := bitsOf val 7 0
  let t := bitsOf val 9 8
  let x : DomState := if t = 0 then .off else if t = 1 then .ret else .on
  if t = 3 ∨ 147 < d then s.powerRefuse d t 2
  else if (Tab.find? d s.power.targets).isSome then s.fset F.PWR_STAT_DROPPED 0 0 1
  else if s.dom d = x then s
  else if ¬ domAllows d x then s.powerRefuse d t 2
  else match s.dom d, x with
    | .on, _ => if s.domIdle d then s.domLeave d x else s.powerRefuse d t (if 146 ≤ d then 3 else 1)
    | .ret, .on => ((s.setDom d .wake).setTarget d .on).domBankTo d .wake
    | .ret, _ => s.setTarget d .off
    | .off, .on => ((s.setDom d .fill).setTarget d .on).domBankTo d .fill
    | _, _ => s.powerRefuse d t 2

/-- A transition has completed (R487). -/
def State.domDone (s : State) (d : Nat) (x : DomState) : State :=
  let s := s.setDom d x
  let s : State := { s with power := { s.power with targets := Tab.erase d s.power.targets } }
  s.post Src.power 0x0200 [.u 1 d, .u 1 x.code]

/-- Beats still outstanding at a domain that goes are lost (R488). -/
def State.domBeats (s : State) (d : Nat) : State :=
  (List.range 32).foldl (fun s c =>
    match (s.dc c).run with
    | some r => if !(s.dc c).paused && r.status.isNone && r.touches d then s.dmaLost c else s
    | none => s) s

/-- The controllers of an HBM stack change from one state to another. -/
def State.stackTo (s : State) (d : Nat) (a b : McState) : State :=
  let first := if d = 146 then 0 else 8
  ((List.range 8).foldl (fun s i =>
    if (s.mc (first + i)).st = a then s.setMc (first + i) { s.mc (first + i) with st := b } else s) s).balance

/-- Whether a register copy belongs to the unit of a domain. -/
def RegKey.inDom (k : RegKey) (d : Nat) : Bool :=
  let w := k.reg.desc.win
  if d < 18 then w == 10 && (k.inst == d - 2 || (decide (64 ≤ k.inst) && (k.inst - 64) / 4 == d - 2))
  else if d < 122 then w == 6 && k.inst == d - 18 && decide (k.reg.desc.off < 0x8000)
  else if d < 126 then w == 11 && k.inst == d - 122
  else if d < 134 then w == 12 && k.inst == d - 126
  else if d < 138 then w == 13 && k.inst == d - 134
  else w == 16 && k.inst == d - 138

/-- A unit powers on from OFF: its registers take their reset values, and a rake enters SPARE (R489, R490). A compositor's colour
slots stay loaded until device reset (R256). -/
def State.unitFresh (s : State) (d : Nat) : State :=
  let s : State := { s with regs := s.regs.filter (fun (x : RegKey × W32) => !x.1.inDom d) }
  if d < 18 then { s with pgms := s.pgms.filter (fun (x : Nat × Pgm) => x.1 / 4 != d - 2) }
  else if d < 122 then s.toSpare (d - 18)
  else if d < 126 then { s with slus := s.slus.filter (fun (x : (Nat × Nat) × SluCtx) => x.1.1 != d - 122) }
  else if d < 134 then
    { s with cmps := s.cmps.filter (fun (x : (Nat × Nat) × CmpOut) => x.1.1 != d - 126) }
  else if d < 138 then { s with heads := Tab.erase (d - 134) s.heads }
  else s.setNet { s.net with tsh := Tab.erase (d - 138) s.net.tsh }

/-- A bank in FILL has filled every word with the poison pattern, and enters ON (R131). -/
def State.bankFilled (s : State) (i : Nat) : State :=
  if s.bank i = .fill then
    let mine (a : Nat) : Bool := decide (bankBase i ≤ a ∧ a < bankBase i + bankSize i)
    let s := ({ s with mem := fillWords mine s.mem }).setBank i .on
    if i < 144 ∧ s.dom (i + 2) = .fill then (s.domDone (i + 2) .on).unitFresh (i + 2) else s
  else s

/-- A bank in WAKE enters ON (R134). -/
def State.bankWoken (s : State) (i : Nat) : State :=
  if s.bank i = .wake then
    let s := s.setBank i .on
    if i < 144 ∧ s.dom (i + 2) = .wake then s.domDone (i + 2) .on else s
  else s

/-- A domain's transition completes (table CLK-4). -/
def State.domTransition (s : State) (d : Nat) : State :=
  match s.dom d, Tab.find? d s.power.targets with
  | .hold, some .ret =>
    let s := s.domBeats d
    if 146 ≤ d then (s.stackTo d .run .sref).domDone d .ret else (s.domBankTo d .ret).domDone d .ret
  | .hold, some x => ((s.domBeats d).domBankTo d .off).domDone d x
  | .ret, some x => (s.domBankTo d .off).domDone d x
  | .fill, some _ => match domBank d with
    | some i => s.bankFilled i
    | none => s
  | .wake, some _ => match domBank d with
    | some i => s.bankWoken i
    | none => (s.stackTo d .sref .run).domDone d .on
  | _, _ => s

/-! ### Reset (R483 to R486) -/

/-- Whether a device reset leaves a register as it is: those of the always-on domain (R483). -/
def Reg.alwaysOn (r : Reg) : Bool :=
  r.desc.win == 1 || r.desc.win == 2 || r.desc.win == 17 || [Reg.SEC_STAT, .SEC_KEY_CMD, .SEC_KEY_STAT, .SEC_KEY_BUF].contains r

/-- What the lanes have sent, which a reset does not take back. -/
def sentLanes (t : Tab (Nat × Nat) LaneTx) : Tab (Nat × Nat) LaneTx :=
  t.map (fun x => (x.1, { packets := x.2.packets, out := x.2.out }))

/-- The part as device reset leaves it: everything outside the always-on domain at its reset value (R483, R485), and no latch or
held half of a pair (R15). What the outside world has seen, and memory, stay. -/
def State.deviceReset (s : State) : State :=
  let pref := s.fget F.TWN_STAT_PREF 0 0
  let n : State := {
    pending := s.pending, freeCtr := s.freeCtr, answers := s.answers, mem := s.mem, time := s.time
    regs := s.regs.filter (fun (x : RegKey × W32) => x.1.reg.alwaysOn)
    resets := { s.resets with device := true }
    sec := { keys := s.sec.keys, fuses := s.sec.fuses, tap := s.sec.tap, tamperPost := s.sec.tamperPost }
    host := { out := s.host.out }, headOut := s.headOut, lanes := sentLanes s.lanes, net := { out := s.net.out }, audio := { sent := s.audio.sent }
    twin := { out := s.twin.out } }
  (n.fset F.TWN_STAT_PREF 0 0 pref).fset F.SEC_STAT_DBG 0 0 0

/-- A source of device reset (table CLK-2): its cause bit is set. -/
def State.resetBy (s : State) (bit : Nat) : State :=
  let s := s.setReg .CLK_RST_CAUSE 0 0 (s.reg .CLK_RST_CAUSE 0 0 ||| BitVec.ofNat 32 (2 ^ bit))
  s.deviceReset

/-- Main power is lost: device reset, and every domain but the always-on one loses power (R481). -/
def State.mainLost (s : State) : State :=
  let s := s.deviceReset
  { s with
    resets := { s.resets with mainGood := false }
    power := { doms := (List.range 147).map (fun i => (i + 1, DomState.off)), targets := [] }
    banks := (List.range 146).map (fun i => (i, BankState.off)) }

/-- Whether the always-on conditions of R484 hold. -/
def State.mayRelease (s : State) : Bool :=
  s.resets.device && !s.resets.alwaysOn && s.resets.mainGood &&
    (!s.resets.tripped || decide ((s.reg .PWR_TEMP 0 0 |>.extractLsb' 0 8).toInt < 95))

/-- The release of device reset (R485). -/
def State.release (s : State) (bootSel : BitVec 2) : State :=
  let s := s.deviceReset
  let s := { s with resets := { s.resets with device := false, tripped := false } }
  let s := s.fset F.CLK_STAT_LOCK 0 0 1
  let s := (s.fset F.SEC_BOOT_STAT_MODE 0 0 bootSel.toNat).fset F.SEC_BOOT_STAT_STATE 0 0 (if bootSel = 1 then 1 else 0)
  let s := s.post Src.clocks 0x0104 [.u 1 (bitsOf (s.reg .CLK_RST_CAUSE 0 0) 6 0), .u 1 (s.fget F.CLK_STAT_HOLD 0 0)]
  match s.sec.tamperPost with
  | some n => (s.setSec { s.sec with tamperPost := none }).post Src.security 0x0302 [.u 1 n]
  | none => s

/-- The part without VSTBY: nothing is kept but the fuses (R482). -/
def State.vstbyLost (s : State) : State :=
  { pending := s.pending, freeCtr := s.freeCtr, answers := s.answers, mem := s.mem
    resets := { device := true, alwaysOn := true, mainGood := false }, sec := { fuses := s.sec.fuses }
    host := { out := s.host.out }, headOut := s.headOut, lanes := sentLanes s.lanes, net := { out := s.net.out }, audio := { sent := s.audio.sent }
    twin := { out := s.twin.out } }

/-! ### Feeds (R480, R481) -/

/-- A feed is good. -/
def State.feedGood (s : State) (f : Nat) : Bool := bitOf (s.reg .PWR_FEED 0 0) f

/-- `GOOD` of a feed. -/
def State.setFeed (s : State) (f : Nat) (good : Bool) : State :=
  let v := s.reg .PWR_FEED 0 0
  let m : W32 := BitVec.ofNat 32 (2 ^ f)
  s.setReg .PWR_FEED 0 0 (if good then v ||| m else v &&& ~~~m)

/-- Each of the groups VIN, VSD and VIO has a good feed. -/
def State.groupsGood (s : State) : Bool := [0, 2, 4].all (fun f => s.feedGood f || s.feedGood (f + 1))

end Sys2Proof.Machine
end

