-- ==== Sys2Proof/Machine/Power.lean ====
section
/-! DEFINITION. The commands of clocks, resets and power (chapter 20), and the ends of a bank's FILL and WAKE (R131, R134). -/

namespace Sys2Proof.Machine

/-! ### Reference (R476 to R479) -/

/-- REFCLK_LOST: REFCLK stops, or a window is not good (R477, R478). -/
def execRefclkLost (cause count : Nat) (s : State) : Res :=
  .next (
    let hold := s.flag F.CLK_STAT_HOLD 0 0
    if hold && !s.flag F.CLK_STAT_VALIDREF 0 0 then s
    else
      let s := ((s.fset F.CLK_STAT_VALIDREF 0 0 0).fset F.CLK_STAT_REFOK 0 0 0).fset F.CLK_MON_COUNT 0 0 (min count 255)
      let s := s.fset F.CLK_STAT_LOSS 0 0 1
      if hold then s
      else (s.fset F.CLK_STAT_HOLD 0 0 1).post Src.clocks 0x0100 [.u 1 cause, .u 1 (min count 255)])

/-- REFCLK_VALID: two consecutive good windows (R476). -/
def execRefclkValid (count : Nat) (s : State) : Res :=
  .next (
    let s := s.fset F.CLK_MON_COUNT 0 0 (min count 255)
    if s.flag F.CLK_STAT_VALIDREF 0 0 then s
    else
      let s := s.fset F.CLK_STAT_VALIDREF 0 0 1
      if s.flag F.CLK_STAT_HOLD 0 0 then s.post Src.clocks 0x0101 [.u 1 0] else s)

/-- REFOK_SET: REFCLK has been valid for 1 ms without a break (R476). -/
def execRefokSet (s : State) : Res :=
  .next (
    if s.flag F.CLK_STAT_VALIDREF 0 0 ∧ ¬ s.flag F.CLK_STAT_REFOK 0 0 then
      let s := s.fset F.CLK_STAT_REFOK 0 0 1
      if s.flag F.CLK_STAT_HOLD 0 0 then s.post Src.clocks 0x0101 [.u 1 1] else s
    else s)

/-- A write of `CLK_CMD` (R479); `lossNow` says that REFCLK is lost in the FCLK of the write. -/
def State.clkReturn (s : State) (val : W32) (lossNow : Bool) : State :=
  let refuse (reason : Nat) : State :=
    (s.fset F.CLK_STAT_REFUSED 0 0 1).post Src.clocks 0x0103 [.u 1 reason]
  if ¬ bitOf val 0 then s
  else if ¬ s.flag F.CLK_STAT_REFOK 0 0 then refuse 0
  else if ¬ s.flag F.CLK_STAT_HOLD 0 0 then refuse 1
  else if lossNow then refuse 2
  else (s.fset F.CLK_STAT_HOLD 0 0 0).post Src.clocks 0x0102 []

/-- REFCLK_RETURN: a write of `CLK_CMD`. -/
def execRefclkReturn (_req : Nat) (val : BitVec 32) (lossNow : Bool) (s : State) : Res := .next (s.clkReturn val lossNow)

/-! ### Feeds -/

/-- FEED_LOST: a feed of a group leaves its limits for 2 µs (R480, R481). -/
def execFeedLost (f : Nat) (above : Bool) (s : State) : Res :=
  s.need (decide (f < 6)) "feed" fun s =>
    if ¬ s.feedGood f then s
    else
      let s := s.setFeed f false
      let s := s.setReg .PWR_FEED 0 0 (s.reg .PWR_FEED 0 0 ||| BitVec.ofNat 32 (2 ^ (16 + f)))
      if s.feedGood (if f % 2 = 0 then f + 1 else f - 1) then s.post Src.power 0x0202 [.u 1 f, .u 1 0, .u 1 (b2n above)]
      else if s.resets.mainGood then s.mainLost else s

/-- FEED_GOOD: a feed has been within its limits for 10 ms; main power is good again when every group has one (R480, R483). -/
def execFeedGood (f : Nat) (s : State) : Res :=
  s.need (decide (f < 7)) "feed" fun s =>
    if s.feedGood f then s
    else
      let s := s.setFeed f true
      let s := if f < 6 then s.post Src.power 0x0202 [.u 1 f, .u 1 1, .u 1 0] else s
      if ¬ s.resets.mainGood ∧ s.groupsGood then
        let s := s.setReg .CLK_RST_CAUSE 0 0 (s.reg .CLK_RST_CAUSE 0 0 ||| 2)
        { s with resets := { s.resets with mainGood := true } }
      else s

/-- VSTBY_LOST (R482). -/
def execVstbyLost (s : State) : Res := .next s.vstbyLost

/-- ALWAYS_ON_RESET_RELEASE: VSTBY has been good for 2 ms and the root PLL has locked (R484). -/
def execAlwaysOnResetRelease (refclkValid : Bool) (s : State) : Res :=
  .next (
    if s.resets.alwaysOn then
      let s : State := { s with resets := { s.resets with alwaysOn := false } }
      let s := ((s.fset F.CLK_STAT_LOCK 0 0 1).fset F.CLK_STAT_VALIDREF 0 0 (b2n refclkValid)).fset F.CLK_STAT_HOLD 0 0 (b2n (!refclkValid))
      (s.setFeed 6 true).fset F.TWN_STAT_PREF 0 0 (b2n s.sec.fuses.pref)
    else s)

/-! ### Resets -/

/-- DEVICE_RESET_RELEASE (R484, R485). -/
def execDeviceResetRelease (bootSel : BitVec 2) (s : State) : Res := .next (if s.mayRelease then s.release bootSel else s)

/-- SYS_RST: SYS_RST_N has been low for 1 µs. -/
def execSysRst (s : State) : Res := .next (s.resetBy 2)

/-- PERST: PERST_N resets the device, or the host port alone (R486). -/
def execPerst (s : State) : Res :=
  .next (
    if s.flag F.CLK_RST_CFG_PERST_DEV 0 0 then s.resetBy 3
    else (s.setReg .CLK_RST_CAUSE 0 0 (s.reg .CLK_RST_CAUSE 0 0 ||| 8)).hostReset)

/-- SOFTWARE_RESET: a write of `CLK_RST_CMD` (table CLK-12). -/
def execSoftwareReset (_req : Nat) (val : BitVec 32) (s : State) : Res :=
  .next (if bitOf val 0 ∧ bitsOf val 31 16 = 0x7E5D then s.resetBy 4 else s)

/-- PLL_FAULT: the root PLL has been out of lock for 1 µs; device time is no longer valid (R484). -/
def execPllFault (s : State) : Res :=
  .next (((s.setTime { s.time with valid := false }).fset F.CLK_STAT_LOCK 0 0 0).resetBy 5)

/-- THERMAL_TRIP: a comparator at or above 110 °C at 10 consecutive samples (R491). -/
def execThermalTrip (s : State) : Res :=
  .next (
    let s := s.resetBy 6
    { s with resets := { s.resets with tripped := true } })

/-- TEMPERATURE_READING: the hottest junction sensor is read (R491). -/
def execTemperatureReading (temp : BitVec 8) (s : State) : Res :=
  .next (
    let s := s.fset F.PWR_TEMP_TEMP 0 0 temp.toNat
    let warn := s.flag F.PWR_TEMP_WARN 0 0
    if 100 ≤ temp.toInt ∧ ¬ warn then (s.fset F.PWR_TEMP_WARN 0 0 1).post Src.power 0x0203 [.u 1 1, .i 4 temp.toInt]
    else if temp.toInt < 95 ∧ warn then (s.fset F.PWR_TEMP_WARN 0 0 0).post Src.power 0x0203 [.u 1 0, .i 4 temp.toInt]
    else s)

/-! ### Domains -/

/-- POWER_REQUEST: a write of `PWR_REQ` (R487). -/
def execPowerRequest (_req : Nat) (val : BitVec 32) (s : State) : Res := .next (s.powerReq val)

/-- POWER_TRANSITION_DONE: a domain's transition completes (R487, table CLK-4). -/
def execPowerTransitionDone (domain : Nat) (s : State) : Res :=
  s.need (decide (domain < 148)) "power domain" fun s => s.domTransition domain

/-- BANK_FILL_COMPLETE (R131). -/
def execBankFillComplete (n : Nat) (s : State) : Res := s.need (decide (n < 146)) "bank" fun s => s.bankFilled n

/-- BANK_WAKE_COMPLETE (R134). -/
def execBankWakeComplete (n : Nat) (s : State) : Res := s.need (decide (n < 146)) "bank" fun s => s.bankWoken n

end Sys2Proof.Machine
end

