-- ==== Sys2Proof/Machine/PmuOps.lean ====
section
/-! DEFINITION. The operations of the performance counters (chapter 18): cycle events, counter registers, snapshots,
instruction tags. -/

namespace Sys2Proof.Machine

/-- A counter. -/
def State.counter (s : State) (set i : Nat) : PmuCounter := Tab.getD s.pmu (set, i) {}

/-- The state with a counter changed. -/
def State.setCounter (s : State) (set i : Nat) (c : PmuCounter) : State := { s with pmu := Tab.set s.pmu (set, i) c }

/-- The sets of table PMU-1 with their counts of counters. -/
def pmuSets : List (Nat × Nat) :=
  (List.range 104).map (fun n => (n, 8)) ++ (List.range 16).map (fun n => (128 + n, 16)) ++ [(255, 128)]

/-- The cycles of one TCLK tick reach the counters (table SCO-4): 4 ECLK, 3 PCLK, 2 FCLK (tables PMU-2 to PMU-4). -/
def State.pmuCycles (s : State) : State :=
  if s.pmu.isEmpty then s
  else
    let ready := (s.tally.slots.filter (fun (x : Nat × Slot) => x.2.st == .ready)).length
    let s := (s.pmuAdd pmuGlobal 0x001 [] 2 0).pmuAdd pmuGlobal 0x023 [] (2 * ready) 0
    let s := (List.range 104).foldl (fun s n =>
      let r := s.rake n
      match r.st with
      | .run | .drain =>
        let s := s.pmuAdd n 0x001 [] 4 r.pc
        if r.devLoad.isSome then s.pmuAdd n 0x00C [] 4 r.pc else s
      | .idle => s.pmuAdd n 0x002 [] 4 r.pc
      | _ => s) s
    (List.range 16).foldl (fun s n => if s.dom (2 + n) = .on then s.pmuAdd (128 + n) 0x001 [] 3 0 else s) s

/-! ### Registers -/

/-- The value of `PMU_EVSEL` of a counter (table PMU-8). -/
def PmuCounter.select (c : PmuCounter) : W32 :=
  BitVec.ofNat 32 (b2n c.ovf * 2 ^ 31 + b2n c.int * 2 ^ 30 + b2n c.en * 2 ^ 29 + c.inst * 2 ^ 10 + c.event)

/-- A write of `PMU_EVSEL` (table PMU-8). -/
def State.evselWrite (s : State) (set i : Nat) (val : W32) : State :=
  let c := s.counter set i
  s.setCounter set i { c with
    ovf := c.ovf && !bitOf val 31, int := bitOf val 30, en := bitOf val 29, inst := bitsOf val 15 10, event := bitsOf val 9 0 }

/-- A write of `PMU_CNT_HI` commits a counter's value (R453). -/
def State.counterWrite (s : State) (set i : Nat) (lo : W32) (val : W32) : State :=
  s.setCounter set i { s.counter set i with count := bitsOf val 15 0 * 2 ^ 32 + lo.toNat }

/-! ### Snapshots (R458) -/

/-- A counter's entry in a snapshot. -/
def PmuCounter.entry (c : PmuCounter) : List Byte := leBytes 8 (c.count + b2n c.ovf * 2 ^ 48 + c.event * 2 ^ 49)

/-- The bytes of snapshot n (table PMU-5). -/
def State.snapshot (s : State) (n : Nat) : List Byte :=
  leBytes 8 s.now.toNat ++ leBytes 4 n ++ List.replicate 52 0 ++
    pmuSets.flatMap (fun (x : Nat × Nat) => (List.range x.2).flatMap (fun i => (s.counter x.1 i).entry))

/-- The address of a ring in HBM of the counter unit. -/
def State.pmuBase (s : State) (lo hi : Reg) : Nat := bitsOf (s.pair lo hi 255 0) 47 5 * 32

/-- A capture falls due: it is written, or skipped while the snapshot before it is still being written. -/
def State.capture (s : State) (busy : Bool) : State :=
  let n := s.snaps
  let s : State := { s with snaps := n + 1 }
  if busy then
    (s.fset F.PMU_DUMP_CNT_SKIPPED 255 0 (min (s.fget F.PMU_DUMP_CNT_SKIPPED 255 0 + 1) 0xFFFF)).post Src.pmu 0x1601
      [.u 4 (n % 2 ^ 32)]
  else
    let a := s.pmuBase .PMU_DUMP_BASE_LO .PMU_DUMP_BASE_HI + 9792 * (n % 2 ^ min 8 (s.fget F.PMU_DUMP_CFG_LOG2 255 0))
    let s := (s.writeRange Src.pmu a (s.snapshot n)).2
    s.fset F.PMU_DUMP_CNT_DONE 255 0 ((s.fget F.PMU_DUMP_CNT_DONE 255 0 + 1) % 65536)

/-! ### Tags (R459, R460) -/

/-- The number of instructions up to the next tagged one. -/
def tagDraw (tlog : Nat) (l : BitVec 24) : Nat := 2 ^ (tlog - 1) + l.toNat % 2 ^ tlog

/-- A write of `PMU_TAG` (table PMU-11). -/
def State.tagWrite (s : State) (n : Nat) (val : W32) : State :=
  let was := s.flag F.PMU_TAG_EN n 0
  let t := bitsOf val 28 24
  let s := if 8 ≤ t ∧ t ≤ 24 then s.fset F.PMU_TAG_TLOG n 0 t else s
  let s := s.fset F.PMU_TAG_EN n 0 (bitsOf val 31 31)
  if ¬ bitOf val 31 then { s with tags := Tab.erase n s.tags }
  else if was then s
  else
    let seed : BitVec 24 := BitVec.ofNat 24 (n + 1)
    { s with tags := Tab.set s.tags n { lfsr := seed, left := tagDraw (s.fget F.PMU_TAG_TLOG n 0) seed, cur := none } }

/-- A tag record (table PMU-6): whether the instruction was the second of a pair, and its counts of ECLK, are timing and so free
values (R451). -/
def State.tagRecord (s : State) (rk : Nat) (c : Nat × Nat × Nat × Nat × W64) : List Byte × State :=
  let (pc, flags, slot, addr, time) := c
  let w : BitVec 65 := s.free 65
  let s := s.drawn
  (leBytes 2 pc ++ leBytes 1 rk ++ leBytes 1 (flags + w.toNat / 2 ^ 64) ++ leBytes 2 slot ++ leBytes 2 0 ++
    leBytes 8 w.toNat ++ leBytes 6 addr ++ leBytes 2 0 ++ leBytes 8 time.toNat, s)

/-- The tagged instruction of a rake completes: its record is written, or dropped when 8 records wait. -/
def State.tagDone (s : State) (rk : Nat) (u : TagUnit) (c : Nat × Nat × Nat × Nat × W64) (full : Bool) : State :=
  let u' : TagUnit := { u with cur := none, left := tagDraw (s.fget F.PMU_TAG_TLOG rk 0) u.lfsr }
  let s : State := { s with tags := Tab.set s.tags rk u' }
  if full then
    let n := min (s.fget F.PMU_TAG_CNT_LOST 255 0 + 1) 0xFFFF
    (s.fset F.PMU_TAG_CNT_LOST 255 0 n).post Src.pmu 0x1602 [.u 1 rk, .u 2 n]
  else
    let (b, s) := s.tagRecord rk c
    let a := s.pmuBase .PMU_TAG_BASE_LO .PMU_TAG_BASE_HI + 32 * (s.tagged % 2 ^ min 20 (s.fget F.PMU_TAG_RING_LOG2 255 0))
    let s := (s.writeRange Src.pmu a b).2
    let s : State := { s with tagged := s.tagged + 1 }
    s.fset F.PMU_TAG_CNT_WRITTEN 255 0 ((s.fget F.PMU_TAG_CNT_WRITTEN 255 0 + 1) % 65536)

end Sys2Proof.Machine
end

