-- ==== Sys2Proof/Machine/Time.lean ====
section
/-! DEFINITION. The commands of the time base (chapter 11). -/

namespace Sys2Proof.Machine

/-! ### Ticks -/

/-- A tick, with the cycles that counters count in it. -/
def State.ticked (s : State) : State := s.pmuCycles.tick

/-- TIME_BASE_TICK: one TCLK tick (R327). -/
def execTimeBaseTick (s : State) : Res := .next s.ticked

/-- TIME_LOAD: the tick in which a waiting LOAD executes (R330). -/
def execTimeLoad (s : State) : Res := .next (if s.time.cmd = some 1 then s.ticked else s)

/-- TIME_STEP: the tick in which a waiting STEP executes (R330). -/
def execTimeStep (s : State) : Res := .next (if s.time.cmd = some 2 then s.ticked else s)

/-- TIME_SLEW: the tick in which a waiting SLEW executes (R330). -/
def execTimeSlew (s : State) : Res := .next (if s.time.cmd = some 3 then s.ticked else s)

/-- TIME_INVALIDATE: the tick in which a waiting INVALIDATE executes (R330). -/
def execTimeInvalidate (s : State) : Res := .next (if s.time.cmd = some 4 then s.ticked else s)

/-- The tick in progress absorbs the rest of a slew (R330). -/
def State.slewEnds (s : State) : Bool :=
  match s.time.slew, s.time.cmd with
  | some x, none => decide (x.rem.natAbs < s.slewUnit)
  | _, _ => false

/-- SLEW_DONE: the tick in which the slew residual becomes 0 (R330). -/
def execSlewDone (s : State) : Res := .next (if s.slewEnds then s.ticked else s)

/-! ### Registers -/

/-- A write of `TIM_OP_CMD` (R332): the command waits for its tick, or is dropped when one already waits. -/
def State.timOpWrite (s : State) (val : W32) : State :=
  if s.time.cmd.isSome then s.fset F.TIM_STAT_DROPPED 0 0 1
  else s.setTime { s.time with cmd := some (bitsOf val 2 0) }

/-- A write of `TIM_CFG` (table TIM-3): a field outside its range stays unchanged. -/
def State.timCfgWrite (s : State) (val : W32) : State :=
  let j := bitsOf val 31 12
  let w := bitsOf val 9 0
  let s := if 1 ≤ j ∧ j ≤ 1000000 then s.fset F.TIM_CFG_JUMP 0 0 j else s
  if 1 ≤ w ∧ w ≤ 1000 then s.fset F.TIM_CFG_SLEW 0 0 w else s

/-- The commit of an increment pair by a write of its `_HI` register (R15, R328). -/
def State.incCommit (s : State) (req : Nat) (lo hi : Reg) (val : W32) : State :=
  let low := Tab.getD s.helds (req, lo, 0) (s.reg lo 0 0)
  let s := { s with helds := Tab.erase (req, lo, 0) s.helds }
  let v := bitsOf val 3 0 * 2 ^ 32 + low.toNat
  if 10726680822 ≤ v ∧ v ≤ 10748155658 then
    (s.setReg lo 0 0 low).setReg hi 0 0 (BitVec.ofNat 32 (bitsOf val 3 0))
  else s.fset F.TIM_STAT_BADINC 0 0 1

/-- INC_WRITE: a write of `TIM_INC_HI` (R328). -/
def execIncWrite (req : Nat) (val : BitVec 32) (s : State) : Res := .next (s.incCommit req .TIM_INC_LO .TIM_INC_HI val)

/-- HINC_WRITE: a write of `TIM_HINC_HI` (R328). -/
def execHincWrite (req : Nat) (val : BitVec 32) (s : State) : Res := .next (s.incCommit req .TIM_HINC_LO .TIM_HINC_HI val)

/-- A requester's latch of a register. -/
def State.setLatch (s : State) (req : Nat) (r : Reg) (i : Nat) (v : W32) : State :=
  { s with latches := Tab.set s.latches (req, r, i) v }

/-- A read of `TIM_NOW_NS` (table TIM-8): it latches fraction and seconds for the requester. -/
def State.nowRead (s : State) (req : Nat) : W32 × State :=
  (BitVec.ofNat 32 s.time.ns,
    ((s.setLatch req .TIM_NOW_FRAC 0 (BitVec.ofNat 32 s.time.frac)).setLatch req .TIM_NOW_SEC_LO 0
      (s.time.sec.extractLsb' 0 32)).setLatch req .TIM_NOW_SEC_HI 0 (s.time.sec.extractLsb' 32 32))

/-- TIME_NOW_READ: a read of `TIM_NOW_NS`. -/
def execTimeNowRead (req : Nat) (s : State) : Res :=
  let (v, s) := s.nowRead req
  .next (s.answer req (.data 4 (v.zeroExtend 256)))

/-- The word of `TIM_TXTS_ID` for an entry (table TIM-18). -/
def TxStamp.word (x : TxStamp) : W32 :=
  BitVec.ofNat 32 (2 ^ 31 + b2n x.abort * 2 ^ 30 + x.link % 4 * 2 ^ 28 + x.tsid.toNat)

/-- A read of a port's `TIM_TXTS_ID` (R336): the head entry is removed, and its time latched for the requester. -/
def State.txtsRead (s : State) (req port : Nat) : W32 × State :=
  match s.stamps port with
  | [] => (0, (s.setLatch req .TIM_TXTS_NS port 0).setLatch req .TIM_TXTS_SEC port 0)
  | x :: t =>
    let s := s.setTime { s.time with stamps := Tab.set s.time.stamps port t }
    (x.word, (s.setLatch req .TIM_TXTS_NS port (BitVec.ofNat 32 x.ns)).setLatch req .TIM_TXTS_SEC port
      (x.sec.extractLsb' 0 32))

/-- TXTS_READ: a read of `TIM_TXTS_ID` (R336). -/
def execTxtsRead (req port : Nat) (s : State) : Res :=
  s.need (decide (port < 8)) "port" fun s =>
    let (v, s) := s.txtsRead req port
    s.answer req (.data 4 (v.zeroExtend 256))

/-! ### Timed outputs -/

/-- Whether an enable is refused (R339, tables TIM-24, TIM-27, TIM-28). -/
def State.toutBad (s : State) (n : Nat) (periodic : Bool) : Bool :=
  let w := s.fget F.TIM_TOUT_WIDTH_WIDTH (n + 1) 0
  let num := s.fget F.TIM_TOUT_FR_NUM_FR_NUM (n + 1) 0
  let den := s.fget F.TIM_TOUT_FR_DEN_FR_DEN (n + 1) 0
  decide (w < 10) || decide (1000000000 ≤ s.fget F.TIM_TOUT_START_NS_NS (n + 1) 0) ||
    (periodic && (decide (num = 0) || decide (den * 1000000000 / num ≤ w)))

/-- A write of `TIM_TOUT_CTRL` of output n (R338, R339): a refused enable has no other effect. -/
def State.toutCtrlWrite (s : State) (n : Nat) (val : W32) : State :=
  let i := n + 1
  let s := if bitOf val 31 then s.fset F.TIM_TOUT_CTRL_LATE i 0 0 else s
  let s := if bitOf val 30 then s.fset F.TIM_TOUT_CTRL_BAD i 0 0 else s
  if s.flag F.TIM_TOUT_CTRL_EN i 0 then
    if bitOf val 0 then s else (s.fset F.TIM_TOUT_CTRL_EN i 0 0).setTout n {}
  else
    if bitOf val 0 ∧ s.toutBad n (bitOf val 1) then s.fset F.TIM_TOUT_CTRL_BAD i 0 1
    else
      let s := (s.fset F.TIM_TOUT_CTRL_POL i 0 (bitsOf val 2 2)).fset F.TIM_TOUT_CTRL_MODE i 0 (bitsOf val 1 1)
      if bitOf val 0 then
        let s := (s.fset F.TIM_TOUT_CTRL_EN i 0 1).fset F.TIM_TOUT_COUNT_COUNT i 0 0
        if bitOf val 1 then s.setTout n { k := s.toutNext n s.time.total }
        else s.setTout n { due := true, late := decide (s.toutStart n * 2 ^ 32 < s.time.total) }
      else s

/-- TOUT_ENABLE: a write of `TIM_TOUT_CTRL` (R338). -/
def execToutEnable (_req n : Nat) (val : BitVec 32) (s : State) : Res :=
  s.need (decide (n < 8)) "timed output" fun s => s.toutCtrlWrite n val

/-- The ticks of a pulse: ceil(WIDTH / 2.5). -/
def State.toutTicks (s : State) (n : Nat) : Nat := ceilDiv (2 * s.fget F.TIM_TOUT_WIDTH_WIDTH (n + 1) 0) 5

/-- TOUT_EDGE: the next edge of an output has come, and the pin asserts or restarts its pulse (R337, R338). -/
def execToutEdge (n : Nat) (s : State) : Res :=
  s.need (decide (n < 8)) "timed output" fun s =>
    match s.toutPending n with
    | none => s
    | some e =>
      if e * 2 ^ 32 ≤ s.time.total then
        let x := s.tout n
        let s := s.fset F.TIM_TOUT_COUNT_COUNT (n + 1) 0 ((s.fget F.TIM_TOUT_COUNT_COUNT (n + 1) 0 + 1) % 2 ^ 32)
        let once := !s.flag F.TIM_TOUT_CTRL_MODE (n + 1) 0
        let s := s.setTout n { k := if once then x.k else x.k + 1, due := false, late := false, pulse := some (s.toutTicks n) }
        if once && x.late then s.toutLate n else s
      else s

/-- TOUT_PULSE_END: a pulse has lasted its ticks, and the pin deasserts; in once mode `EN` clears (R337, R338). -/
def execToutPulseEnd (n : Nat) (s : State) : Res :=
  s.need (decide (n < 8)) "timed output" fun s =>
    if (s.tout n).pulse = some 0 then
      let s := s.setTout n { s.tout n with pulse := none }
      if s.flag F.TIM_TOUT_CTRL_MODE (n + 1) 0 then s else s.fset F.TIM_TOUT_CTRL_EN (n + 1) 0 0
    else s

end Sys2Proof.Machine
end

