-- ==== Sys2Proof/Machine/RegView.lean ====
section
/-! DEFINITION. Where a register address lies (R9, table ARC-9), which copy of a register a requester sees, and the value that
a register shows: what is stored of it, with the fields that a unit's own state supplies. -/

namespace Sys2Proof.Machine

/-! ### Addresses -/

/-- A register that an access reaches: the register, its instance, its place in a stride, and the function whose page it
lies in. -/
structure RegAt where
  reg : Reg
  inst : Nat
  idx : Nat := 0
  fn : Nat := 0
  deriving DecidableEq, Repr

/-- The offsets, places and count of the copies that follow one another. -/
def Reg.stride (r : Reg) : Nat × Nat :=
  match r.desc.sub with
  | .stride step count => (step, count)
  | .keyBuf => (4, 12)
  | _ => (4, 1)

/-- The counters of a PMU_ instance (table PMU-1). -/
def pmuCount (inst : Nat) : Nat := if inst < 128 then 8 else if inst < 255 then 16 else 128

/-- The place of an offset in a register's copies; `none` when the offset is not the register's. -/
def Reg.placeOf (r : Reg) (inst off : Nat) : Option Nat :=
  let (step, count) := r.stride
  let count := if r.desc.win = 22 ∧ count = 128 then pmuCount inst else count
  let d := off - r.desc.off
  if r.desc.off ≤ off ∧ d % step = 0 ∧ d / step < count ∧
      r.desc.insts.any (fun (x : Nat × Nat) => decide (x.1 ≤ inst ∧ inst ≤ x.2)) then some (d / step)
  else none

/-- The register of a window at an instance and offset. -/
def regIn (win inst off : Nat) : Option RegAt :=
  (Reg.ofWindow win).findSome? fun r => (r.placeOf inst off).map fun i => { reg := r, inst := inst, idx := i }

/-- The register at a device address (R9). -/
def regAt (addr : Nat) : Option RegAt :=
  let a := addr - 0x003000000000
  regIn (a / 2 ^ 24) (a % 2 ^ 24 / 2 ^ 16) (a % 2 ^ 16)

/-- The register at an offset of a function's page. -/
def pageAt (fn off : Nat) : Option RegAt := (regIn 0 0 (0x1000 + off)).map fun x => { x with fn := fn }

/-! ### Copies -/

/-- The copy that a requester's selector shows. -/
def State.selected (s : State) (req fn inst : Nat) (layer : Bool) : Reg → Nat
  | .HST_ADM_SEL => s.fget F.HST_ADM_SEL_ENTRY 0 req
  | .TLY_FLOW_SEL => s.fget F.TLY_FLOW_SEL_FLOW 0 req
  | .MC_CAL_SEL => s.fget F.MC_CAL_SEL_LANE inst req
  | .SLU_STR_SEL => s.fget F.SLU_STR_SEL_CTX inst req
  | .CMP_OUT_SEL =>
    let q := s.fget F.CMP_OUT_SEL_OUT inst req
    if layer then q * 16 + s.fget F.CMP_OUT_SEL_LAYER inst req else q
  | .ETH_RXF_SEL => s.fget F.ETH_RXF_SEL_FLOW inst 0
  | .TSH_Q_SEL => s.fget F.TSH_Q_SEL_QUEUE inst 0
  | .DMA_RGN_SEL => s.fget F.DMA_RGN_SEL_RGN 0 req
  | .EVT_SEL => s.fget F.EVT_SEL_SRC 0 req
  | .TWN_MUTE_SEL => s.fget F.TWN_MUTE_SEL_PORT 0 req * 16 + s.fget F.TWN_MUTE_SEL_GROUP 0 req
  | .HST_VF_SEL => s.fget F.HST_VF_SEL_VF 0 req
  | .HST_RING_SEL => ringSub fn (s.ringSel fn req)
  | .PWR_DOM_SEL => s.fget F.PWR_DOM_SEL_DOMAIN 0 req
  | _ => 0

/-- The copy of a register that an access of a requester reaches. -/
def State.copyOf (s : State) (req : Nat) (x : RegAt) : Nat :=
  match x.reg.desc.sub with
  | .one => 0
  | .perReq => req
  | .sel q => s.selected req x.fn x.inst (x.reg == .CMP_LAYER_LATE) q
  | .stride _ _ => x.idx
  | .page => x.fn
  | .keyBuf => req * 16 + x.idx

/-- The number under which a requester's latches and held halves of a register stand: one for each pair, never for what a
selector selects (R15). -/
def RegAt.latchKey (x : RegAt) : Nat :=
  match x.reg.desc.sub with
  | .stride _ _ => x.inst * 128 + x.idx
  | _ => x.inst

/-- The pairs of R15, lower half first. The seconds of `TIM_NOW` are latched by another register (table TIM-8). -/
def regPairs : List (Reg × Reg) :=
  [(.RK_FAULT_ADDR_LO, .RK_FAULT_ADDR_HI), (.TLY_TICKCNT_LO, .TLY_TICKCNT_HI), (.TLY_FLOW_TGT_LO, .TLY_FLOW_TGT_HI),
   (.PAN_PGM_DESC_LO, .PAN_PGM_DESC_HI), (.ETH_CNT_LO, .ETH_CNT_HI), (.ETH_RXF_ADDR_LO, .ETH_RXF_ADDR_HI),
   (.TSH_ADDR_LO, .TSH_ADDR_HI), (.TSH_SMP_BASE_LO, .TSH_SMP_BASE_HI), (.TIM_INC_LO, .TIM_INC_HI),
   (.TIM_HINC_LO, .TIM_HINC_HI), (.TIM_OP_SEC_LO, .TIM_OP_SEC_HI), (.TIM_TOUT_START_SEC_LO, .TIM_TOUT_START_SEC_HI),
   (.AUD_IN_BASE_LO, .AUD_IN_BASE_HI), (.AUD_OUT_START_LO, .AUD_OUT_START_HI), (.AUD_OUT_BASE_LO, .AUD_OUT_BASE_HI),
   (.DMA_SUBMIT_LO, .DMA_SUBMIT_HI), (.LN_SDI_ADDR_LO, .LN_SDI_ADDR_HI), (.CHK_EXP_LO, .CHK_EXP_HI),
   (.CHK_TBL_LO, .CHK_TBL_HI), (.CHK_LAST_LO, .CHK_LAST_HI), (.TWN_SYNC_LO, .TWN_SYNC_HI), (.TWN_LIST_LO, .TWN_LIST_HI),
   (.TWN_STAGE_LO, .TWN_STAGE_HI), (.TWN_UID_LO, .TWN_UID_HI), (.SEC_SVC_ADDR_LO, .SEC_SVC_ADDR_HI),
   (.PMU_CNT_LO, .PMU_CNT_HI), (.PMU_DUMP_BASE_LO, .PMU_DUMP_BASE_HI), (.PMU_TAG_BASE_LO, .PMU_TAG_BASE_HI),
   (.HST_DB_DEST_LO, .HST_DB_DEST_HI), (.HST_DB_VAL_LO, .HST_DB_VAL_HI), (.HST_RING_BASE_LO, .HST_RING_BASE_HI)]

/-- The upper half of a pair whose lower half this is. -/
def Reg.upper (r : Reg) : Option Reg := (regPairs.find? (fun (p : Reg × Reg) => p.1 == r)).map (fun p => p.2)

/-- The lower half of a pair whose upper half this is. -/
def Reg.lower (r : Reg) : Option Reg := (regPairs.find? (fun (p : Reg × Reg) => p.2 == r)).map (fun p => p.1)

/-! ### What a register shows -/

/-- Rake states in the code of table ISA-1. -/
def RakeState.code : RakeState → Nat
  | .off => 0
  | .empty => 1
  | .loading => 2
  | .idle => 3
  | .run => 4
  | .drain => 5
  | .halt => 6
  | .spare => 7
  | .retired => 8

/-- Controller states in the code of `MC_STAT` (table MEM-9). -/
def McState.code : McState → Nat
  | .off => 0
  | .init => 1
  | .run => 2
  | .sref => 3

/-- Bank states in the code of `BNK_STAT` (table MEM-18). -/
def BankState.code : BankState → Nat
  | .off => 0
  | .fill => 1
  | .on => 2
  | .ret => 3
  | .wake => 4

/-- Transmit queue states in the code of table NET-31. -/
def TxState.code : TxState → Nat
  | .closed => 0
  | .opened => 1
  | .closing => 2

/-- The state of a DMA channel in the code of `DMA_STAT`. -/
def State.dmaState (s : State) (n : Nat) : Nat :=
  if !s.flag F.DMA_CFG_EN n 0 then 0 else if (s.dc n).paused then 3 else if (s.dc n).run.isSome then 2 else 1

/-- A 32-bit word of a number. -/
def word32 (n : Nat) : W32 := BitVec.ofNat 32 n

/-- The head whose registers a head shows: a SLAVE head shows its even partner's frame count and flip (R301). -/
def State.headShown (s : State) (n : Nat) : Nat := if (s.head n).st = .slave then n / 2 * 2 else n

/-- A word with fields set, each as upper bit, lower bit, value. -/
def putFields (w : W32) (l : List (Nat × Nat × Nat)) : W32 :=
  l.foldl (fun (a : W32) (f : Nat × Nat × Nat) => setBits a f.1 f.2.1 f.2.2) w

/-- The value of a copy of a register: what is stored, with what the unit's state supplies. A `LOAD` field is a measured
fraction, a free value. -/
def State.regView (s : State) (r : Reg) (inst sub : Nat) : W32 :=
  let w := s.reg r inst sub
  match r with
  | .HST_ADM_LIMIT => word32 (s.ledgerLimit sub)
  | .HST_ADM_USED => word32 (s.ledger.used sub)
  | .RK_STATE =>
    let k := s.rake inst
    word32 (k.st.code + k.pos.getD 0x7F * 2 ^ 8)
  | .RK_SPARES =>
    let free := (List.range 104).filter (fun n => (s.rake n).st == .spare && !(s.rake n).held)
    word32 (free.length + s.mgr.lost.length * 2 ^ 8)
  | .TLY_TICKCNT_LO => word32 s.tally.tick
  | .TLY_TICKCNT_HI => word32 (s.tally.tick / 2 ^ 32)
  | .TLY_OCC =>
    let used := s.tally.slots.filter (fun (x : Nat × Slot) => x.2.st != .free)
    word32 (used.length * 2 ^ 16 + ((List.range 16).map (fun l => if (s.readyList l).isEmpty then 0 else 2 ^ l)).sum)
  | .TLY_FLOW_POS => word32 ((s.flow sub).next.toNat % 65536 * 65536 + (s.flow sub).rel.toNat % 65536)
  | .MC_STAT => setBits w 2 0 (s.mc inst).st.code
  | .BNK_STAT => word32 (bankSize inst / 1024 * 65536 + (s.bank inst).code)
  | .PAN_STAT | .SLU_STAT | .CMP_STAT => setBits w 31 16 (s.free 16).toNat
  | .DH_FRAME | .DH_FLIP_NS | .DH_FLIP_SEC | .DH_FLIP_FRM => s.reg r (s.headShown inst) sub
  | .DMA_STAT =>
    putFields w [(29, 27, s.dmaState inst), (26, 26, b2n (s.dc inst).down), (20, 16, s.dmaHeld inst)]
  | .DMA_DONE => word32 (s.dc inst).done
  | .ETH_CNT_LO | .ETH_CNT_HI =>
    let c := Tab.getD s.net.counts (inst, s.fget F.ETH_CNT_SEL_LINK inst 0, s.fget F.ETH_CNT_SEL_CNT inst 0) 0
    if r = .ETH_CNT_LO then c.extractLsb' 0 32 else c.extractLsb' 32 32
  | .TSH_Q_STAT =>
    let q := s.txq inst sub
    putFields 0 [(31, 30, q.st.code), (25, 24, qPace q.desc), (21, 20, qLink q.desc), (18, 16, qClass q.desc),
      (12, 0, q.pkts.length)]
  | .TIM_NOW_NS => word32 s.time.ns
  | .TIM_NOW_FRAC => word32 s.time.frac
  | .TIM_NOW_SEC_LO => s.time.sec.extractLsb' 0 32
  | .TIM_NOW_SEC_HI => s.time.sec.extractLsb' 32 32
  | .TIM_STAT =>
    putFields w [(3, 3, b2n s.time.cmd.isSome), (2, 2, b2n s.time.slew.isSome), (1, 1, b2n s.time.hold),
      (0, 0, b2n s.time.valid)]
  | .TIM_SLEW_REM =>
    match s.time.slew with
    | some x => BitVec.ofInt 32 (x.rem.tdiv (2 ^ 32))
    | none => 0
  | .TIM_TXTS_STAT => setBits w 22 16 (s.stamps sub).length
  | .EVT_SEQ => (s.evSource sub).seq
  | .EVT_LOST => word32 (s.evSource sub).lost
  | .CHK_ALIVE => if s.flag F.CHK_CFG_EN inst 0 then w + word32 (Tab.getD s.chk inst {}).b else w
  | .TWN_STAT =>
    let t := s.twin
    putFields w [(8, 8, b2n t.trans.isSome), (7, 7, b2n s.warmReady), (6, 6, b2n t.link), (5, 5, b2n t.current),
      (2, 0, t.st.code)]
  | .TWN_UID_LO => Config.uid.extractLsb' 0 32
  | .TWN_UID_HI => Config.uid.extractLsb' 32 32
  | .SEC_FUSE => s.sec.fuses.word
  | .PMU_EVSEL => (s.counter inst sub).select
  | .PMU_CNT_LO => word32 (s.counter inst sub).count
  | .PMU_CNT_HI => word32 ((s.counter inst sub).count / 2 ^ 32)
  | .HST_DB_STAT => setBits w 4 0 (s.hostFn sub).held.length
  | .HST_VF_SLOTS | .HST_VF_WIN | .HST_VF_DMA => if 1 ≤ sub ∧ sub ≤ 64 then w else 0
  | .PWR_DOM_STATE => if sub ≤ 147 then word32 (s.dom sub).code else 0
  | _ => w

end Sys2Proof.Machine
end

