-- ==== Sys2Proof/Machine/Sec.lean ====
section
/-! DEFINITION. The commands of the security controller and the JTAG port (chapter 17). -/

namespace Sys2Proof.Machine

/-! ### Boot -/

/-- HEADERS_READ: in a flash mode both headers have been read, or the flash is no source (R433, R437). -/
def execHeadersRead (sfdp : Bool) (a b : List (BitVec 8)) (s : State) : Res :=
  .next (
    if s.fget F.SEC_BOOT_STAT_STATE 0 0 ≠ 0 ∨ s.fget F.SEC_BOOT_STAT_MODE 0 0 = 1 ∨ s.sec.trial.isSome ∨
        s.fget F.SEC_BOOT_STAT_RES_A 0 0 ≠ 0 then s
    else if ¬ sfdp then ((s.setResult 0 7).setResult 1 7).bootFail
    else
      let s := s.setSec { s.sec with bankLock := true, headers := [(0, a), (1, b)] }
      let bFirst := if headerOk a = headerOk b then decide (hdrSeq a < hdrSeq b) else headerOk b
      State.tryImages (if bFirst then [1, 0] else [0, 1]) s)

/-- SIGNATURE_VERIFIED: the check of the signature of the image on trial completes (R436). -/
def execSignatureVerified (s : State) : Res :=
  .next (match s.sec.trial with
    | some t =>
      if t.stage = .signature then
        if signatureOk t.hdr then s.setSec { s.sec with trial := some { t with stage := .payload } } else s.trialFails t.img 5
      else s
    | none => s)

/-- PAYLOAD_STAGED: the payload of a flash image has been read and copied into staging, or the host's stands there; its hash is
checked (R436, R438). -/
def execPayloadStaged (payload : List (BitVec 8)) (s : State) : Res :=
  .next (match s.sec.trial with
    | some t =>
      if t.stage ≠ .payload then s
      else if t.img = 2 then s.checkPayload t
      else if payload.length ≠ hdrPlen t.hdr then s
      else ((s.writeRange Src.security stagingBase (t.hdr ++ payload)).2).checkPayload t
    | none => s)

/-- IMAGE_LOAD_COMPLETE: an image load has written the whole bank and the rake enters IDLE (R49, R51); the load of a boot starts
the firmware (R438). A bank that leaves OFF takes its loads once its FILL has ended (log entry 90). -/
def execImageLoadComplete (rk : Nat) (s : State) : Res :=
  s.need (decide (rk < 104)) "rake" fun s =>
    let r := s.rake rk
    match r.st, r.pos, r.loadFrom with
    | .loading, some p, some a =>
      if s.imageReadable a ∧ s.bank (16 + rk) = .on then
        let s := State.copyImage a (bankBase (16 + rk)) (List.range 16384) s
        let s := (s.setRake rk { ({} : Rake) with st := .idle, pos := some p }).cmdResult p 0
        match s.sec.trial with
        | some t => if t.stage = .loading ∧ p = 0 ∧ a = stagingBase + 1024 then s.bootDone t else s
        | none => s
      else s
    | _, _, _ => s

/-- BOOT_GO: a write of `SEC_BOOT_CMD` (R439). -/
def execBootGo (_req : Nat) (val : BitVec 32) (s : State) : Res := .next (s.bootCmdWrite val)

/-! ### Presence and service commands -/

/-- PRESENCE_TRUE: SVC_REQ_N has counted low for 1 s (R441). -/
def execPresenceTrue (s : State) : Res := .next (s.fset F.SEC_STAT_PRES 0 0 1)

/-- PRESENCE_END: the first high level counted (R441). -/
def execPresenceEnd (s : State) : Res := .next (s.fset F.SEC_STAT_PRES 0 0 0)

/-- PROVISION_ROOT_KEY: a service command with `OP` 1; `words` as in `State.svcRun` (R442, R443). -/
def execProvisionRootKey (_req : Nat) (val : BitVec 32) (words : Option Nat) (s : State) : Res := .next (s.svcOp 1 val words)

/-- REVOKE_ROOT_KEY: a service command with `OP` 2. -/
def execRevokeRootKey (_req : Nat) (val : BitVec 32) (words : Option Nat) (s : State) : Res := .next (s.svcOp 2 val words)

/-- PROGRAM_FUSE: a service command with `OP` 3. -/
def execProgramFuse (_req : Nat) (val : BitVec 32) (words : Option Nat) (s : State) : Res := .next (s.svcOp 3 val words)

/-- TWIN_ROLE_CHANGE: a service command with `OP` 4. -/
def execTwinRoleChange (_req : Nat) (val : BitVec 32) (words : Option Nat) (s : State) : Res := .next (s.svcOp 4 val words)

/-! ### Keys and tamper -/

/-- KEY_LOAD: a write of `SEC_KEY_CMD` with `OP` 1 (R444). -/
def execKeyLoad (req : Nat) (val : BitVec 32) (s : State) : Res :=
  .next (if bitsOf val 1 0 = 1 then s.keyCmdWrite req val else s)

/-- KEY_ERASE: a write of `SEC_KEY_CMD` with `OP` 2 (R444). -/
def execKeyErase (req : Nat) (val : BitVec 32) (s : State) : Res :=
  .next (if bitsOf val 1 0 = 2 then s.keyCmdWrite req val else s)

/-- TAMPER_LOOP_OPEN: two successive mismatched samples (R446). -/
def execTamperLoopOpen (s : State) : Res := .next (if s.flag F.SEC_STAT_LOOP 0 0 then s else s.tamper)

/-- TAMPER_LOOP_CLOSED: the samples match again (table SEC-11). -/
def execTamperLoopClosed (s : State) : Res := .next (s.fset F.SEC_STAT_LOOP 0 0 0)

/-! ### JTAG (R448, R449) -/

/-- An instruction is selected and its data register captures. -/
def State.tapSelect (s : State) (ir dr : Nat) : State := s.setSec { s.sec with tap := { s.sec.tap with ir := ir, dr := dr } }

/-- A list of levels as a number, the first in bit 0. -/
def levelBits (l : List Bool) : Nat := l.foldr (fun b a => b2n b + 2 * a) 0

/-- IDCODE. -/
def execIdcode (s : State) : Res := .next (s.tapSelect 0x01 0x06496BE7)

/-- SAMPLE/PRELOAD: the boundary register captures the levels of the balls and is loaded for a later EXTEST. -/
def execSamplePreload (pins preload : List Bool) (s : State) : Res :=
  .next (
    let s := s.tapSelect 0x02 (levelBits pins)
    s.setSec { s.sec with tap := { s.sec.tap with boundary := preload } })

/-- EXTEST: the balls take their levels from the boundary register, which captures the levels received and takes new ones. -/
def execExtest (pins drive : List Bool) (s : State) : Res :=
  .next (
    let s := s.tapSelect 0x03 (levelBits pins)
    s.setSec { s.sec with tap := { s.sec.tap with boundary := drive } })

/-- BYPASS: a 1-bit register, which captures 0. -/
def execBypass (s : State) : Res := .next (s.tapSelect 0xFF 0)

/-- DBG_CHAL: the challenge is captured. -/
def execDbgChal (s : State) : Res := .next s.dbgChal

/-- DBG_RESP: a response at Update-DR. -/
def execDbgResp (qx qy r sg : BitVec 384) (s : State) : Res := .next ((s.tapSelect 0x21 0).response qx qy r sg)

/-- DBG_LOCK: a 1 at Update-DR locks. -/
def execDbgLock (bit : Bool) (s : State) : Res :=
  .next (
    let s := s.tapSelect 0x22 0
    if bit then s.relock else s)

/-- DEBUG_RELOCK: a write of `SEC_STAT` with `LOCK` = 1 (R449). -/
def execDebugRelock (_req : Nat) (val : BitVec 32) (s : State) : Res :=
  .next (if bitOf val 27 then s.secStatWrite val else s)

end Sys2Proof.Machine
end

