-- ==== Sys2Proof/Machine/Tally.lean ====
section
/-! DEFINITION. The tally's commands (chapter 3) and the rake manager's (R86 to R90, R514, R515). -/

namespace Sys2Proof.Machine

/-! ### Arrivals -/

/-- A message that was waiting for the tally leaves its inbox. -/
def State.takeMsg (s : State) (m : Msg) : State :=
  { s with tally := { s.tally with inbox := s.tally.inbox.erase m } }

/-- Whether a message is the next of its sender: one block's entries are handled in command order (R95). -/
def State.nextMsg (s : State) (m : Msg) : Bool :=
  s.tally.inbox.find? (fun x => x.src == m.src) == some m

/-- TOKEN: the next token of a sender reaches the tally (R95, R97). -/
def execToken (src : Nat) (dest value : BitVec 64) (s : State) : Res :=
  s.need (tokenDestOk dest) "token destination" fun s =>
    if s.nextMsg ⟨src, dest, value⟩ then (s.takeMsg ⟨src, dest, value⟩).tokenArrives dest value else s

/-- ARM_REQUEST: an arm reaches the tally (R96, R516). -/
def execArmRequest (_src : Nat) (target desc : BitVec 64) (s : State) : Res :=
  s.need (armTargetOk target && descOk desc) "arm target" fun s => s.armArrives target desc

/-- CANCEL_REQUEST: a cancel reaches the tally (R107). -/
def execCancelRequest (_src : Nat) (target : BitVec 64) (s : State) : Res :=
  s.need (cancelOk target) "cancel target" fun s => s.cancelArrives target

/-- The commands that a queue holds at most (R181, R235, R248, R282, R354). -/
def queueCap (win inst : Nat) : Nat :=
  match win with
  | 10 => if inst < 16 then 16 else 8
  | 14 => 16
  | _ => 32

/-- Whether a command queue has room for one more command; a DMA channel's 16 descriptors count the running one, and a PCMD that
it does not queue needs no room (R354). -/
def State.queueRoom (s : State) (win inst q : Nat) : Bool :=
  let held := (s.queue win inst q).length
  let dc := Tab.getD s.dma inst {}
  if win = 14 then s.flag F.DMA_CFG_OWNER inst 0 || !s.flag F.DMA_CFG_EN inst 0 ||
    decide (held + dc.queue.length + b2n dc.run.isSome < 16)
  else decide (held < queueCap win inst)

/-- OUTBOX_DELIVERY: the first undelivered entry of a position's commits reaches its consumer, in program order, once its
queue has room (R75, R95). -/
def execOutboxDelivery (pos : Nat) (s : State) : Res :=
  s.need (decide (pos < 96)) "service position" fun s =>
    match Tab.getD s.tally.commits pos [] with
    | [] => s
    | e :: t =>
      let s' : State := { s with tally := { s.tally with commits := Tab.set s.tally.commits pos t } }
      match e with
      | .token d v => s'.tokenArrives d v
      | .delayed dl d v => s'.delayArrives (bitsOf dl 21 20) (s.tally.tick + bitsOf dl 19 0) d v
      | .due l due d v => s'.delayArrives l due d v
      | .cancel tg => s'.cancelArrives tg
      | .arm tg d => s'.armArrives tg d
      | .pcmd tg c =>
        let w := bitsOf tg 12 8
        let i := bitsOf tg 7 0
        let q := bitsOf tg 15 13
        if s.queueRoom w i q then s'.setQueue w i q (s.queue w i q ++ [c]) else s
      | .frel _ _ => s'
      | .event _ _ => s'

/-! ### Time -/

/-- DELAYED_TOKEN_DUE: the first due delayed token takes effect (R99, R100). -/
def execDelayedTokenDue (s : State) : Res := .next (s.takeToken.getD s)

/-- TIMEOUT_TAKEN: the first due timeout takes effect, after every due token (R100, R101). -/
def execTimeoutTaken (s : State) : Res := .next (s.takeTimeout.getD s)

/-- TICK_BOUNDARY: what the ending tick still owes takes effect, the tick counter advances, and a PERIOD write that waits
takes effect (R99, R100, R103). -/
def execTickBoundary (s : State) : Res :=
  let n := ((List.range 4).map (fun l => (s.delayList l).length)).sum
  let s := State.takeDue n s
  let s := match s.tally.newPeriod with
    | some p => s.fset F.TLY_TICK_PERIOD 0 0 p
    | none => s
  .next { s with tally := { s.tally with tick := (s.tally.tick + 1) % 2 ^ 64, newPeriod := none } }

/-- A write of TLY_TICK (R103): the register shows the period in force until the next boundary (log entry 88); a period outside 80 to 800,000 has no effect and sets BADTICK. -/
def State.tickWrite (s : State) (val : W32) : State :=
  let p := bitsOf val 19 0
  if 80 ≤ p ∧ p ≤ 800000 then { s with tally := { s.tally with newPeriod := some p } }
  else s.fset F.TLY_STAT_BADTICK 0 0 1

/-- TICK_PERIOD_WRITE. -/
def execTickPeriodWrite (_req : Nat) (val : BitVec 32) (s : State) : Res := .next (s.tickWrite val)

/-! ### Dispatch (R54, R105, R106) -/

/-- The position of the IDLE rake that a slot would run on, if it can be dispatched (R105). -/
def State.dispatchPos (s : State) (n : Nat) : Option Nat :=
  let idle (p : Nat) : Bool := match s.rakeOf p with | some rk => (s.rake rk).st == .idle | none => false
  let d := (s.slot n).desc
  if descPin d then (if idle (descPos d) then some (descPos d) else none)
  else (List.range 96).find? idle

/-- The slot to dispatch: the highest level that holds a dispatchable slot, and the slot nearest its head (R105). -/
def State.pick (s : State) : Option (Nat × Nat) :=
  ((List.range 16).reverse).findSome? fun lvl =>
    (s.readyList lvl).findSome? fun n => (s.dispatchPos n).map fun p => (n, p)

/-- Dispatch a slot to a position: the rake receives what R54 and R106 state; TSTART is CYCLE now (table ISA-15). -/
def State.dispatch (s : State) (n p rk : Nat) : State :=
  let x := s.slot n
  let d := x.desc
  let port (i : Nat) : W64 := ((x.ports.toList.getD i none).getD 0)
  let filled := ((x.ports.toList.filter Option.isSome).length)
  let attr := b2n (descRepl d) + 2 * b2n (descPin d) + 4 * b2n (descInflow d) + 256 * descPrio d
  let flow : W64 := if descInflow d then x.flowPos ++ BitVec.ofNat 32 (descFlow d) else 0
  let t : TaskCtx := ⟨n, BitVec.ofNat 64 attr, flow, filled, x.replay, s.cycleNow rk⟩
  let r : Rake := { ({} : Rake) with
    cycle := s.cycleNow rk, st := .run, pos := some p, pc := 4 * (if x.timedOut then descTentry d else descEntry d), task := some t }
  let r := (((r.setG 1 (port 0)).setG 2 (port 1)).setG 3 (port 2)).setG 4 (port 3)
  let s := s.drawn.setReady (descPrio d) ((s.readyList (descPrio d)).filter (· ≠ n))
  ((s.setSlot n { x with st := .run, pos := p }).setRake rk r).pmuAdd pmuGlobal 0x020 [] 1 0

/-- TASK_DISPATCH: at most one dispatch, while DISPATCH is 1 (R105). -/
def execTaskDispatch (s : State) : Res :=
  .next (if s.flag F.TLY_CTRL_DISPATCH 0 0 then
    match s.pick with
    | some (n, p) => match s.rakeOf p with | some rk => s.dispatch n p rk | none => s
    | none => s
  else s)

/-! ### Flows (R108 to R111) -/

/-- FLOW_RELEASE: in its turn, a position that has committed delivers its entries to the flow target, as far as the target
has room, and the release counter advances once the last is delivered (R109). A transmit queue is offered one
release value at a time, and takes it in TX_RELEASE (R311). -/
def execFlowRelease (flow : Nat) (s : State) : Res :=
  s.need (decide (flow < 1024)) "flow" fun s =>
    let x := s.flow flow
    match Tab.find? x.rel x.fates with
    | some (.done vs) =>
      if s.flag F.TLY_FLOW_CFG_TYPE 0 flow then
        match s.flowRingAll flow vs with
        | ([], s) => s.advanceFlow flow
        | (left, s) =>
          let x := s.flow flow
          s.setFlow flow { x with fates := Tab.set x.fates x.rel (.done left) }
      else
        let tgt := s.pair .TLY_FLOW_TGT_LO .TLY_FLOW_TGT_HI 0 flow
        let (port, q) := (bitsOf tgt 2 0, bitsOf tgt 16 8)
        if (s.txWaiting port q).any (fun e => e.1 == flow) then s
        else match vs with
          | [] => s.advanceFlow flow
          | v :: t => (s.setFlow flow { x with fates := Tab.set x.fates x.rel (.done t) }).toTxQueue port q flow v
    | _ => s

/-- FLOW_SKIP: in its turn, a position whose task ended without commit is skipped, and flow-skipped is posted (R111). -/
def execFlowSkip (flow : Nat) (s : State) : Res :=
  s.need (decide (flow < 1024)) "flow" fun s =>
    let x := s.flow flow
    match Tab.find? x.rel x.fates with
    | some (.skip n) => (s.post Src.tally 0x0505 [.u 2 flow, .u 4 x.rel.toNat, .u 2 n]).advanceFlow flow
    | _ => s

/-- The flow store entries that the enabled flows have reserved (R110). -/
def State.flowReserved (s : State) : Nat :=
  ((List.range 1024).map (fun f => if s.flowOn f then s.fget F.TLY_FLOW_CFG_WINDOW 0 f * 48 else 0)).sum

/-- A legal flow target (tables TLY-13, TLY-14). -/
def flowTargetOk (ring : Bool) (t : W64) : Bool :=
  if ring then decide (bitsOf t 5 0 = 0 ∧ bitsOf t 63 53 = 0 ∧ 4 ≤ bitsOf t 52 48 ∧ bitsOf t 52 48 ≤ 16)
  else decide (bitsOf t 7 3 = 0 ∧ bitsOf t 31 17 = 0 ∧ bitsOf t 63 32 = 0)

/-- A write of TLY_FLOW_CFG for the flow that the requester's selector shows (R108, R110, table TLY-12). -/
def State.flowCfgWrite (s : State) (req : Nat) (val : W32) : State :=
  let f := s.fget F.TLY_FLOW_SEL_FLOW 0 req
  let s := if bitOf val 31 then s.fset F.TLY_FLOW_CFG_REFUSED 0 f 0 else s
  let refuse (s : State) : State := s.fset F.TLY_FLOW_CFG_REFUSED 0 f 1
  if s.flowOn f then
    if bitOf val 0 then s
    else if (s.flow f).next = (s.flow f).rel then s.fset F.TLY_FLOW_CFG_EN 0 f 0
    else refuse s
  else
    let s := (s.fset F.TLY_FLOW_CFG_WINDOW 0 f (bitsOf val 14 8)).fset F.TLY_FLOW_CFG_TYPE 0 f (bitsOf val 1 1)
    if bitOf val 0 then
      let w := bitsOf val 14 8
      if w = 0 ∨ 64 < w ∨ 65536 < s.flowReserved + w * 48 ∨
          !flowTargetOk (bitOf val 1) (s.pair .TLY_FLOW_TGT_LO .TLY_FLOW_TGT_HI 0 f) then refuse s
      else
        let s := (s.setFlow f {}).setReg .TLY_FLOW_RING 0 f 0
        s.fset F.TLY_FLOW_CFG_EN 0 f 1
    else s

/-- FLOW_ENABLE: a write of TLY_FLOW_CFG with EN = 1 (R110). -/
def execFlowEnable (req : Nat) (val : BitVec 32) (s : State) : Res :=
  .next (if bitOf val 0 then s.flowCfgWrite req val else s)

/-- FLOW_DISABLE: a write of TLY_FLOW_CFG with EN = 0 (R110). -/
def execFlowDisable (req : Nat) (val : BitVec 32) (s : State) : Res :=
  .next (if bitOf val 0 then s else s.flowCfgWrite req val)

/-! ### Images and `RK_CMD` -/

/-- RK_LOAD: a write of `RK_CMD` with OP 1 (R87, R90). -/
def execRkLoad (_req : Nat) (val : BitVec 32) (s : State) : Res :=
  .next (if bitsOf val 3 0 = 1 then s.rkCmdWrite val else s)

/-- RK_SWAP: a write of `RK_CMD` with OP 2 (R514). -/
def execRkSwap (_req : Nat) (val : BitVec 32) (s : State) : Res :=
  .next (if bitsOf val 3 0 = 2 then s.rkCmdWrite val else s)

/-- RK_RETIRE: a write of `RK_CMD` with OP 3 (R51). -/
def execRkRetire (_req : Nat) (val : BitVec 32) (s : State) : Res :=
  .next (if bitsOf val 3 0 = 3 then s.rkCmdWrite val else s)

/-- RK_RESTORE: a write of `RK_CMD` with OP 4 (R51, R88). -/
def execRkRestore (_req : Nat) (val : BitVec 32) (s : State) : Res :=
  .next (if bitsOf val 3 0 = 4 then s.rkCmdWrite val else s)

/-- POSITION_LOAD_FAILED: a read of a position's image completes as an address error (R87). The bank stays as it was before the
load (log entry 89). -/
def execPositionLoadFailed (rk addr : Nat) (s : State) : Res :=
  s.need (decide (rk < 104)) "rake" fun s =>
    let r := s.rake rk
    match r.st, r.pos, r.loadFrom with
    | .loading, some p, some a =>
      if a ≤ addr ∧ addr < a + 0x80000 ∧ !(match memUnit addr with | some u => s.unitReady u | none => false) then
        let s := s.setRake rk { ({} : Rake) with st := .empty, pos := some p }
        let s := (s.memError Src.rakeMgr addr).post Src.rakeMgr 0x0603 [.u 1 p, .u 1 rk, .u 6 addr]
        s.cmdResult p 4
      else s
    | _, _, _ => s

end Sys2Proof.Machine
end

