-- ==== Sys2Proof/Machine/RegOps.lean ====
section
/-! DEFINITION. Register accesses (R9 to R16): the effect of a write of each register, the value and the effect of a read,
pairs with their latches and held halves. -/

namespace Sys2Proof.Machine

/-- The state that a meaning leaves, for a meaning that always goes on. -/
def Res.state (r : Res) (s : State) : State :=
  match r with
  | .next t => t
  | _ => s

/-! ### Writes -/

/-- A register write that keeps a field's present value where the written one is out of range. -/
def State.wrIf (s : State) (r : Reg) (inst sub : Nat) (val : W32) (ok : Bool) (f : Fld) : State :=
  s.wrReg r inst sub (if ok then val else s.keepField f inst sub val)

/-- A write of a VF register (tables HST-6 to HST-9): a selector of 0 or 65 to 127 takes none, and a channel that another VF has
is not set. -/
def State.vfWrite (s : State) (r : Reg) (v : Nat) (val : W32) : State :=
  if 1 ≤ v ∧ v ≤ 64 then
    let mine := s.reg .HST_VF_DMA 0 v
    let ok (c : Nat) : Bool :=
      bitOf mine c || !(List.range 65).any (fun u => u != 0 && u != v && bitOf (s.reg .HST_VF_DMA 0 u) c)
    let val := if r = .HST_VF_DMA then
        (List.range 32).foldl (fun (a : W32) c => if ok c then a else setBits a c c 0) val
      else val
    s.wrReg r 0 v val
  else s

/-- A write of `TSH_CMD` (table NET-21). -/
def State.tshWrite (s : State) (req n : Nat) (val : W32) : State :=
  match bitsOf val 3 0 with
  | 0 => s
  | 1 => (execOpenQ req n val s).state s
  | 2 => (execCloseQ req n val s).state s
  | 3 => (execGate req n val s).state s
  | 4 => (execSrtpLoad req n val s).state s
  | o => s.tshCmd n o val fun _ s => (8, s)

/-- A write of `TWN_CMD` (table TWN-17): any other operation sets `CMDERR`. -/
def State.twnCmdWrite (s : State) (req : Nat) (val : W32) : State :=
  match bitsOf val 3 0 with
  | 1 => (execTwnSync req val s).state s
  | 2 => (execTwnAbort req val s).state s
  | _ => s.fset F.TWN_STAT_CMDERR 0 0 1

/-- A write of `TWN_CFG` (table TWN-13). -/
def State.twnCfgWrite (s : State) (val : W32) : State :=
  let val := if bitsOf val 19 10 ≤ 1000 then val else s.keepField F.TWN_CFG_RWAIT 0 0 val
  s.wrIf .TWN_CFG 0 0 val (decide (bitsOf val 8 0 ≤ 300)) F.TWN_CFG_SWITCH

/-- A period in range, or 0 for off. -/
def periodOk (lo hi p : Nat) : Bool := p == 0 || decide (lo ≤ p ∧ p ≤ hi)

/-- The effect of a write of a register other than the upper half of a pair: the fields by their access codes (R12), and what the
register's chapter adds. -/
def State.regSet (s : State) (req : Nat) (x : RegAt) (val : W32) : State :=
  let (i, c) := (x.inst, s.copyOf req x)
  match x.reg with
  | .HST_ROUTE => s.routeWrite req val
  | .HST_VF_SLOTS | .HST_VF_WIN | .HST_VF_DMA => s.vfWrite x.reg c val
  | .HST_RING_CFG => s.ringCfgWrite x.fn req val
  | .CLK_CMD => s.clkReturn val false
  | .CLK_RST_CMD => (execSoftwareReset req val s).state s
  | .PWR_REQ => s.powerReq val
  | .SEC_BOOT_CMD => s.bootCmdWrite val
  | .SEC_STAT => s.secStatWrite val
  | .SEC_KEY_CMD => s.keyCmdWrite req val
  | .SEC_KEY_BUF => s.setReg .SEC_KEY_BUF 0 c val
  | .SEC_SVC_CMD => s.svcGo val none
  | .TLY_TICK => s.tickWrite val
  | .TLY_FLOW_CFG => s.flowCfgWrite req val
  | .RK_CTRL => (execResume req i val s).state s
  | .RK_CMD => s.rkCmdWrite val
  | .BNK_ECC_CFG => s.eccCfgWrite (.bank i) val
  | .MC_ECC_CFG => s.eccCfgWrite (.hbm i) val
  | .BNK_INJ => s.injWrite (.bank i) val
  | .MC_INJ => s.injWrite (.hbm i) val
  | .MC_CTRL => s.mcCtrlWrite i val
  | .MC_CAL_VAL => s.mcCalWrite req i false val
  | .MC_CAL_LAT => s.mcCalWrite req i true val
  | .HRW_CTRL => s.hrwCtrlWrite val
  | .HRW_PERIOD => s.hrwPeriodWrite val
  | .DMA_CFG => s.dmaCfgWrite i val
  | .ETH_CFG => (execEthModeWrite req i val s).state s
  | .ETH_RXF_CMD =>
    if bitsOf val 1 0 = 1 then (execRxfEnable req val s).state s else (execRxfDisable req val s).state s
  | .TSH_CMD => s.tshWrite req i val
  | .TSH_CTRL => s.wrIf .TSH_CTRL i 0 val (decide (bitsOf val 23 16 ≠ 0)) F.TSH_CTRL_MARGIN
  | .TSH_SMP_CFG => s.wrIf .TSH_SMP_CFG i 0 val (periodOk 10 1000000 (bitsOf val 19 0)) F.TSH_SMP_CFG_PERIOD
  | .TIM_CFG => s.timCfgWrite val
  | .TIM_OP_CMD => s.timOpWrite val
  | .TIM_TOUT_CTRL => s.toutCtrlWrite (i - 1) val
  | .TIM_TOUT_START_NS | .TIM_TOUT_FR_NUM | .TIM_TOUT_FR_DEN | .TIM_TOUT_WIDTH =>
    if s.flag F.TIM_TOUT_CTRL_EN i 0 then s else s.wrReg x.reg i c val
  | .AUD_IN_CFG => s.audCfgWrite i val
  | .AUD_IN_MASK => s.audMaskWrite i val
  | .AUD_OUT_CFG => s.outCfgWrite (i - 16) val
  | .AUD_OUT_RING => s.outRingWrite (i - 16) val
  | .LN_CFG => s.laneCfgWrite i val
  | .LN_SDI_CMD => s.sdiCmd i val
  | .LN_LANE_CTRL => s.laneCtrlWrite i c val
  | .LN_LANE_FIR => s.laneFirWrite i c val
  | .CHK_CFG => s.chkCfgWrite i val
  | .CHK_INST | .CHK_ALIVE => if s.flag F.CHK_CFG_EN i 0 then s else s.wrReg x.reg i c val
  | .TWN_CTRL => if bitOf val 0 then (execTwinEnable req val s).state s else (execTwinDisable req val s).state s
  | .TWN_CFG => s.twnCfgWrite val
  | .TWN_WDOG => (execWdogKick req val s).state s
  | .TWN_CMD => s.twnCmdWrite req val
  | .TWN_MUTE => if s.flag F.TWN_CTRL_EN 0 0 then s else s.wrReg .TWN_MUTE 0 c val
  | .PMU_EVSEL => s.evselWrite i c val
  | .PMU_TAG => s.tagWrite i val
  | .PMU_DUMP_CFG => s.wrIf .PMU_DUMP_CFG i 0 val (periodOk 100 10000000 (bitsOf val 23 0)) F.PMU_DUMP_CFG_PERIOD
  | r => s.wrReg r i c val

/-- The live lower half of a pair, as it commits when no half is held (R15). -/
def State.liveLow (s : State) (lo : Reg) (inst sub : Nat) : W32 :=
  if lo = .PMU_CNT_LO then s.regView lo inst sub else s.reg lo inst sub

/-- Both halves of a pair written together, by their access codes. -/
def State.wrPair (s : State) (lo hi : Reg) (inst sub : Nat) (low val : W32) : State :=
  (s.wrReg lo inst sub low).wrReg hi inst sub val

/-- The commit of a pair by a write of its upper half (R15): the lower half is the one that the requester holds, or the live
one; it is held no longer. -/
def State.regCommit (s : State) (req : Nat) (lo : Reg) (x : RegAt) (val : W32) : State :=
  let (i, c, k) := (x.inst, s.copyOf req x, x.latchKey)
  match x.reg with
  | .TIM_INC_HI => s.incCommit req .TIM_INC_LO .TIM_INC_HI val
  | .TIM_HINC_HI => s.incCommit req .TIM_HINC_LO .TIM_HINC_HI val
  | .DMA_SUBMIT_HI => s.dmaSubmitWrite req i val
  | .HST_DB_VAL_HI => s.doorbellWrite x.fn req val
  | hi =>
    let low := Tab.getD s.helds (req, lo, k) (s.liveLow lo i c)
    let s : State := { s with helds := Tab.erase (req, lo, k) s.helds }
    match hi with
    | .HST_DB_DEST_HI =>
      let s := (s.setReg lo i c low).setReg hi i c val
      s.setHostFn x.fn { s.hostFn x.fn with dest := some (val ++ low) }
    | .HST_RING_BASE_HI => s.ringBaseCommit x.fn req (val ++ low)
    | .TLY_FLOW_TGT_HI => if s.flowOn c then s else s.wrPair lo hi i c low val
    | .TIM_TOUT_START_SEC_HI => if s.flag F.TIM_TOUT_CTRL_EN i 0 then s else s.wrPair lo hi i c low val
    | .AUD_OUT_START_HI => if s.flag F.AUD_OUT_CFG_EN i 0 then s else s.wrPair lo hi i c low val
    | .CHK_EXP_HI | .CHK_TBL_HI => if s.flag F.CHK_CFG_EN i 0 then s else s.wrPair lo hi i c low val
    | .PMU_CNT_HI => s.counterWrite i c low val
    | _ => s.wrPair lo hi i c low val

/-- A write of a register by a requester (R12, R15). A rake's write of a function page has no effect (R468). -/
def State.regWrite (s : State) (req : Nat) (x : RegAt) (val : W32) : State :=
  if x.reg.isPage ∧ Src.isRake req then s
  else if x.reg.upper.isSome then { s with helds := Tab.set s.helds (req, x.reg, x.latchKey) val }
  else match x.reg.lower with
    | some lo => s.regCommit req lo x val
    | none => s.regSet req x val

/-! ### Reads -/

/-- The value that a requester reads of a register that another read latches: the latch, or the live value when there is
none (R15). -/
def State.latched (s : State) (req : Nat) (x : RegAt) : W32 :=
  Tab.getD s.latches (req, x.reg, x.latchKey) (s.regView x.reg x.inst (s.copyOf req x))

/-- The state after a read of a register's RC fields (R12). -/
def State.readClear (s : State) (r : Reg) (i c : Nat) : State :=
  if r = .EVT_LOST then { s with events := Tab.set s.events c { s.evSource c with lost := 0 } }
  else if hasRc r.desc.fields then s.setReg r i c (applyRead r.desc.fields (s.reg r i c))
  else s

/-- What a read of a register returns, and the state after it. -/
def State.regRead (s : State) (req : Nat) (x : RegAt) : W32 × State :=
  let (r, i, c) := (x.reg, x.inst, s.copyOf req x)
  let view := readable r.desc.fields (s.regView r i c)
  match r with
  | .HST_ROUTE => (s.routeRead req, s)
  | .TIM_NOW_NS => s.nowRead req
  | .TIM_TXTS_ID => s.txtsRead req c
  | .DH_FLIP_NS =>
    (view, (s.setLatch req .DH_FLIP_SEC i (s.regView .DH_FLIP_SEC i c)).setLatch req .DH_FLIP_FRM i (s.regView .DH_FLIP_FRM i c))
  | .TIM_NOW_FRAC | .TIM_NOW_SEC_LO | .TIM_NOW_SEC_HI | .TIM_TXTS_NS | .TIM_TXTS_SEC | .DH_FLIP_SEC | .DH_FLIP_FRM =>
    (s.latched req x, s)
  | .PAN_STAT | .SLU_STAT | .CMP_STAT => (view, s.drawn)
  | _ =>
    match r.upper, r.lower with
    | some hi, _ => (view, s.setLatch req hi x.latchKey (readable hi.desc.fields (s.regView hi i c)))
    | none, some _ => (readable r.desc.fields (s.latched req x), s)
    | none, none => (view, s.readClear r i c)

/-! ### Accesses by address -/

/-- A 32-bit read at an address of the register windows (R10, R11): its value, and the state after it. `none` is one that is not
naturally aligned. -/
def State.accessRead (s : State) (req addr len : Nat) : W32 × State :=
  if addr % 4 ≠ 0 ∨ len ≠ 4 then (0, s.accessError req addr 0)
  else match regAt addr with
    | some x => s.regRead req x
    | none => (0, s.accessError req addr 1)

/-- A 32-bit write at an address of the register windows (R10, R11). -/
def State.accessWrite (s : State) (req addr len : Nat) (val : W32) : State :=
  if addr % 4 ≠ 0 ∨ len ≠ 4 then s.accessError req addr 0
  else match regAt addr with
    | some x => s.regWrite req x val
    | none => s.accessError req addr 1

/-- What a requester gets of a read of a register. -/
def State.answerReg (s : State) (req : Nat) (v : W32) : State := s.answer req (.data 4 (v.zeroExtend 256))

end Sys2Proof.Machine
end

