-- ==== Sys2Proof/Machine/Access.lean ====
section
/-! DEFINITION. The commands that access registers (chapter 0), the BARs of the host port (chapter 19) and the JTAG access port
(chapter 17). -/

namespace Sys2Proof.Machine

/-! ### Register accesses -/

/-- Run a register access at an address of the register windows. -/
def State.needRegs (s : State) (addr : Nat) (f : State → State) : Res := s.need (inRegs addr) "register address" f

/-- REGISTER_WRITE: a 32-bit write at a register address (R12); one that reaches no register is handled under R10 and R11. -/
def execRegisterWrite (req addr : Nat) (val : BitVec 32) (s : State) : Res :=
  s.needRegs addr fun s => (s.accessWrite req addr 4 val).answer req .written

/-- UNALIGNED_ACCESS: an access to the register windows that is not a naturally aligned 32-bit access (R10). -/
def execUnalignedAccess (req addr : Nat) (write : Bool) (s : State) : Res :=
  s.needRegs addr fun s => (s.accessError req addr 0).answer req (if write then .written else .data 4 0)

/-- UNIMPLEMENTED_ACCESS: an aligned access to an offset with no register (R11). -/
def execUnimplementedAccess (req addr : Nat) (write : Bool) (s : State) : Res :=
  s.needRegs addr fun s =>
    if addr % 4 = 0 ∧ (regAt addr).isNone then
      (s.accessError req addr 1).answer req (if write then .written else .data 4 0)
    else s

/-- Read the register at an address when it is one that p names. -/
def State.readOf (s : State) (req addr : Nat) (p : Reg → Bool) : State :=
  match (if addr % 4 = 0 then regAt addr else none) with
  | some x =>
    if p x.reg then
      let (v, s) := s.regRead req x
      s.answerReg req v
    else s
  | none => s

/-- Write the register at an address when it is one that p names. -/
def State.writeOf (s : State) (req addr : Nat) (val : W32) (p : Reg → Bool) : State :=
  match (if addr % 4 = 0 then regAt addr else none) with
  | some x => if p x.reg then (s.regWrite req x val).answer req .written else s
  | none => s

/-- READ_CLEAR: a read of a register with RC fields (R12). -/
def execReadClear (req addr : Nat) (s : State) : Res :=
  s.needRegs addr fun s => s.readOf req addr fun r => hasRc r.desc.fields

/-- PAIR_LO_READ: a read of the lower half of a pair (R15). -/
def execPairLoRead (req addr : Nat) (s : State) : Res :=
  s.needRegs addr fun s => s.readOf req addr fun r => r.upper.isSome

/-- PAIR_HI_READ: a read of the upper half of a pair (R15). -/
def execPairHiRead (req addr : Nat) (s : State) : Res :=
  s.needRegs addr fun s => s.readOf req addr fun r => r.lower.isSome

/-- PAIR_LO_WRITE: a write of the lower half of a pair (R15). -/
def execPairLoWrite (req addr : Nat) (val : BitVec 32) (s : State) : Res :=
  s.needRegs addr fun s => s.writeOf req addr val fun r => r.upper.isSome

/-- PAIR_HI_WRITE: a write of the upper half of a pair (R15). -/
def execPairHiWrite (req addr : Nat) (val : BitVec 32) (s : State) : Res :=
  s.needRegs addr fun s => s.writeOf req addr val fun r => r.lower.isSome

/-! ### BARs (R464 to R467) -/

/-- Where a BAR access leads: memory at a device address, a register at one, an offset of a VF's own function page, or nowhere,
at a device address if it has one. -/
inductive BarTo where
  | mem (addr : Nat)
  | regs (addr : Nat)
  | page (off : Nat)
  | nowhere (addr : Option Nat)
  deriving DecidableEq, Repr

/-- The registers of a programme that its VF may write (table HST-2). -/
def vfMayWrite (r : Reg) : Bool := r == .PAN_PGM_RRING || r == .PAN_PGM_BSCONS

/-- Where an access of VF v through BAR 0-1 leads (table HST-2). -/
def State.vfPage (s : State) (v off len : Nat) (write : Bool) : BarTo :=
  if off + len ≤ 0x34 then .page off
  else if 0x1000 ≤ off ∧ off + len ≤ 0x102C then
    let a := 0x00300A000000 + (63 + v) * 0x10000 + (off - 0x1000)
    let may := match regAt (a / 4 * 4) with
      | some x => vfMayWrite x.reg
      | none => false
    if write && !may then .nowhere (some a) else .regs a
  else if 0x2000 ≤ off ∧ off + len ≤ 0x4000 then
    let c := (off - 0x2000) / 0x100
    let o := (off - 0x2000) % 0x100
    let a := 0x00300E000000 + c * 0x10000 + o
    if o + len ≤ 0x18 ∧ bitOf (s.reg .HST_VF_DMA 0 v) c then .regs a else .nowhere (some a)
  else .nowhere none

/-- Where an access of function fn through a BAR leads (table HST-1, R465). -/
def State.barTo (s : State) (fn bar off len : Nat) (write : Bool) : BarTo :=
  if fn = 0 then
    match bar with
    | 0 => if off < 0x17000000 then .regs (0x003000000000 + off) else .nowhere (some (0x003000000000 + off))
    | 2 => .mem off
    | _ => .mem (0x001000000000 + off)
  else if bar = 0 then s.vfPage fn off len write
  else
    let l := s.fget F.HST_VF_WIN_LOG2 0 fn
    let a := s.fget F.HST_VF_WIN_BASE 0 fn * 2 ^ 20 + off
    if l ≤ 10 ∧ off + len ≤ 2 ^ (20 + l) then .mem a else .nowhere (some a)

/-- Whether an access of a function lies within a BAR that it has (table HST-1). -/
def barOk (fn bar off len : Nat) : Bool :=
  decide (fn ≤ 64 ∧ 1 ≤ len ∧ len ≤ 32) &&
    (if fn = 0 then
      (bar == 0 && decide (off + len ≤ 2 ^ 29)) || (bar == 2 && decide (off + len ≤ 2 ^ 35)) ||
        (bar == 4 && decide (off + len ≤ 2 ^ 28))
    else (bar == 0 && decide (off + len ≤ 2 ^ 16)) || (bar == 2 && decide (off + len ≤ 2 ^ 30)))

/-- The event of an access for which the spec names no device address: that address is a free value. -/
def State.accessErrorFree (s : State) (req kind : Nat) : State :=
  let a : BitVec 48 := s.free 48
  s.drawn.accessError req a.toNat kind

/-- An access that leads nowhere: access-error with kind 2 (R466). -/
def State.barNowhere (s : State) (req : Nat) (addr : Option Nat) : State :=
  match addr with
  | some a => s.accessError req a 2
  | none => s.accessErrorFree req 2

/-- The register at an offset of a VF's page, or the error of R10 or R11. -/
def vfPageAt (fn off len : Nat) : Nat ⊕ RegAt :=
  if off % 4 ≠ 0 ∨ len ≠ 4 then .inl 0
  else match pageAt fn off with
    | some x => .inr x
    | none => .inl 1

/-- BAR_READ: a function reads through a BAR (R464 to R467): data, an Unsupported Request completion, or an EP completion. -/
def execBarRead (fn bar off len : Nat) (s : State) : Res :=
  s.need (barOk fn bar off len) "BAR access" fun s =>
    if s.numVf < fn then s
    else
      let req := Src.fn fn
      match s.barTo fn bar off len false with
      | .mem a =>
        let (r, s) := s.readRange req a len
        s.answer req (match r with
          | .ok b => .data len (BitVec.ofNat 256 (leNat b))
          | .poison _ => .poison
          | .addrErr _ => .addrErr)
      | .regs a =>
        let (v, s) := s.accessRead req a len
        s.answerReg req v
      | .page o =>
        match vfPageAt fn o len with
        | .inr x =>
          let (v, s) := s.regRead req x
          s.answerReg req v
        | .inl k => (s.accessErrorFree req k).answerReg req 0
      | .nowhere a => (s.barNowhere req a).answer req .addrErr

/-- The port discards a poisoned write and posts host-poison (R467). -/
def State.hostPoison (s : State) (fn addr : Nat) : State := s.post Src.host 0x0022 [.u 1 fn, .u 6 addr]

/-- A write TLP with EP set is discarded (R467). An access to a VF's page, or beyond every page, has no device address of its own. -/
def State.barEp (s : State) (fn : Nat) (t : BarTo) : State :=
  match t with
  | .mem a | .regs a | .nowhere (some a) => s.hostPoison fn a
  | .page _ | .nowhere none =>
    let a : BitVec 48 := s.free 48
    s.drawn.hostPoison fn a.toNat

/-- BAR_WRITE: a function writes through a BAR (R464 to R467). -/
def execBarWrite (fn bar off len : Nat) (data : BitVec 256) (ep : Bool) (s : State) : Res :=
  s.need (barOk fn bar off len) "BAR access" fun s =>
    if s.numVf < fn then s
    else
      let req := Src.fn fn
      let val : W32 := data.extractLsb' 0 32
      let t := s.barTo fn bar off len true
      if ep then s.barEp fn t
      else match t with
        | .mem a =>
          match s.writeRange req a (leBytes len data.toNat) with
          | (.poison _, s) => (s.hostPoison fn a).answer req .written
          | (_, s) => s.answer req .written
        | .regs a => (s.accessWrite req a len val).answer req .written
        | .page o =>
          match vfPageAt fn o len with
          | .inr x => (s.regWrite req x val).answer req .written
          | .inl k => (s.accessErrorFree req k).answer req .written
        | .nowhere a => (s.barNowhere req a).answer req .written

/-! ### The JTAG access port (R448) -/

/-- The data register of DBG_AP (table SEC-6). -/
def dbgApWord (addr : Nat) (write : Bool) (data : W32) : Nat := addr + data.toNat * 2 ^ 48 + b2n write * 2 ^ 80

/-- A device access of source 0x004 by the access port: what it returns, and the data of a read. -/
def State.dbgAccess (s : State) (addr : Nat) (write : Bool) (data : W32) : Answer × W32 × State :=
  let req := Src.security
  if inRegs addr then
    if write then (.written, data, s.accessWrite req addr 4 data)
    else
      let (v, s) := s.accessRead req addr 4
      (.data 4 (v.zeroExtend 256), v, s)
  else if write then
    match s.writeRange req addr (leBytes 4 data.toNat) with
    | (.ok, s) => (.written, data, s)
    | (.poison _, s) => (.writePoison, data, s)
    | (.addrErr _, s) => (.addrErr, data, s)
  else
    match s.readRange req addr 4 with
    | (.ok b, s) => (.data 4 (BitVec.ofNat 256 (leNat b)), BitVec.ofNat 32 (leNat b), s)
    | (.poison _, s) =>
      let v : W32 := s.free 32
      (.poison, v, s.drawn)
    | (.addrErr _, s) =>
      let v : W32 := s.free 32
      (.addrErr, v, s.drawn)

/-- DBG_AP: a device access as source 0x004 while debug is unlocked; BYPASS otherwise (R448). -/
def execDbgAp (addr : Nat) (write : Bool) (data : BitVec 32) (s : State) : Res :=
  if 2 ^ 48 ≤ addr then .fault (.outsideAddressSpace addr)
  else .next (
    if s.debugOpen then
      let (a, v, s) := s.dbgAccess addr write data
      (s.answer Src.security a).tapSelect 0x23 (dbgApWord addr write v)
    else s.tapSelect 0xFF 0)

end Sys2Proof.Machine
end

