-- ==== Sys2Proof/Machine/Admission.lean ====
section
/-! DEFINITION. The commands of the admission ledger (R26 to R37). -/

namespace Sys2Proof.Machine

/-- Submissions in the order in which the ledger takes those of one FCLK cycle: ascending source ID (R30). -/
def bySource (l : List Submission) : List Submission := l.mergeSort (fun a b => a.src ≤ b.src)

/-- ADMISSION_DECIDE: the submissions that arrive in this FCLK cycle join the queue in ascending order of their source IDs,
and the ledger decides the first that waits (R27, R30). -/
def execAdmissionDecide (arrivals : List Submission) (s : State) : Res :=
  .next (match s.ledger.waiting ++ bySource arrivals with
    | [] => s
    | x :: t => ({ s with ledger := { s.ledger with waiting := t } }).ledgerDecide x)

/-- A step of R35 or R36 is in force and its reversal has not started. -/
def Ledger.reversible (l : Ledger) : Bool := !l.reversing && (l.throttled || !l.reduced.isEmpty)

/-- PRECEDENCE_REVERSE: the limit of entry 52 has covered the full used value for 1 s (R37). A reversal that follows
precedence-exhausted posts precedence-cleared first (table INT-3). -/
def execPrecedenceReverse (s : State) : Res :=
  .next (if s.ledger.reversible ∧ s.ledger.full52 ≤ s.limit52 then
    let s := if s.ledger.exhausted then
        ({ s with ledger := { s.ledger with exhausted := false } }).post Src.ledger 0x0005
          [.u 4 (s.ledger.used 52), .u 4 s.limit52]
      else s
    s.reverseNext
  else s)

end Sys2Proof.Machine
end

