-- ==== Sys2Proof/Machine/Cmp.lean ====
section
/-! DEFINITION. The compositors (chapter 8): the commands of an output's queue. -/

namespace Sys2Proof.Machine

/-- Run the meaning of an output that exists. -/
def State.needCmp (s : State) (n q : Nat) (f : State → State) : Res := s.need (decide (n < 8 ∧ q < 8)) "compositor output" f

/-- The opcodes of a compositor queue (table CMP-4). -/
def cmpOps : List Nat := [0x01, 0x02, 0x03, 0x04, 0x05, 0x10, 0x11]

/-- The state with an output's staged set changed. -/
def State.cmpStage (s : State) (n q : Nat) (f : CmpStage → CmpStage) : State :=
  let x := s.cmpOut n q
  s.setCmp n q { x with staged := f x.staged }

/-- A command of an output is refused before it executes: a COMMIT empties the staged set all the same (R252, R254). -/
def State.cmpTurnAway (s : State) (n q : Nat) (c : W256) (st : Nat) : State :=
  (if cOp c = 0x04 then s.cmpStage n q (fun _ => {}) else s).cmpRefuse n q c st

/-- A command leaves the queue of an output (R252). -/
def State.cmpTake (s : State) (n q op : Nat) (c : W256) (m0 m1 : Nat) (f : State → State) : State :=
  s.unitTake 12 n q (126 + n) cmpOps op c (cSel c == q && cmdFormOk c m0 m1) (fun st s => s.cmpTurnAway n q c st) f

/-- STAGE_OUT: an output descriptor is read, checked and staged (R253). -/
def execStageOut (n q : Nat) (cmd : BitVec 256) (s : State) : Res :=
  s.needCmp n q fun s => s.cmpTake n q 0x01 cmd mask48 0 fun s =>
    match s.cmdRead (Src.cmp n) (cArg0 cmd) 128 with
    | (.inl st, s) => s.cmpRefuse n q cmd st
    | (.inr b, s) =>
      let d := bytesBv 1024 b
      if outOk d then (s.cmpStage n q (fun g => { g with out := some d })).cmpDone n q cmd 0 else s.cmpRefuse n q cmd 2

/-- STAGE_LAYER: a layer descriptor is read, checked and staged (R253). -/
def execStageLayer (n q : Nat) (cmd : BitVec 256) (s : State) : Res :=
  s.needCmp n q fun s => s.cmpTake n q 0x02 cmd mask48 15 fun s =>
    match s.cmdRead (Src.cmp n) (cArg0 cmd) 64 with
    | (.inl st, s) => s.cmpRefuse n q cmd st
    | (.inr b, s) =>
      let d := bytesBv 512 b
      if layerOk d then
        (s.cmpStage n q (fun g => { g with layers := Tab.set g.layers (cArg1 cmd) d })).cmpDone n q cmd 0
      else s.cmpRefuse n q cmd 2

/-- The size that a signature table is checked against: that of the output as staged, else pending, else current. -/
def CmpOut.sigSize (x : CmpOut) : Nat × Nat :=
  let o := x.staged.out.getD (x.pend.getD x.cur).out
  (oWidth o, oHeight o)

/-- STAGE_SIG: a signature table is read, checked and staged; address 0 stages none (R253, R271). -/
def execStageSig (n q : Nat) (cmd : BitVec 256) (s : State) : Res :=
  s.needCmp n q fun s => s.cmpTake n q 0x03 cmd mask48 0 fun s =>
    if cArg0 cmd = 0 then (s.cmpStage n q (fun g => { g with sig := some none })).cmpDone n q cmd 0
    else match s.cmdRead (Src.cmp n) (cArg0 cmd) 256 with
      | (.inl st, s) => s.cmpRefuse n q cmd st
      | (.inr b, s) =>
        let t := bytesBv 2048 b
        let (w, h) := (s.cmpOut n q).sigSize
        if sigOk t w h then (s.cmpStage n q (fun g => { g with sig := some (some t) })).cmpDone n q cmd 0
        else s.cmpRefuse n q cmd 2

/-- Whether a colour slot of an output is loaded. -/
def State.slotLoaded (s : State) (n q slot : Nat) : Bool := s.colours.contains (n, 4 * q + slot)

/-- An accepted candidate becomes pending, and current at once where R255 says so. -/
def State.cmpAccept (s : State) (n q : Nat) (c : CmpCfg) (sig : Bool) (cmd : W256) : State :=
  let x := s.cmpOut n q
  let s := (s.setCmp n q { x with pend := some c, pendSig := x.pendSig || sig }).cmpShow n q
  let s := if oType x.cur.out = 0 ∨ (oType c.out = 0 ∧ x.next = 0) then s.cmpApply n q else s
  s.cmpDone n q cmd 0

/-- CMP_COMMIT: a candidate configuration is formed and checked; the staged set is emptied in every case (R254). -/
def execCmpCommit (n q : Nat) (cmd : BitVec 256) (s : State) : Res :=
  s.needCmp n q fun s => s.cmpTake n q 0x04 cmd 0 0 fun s =>
    let x := s.cmpOut n q
    let c := (x.pend.getD x.cur).apply x.staged
    let s := s.cmpStage n q (fun _ => {})
    match c.refusal (s.slotLoaded n q) with
    | some st => s.cmpRefuse n q cmd st
    | none =>
      if c.out = x.cur.out ∧ x.pend.isNone then s.cmpAccept n q c x.staged.sig.isSome cmd
      else match s.submit ⟨Src.cmp n, .cmpOut n q, outCharge n c.out⟩ with
        | (false, s) => s.cmpRefuse n q cmd 1
        | (true, s) => s.cmpAccept n q c x.staged.sig.isSome cmd

/-- Write bytes into a slot of the compositor's bank, whole words. -/
def State.colourStore (s : State) (n a : Nat) : Nat → List Byte → State
  | 0, _ => s
  | k + 1, b => State.colourStore (s.memWrite (Src.cmp n) a (BitVec.ofNat 256 (leNat (b.take 32)))).2 n (a + 32) k (b.drop 32)

/-- LOAD_COLOUR: a colour block is copied into a slot that no enabled layer names (R256). -/
def execLoadColour (n q : Nat) (cmd : BitVec 256) (s : State) : Res :=
  s.needCmp n q fun s => s.cmpTake n q 0x05 cmd mask48 3 fun s =>
    let x := s.cmpOut n q
    let slot := cArg1 cmd
    if x.cur.names slot ∨ (x.pend.getD {}).names slot then s.cmpRefuse n q cmd 15
    else match s.cmdRead (Src.cmp n) (cArg0 cmd) colourBytes with
      | (.inl st, s) => s.cmpRefuse n q cmd st
      | (.inr b, s) =>
        if ¬ colourOk b then s.cmpRefuse n q cmd 2
        else
          let k := 4 * q + slot
          let s := State.colourStore s n (bankBase (124 + n) + k * 0xC000) (ceilDiv colourBytes 32) b
          ({ s with colours := if s.colours.contains (n, k) then s.colours else (n, k) :: s.colours }).cmpDone n q cmd 0

/-- CMP_PRESENT: a buffer for a layer, to be latched at the next frame boundary (R258). -/
def execCmpPresent (n q : Nat) (cmd : BitVec 256) (s : State) : Res :=
  s.needCmp n q fun s => s.cmpTake n q 0x10 cmd mask48 15 fun s =>
    if cArg0 cmd % 32 ≠ 0 then s.cmpRefuse n q cmd 2
    else
      let x := s.cmpOut n q
      (s.setCmp n q { x with present := Tab.set x.present (cArg1 cmd) (cArg0 cmd) }).cmpDone n q cmd 0

/-- The configuration that composes a band: at a frame boundary, the pending one (R255). -/
def CmpOut.bandCfg (x : CmpOut) (band : Nat) : CmpCfg := if band = 0 then x.pend.getD x.cur else x.cur

/-- A BAND of a frame that failed the check of R259: it delivers nothing. -/
def State.cmpMismatch (s : State) (n q band : Nat) (cmd : W256) : State :=
  let o := (s.cmpOut n q).cur.out
  let f := s.cmpFrame n q
  let s := s.chkBlock 1 (n + 8 * q) ⟨BitVec.ofNat 64 (f * 65536 + band), [], true⟩
  (s.cmpNext n q (band + 1 == oBands o)).cmpDone n q cmd 14

/-- A BAND of a pan output: it waits for a free row of the programme's input ring (R257, R259); `s0` is the state in which it
waits. -/
def State.cmpPanBand (s0 s : State) (n q band k : Nat) (cmd : W256) : State :=
  if band ≠ 0 ∧ (s.cmpOut n q).mismatch then s.cmpMismatch n q band cmd
  else if band = 0 ∧ (s.pgm k).st ≠ .active then (s.cmpBoundary n q none).cmpMismatch n q band cmd
  else match s.panNextIn k with
    | (none, _) => s0
    | (some (j, x, po), s) =>
      if band = 0 then
        let s := s.cmpBoundary n q (some po.cfg)
        if (s.cmpOut n q).mismatch then s.cmpMismatch n q band cmd else s.cmpCompose n q band (some (j, x, po)) cmd
      else if po.cfg.memIn ∨ po.cfg.cmp ≠ n then s0
      else s.cmpCompose n q band (some (j, x, po)) cmd

/-- CMP_BAND: the next band of an output is composed and delivered once it is executable (R257). -/
def execCmpBand (n q : Nat) (cmd : BitVec 256) (s : State) : Res :=
  s.needCmp n q fun s0 => s0.cmpTake n q 0x11 cmd 0 0xFFFF fun s =>
    let x := s.cmpOut n q
    let band := cArg1 cmd
    let o := (x.bandCfg band).out
    if oType x.cur.out = 0 ∨ band ≠ x.next then s.cmpRefuse n q cmd 4
    else if oType o = 1 then State.cmpPanBand s0 s n q band (oPgm o) cmd
    else if oType o = 3 ∧ (s.cmpTakers n q o).isEmpty then s0
    else
      let s := if band = 0 then s.cmpBoundary n q none else s
      s.cmpCompose n q band none cmd

end Sys2Proof.Machine
end

