-- ==== Sys2Proof/Machine/Head.lean ====
section
/-! DEFINITION. The display heads (chapter 9): commands, frame boundaries, active lines, fetches, tearing-effect pacing. -/

namespace Sys2Proof.Machine

/-- Run the meaning of a head that exists. -/
def State.needHead (s : State) (n : Nat) (f : State → State) : Res := s.need (decide (n < 4)) "display head" f

/-- The opcodes of a head command list (table DSP-3). -/
def headOps : List Nat := [0x01, 0x02, 0x03, 0x10]

/-- A command leaves the list of a head. A SET_TIMING that has not completed holds the list (R282); the list of a SLAVE head
refuses every command (R297). -/
def State.headTake (s : State) (n op : Nat) (c : W256) (m0 m1 : Nat) (f : State → State) : State :=
  if (s.head n).next.isSome then s
  else if (s.head n).st = .slave then
    match s.popCmd 13 n 0 c with
    | some s => s.headRefuse n c 18
    | none => s
  else s.unitTake 13 n 0 (134 + n) headOps op c (cSel c == 0 && cmdFormOk c m0 m1) (fun st s => s.headRefuse n c st) f

/-- Whether a quad is ready for its head (R370). -/
def State.headQuad (s : State) (q : Nat) : Bool := s.fget F.LN_CFG_MODE q 0 == 3 && s.flag F.LN_CFG_READY q 0

/-- Whether the lanes of a timing are there: the quad of each head that it drives, and the capacity (R284, R298, R370). -/
def State.timingLanes (s : State) (n : Nat) (t : BitVec 512) : Bool :=
  s.headQuad (10 + n) && (tPair t == 0 || s.headQuad (11 + n)) && slpFits t

/-- Why a SET_TIMING is refused before admission, if it is (R284, R297). -/
def State.timingRefusal (s : State) (n : Nat) (t : BitVec 512) : Option Nat :=
  let h := s.head n
  let odd := (s.head (n + 1)).st
  let slaveHere := odd == .slave
  if ¬ timingOk n t then some 2
  else if ¬ s.timingLanes n t then some 16
  else if tPair t ≠ 0 ∧ odd ≠ .off ∧ ¬ slaveHere then some 18
  else if h.enabled.any (fun d => !planeInside d t) then some 2
  else if tBudget t < needs h.enabled t then some 13
  else none

/-- SET_TIMING: a timing is checked and charged; it takes effect at once in OFF, and otherwise at the end of the frame
(R284). -/
def execSetTiming (n : Nat) (cmd : BitVec 256) (s : State) : Res :=
  s.needHead n fun s => s.headTake n 0x01 cmd mask48 0 fun s =>
    if (s.head n).st = .stopping then s.headRefuse n cmd 4
    else match s.cmdRead (Src.head n) (cArg0 cmd) 64 with
      | (.inl st, s) => s.headRefuse n cmd st
      | (.inr b, s) =>
        let t := bytesBv 512 b
        match s.timingRefusal n t with
        | some st => s.headRefuse n cmd st
        | none => match s.submit ⟨Src.head n, .head n, timingCharge n t⟩ with
          | (false, s) => s.headRefuse n cmd 1
          | (true, s) =>
            let h := s.head n
            let s' := s.setHead n { h with next := some (t, cmd) }
            if h.st = .off then (s'.fset F.DH_FRAME_FRAMES n 0 0).headFrameStart n false false else s'

/-- SET_PLANE: a plane descriptor is accepted, to apply at the next content frame boundary (R287, R300). -/
def execSetPlane (n : Nat) (cmd : BitVec 256) (s : State) : Res :=
  s.needHead n fun s => s.headTake n 0x02 cmd mask48 3 fun s =>
    let h := s.head n
    if h.st = .off ∨ h.st = .stopping then s.headRefuse n cmd 4
    else match s.cmdRead (Src.head n) (cArg0 cmd) 64 with
      | (.inl st, s) => s.headRefuse n cmd st
      | (.inr b, s) =>
        let d := bytesBv 512 b
        let p := cArg1 cmd
        let h' := h.setPlane p { h.plane p with next := some d }
        if ¬ (planeOk d ∧ planeInside d h.lastTiming) then s.headRefuse n cmd 2
        else if tBudget h.lastTiming < needs h'.enabled h.lastTiming then s.headRefuse n cmd 13
        else (s.setHead n h').headDone n cmd 0

/-- HEAD_STOP: the head enters STOPPING, and OFF at the end of the frame; a STOP in OFF is done at once (R283). -/
def execHeadStop (n : Nat) (cmd : BitVec 256) (s : State) : Res :=
  s.needHead n fun s => s.headTake n 0x03 cmd 0 0 fun s =>
    let h := s.head n
    if h.st = .off then s.headDone n cmd 0
    else if h.st = .stopping then s.headRefuse n cmd 4
    else (s.setHead n { h with st := .stopping, stop := some cmd }).headShow n

/-- HEAD_PRESENT: a surface for a plane, latched at the next content frame boundary; one that waits is superseded (R288). -/
def execHeadPresent (n : Nat) (cmd : BitVec 256) (s : State) : Res :=
  s.needHead n fun s => s.headTake n 0x10 cmd mask48 3 fun s =>
    let h := s.head n
    let p := cArg1 cmd
    let x := h.plane p
    if cArg0 cmd % 32 ≠ 0 then s.headRefuse n cmd 2
    else if ¬ plEn x.last ∨ plRing x.last then s.headRefuse n cmd 4
    else
      let s := s.setHead n (h.setPlane p { x with wait := some (cmd, cArg0 cmd) })
      match x.wait with
      | some (old, _) => s.headDone n old 17
      | none => s

/-- Whether a head scans out frames of its own. -/
def Head.running (h : Head) : Bool := h.st == .black || h.st == .run || h.st == .stopping

/-- FRAME_BOUNDARY: after the last active line, the next frame starts, once a tearing-effect edge has come when the timing is
paced (R285, R295); a head in STOPPING enters OFF (R283). -/
def execFrameBoundary (n : Nat) (s : State) : Res :=
  s.needHead n fun s =>
    let h := s.head n
    if ¬ (h.running ∧ h.line = tVact h.timing) then s
    else if h.st = .stopping then s.headOff n
    else if tPace h.timing ∧ ¬ h.teEdge then s
    else s.headFrameStart n h.teEdge false

/-! ### Scan-out (R291 to R294) -/

/-- Whether a fetched plane has a line due in the active line that is next and the line has not been fetched. -/
def Head.missing (h : Head) (p : Nat) : Bool :=
  let x := h.plane p
  h.running && decide (h.line < tVact h.timing) && h.fetches p &&
    decide (plY x.cur ≤ h.line ∧ h.line < plY x.cur + plH x.cur ∧ x.fetched ≤ h.line - plY x.cur)

/-- A plane's line has not returned when its pixels are due: they are transparent, the fetch that returns afterwards is
discarded, and scan-late is posted once a frame (R294). -/
def State.headLate (s : State) (n p : Nat) : State :=
  let h := s.head n
  let x := h.plane p
  if h.missing p then
    let s := s.setHead n (h.setPlane p { x with fetched := h.line - plY x.cur + 1, late := true })
    if x.late then s
    else (s.fset F.DH_ERR_LATE n 0 (min (s.fget F.DH_ERR_LATE n 0 + 1) 0xFFFF)).headPost n 0x0D02
      [.u 1 p, .u 4 (s.headFrame n), .u 2 h.line]
  else s

/-- SCAN_LATE: a plane's fetch for the next active line is late (R294). -/
def execScanLate (n p : Nat) (s : State) : Res :=
  s.need (decide (n < 4 ∧ p < 4)) "plane of a display head" fun s => s.headLate n p

/-- SCAN_FETCH_RETURN: the next line of a plane returns into its scan buffer, which holds 16 lines (R293); poisoned pixels are
transparent (R294). -/
def execScanFetchReturn (n p : Nat) (s : State) : Res :=
  s.need (decide (n < 4 ∧ p < 4)) "plane of a display head" fun s =>
    let h := s.head n
    let x := h.plane p
    let d := x.cur
    match x.base with
    | none => s
    | some base =>
      if ¬ (h.running ∧ h.fetches p ∧ x.fetched < plH d ∧ x.fetched < (h.line - plY d) + 16) then s
      else
        let a := base + x.fetched * plPitch d
        let len := plW d * plBpp d
        let ((b, bad), s) := s.readMarked (Src.head n) a len (wordsOf a len) [] none
        let s := s.setHead n (h.setPlane p { x with
          fetched := x.fetched + 1, lines := x.lines ++ [(x.fetched, planeLine d b)], poison := x.poison || bad.isSome })
        match bad with
        | some w =>
          if x.poison then s
          else (s.fset F.DH_ERR_POISON n 0 (min (s.fget F.DH_ERR_POISON n 0 + 1) 0xFFFF)).headPost n 0x0D03
            [.u 1 p, .u 4 (s.headFrame n), .u 6 w]
        | none => s

/-- The lines of a plane that later active lines need. -/
def HeadPlane.dropLine (x : HeadPlane) (y : Nat) : HeadPlane :=
  { x with lines := x.lines.filter (fun l => decide (y < plY x.cur + l.1)) }

/-- A quad sends active line y of head n: m is the head of the quad. -/
def State.headLine (h : Head) (n f y : Nat) (s : State) (m : Nat) : State :=
  let out := h.sendTo n m f y
  (List.range 4).foldl (State.headSend out (10 + m)) { s with headOut := s.headOut ++ out }

/-- ACTIVE_LINE: the next active line leaves on the head's lanes; the odd head of a locked pair sends the right half, and that
of a clone the whole line (R296, R298, R299). -/
def execActiveLine (n : Nat) (s : State) : Res :=
  s.needHead n fun s =>
    let h := s.head n
    if ¬ (h.running ∧ h.line < tVact h.timing) then s
    else
      let s := (List.range 4).foldl (fun s p => s.headLate n p) s
      let h := s.head n
      let y := h.line
      let f := s.headFrame n
      let t := h.timing
      let quads := if tPair t = 0 then [n] else [n, n + 1]
      let h' := { h with line := y + 1, planes := h.planes.map (fun (x : Nat × HeadPlane) => (x.1, x.2.dropLine y)) }
      let s := s.setHead n (h'.runLines (if y = 0 then tVtot t - tVact t + 1 else 1))
      quads.foldl (State.headLine h n f y) s

/-! ### Tearing-effect pacing (R295) -/

/-- TE_EDGE: the synchronised level of TEn changes; an edge of the timing's polarity is counted, and paces the next frame. -/
def execTeEdge (n : Nat) (level : Bool) (s : State) : Res :=
  s.needHead n fun s =>
    let h := s.head n
    if s.flag F.DH_TE_LEVEL n 0 == level then s
    else
      let s := s.fset F.DH_TE_LEVEL n 0 (b2n level)
      if h.st = .slave ∨ level = tTepol h.timing then s
      else
        let s := s.fset F.DH_TE_EDGES n 0 ((s.fget F.DH_TE_EDGES n 0 + 1) % 32768)
        if tPace h.timing ∧ h.running then s.setHead n { h with teEdge := true } else s

/-- TE_TIMEOUT: no edge has come within TE_WAIT lines; the next frame starts anyway. -/
def execTeTimeout (n : Nat) (s : State) : Res :=
  s.needHead n fun s =>
    let h := s.head n
    if ¬ ((h.st = .black ∨ h.st = .run) ∧ tPace h.timing ∧ h.line = tVact h.timing ∧ ¬ h.teEdge) then s
    else
      let s := s.fset F.DH_TE_TIMEOUTS n 0 (min (s.fget F.DH_TE_TIMEOUTS n 0 + 1) 0xFFFF)
      (s.headPost n 0x0D04 [.u 4 (s.headFrame n)]).headFrameStart n false true

end Sys2Proof.Machine
end

