-- ==== Sys2Proof/Machine/Host.lean ====
section
/-! DEFINITION. The commands of the host port (chapter 19) that need no register access: event routing, messages, doorbells,
function resets, link changes, routes and rings. -/

namespace Sys2Proof.Machine

/-- EVENT_ROUTE: the event router takes a source's oldest record (R470). The masks are those of the vectors of the PF ring
and of the VF ring that it reaches. -/
def execEventRoute (src : Nat) (masked maskedVf : Bool) (s : State) : Res := .next (s.routeEvent src masked maskedVf)

/-- MSIX_HOLD_EXPIRY: `HOLD` µs have passed since a ring's last message (R472). -/
def execMsixHoldExpiry (fn ring : Nat) (masked : Bool) (s : State) : Res :=
  s.need (decide (fn < 65 ∧ ring < 32 ∧ (fn = 0 ∨ ring = 0))) "event ring" fun s =>
    let sub := ringSub fn ring
    let x := s.ring sub
    if x.inHold ∧ x.deferred then (s.sendMsix fn sub masked).setRing sub { inHold := true, deferred := false }
    else s.setRing sub {}

/-- DOORBELL: a function writes `HST_DB_VAL_HI` (R468). -/
def execDoorbell (fn : Nat) (val : BitVec 32) (s : State) : Res :=
  s.need (decide (fn < 65)) "function" fun s => s.doorbellWrite fn (Src.fn fn) val

/-- DOORBELL_DELIVER: a held doorbell reaches the tally, or is refused (R469). -/
def execDoorbellDeliver (fn : Nat) (s : State) : Res :=
  s.need (decide (fn < 65)) "function" fun s => s.deliverDoorbell fn

/-- VF_FLR: a virtual function resets (R473). -/
def execVfFlr (v : Nat) (s : State) : Res :=
  s.need (decide (1 ≤ v ∧ v < 65)) "virtual function" fun s => s.vfReset v

/-- PF_FLR: the physical function resets (R473). -/
def execPfFlr (s : State) : Res := .next s.pfReset

/-- HOST_LINK_CHANGE: the link trains or goes down, and the host's configuration sets the number of VFs (R462, R473). -/
def execHostLinkChange (speed width numvf : Nat) (s : State) : Res :=
  s.need (decide (speed ≤ 5 ∧ width ≤ 16 ∧ numvf ≤ 64)) "link state" fun s =>
    let same := s.fget F.HST_STAT_SPEED 0 0 = speed ∧ s.fget F.HST_STAT_WIDTH 0 0 = width
    let s := ((s.fset F.HST_STAT_SPEED 0 0 speed).fset F.HST_STAT_WIDTH 0 0 width).fset F.HST_STAT_NUMVF 0 0 numvf
    if same then s else s.post Src.host 0x0020 [.u 1 (b2n (speed != 0)), .u 1 speed, .u 1 width]

/-- ROUTE_SET: a write of `HST_ROUTE` (R470). -/
def execRouteSet (req : Nat) (val : BitVec 32) (s : State) : Res := .next (s.routeWrite req val)

/-- RING_ENABLE: a write of `HST_RING_CFG` in a function's page (R471). -/
def execRingEnable (fn req : Nat) (val : BitVec 32) (s : State) : Res :=
  s.need (decide (fn < 65)) "function" fun s => s.ringCfgWrite fn req val

end Sys2Proof.Machine
end

