-- ==== Sys2Proof/Machine/Flags.lean ====
section
/-! DEFINITION. The predicate computations: the comparisons of tables ISA-5 and ISA-7, and the saturations of
table ISA-10. A rake has no other flags. -/

namespace Sys2Proof.Machine

/-- Signed less-than. -/
def sltW (a b : W64) : Bool := decide (a.toInt < b.toInt)

/-- Unsigned less-than. -/
def ultW (a b : W64) : Bool := decide (a.toNat < b.toNat)

/-- An exact integer saturated to a signed lane. -/
def satS (b : Nat) (v : Int) : BitVec b :=
  BitVec.ofInt b (max (-(2 ^ (b - 1) : Int)) (min v (2 ^ (b - 1) - 1)))

/-- An exact integer saturated to an unsigned lane. -/
def satU (b : Nat) (v : Int) : BitVec b := BitVec.ofInt b (max 0 (min v (2 ^ b - 1)))

/-- All ones or zero. -/
def maskIf (b : Nat) (c : Bool) : BitVec b := if c then BitVec.allOnes b else 0

/-- Predicates p7 to p0 in bits [7:0] (PGET). -/
def Rake.predBits (r : Rake) : Nat :=
  ((List.range 8).map (fun i => if r.getP (BitVec.ofNat 3 i) then 2 ^ i else 0)).sum

/-- Predicates p1 to p7 from bits [7:1] of a value (PSET). -/
def Rake.setPreds (r : Rake) (v : W64) : Rake :=
  (List.range 8).foldl (fun r i => r.setP (BitVec.ofNat 3 i) (v.getLsbD i)) r

end Sys2Proof.Machine
end

