-- ==== Sys2Proof/Machine/Loads.lean ====
section
/-! DEFINITION. The memory instructions of Glidel (R64 to R69): loads, stores, atomics, and the return of a device load. -/

namespace Sys2Proof.Machine

/-! ### Checks (R65) -/

/-- The fault of an access, the first of R65 that applies, or the class violation of R84 for a register access of a replayable
task; `none` when the access goes on. -/
def accessFault (task : Option TaskCtx) (ea size : Nat) (sp : Bool) : Option Nat :=
  if ea % size ≠ 0 then some 0x03
  else if !sp then (if 0x70000 < ea + size then some 0x04 else none)
  else if 2 ^ 48 ≤ ea ∨ !mapped ea then some 0x05
  else if inRegs ea && (match task with | some t => bitOf t.attr 0 | none => false) then some 0x07
  else none

/-- A rake's access faults precisely; one to an unmapped range posts access-error (R40). -/
def State.memFault (s : State) (rk cause ea : Nat) : State :=
  let s := if cause = 0x05 ∧ ea < 2 ^ 48 ∧ !mapped ea then s.accessError (Src.rake rk) ea 2 else s
  s.rakeFault rk cause (s.rake rk).pc ea

/-- Execute a memory instruction (R55, R58, R65): `f` is its effect at an effective address that passes the checks. -/
def State.issueMem (s : State) (rk : Nat) (pg : BitVec 3) (pn legal : Bool) (ea : Rake → Nat)
    (check : Option TaskCtx → Nat → Option Nat) (sp : Bool) (f : Nat → State → State) : Res :=
  s.need (decide (rk < 104)) "rake" fun s =>
    let r := s.rake rk
    if r.issues then
      if legal && Sys2Proof.guardOk pg pn then
        if r.guard pg pn then
          let a := ea r
          let s' := match check r.task a with
            | some c => s.memFault rk c a
            | none => f a s
          s.issued s' rk true (if sp then a % 2 ^ 48 else 0)
        else s.issued (s.advance rk) rk false 0
      else s.issued (s.rakeFault rk 0x01 r.pc 0) rk true 0
    else s

/-- The fault of poison in a rake's own scratch (table MEM-3). -/
def scratchCause (unc : Bool) : Nat := if unc then 0x21 else 0x06

/-! ### Loads -/

/-- The value of n bytes at an address of a word. -/
def bytesAt (d : W256) (a n : Nat) : Nat := d.toNat / 2 ^ (8 * (a % 32)) % 2 ^ (8 * n)

/-- The value that a load puts into rd (R66). -/
def loadValue (v sz : Nat) (sx : Bool) : W64 :=
  if sx then BitVec.ofInt 64 (sextNat (8 * 2 ^ sz) v) else BitVec.ofNat 64 v

/-- What a load puts into its register. -/
def DevLoad.apply (x : DevLoad) (d : W256) (r : Rake) : Rake :=
  match x with
  | .scalar rd sz sx a => r.setG rd (loadValue (bytesAt d a (2 ^ sz)) sz sx)
  | .vector wd _ => r.setW wd d

/-- The address of a load. -/
def DevLoad.addr : DevLoad → Nat
  | .scalar _ _ _ a => a
  | .vector _ a => a

/-- The size of a load. -/
def DevLoad.size : DevLoad → Nat
  | .scalar _ sz _ _ => 2 ^ sz
  | .vector _ _ => 32

/-- A load from the rake's own scratch (R67). -/
def State.scratchLoad (s : State) (rk ea : Nat) (x : DevLoad) : State :=
  match s.memRead (Src.rake rk) (scratchAddr rk ea / 32 * 32) with
  | (.ok d, s) => s.compute rk fun r => x.apply d r
  | (.poison unc, s) => s.rakeFault rk (scratchCause unc) (s.rake rk).pc (ea % 2 ^ 48)
  | (.addrErr, s) => s.rakeFault rk 0x05 (s.rake rk).pc (ea % 2 ^ 48)

/-- A load: from scratch at once; from device space it is in flight until its data return (R68). -/
def State.load (s : State) (rk ea : Nat) (sp : Bool) (x : DevLoad) : State :=
  if sp then
    (s.setRake rk { s.rake rk with devLoad := some x }).pmuAdd rk 0x00B [] 1 (s.rake rk).pc
  else s.scratchLoad rk ea x

/-- LD (R64 to R66). -/
def execLd (rk : Nat) (pg : BitVec 3) (pn : Bool) (rd ra : BitVec 5) (sp : Bool) (sz : BitVec 2) (sx : Bool)
    (off : BitVec 8) (s : State) : Res :=
  s.issueMem rk pg pn (!(sx && sz == 3)) (fun r => effAddr (r.getG ra) off (2 ^ sz.toNat)) (fun t a => accessFault t a (2 ^ sz.toNat) sp) sp
    fun ea s => s.load rk ea sp (.scalar rd sz.toNat sx (if sp then ea else scratchAddr rk ea))

/-- LDV (R66). -/
def execLdv (rk : Nat) (pg : BitVec 3) (pn : Bool) (wd : BitVec 4) (ra : BitVec 5) (sp : Bool) (off : BitVec 8)
    (s : State) : Res :=
  s.issueMem rk pg pn true (fun r => effAddr (r.getG ra) off 32) (fun t a => accessFault t a 32 sp) sp
    fun ea s => s.load rk ea sp (.vector wd (if sp then ea else scratchAddr rk ea))

/-- The tagged instruction of a rake, a load in flight, faults (table PMU-6). -/
def State.tagFaulted (s : State) (rk pc : Nat) : State :=
  match Tab.find? rk s.tags with
  | some u =>
    match u.cur with
    | some (p, flags, rest) =>
      if p = pc ∧ flags / 4 % 2 = 0 then { s with tags := Tab.set s.tags rk { u with cur := some (p, flags + 4, rest) } } else s
    | none => s
  | none => s

/-- A device load returns an error: the precise fault (R68). -/
def State.loadFault (s : State) (rk cause ea : Nat) : State :=
  let pc := (s.rake rk).pc
  (s.tagFaulted rk pc).rakeFault rk cause pc ea

/-- A device load ends with its data. -/
def State.loadDone (s : State) (rk : Nat) (x : DevLoad) (d : W256) : State :=
  (s.setRake rk { s.rake rk with devLoad := none }).compute rk fun r => x.apply d r

/-- DEVICE_LOAD_RETURN: the read of a device load takes place, and its data or its fault reaches the rake (R68). A read of the
register windows that is not 32 bits wide returns 0 under R10. -/
def execDeviceLoadReturn (rk : Nat) (s : State) : Res :=
  s.need (decide (rk < 104)) "rake" fun s =>
    match (s.rake rk).devLoad with
    | none => s
    | some x =>
      let req := Src.rake rk
      let a := x.addr
      if inRegs a then
        let (v, s) := s.accessRead req a x.size
        s.loadDone rk x (BitVec.ofNat 256 (v.toNat * 2 ^ (8 * (a % 32))))
      else match s.memRead req (a / 32 * 32) with
        | (.ok d, s) => s.loadDone rk x d
        | (.poison _, s) => s.loadFault rk 0x06 a
        | (.addrErr, s) => s.loadFault rk 0x05 a

/-! ### Stores -/

/-- The word that n bytes of a value make at an address. -/
def wordAt (a n v : Nat) : W256 := BitVec.ofNat 256 (v % 2 ^ (8 * n) * 2 ^ (8 * (a % 32)))

/-- An error of a posted store stays with the rake until it is taken; the first one stands (R68). -/
def State.storeError (s : State) (rk cause ea : Nat) : State :=
  let r := s.rake rk
  if r.storeErr.isSome then s else s.setRake rk { r with storeErr := some ⟨cause, r.pc, ea⟩ }

/-- A device store (R67, R68): it is posted, and the rake goes on. -/
def State.deviceStore (s : State) (rk ea n v : Nat) : State :=
  let req := Src.rake rk
  let s := s.setRake rk { s.rake rk with posted := ((s.rake rk).pc, ea) :: (s.rake rk).posted }
  let s :=
    if inRegs ea then s.accessWrite req ea n (BitVec.ofNat 32 v)
    else match s.memWriteMask req (ea / 32 * 32) (rangeMask (ea / 32 * 32) ea n) (wordAt ea n v) with
      | (.ok, s) => s
      | (.poison _, s) => s.storeError rk 0x06 ea
      | (.addrErr, s) => s.storeError rk 0x05 ea
  s.advance rk

/-- A store to the rake's own scratch: its fault is precise (R123). -/
def State.scratchStore (s : State) (rk ea n v : Nat) : State :=
  let a := scratchAddr rk ea
  match s.memWriteMask (Src.rake rk) (a / 32 * 32) (rangeMask (a / 32 * 32) a n) (wordAt a n v) with
  | (.ok, s) => s.advance rk
  | (.poison unc, s) => s.rakeFault rk (scratchCause unc) (s.rake rk).pc (ea % 2 ^ 48)
  | (.addrErr, s) => s.rakeFault rk 0x05 (s.rake rk).pc (ea % 2 ^ 48)

/-- A store of n bytes. -/
def State.store (s : State) (rk ea n v : Nat) (sp : Bool) : State :=
  if sp then s.deviceStore rk ea n v else s.scratchStore rk ea n v

/-- ST (R64 to R66). -/
def execSt (rk : Nat) (pg : BitVec 3) (pn : Bool) (rd ra : BitVec 5) (sp : Bool) (sz : BitVec 2) (off : BitVec 8)
    (s : State) : Res :=
  s.issueMem rk pg pn true (fun r => effAddr (r.getG ra) off (2 ^ sz.toNat)) (fun t a => accessFault t a (2 ^ sz.toNat) sp) sp
    fun ea s => s.store rk ea (2 ^ sz.toNat) ((s.rake rk).getG rd).toNat sp

/-- STV (R66). -/
def execStv (rk : Nat) (pg : BitVec 3) (pn : Bool) (wd : BitVec 4) (ra : BitVec 5) (sp : Bool) (off : BitVec 8)
    (s : State) : Res :=
  s.issueMem rk pg pn true (fun r => effAddr (r.getG ra) off 32) (fun t a => accessFault t a 32 sp) sp
    fun ea s => s.store rk ea 32 ((s.rake rk).getW wd).toNat sp

/-! ### Atomics (R69) -/

/-- The fault of an atomic: as for an access of 8 bytes; a device atomic outside HBM and the banks takes the address fault, and
one of a replayable task the class violation (R84). -/
def atomicFault (task : Option TaskCtx) (ea : Nat) (sp : Bool) : Option Nat :=
  match accessFault none ea 8 sp with
  | some c => some c
  | none =>
    if sp then
      if !inMem ea then some 0x05
      else if (match task with | some t => bitOf t.attr 0 | none => false) then some 0x07
      else none
    else none

/-- An atomic on a word: the read, the change of 8 bytes and the write, as a partial write (R69, R123): the old value, or the cause of
its fault. -/
def State.atomicWord (s : State) (req a : Nat) (sp : Bool) (f : W64 → W64) : (Nat ⊕ W64) × State :=
  let w := a / 32 * 32
  match memUnit w with
  | none => (.inl 0x05, s.memError req w)
  | some u =>
    match s.writeRefused req w u with
    | some kind => (.inl 0x05, s.accessError req w kind)
    | none =>
      match (s.countMc u 0x011).memRead req w with
      | (.ok d, s) =>
        let old : W64 := BitVec.ofNat 64 (bytesAt d a 8)
        let m := byteMask (rangeMask w a 8)
        let d' := (d &&& ~~~m) ||| (wordAt a 8 (f old).toNat &&& m)
        (.inr old, { s with mem := writeCode s.mem w (encodeWord d') })
      | (.poison unc, s) =>
        (.inl (if sp then 0x06 else scratchCause unc), { s with mem := writeCode s.mem w poisonWord })
      | (.addrErr, s) => (.inl 0x05, s)

/-- Execute an atomic: rd receives the old value. -/
def State.issueAtomic (s : State) (rk : Nat) (pg : BitVec 3) (pn : Bool) (rd ra : BitVec 5) (sp : Bool)
    (f : Rake → W64 → W64) : Res :=
  s.issueMem rk pg pn true (fun r => (r.getG ra).toNat) (fun t a => atomicFault t a sp) sp fun ea s =>
    match s.atomicWord (Src.rake rk) (if sp then ea else scratchAddr rk ea) sp (f (s.rake rk)) with
    | (.inr old, s) => s.compute rk fun r => r.setG rd old
    | (.inl c, s) => s.rakeFault rk c (s.rake rk).pc (ea % 2 ^ 48)

/-- AADD. -/
def execAadd (rk : Nat) (pg : BitVec 3) (pn : Bool) (rd ra rb : BitVec 5) (sp : Bool) (s : State) : Res :=
  s.issueAtomic rk pg pn rd ra sp fun r old => old + r.getG rb

/-- ASWAP. -/
def execAswap (rk : Nat) (pg : BitVec 3) (pn : Bool) (rd ra rb : BitVec 5) (sp : Bool) (s : State) : Res :=
  s.issueAtomic rk pg pn rd ra sp fun r _ => r.getG rb

/-- ACAS: rb when the word equals rd before the instruction. -/
def execAcas (rk : Nat) (pg : BitVec 3) (pn : Bool) (rd ra rb : BitVec 5) (sp : Bool) (s : State) : Res :=
  s.issueAtomic rk pg pn rd ra sp fun r old => if old = r.getG rd then r.getG rb else old

/-- AAND. -/
def execAand (rk : Nat) (pg : BitVec 3) (pn : Bool) (rd ra rb : BitVec 5) (sp : Bool) (s : State) : Res :=
  s.issueAtomic rk pg pn rd ra sp fun r old => old &&& r.getG rb

/-- AOR. -/
def execAor (rk : Nat) (pg : BitVec 3) (pn : Bool) (rd ra rb : BitVec 5) (sp : Bool) (s : State) : Res :=
  s.issueAtomic rk pg pn rd ra sp fun r old => old ||| r.getG rb

/-- AMAXU. -/
def execAmaxu (rk : Nat) (pg : BitVec 3) (pn : Bool) (rd ra rb : BitVec 5) (sp : Bool) (s : State) : Res :=
  s.issueAtomic rk pg pn rd ra sp fun r old => if ultW old (r.getG rb) then r.getG rb else old

/-- AMINU. -/
def execAminu (rk : Nat) (pg : BitVec 3) (pn : Bool) (rd ra rb : BitVec 5) (sp : Bool) (s : State) : Res :=
  s.issueAtomic rk pg pn rd ra sp fun r old => if ultW (r.getG rb) old then r.getG rb else old

end Sys2Proof.Machine
end

