-- ==== Sys2Proof/Machine/PanCode.lean ====
section
/-! DEFINITION. The coding of rows (R157 to R162, R171, R192, R206, R207, R215 to R223): motion search, CTUs, the units of a row, its
reconstruction, deadline mode. What the mode decision and the entropy coder make of their inputs is open (Config, log entry 24). -/

namespace Sys2Proof.Machine

/-! ### What a row depends on (R23) -/

/-- The context that row i finds at index d of the uncommitted rows: what the row above it left; row 0 starts afresh. -/
def Pgm.ctxAbove (p : Pgm) (o : PicOpen) (d i : Nat) : RowCtx :=
  if i = 0 then {}
  else match d with
    | 0 => o.ctxs.getLastD {}
    | d + 1 => ((p.rows[d]?).map (fun r => r.ctx)).getD {}

/-- The inputs of the row of index d. -/
def Pgm.rowIn (p : Pgm) (d : Nat) (r : RowRec) (o : PicOpen) : RowIn :=
  let y := p.inputOf (p.committed + d)
  { desc := o.cfg.desc, blk := o.cfg.blk, roi := o.cfg.roi, rap := o.rap, m := o.m, row := r.i, ctx := (p.ctxAbove o d r.i).val,
    floor := r.plan.floor, luma := (y.map (fun y => y.luma)).getD [], chroma := (y.map (fun y => y.chroma)).getD [] }

/-- The QpY or qindex that the next CTU's delta starts from (R218, R222): that of the CTU before it; for the first CTU of a row the
picture's base, for the second row of a pair what the first row left. -/
def Pgm.qpBefore (p : Pgm) (d : Nat) (r : RowRec) (o : PicOpen) : Nat :=
  match r.info.getLast? with
  | some x => x.qp
  | none =>
    if o.cfg.codec = 0 then r.plan.qb
    else if o.cfg.pairSecond r.i then (p.ctxAbove o d r.i).qidx else av1Qindex r.plan.qb

/-! ### CTUs -/

/-- The units before the coded data of row i, which take n bytes (R215, R219). -/
def PicOpen.head (o : PicOpen) (pic i n : Nat) : List Byte :=
  if o.cfg.codec = 0 then o.cfg.hevcHead o.rap o.m i else o.cfg.av1Head o.rap o.m pic i n

/-- The first candidate of least mode cost (R162, R195). -/
def bestMode (bits10 : Bool) (q : Nat) (l : List CtuMode) : Option CtuMode :=
  let cost (m : CtuMode) : Nat := modeCost bits10 q m.sse (m.bins.foldl (fun a p => a + binCost p.1 p.2) 0)
  l.foldl (fun (b : Option CtuMode) m => match b with
    | some c => if cost m < cost c then some m else some c
    | none => some m) none

/-- What a CTU becomes: the candidate of least cost, within what the rules fix. A minimum CTU takes at most 16 bytes, without a residual,
as one block: skip, or DC prediction in an intra CTU (R171, R192); a CTU that must be intra is. -/
def ctuChoice (x : CtuIn) : CtuChoice :=
  let l := (Config.ctuModes x).filter (fun m => m.code.intra || !x.intra)
  let a := ((bestMode (bitOf x.row.desc 4) x.q l).map (fun m => m.code)).getD default
  if x.min then { bytes := a.bytes.take 16, coded := false, whole := true, intra := x.intra }
  else { a with intra := x.intra || a.intra }

/-- The QP of a CTU of quality QP q and the delta that codes it, from the QP before it. HEVC: a CTU without a residual carries no
delta and takes the predicted QpY (R218). AV1: a superblock coded as one skipped block keeps the preceding qindex (R222). -/
def PgmCfg.ctuInfo (c : PgmCfg) (x : CtuIn) (a : CtuChoice) : CtuInfo :=
  let av1 := c.codec == 1
  let qp := if av1 then av1Qindex x.q else x.q
  let codes := a.coded || (av1 && !a.whole)
  { min := x.min, intra := a.intra, mvs := x.mvs
    qp := if codes then qp else x.pred
    delta := if codes then some (if av1 then (qp : Int) - x.pred else cuQpDelta c.bits10 x.q x.pred) else none }

/-- The row of index d with its next CTU coded. The second pass after a guard trip gives the CTUs before c_f as the first did
(R207). -/
def Pgm.codeCtu (p : Pgm) (d : Nat) (r : RowRec) (x : PicRec) (o : PicOpen) (min forced : Bool) (mvs : List Mv)
    (areas : List RefArea) : RowRec :=
  let cfg := o.cfg
  let c := r.ctus.length
  let q := cfg.ctuQp r.plan (r.lgs.getD c 0) c r.i
  let y : CtuIn := {
    row := p.rowIn d r o, col := c, q := q, pred := p.qpBefore d r o, min := min, intra := o.rap || forced, mvs := mvs
    areas := areas, before := r.ctus }
  let a := ctuChoice y
  let (b, i) := match r.first[c]?, r.firstInfo[c]? with
    | some b, some i => (b, i)
    | _, _ => (a.bytes, cfg.ctuInfo y a)
  { r with
    head := if c = 0 then (if r.first.isEmpty then o.head x.c r.i 0 else r.firstHead) else r.head
    ctus := r.ctus ++ [b], info := r.info ++ [i], qps := r.qps ++ [q], forced := r.forced || forced }

/-- A row whose last CTU is coded: termination and alignment in at most 64 bytes (R192), the sizes in its headers, the context that it
leaves. -/
def Pgm.finishRow (p : Pgm) (d : Nat) (r : RowRec) (x : PicRec) (o : PicOpen) : RowRec :=
  let y := p.rowIn d r o
  let tail := (Config.rowTail y r.ctus).take 64
  let n := r.ctus.flatten.length + tail.length
  { r with
    stage := .encoded, head := o.head x.c r.i n, tail := tail
    ctx := ⟨Config.rowContext y r.ctus (r.areas ++ r.patches), ((r.info.getLast?).map (fun i => i.qp)).getD 0⟩ }

/-! ### Motion search (R158 to R162, R205) -/

/-- The coarse candidates of the next CTU at quarter scale: none for a cap-floor row. -/
def RowRec.coarseFor (r : RowRec) (o : PicOpen) (pic : Nat) (luma : List (List (BitVec 10))) : List Mv :=
  let c := o.cfg
  if r.plan.floor then []
  else
    let q := quarterRow luma c.width (c.rowLines r.i)
    (coarseBest (coarseCost r.coarse (c.quarterBuf (pic - 1)) (c.width / 4) (c.height / 4) r.ctus.length r.i q)).map (fun b => b.2)

/-- The final vector of the CTU to the left for a reference; zero in column 0. -/
def RowRec.leftMv (r : RowRec) (ref : Nat) : Mv := match r.info.getLast? with
  | some i => i.mvs.getD ref (0, 0)
  | none => (0, 0)

/-- FMS for each reference of the next CTU of the row of index d: its final vectors, the reference data that it saw, the row with its
patches. -/
def State.panSearch (s : State) (k d : Nat) (x : PicRec) (o : PicOpen) : List Nat → RowRec → (List Mv × List RefArea × RowRec) × State
  | [], r => (([], [], r), s)
  | ref :: t, r =>
    let c := o.cfg
    let p := s.pgm k
    let col := r.ctus.length
    let luma := p.lumaOf (p.committed + d)
    let centres := searchCentres (r.coarseFor o x.c luma) (r.leftMv ref)
    let used := if ref = 0 then r.far.1 else r.far.2
    let patch := if r.plan.floor ∨ min 16 (c.ctus / 3) ≤ used then none else patchCentre centres
    let (px, py) := (64 * (col : Int) + (patch.getD (0, 0)).1 - 20, 64 * (r.i : Int) + (patch.getD (0, 0)).2 - 20)
    let todo := if patch.isSome then patchAreas c ref px py else []
    let (l, s) := State.fetchAreas k x.c c (inside c.height py) (inside c.height (py + 103)) todo s
    let s := if patch.isSome then s.pmuPan k 0x009 1 else s
    let r := { r with
      patches := r.patches ++ l
      far := if patch.isNone then r.far else if ref = 0 then (used + 1, r.far.2) else (r.far.1, used + 1) }
    let areas := r.areas.filter (fun a => a.r == ref && decide (a.X ≤ col + 4 ∧ col ≤ a.X + 4)) ++ l
    let f : FineIn := {
      av1 := c.codec == 1, bits10 := c.bits10, w := c.width, h := c.height, col := col, row := r.i
      q := c.ctuQp r.plan (r.lgs.getD col 0) col r.i, ctx := (p.ctxAbove o d r.i).val, luma := luma, areas := areas }
    let mv := f.search ref (centres.filter (fun v => centreInside v || patch == some v))
    let ((mvs, more, r), s) := State.panSearch s k d x o t r
    ((mv :: mvs, areas ++ more, r), s)

/-! ### A row leaves CW (R166, R215) -/

/-- The contexts of the rows of a picture up to the row of index d, in row order. -/
def Pgm.ctxsTo (p : Pgm) (d : Nat) (o : PicOpen) (pic : Nat) : List RowCtx :=
  o.ctxs ++ ((p.rows.take (d + 1)).filter (fun r => r.plan.pic == pic)).map (fun r => r.ctx)

/-- A reconstructed sample of a picture: the row below its own makes it final, since the loop filters cross the boundary (log entry
24). `per` is the lines of a row in its plane. -/
def reconAt (ctxs : List RowCtx) (bits10 : Bool) (pl per x y : Nat) : Nat :=
  (Config.reconSample (ctxs.getD (min (y / per + 1) (ctxs.length - 1)) {}).val pl x y).toNat % (if bits10 then 1024 else 256)

/-- The lines of a row in a plane. -/
def PgmCfg.linesPer (c : PgmCfg) (pl : Nat) : Nat := if pl = 0 ∨ c.c422 then 64 else 32

/-- The reconstruction of row i and, with what its coding adds, of the row above goes to the reference buffer of the picture
(R166, R227). -/
def State.panRecon (s : State) (k pic i : Nat) (c : PgmCfg) (ctxs : List RowCtx) : State :=
  let ps := crustPlanes (c.reconBase + pic % (c.nref + 1) * crustSize c.width c.height c.c422) c.width c.height c.c422
  (List.range 3).foldl (fun s pl => match ps[pl]? with
    | none => s
    | some q =>
      let n := c.linesPer pl / 32
      let lo := n * (i - 1)
      let hi := if i + 1 = c.nrows then 2 * q.gy else n * (i + 1)
      s.crustHalves (Src.pan (k / 4)) q (reconAt ctxs c.bits10 pl (c.linesPer pl)) ((List.range (hi - lo)).map (fun h => lo + h))) s

/-- The picture hash of an HEVC picture (R215). -/
def PgmCfg.hashOf (c : PgmCfg) (ctxs : List RowCtx) : List Byte :=
  let (cw, ch) := chromaSize c.width c.height c.c422
  let plane (pl w h : Nat) : List Nat :=
    (List.range (w * h)).map (fun t => reconAt ctxs c.bits10 pl (c.linesPer pl) (t % w) (t / w))
  hashSei c.bits10 [plane 0 c.width c.height, plane 1 cw ch, plane 2 cw ch]

/-- The bytes of the row of index d go to the bitstream ring past the write position, when there is room for them (R166). -/
def State.panPlace (s : State) (k d : Nat) (c : PgmCfg) : State :=
  let p := s.pgm k
  match p.rows[d]? with
  | none => s
  | some r =>
    let size := 2 ^ c.bsLog2
    let before := ((p.rows.take d).map (fun r => r.size)).sum
    if (p.rows.take d).all (fun r => r.placed) ∧ s.panRoom k c (before + r.size) then
      (s.ringWrite (Src.pan (k / 4)) c.bsBase size ((p.wpos + before) % size) r.bytes).setPgm k
        (p.mapRow d (fun r => { r with placed := true }))
    else s

/-- The row of index d leaves CW as r: its reconstruction, the picture hash, its bytes. -/
def State.panOut (s : State) (k d : Nat) (r : RowRec) (x : PicRec) (o : PicOpen) : State :=
  let s := s.setPgm k ((s.pgm k).mapRow d (fun _ => r))
  let ctxs := (s.pgm k).ctxsTo d o x.c
  let s := s.panRecon k x.c r.i o.cfg ctxs
  let s := if o.cfg.codec = 0 ∧ o.cfg.hash ∧ r.i + 1 = o.cfg.nrows then
      s.setPgm k ((s.pgm k).mapRow d (fun r => { r with suffix := o.cfg.hashOf ctxs }))
    else s
  (s.panPlace k d o.cfg).panStopping k

/-! ### Coding (R206, R207) -/

/-- EC codes the next CTU of the row of index d and checks the guard of a first pass. -/
def State.panEc (s : State) (k d : Nat) (r : RowRec) (x : PicRec) (o : PicOpen) : State :=
  let cfg := o.cfg
  let p := s.pgm k
  let c := r.ctus.length
  let bad := ((p.inputOf (p.committed + d)).map (fun y => y.bad)).getD []
  let min := r.minCtu bad c
  let refs := o.refs r.plan.floor
  let forced : Bool := o.forcedIntra r.i c
  let ((mvs, areas, r), s) : (List Mv × List RefArea × RowRec) × State :=
    if min ∨ forced then ((List.replicate refs (0, 0), [], r), s) else s.panSearch k d x o (List.range refs) r
  let p := s.pgm k
  let r : RowRec := { p.codeCtu d r x o min forced mvs areas with poisonMin := r.poisonMin || bad.contains c }
  if r.cf.isNone ∧ guardFails (r.head.length + r.ctus.flatten.length) cfg.ctus c (blkCapBuf cfg.blk) (p.bucketBefore d o r.i)
      r.plan.d then (s.setPgm k (p.trip d c r)).pmuPan k 0x006 1
  else if c + 1 = cfg.ctus then s.panOut k d (p.finishRow d r x o) x o
  else s.setPgm k (p.mapRow d (fun _ => r))

/-! ### Deadline mode (R171, R209) -/

/-- The bytes that a deadline-mode row never passes (R192). -/
def PgmCfg.rowFloor (c : PgmCfg) : Nat := 512 + 16 * c.ctus

/-- Code n CTUs of a row as minimum CTUs: skip with zero motion from reference 0, or DC prediction in a random-access picture. -/
def Pgm.codeMin (p : Pgm) (d : Nat) (x : PicRec) (o : PicOpen) : Nat → RowRec → RowRec
  | 0, r => r
  | n + 1, r => Pgm.codeMin p d x o n (p.codeCtu d r x o true false (if o.rap then [] else [(0, 0)]) r.areas)

/-- A row becomes a deadline-mode row: its plan stays, or it takes qb and projection 0 when it had none; what it was tripped for stays;
the encodings and plans of later rows are dropped (log entry 23). An unplanned row 0 is the boundary of R208. -/
def State.panDeadline (s : State) (k d : Nat) (x : PicRec) (o : PicOpen) : State :=
  let i := (s.pgm k).committed + d - o.j0
  let s := if i = 0 ∧ ((s.pgm k).rows[d]?).isNone ∧ o.classFloor.isNone then s.floorBoundary k x.c else s
  let p := s.pgm k
  let j := p.committed + d
  let floor := (((p.openOf x.c).bind (fun o => o.classFloor)).getD p.capFloor)
  let qb := o.cfg.qb o.rap
  let old : RowRec := (p.rows[d]?).getD { i := i, plan := {
    q := if floor then blkQmax o.cfg.blk else qb, p := 0, floor := floor, classFloor := floor, qb := qb
    lgRef := (p.stateAt p.committed).lgRef, d := o.cfg.grant j, pic := x.c } }
  let (lgs, s) := match p.inputOf j with
    | some y => (rowLgs (quarterRow y.luma o.cfg.width (o.cfg.rowLines i)) o.cfg.ctus, s)
    | none => ([(s.free 16).toNat], s.drawn)
  let r : RowRec := { i := i, plan := old.plan, cf := old.cf, areas := old.areas, deadline := true, lgs := lgs }
  let r := p.finishRow d (p.codeMin d x o o.cfg.ctus r) x o
  let s := (s.setPgm k { p with rows := p.rows.take d ++ [r] }).panOut k d r x o
  s.post (Src.pan (k / 4)) 0x0A01 [.u 1 k, .u 4 (x.c % 2 ^ 32), .u 2 i]

end Sys2Proof.Machine
end

