-- ==== Sys2Proof/Machine/Pan.lean ====
section
/-! DEFINITION. The commands of the pans (chapters 5 and 6). A pan command names pan n; a picture command and a row's events
name programme k. -/

namespace Sys2Proof.Machine

/-- Run the meaning of a pan that exists. -/
def State.needPan (s : State) (n : Nat) (f : State → State) : Res := s.need (decide (n < 16)) "pan" f

/-- Run the meaning of a programme that exists. -/
def State.needPgm (s : State) (k : Nat) (f : State → State) : Res := s.need (decide (k < 64)) "programme" f

/-- A command leaves a queue of window 10 for its pan n (R519); a bad format is status 8. -/
def State.panTake (s : State) (n inst : Nat) (ops : List Nat) (op : Nat) (c : W256) (pgmOk : Bool) (m0 m1 : Nat)
    (f : State → State) : State :=
  s.unitTake 10 inst 0 (2 + n) ops op c (pgmOk && cmdFormOk c m0 m1) (fun st s => s.panFinish n c st) f

/-- The opcodes of a pan queue and of a picture queue (R181). -/
def panOps : List Nat := [0x01, 0x02, 0x03]
/-- The opcodes of a picture queue (R181). -/
def picOps : List Nat := [0x10, 0x11]

/-- Read a descriptor, its HDR record and its ROI table, and apply every rule with status 9 or 2 (R182, R189, R213). -/
def State.panLoad (s : State) (n addr : Nat) : (Nat ⊕ PgmCfg) × State :=
  let req := Src.pan n
  match s.cmdRead req addr 192 with
  | (.inl st, s) => (.inl st, s)
  | (.inr b, s) =>
    let c : PgmCfg := { addr := addr, desc := bytesBv 1536 b }
    let blk := c.descBlk
    let (h, s) := s.cmdReadIf (bitOf c.stream 6) req (bitsOf c.stream 111 64) 32
    let (r, s) := s.cmdReadIf (blkRoiEn blk != 0) req (blkRoiAddr blk) 128
    let c := { c with hdr := bytesBv 256 (readBytes h), blk := blk, roi := bytesBv 1024 (readBytes r) }
    if readStatus h = 9 ∨ readStatus r = 9 then (.inl 9, s)
    else if readStatus h = 2 ∨ readStatus r = 2 ∨ ¬ c.fieldsOk ∨ ¬ c.blkOk c.blk c.roi then (.inl 2, s)
    else (.inr c, s)

/-- The rules with status 7, 6 and 5, in that order (R182): 0 when none is broken. -/
def PgmCfg.limitStatus (c : PgmCfg) : Nat :=
  if c.overLevel ∨ c.overRate c.blk then 7 else if c.ringRows < 2 then 6 else if c.delayShort then 5 else 0

/-- Whether a programme's slots conflict (R147). -/
def State.panConflict (s : State) (k slots : Nat) : Bool :=
  k % 4 % slots != 0 || (lowMask slots * 2 ^ (k % 4)) &&& s.panSlots (k / 4) (some k) != 0

/-- A programme enters ACTIVE with a configuration (R164, R183, R200): every register of chapter 6 and the rings' indices at
their reset values. -/
def State.panActivate (s : State) (k : Nat) (c : PgmCfg) : State :=
  let s := s.setPgm k { st := .active, cfg := c, credit := 48, states := [(0, c.freshHist {})] }
  let s := [Reg.PAN_PGM_PIC, .PAN_PGM_ROW, .PAN_PGM_ROLL, .PAN_PGM_RRING, .PAN_PGM_BSCONS, .PAN_PGM_QP, .PAN_PGM_BUCKET,
    .PAN_PGM_LADDER].foldl (fun s r => s.setReg r (64 + k) 0 0) s
  let s := (s.fset F.PAN_PGM_ROW_CREDIT (64 + k) 0 48).fset F.PAN_PGM_STATE_CAPFLOOR (64 + k) 0 0
  let s := { s with ledger := { s.ledger with
    pgms := Tab.set s.ledger.pgms k { classA := !c.classB, floor52 := c.mbps c.mFloor } } }
  ((s.applyCharge (.pgm k)).panShowCfg k c).panShow k

/-- ACTIVATE, once its format is right: state, reads, fields, limits, slots, admission (R147, R182, R183). -/
def State.panDoActivate (s : State) (n k : Nat) (cmd : W256) : State :=
  if (s.pgm k).st ≠ .idle then s.panFinish n cmd 4
  else match s.panLoad n (cArg0 cmd) with
    | (.inl st, s) => s.panFinish n cmd st
    | (.inr c, s) =>
      if c.limitStatus ≠ 0 then s.panFinish n cmd c.limitStatus
      else if s.panConflict k c.slots then s.panFinish n cmd 3
      else match s.submit ⟨Src.pan n, .pgm k, c.charge k⟩ with
        | (false, s) => s.panFinish n cmd 1
        | (true, s) => (s.panActivate k c).panFinish n cmd 0

/-- ACTIVATE. -/
def execActivate (n : Nat) (cmd : BitVec 256) (s : State) : Res :=
  s.needPan n fun s => s.panTake n n panOps 0x01 cmd (decide (cSel cmd / 4 = n)) mask48 0 fun s =>
    s.panDoActivate n (cSel cmd) cmd

/-- What a new descriptor must keep (R184): the fields that the rule lists; a difference in another field is no ground for status
2 (log entry 92). -/
def PgmCfg.keeps (a b : PgmCfg) : Bool :=
  a.codec == b.codec && a.slotsField == b.slotsField && a.memIn == b.memIn && a.cmp == b.cmp &&
    a.reconBase == b.reconBase && a.bsBase == b.bsBase && a.rowBase == b.rowBase && a.qsBase == b.qsBase &&
    (!a.memIn || a.inBase == b.inBase)

/-- What the ledger knows of a programme changes. -/
def State.setFloor (s : State) (k : Nat) (x : PgmInfo) : State :=
  { s with ledger := { s.ledger with pgms := Tab.set s.ledger.pgms k x } }

/-- MODIFY, once its format is right (R184): an accepted one waits for its picture, with the larger charges held. -/
def State.panDoModify (s : State) (n k : Nat) (cmd : W256) : State :=
  if (s.pgm k).st ≠ .active then s.panFinish n cmd 4
  else match s.panLoad n (cArg0 cmd) with
    | (.inl st, s) => s.panFinish n cmd st
    | (.inr c, s) =>
      let p := s.pgm k
      if ¬ c.keeps p.cfg then s.panFinish n cmd 2
      else if c.limitStatus ≠ 0 then s.panFinish n cmd c.limitStatus
      else
        let joined := p.mods.foldl (fun a m => Charge.join a m.charge) (c.charge k)
        let was := s.ledger.pgm k
        match (s.setFloor k { was with next52 := max was.next52 (c.mbps c.mFloor) }).submit ⟨Src.pan n, .pgm k, joined⟩ with
        | (false, s) => (s.setFloor k was).panFinish n cmd 1
        | (true, s) =>
          s.setPgm k { s.pgm k with mods := p.mods ++ [⟨cmd, cArg1 cmd, c, c.charge k, c.mbps c.mFloor⟩] }

/-- MODIFY. -/
def execModify (n : Nat) (cmd : BitVec 256) (s : State) : Res :=
  s.needPan n fun s => s.panTake n n panOps 0x02 cmd (decide (cSel cmd / 4 = n)) mask48 (lowMask 32) fun s =>
    s.panDoModify n (cSel cmd) cmd

/-- A STOP is accepted with a last picture (R185): PICTURE commands beyond it complete with status 4, and their rows are
dropped. -/
def State.panStopAt (s : State) (k last : Nat) (cmd : W256) : State :=
  let p := s.pgm k
  let gone := p.pics.filter (fun x => decide (last < x.c))
  let s := s.setPgm k { p with
    stopAt := some last, stopCmd := some cmd, inPics := p.inPics.filter (fun x => decide (x.1.c ≤ last))
    pics := p.pics.filter (fun x => decide (x.c ≤ last)), rows := p.rows.filter (fun r => decide (r.plan.pic ≤ last)) }
  State.panFinishAll (k / 4) 4 (gone.filterMap (fun x => x.cmd)) (s.panStopping k)

/-- STOP, once its format is right (R185). -/
def State.panDoStop (s : State) (n k : Nat) (cmd : W256) : State :=
  let p := s.pgm k
  if p.st ≠ .active ∨ p.stopAt.isSome then s.panFinish n cmd 4
  else if p.done ≤ cArg1 cmd then s.panStopAt k (cArg1 cmd) cmd
  else match p.pics with
    | x :: _ => if x.cmd.isSome then s.panStopAt k x.c cmd
        else (s.setPgm k { p with stopCmd := some cmd }).panIdle k (p.done - 1)
    | [] => (s.setPgm k { p with stopCmd := some cmd }).panIdle k (p.done - 1)

/-- PAN_STOP. -/
def execPanStop (n : Nat) (cmd : BitVec 256) (s : State) : Res :=
  s.needPan n fun s => s.panTake n n panOps 0x03 cmd (decide (cSel cmd / 4 = n)) 0 (lowMask 32) fun s =>
    s.panDoStop n (cSel cmd) cmd

/-- Accepted PICTURE commands of a programme that have not completed (R519). -/
def Pgm.outstanding (p : Pgm) : Nat := (p.pics.filter (fun x => x.cmd.isSome)).length

/-- A picture is the next of a programme; the one after is expected from its T (R186). -/
def Pgm.addPic (p : Pgm) (x : PicRec) : Pgm :=
  { p with pics := p.pics ++ [x], nextPic := x.c + 1, lastT := some x.t, rates := [] }

/-- A picture command is accepted (R186): time-discontinuity for a T more than a quarter frame off the expected one. -/
def State.panAccept (s : State) (k : Nat) (cmd : W256) : State :=
  let p := s.pgm k
  let a1 := cArg1 cmd
  let t : Nat := cArg0 cmd * 1000000000 + a1 % 2 ^ 30
  let s := match p.expected with
    | some e =>
      if p.lastCfg.frame.lt ((e.dist (Frac.ofNat t)).times 4) then
        s.post (Src.pan (k / 4)) 0x0A05
          [.u 1 k, .u 8 ((packTime (BitVec.ofNat 64 (t / 1000000000)) (t % 1000000000)).toNat),
           .i 5 (Int.fdiv ((e.num : Int) - t * e.den) e.den)]
      else s
    | none => s
  s.setPgm k ((s.pgm k).addPic
    { c := p.nextPic, t := Frac.ofNat t, idx := a1 / 2 ^ 32 % 256, force := a1 / 2 ^ 48 % 2 == 1, cmd := some cmd, rates := p.rates })

/-- Whether the next picture lies beyond the last of an accepted STOP. -/
def Pgm.beyond (p : Pgm) : Bool := match p.stopAt with
  | some c => decide (c < p.nextPic)
  | none => false

/-- PICTURE, once its format is right. -/
def State.panDoPicture (s : State) (k : Nat) (cmd : W256) : State :=
  let p := s.pgm k
  let n := k / 4
  let c := p.cfgAt p.nextPic
  if p.st = .idle ∨ p.beyond then s.panFinish n cmd 4
  else if 1000000000 ≤ cArg1 cmd % 2 ^ 30 ∨ (c.memIn ∧ c.inPics ≤ cArg1 cmd / 2 ^ 32 % 256) then s.panFinish n cmd 2
  else s.panAccept k cmd

/-- PICTURE (R186, R519): it waits in its queue while 4 accepted ones have not completed. -/
def execPicture (n : Nat) (cmd : BitVec 256) (s : State) : Res :=
  s.needPgm n fun s =>
    if 4 ≤ (s.pgm n).outstanding then s
    else s.panTake (n / 4) (64 + n) picOps 0x10 cmd (decide (cSel cmd = n)) mask48
      (lowMask 30 + 0xFF * 2 ^ 32 + 2 ^ 48) fun s => s.panDoPicture n cmd

/-- RATE, once its format is right (R188, R189). -/
def State.panDoRate (s : State) (k : Nat) (cmd : W256) : State :=
  let p := s.pgm k
  let n := k / 4
  if p.st = .idle then s.panFinish n cmd 4
  else match s.cmdRead (Src.pan n) (cArg0 cmd) 64 with
    | (.inl st, s) => s.panFinish n cmd st
    | (.inr b, s) =>
      let blk := bytesBv 512 b
      let c := p.cfgAt p.nextPic
      let (r, s) := s.cmdReadIf (blkRoiEn blk != 0) (Src.pan n) (blkRoiAddr blk) 128
      let roi := bytesBv 1024 (readBytes r)
      if readStatus r = 9 then s.panFinish n cmd 9
      else if readStatus r = 2 ∨ ¬ c.blkOk blk roi then s.panFinish n cmd 2
      else if c.overRate blk then s.panFinish n cmd 7
      else s.setPgm k { s.pgm k with rates := p.rates ++ [⟨cmd, blk, roi⟩] }

/-- RATE. -/
def execRate (n : Nat) (cmd : BitVec 256) (s : State) : Res :=
  s.needPgm n fun s => s.panTake (n / 4) (64 + n) picOps 0x11 cmd (decide (cSel cmd = n)) mask48 0 fun s =>
    s.panDoRate n cmd

/-- PICTURE_LATE: no PICTURE command by the abandon point a_0 of the expected time (R186). -/
def execPictureLate (k : Nat) (s : State) : Res :=
  s.needPgm k fun s =>
    let p := s.pgm k
    match p.expected with
    | none => s
    | some e =>
      if p.st = .idle ∨ p.beyond ∨ s.nowNs < (p.cfgAt p.nextPic).abandon e 0 then s
      else
        let q := p.addPic { c := p.nextPic, t := e, cmd := none }
        (s.setPgm k { q with rates := p.rates }).post (Src.pan (k / 4)) 0x0A04 [.u 1 k, .u 4 p.nextPic]

/-- INPUT_ROW_READ: the pan reads the next row of a memory-mode picture into a free ring row (R151). -/
def execInputRowRead (k : Nat) (s : State) : Res :=
  s.needPgm k fun s =>
    match s.panNextIn k with
    | (some (j, x, o), s') => if o.cfg.memIn then s'.panReadRow k j x o else s
    | (none, _) => s

/-- ROW_PLAN: the next row is planned when it is eligible (R148, R201). -/
def execRowPlan (k : Nat) (s : State) : Res :=
  s.needPgm k fun s =>
    let j := (s.pgm k).nextPlan
    match s.panReach k j with
    | (some (x, o), s') => if (s'.pgm k).eligible j x o then s'.panPlan k j x o else s
    | (none, _) => s

/-- ROW_START: among the planned rows of pan n's programmes, the one with the earliest commit deadline enters IN (R148). -/
def execRowStart (n : Nat) (s : State) : Res :=
  s.needPan n fun s =>
    match s.panPick n with
    | some k => match (s.pgm k).toStart with
      | some (j, r, x, o) => s.panStart k j r x o
      | none => s
    | none => s

/-- Whether a row's fine window lacks a column that it needs: any of them once it runs, columns 0 to 4 while it is planned
(R159). -/
def Pgm.wantsColumn (p : Pgm) (st : RowStage) (r : RowRec) : Bool :=
  r.stage == st && (match p.openOf r.plan.pic with
    | some o => o.refs r.plan.floor != 0 && decide (r.fetched < (if st = .planned then min 5 o.cfg.ctus else o.cfg.ctus))
    | none => false)

/-- The row that fetches the next fine-window column: the first running one that lacks one; else, while a row runs, the next row to
start, into the second window set (R159). -/
def Pgm.toFetch (p : Pgm) : Option Nat :=
  match p.rows.findIdx? (p.wantsColumn .running) with
  | some d => some d
  | none => if p.rows.any (fun r => r.stage == .running) then p.rows.findIdx? (p.wantsColumn .planned) else none

/-- REFERENCE_FETCH_RETURN: the next fine-window column of the row that fetches is there (R159, R175). Rows of the picture before it
have all committed (R166). -/
def execReferenceFetchReturn (k : Nat) (s : State) : Res :=
  s.needPgm k fun s =>
    let p := s.pgm k
    match p.toFetch with
    | none => s
    | some d => match p.rows[d]?, p.picOf (p.committed + d) with
      | some r, some (x, o) =>
        if o.j0 ≤ p.committed then
          let (l, s) := State.fetchAreas k x.c o.cfg 0 (o.cfg.height - 1)
            (columnAreas (o.refs r.plan.floor) o.cfg.nrows r.i r.fetched) s
          s.setPgm k ((s.pgm k).mapRow d (fun r => { r with fetched := r.fetched + 1, areas := r.areas ++ l }))
        else s
      | _, _ => s

/-- CTU_ENCODE: EC codes the next CTU of the row it holds, once its fine window has its columns (R159, R206, R207). -/
def execCtuEncode (k : Nat) (s : State) : Res :=
  s.needPgm k fun s =>
    let p := s.pgm k
    match p.inEc with
    | none => s
    | some (d, r) => match p.picOf (p.committed + d) with
      | none => s
      | some (x, o) =>
        if o.refs r.plan.floor ≠ 0 ∧ r.fetched < min o.cfg.ctus (r.ctus.length + 5) then s else s.panEc k d r x o

/-- ROW_COMMIT: the first row commits once it has left the stages and its rings have room (R165, R174). -/
def execRowCommit (k : Nat) (s : State) : Res :=
  s.needPgm k fun s =>
    let p := s.pgm k
    match p.rows, p.picOf p.committed with
    | r :: _, some (x, o) =>
      if r.stage = .encoded ∧ s.panRoom k o.cfg r.size then
        (s.panCommit k p.committed r x o).syncRow k (r.i + 1 == o.cfg.nrows)
      else s
    | _, _ => s

/-- ABANDON_POINT: the first row that has not committed at its abandon point, and is not in deadline mode yet, is coded again
in deadline mode (R171). Under exhausted precedence the picture of a Class B programme is skipped from that row on (R209). -/
def execAbandonPoint (k : Nat) (s : State) : Res :=
  s.needPgm k fun s =>
    let d := ((s.pgm k).rows.takeWhile (fun r => r.deadline)).length
    match s.panReach k ((s.pgm k).committed + d) with
    | (none, _) => s
    | (some (x, o), s') =>
      let j := (s'.pgm k).committed + d
      if s.nowNs < o.cfg.abandon x.t (j - o.j0) ∧ ¬ o.skip then s
      else
        let s := if o.cfg.classB ∧ s'.ledger.exhausted ∧ ¬ o.skip then
            (s'.setPgm k ((s'.pgm k).mapOpen x.c (fun o => { o with skip := true }))).post (Src.pan (k / 4)) 0x0A14
              [.u 1 k, .u 4 (x.c % 2 ^ 32), .u 2 (j - o.j0)]
          else s'
        s.panDeadline k d x o

end Sys2Proof.Machine
end

