-- ==== Sys2Proof/Machine/Pmu.lean ====
section
/-! DEFINITION. The commands of the performance counters (chapter 18). -/

namespace Sys2Proof.Machine

/-- COUNTER_OVERFLOW: a wrap of a counter with `INT` = 1 is posted (R452, R454). -/
def execCounterOverflow (set i : Nat) (s : State) : Res :=
  .next (match (s.counter set i).wraps with
    | [] => s
    | pc :: t =>
      let c := s.counter set i
      (s.setCounter set i { c with wraps := t }).post Src.pmu 0x1600
        [.u 1 set, .u 1 i, .u 4 (c.count % 2 ^ 32), .u 2 (if set < 128 then pc else 0)])

/-- PMU_SNAPSHOT: a capture falls due (R458); `busy` says that the snapshot before it is still being written. -/
def execPmuSnapshot (busy : Bool) (s : State) : Res :=
  .next (if s.fget F.PMU_DUMP_CFG_PERIOD 255 0 = 0 then s else s.capture busy)

/-- TAG_ENABLE: a write of `PMU_TAG` (R459). -/
def execTagEnable (_req n : Nat) (val : BitVec 32) (s : State) : Res :=
  s.need (decide (n < 104)) "rake" fun s => s.tagWrite n val

/-- TAG_RECORD: the tagged instruction of a rake has completed (R460); a device load completes when its data return. -/
def execTagRecord (rk : Nat) (full : Bool) (s : State) : Res :=
  s.need (decide (rk < 104)) "rake" fun s =>
    match Tab.find? rk s.tags with
    | none => s
    | some u => match u.cur with
      | none => s
      | some c => if (s.rake rk).devLoad.isSome ∧ (s.rake rk).pc = c.1 then s else s.tagDone rk u c full

end Sys2Proof.Machine
end

