-- ==== Sys2Proof/Machine/Scalar.lean ====
section
/-! DEFINITION. The scalar Glidel instructions: register ALU, immediates, compares and predicates, multiply and divide,
branches and jumps (R59 to R63). -/

namespace Sys2Proof.Machine

/-- The number of leading zeros, 0 to 64. -/
def clzW (a : W64) : W64 := if a = 0 then 64 else BitVec.ofNat 64 (63 - Nat.log2 a.toNat)

/-- The number of 1 bits. -/
def popcW (a : W64) : W64 := BitVec.ofNat 64 ((List.range 64).map (fun i => b2n (a.getLsbD i))).sum

/-- The eight bytes reversed. -/
def bswapW (a : W64) : W64 := BitVec.ofNat 64 (leNat ((leBytes 8 a.toNat).reverse))

/-- Whether a register-format word with all fields 0 would be the illegal word 0x0000_0000 (R59). -/
def notZeroWord (pg : BitVec 3) (rd ra rb : BitVec 5) : Bool := !(pg == 0 && rd == 0 && ra == 0 && rb == 0)

/-! ### Table ISA-6 -/

/-- ADD: ra + rb modulo 2^64. -/
def execAdd (rk : Nat) (pg : BitVec 3) (pn : Bool) (rd ra rb : BitVec 5) (s : State) : Res :=
  s.issueG rk pg pn (notZeroWord pg rd ra rb) rd fun r => r.getG ra + r.getG rb

/-- SUB: ra − rb modulo 2^64. -/
def execSub (rk : Nat) (pg : BitVec 3) (pn : Bool) (rd ra rb : BitVec 5) (s : State) : Res :=
  s.issueG rk pg pn true rd fun r => r.getG ra - r.getG rb

/-- AND. -/
def execAnd (rk : Nat) (pg : BitVec 3) (pn : Bool) (rd ra rb : BitVec 5) (s : State) : Res :=
  s.issueG rk pg pn true rd fun r => r.getG ra &&& r.getG rb

/-- OR. -/
def execOr (rk : Nat) (pg : BitVec 3) (pn : Bool) (rd ra rb : BitVec 5) (s : State) : Res :=
  s.issueG rk pg pn true rd fun r => r.getG ra ||| r.getG rb

/-- XOR. -/
def execXor (rk : Nat) (pg : BitVec 3) (pn : Bool) (rd ra rb : BitVec 5) (s : State) : Res :=
  s.issueG rk pg pn true rd fun r => r.getG ra ^^^ r.getG rb

/-- ANDN: ra and not rb. -/
def execAndn (rk : Nat) (pg : BitVec 3) (pn : Bool) (rd ra rb : BitVec 5) (s : State) : Res :=
  s.issueG rk pg pn true rd fun r => r.getG ra &&& ~~~(r.getG rb)

/-- The shift amount rb[5:0] (R61). -/
def shAmt (v : W64) : Nat := v.toNat % 64

/-- SLL. -/
def execSll (rk : Nat) (pg : BitVec 3) (pn : Bool) (rd ra rb : BitVec 5) (s : State) : Res :=
  s.issueG rk pg pn true rd fun r => r.getG ra <<< shAmt (r.getG rb)

/-- SRL. -/
def execSrl (rk : Nat) (pg : BitVec 3) (pn : Bool) (rd ra rb : BitVec 5) (s : State) : Res :=
  s.issueG rk pg pn true rd fun r => r.getG ra >>> shAmt (r.getG rb)

/-- SRA. -/
def execSra (rk : Nat) (pg : BitVec 3) (pn : Bool) (rd ra rb : BitVec 5) (s : State) : Res :=
  s.issueG rk pg pn true rd fun r => (r.getG ra).sshiftRight (shAmt (r.getG rb))

/-- MIN, signed. -/
def execMin (rk : Nat) (pg : BitVec 3) (pn : Bool) (rd ra rb : BitVec 5) (s : State) : Res :=
  s.issueG rk pg pn true rd fun r => if sltW (r.getG rb) (r.getG ra) then r.getG rb else r.getG ra

/-- MAX, signed. -/
def execMax (rk : Nat) (pg : BitVec 3) (pn : Bool) (rd ra rb : BitVec 5) (s : State) : Res :=
  s.issueG rk pg pn true rd fun r => if sltW (r.getG ra) (r.getG rb) then r.getG rb else r.getG ra

/-- MINU. -/
def execMinu (rk : Nat) (pg : BitVec 3) (pn : Bool) (rd ra rb : BitVec 5) (s : State) : Res :=
  s.issueG rk pg pn true rd fun r => if ultW (r.getG rb) (r.getG ra) then r.getG rb else r.getG ra

/-- MAXU. -/
def execMaxu (rk : Nat) (pg : BitVec 3) (pn : Bool) (rd ra rb : BitVec 5) (s : State) : Res :=
  s.issueG rk pg pn true rd fun r => if ultW (r.getG ra) (r.getG rb) then r.getG rb else r.getG ra

/-- CLZ. -/
def execClz (rk : Nat) (pg : BitVec 3) (pn : Bool) (rd ra : BitVec 5) (s : State) : Res :=
  s.issueG rk pg pn true rd fun r => clzW (r.getG ra)

/-- POPC. -/
def execPopc (rk : Nat) (pg : BitVec 3) (pn : Bool) (rd ra : BitVec 5) (s : State) : Res :=
  s.issueG rk pg pn true rd fun r => popcW (r.getG ra)

/-- BSWAP. -/
def execBswap (rk : Nat) (pg : BitVec 3) (pn : Bool) (rd ra : BitVec 5) (s : State) : Res :=
  s.issueG rk pg pn true rd fun r => bswapW (r.getG ra)

/-- JR: PC ← ra[15:0]; bits [63:16] or [1:0] set raise the instruction-fetch fault (R62). -/
def execJr (rk : Nat) (pg : BitVec 3) (pn : Bool) (ra : BitVec 5) (s : State) : Res :=
  s.issue rk pg pn true fun s => s.jump rk ((s.rake rk).getG ra).toNat fun r => r

/-- JALR: rd ← PC + 4, then PC ← ra[15:0], where ra is its value before the write (R62). -/
def execJalr (rk : Nat) (pg : BitVec 3) (pn : Bool) (rd ra : BitVec 5) (s : State) : Res :=
  s.issue rk pg pn true fun s =>
    s.jump rk ((s.rake rk).getG ra).toNat fun r => r.setG rd (BitVec.ofNat 64 (r.pc + 4))

/-! ### Table ISA-7 -/

/-- CMPEQ. -/
def execCmpeq (rk : Nat) (pg : BitVec 3) (pn : Bool) (pd : BitVec 3) (ra rb : BitVec 5) (s : State) : Res :=
  s.issueP rk pg pn pd fun r => r.getG ra == r.getG rb

/-- CMPNE. -/
def execCmpne (rk : Nat) (pg : BitVec 3) (pn : Bool) (pd : BitVec 3) (ra rb : BitVec 5) (s : State) : Res :=
  s.issueP rk pg pn pd fun r => r.getG ra != r.getG rb

/-- CMPLT, signed. -/
def execCmplt (rk : Nat) (pg : BitVec 3) (pn : Bool) (pd : BitVec 3) (ra rb : BitVec 5) (s : State) : Res :=
  s.issueP rk pg pn pd fun r => sltW (r.getG ra) (r.getG rb)

/-- CMPGE, signed. -/
def execCmpge (rk : Nat) (pg : BitVec 3) (pn : Bool) (pd : BitVec 3) (ra rb : BitVec 5) (s : State) : Res :=
  s.issueP rk pg pn pd fun r => !sltW (r.getG ra) (r.getG rb)

/-- CMPLTU. -/
def execCmpltu (rk : Nat) (pg : BitVec 3) (pn : Bool) (pd : BitVec 3) (ra rb : BitVec 5) (s : State) : Res :=
  s.issueP rk pg pn pd fun r => ultW (r.getG ra) (r.getG rb)

/-- CMPGEU. -/
def execCmpgeu (rk : Nat) (pg : BitVec 3) (pn : Bool) (pd : BitVec 3) (ra rb : BitVec 5) (s : State) : Res :=
  s.issueP rk pg pn pd fun r => !ultW (r.getG ra) (r.getG rb)

/-- PAND. -/
def execPand (rk : Nat) (pg : BitVec 3) (pn : Bool) (pd pa pb : BitVec 3) (s : State) : Res :=
  s.issueP rk pg pn pd fun r => r.getP pa && r.getP pb

/-- POR. -/
def execPor (rk : Nat) (pg : BitVec 3) (pn : Bool) (pd pa pb : BitVec 3) (s : State) : Res :=
  s.issueP rk pg pn pd fun r => r.getP pa || r.getP pb

/-- PXOR. -/
def execPxor (rk : Nat) (pg : BitVec 3) (pn : Bool) (pd pa pb : BitVec 3) (s : State) : Res :=
  s.issueP rk pg pn pd fun r => xor (r.getP pa) (r.getP pb)

/-- PANDN: p(ra) and not p(rb). -/
def execPandn (rk : Nat) (pg : BitVec 3) (pn : Bool) (pd pa pb : BitVec 3) (s : State) : Res :=
  s.issueP rk pg pn pd fun r => r.getP pa && !r.getP pb

/-- PGET. -/
def execPget (rk : Nat) (pg : BitVec 3) (pn : Bool) (rd : BitVec 5) (s : State) : Res :=
  s.issueG rk pg pn true rd fun r => BitVec.ofNat 64 r.predBits

/-- PSET. -/
def execPset (rk : Nat) (pg : BitVec 3) (pn : Bool) (ra : BitVec 5) (s : State) : Res :=
  s.issue rk pg pn true fun s => s.compute rk fun r => r.setPreds (r.getG ra)

/-! ### Table ISA-8 -/

/-- MUL: low 64 bits. -/
def execMul (rk : Nat) (pg : BitVec 3) (pn : Bool) (rd ra rb : BitVec 5) (s : State) : Res :=
  s.issueG rk pg pn true rd fun r => r.getG ra * r.getG rb

/-- MULHU: high 64 bits of the unsigned product. -/
def execMulhu (rk : Nat) (pg : BitVec 3) (pn : Bool) (rd ra rb : BitVec 5) (s : State) : Res :=
  s.issueG rk pg pn true rd fun r => BitVec.ofNat 64 ((r.getG ra).toNat * (r.getG rb).toNat / 2 ^ 64)

/-- MULHS: high 64 bits of the signed product. -/
def execMulhs (rk : Nat) (pg : BitVec 3) (pn : Bool) (rd ra rb : BitVec 5) (s : State) : Res :=
  s.issueG rk pg pn true rd fun r => BitVec.ofInt 64 ((r.getG ra).toInt * (r.getG rb).toInt / 2 ^ 64)

/-- The unsigned quotient, all ones for divisor 0. -/
def divuW (a b : W64) : W64 := if b = 0 then BitVec.allOnes 64 else BitVec.ofNat 64 (a.toNat / b.toNat)

/-- The signed quotient truncated toward zero, all ones for divisor 0; −2^63 ÷ −1 gives −2^63. -/
def divsW (a b : W64) : W64 := if b = 0 then BitVec.allOnes 64 else BitVec.ofInt 64 (a.toInt.tdiv b.toInt)

/-- The unsigned remainder, ra for divisor 0. -/
def remuW (a b : W64) : W64 := if b = 0 then a else BitVec.ofNat 64 (a.toNat % b.toNat)

/-- The signed remainder with the sign of ra, ra for divisor 0. -/
def remsW (a b : W64) : W64 := if b = 0 then a else BitVec.ofInt 64 (a.toInt.tmod b.toInt)

/-- DIVU. -/
def execDivu (rk : Nat) (pg : BitVec 3) (pn : Bool) (rd ra rb : BitVec 5) (s : State) : Res :=
  s.issueG rk pg pn true rd fun r => divuW (r.getG ra) (r.getG rb)

/-- DIVS. -/
def execDivs (rk : Nat) (pg : BitVec 3) (pn : Bool) (rd ra rb : BitVec 5) (s : State) : Res :=
  s.issueG rk pg pn true rd fun r => divsW (r.getG ra) (r.getG rb)

/-- REMU. -/
def execRemu (rk : Nat) (pg : BitVec 3) (pn : Bool) (rd ra rb : BitVec 5) (s : State) : Res :=
  s.issueG rk pg pn true rd fun r => remuW (r.getG ra) (r.getG rb)

/-- REMS. -/
def execRems (rk : Nat) (pg : BitVec 3) (pn : Bool) (rd ra rb : BitVec 5) (s : State) : Res :=
  s.issueG rk pg pn true rd fun r => remsW (r.getG ra) (r.getG rb)

/-! ### Immediates (table ISA-5) -/

/-- ADDI. -/
def execAddi (rk : Nat) (pg : BitVec 3) (pn : Bool) (rd ra : BitVec 5) (imm : BitVec 12) (s : State) : Res :=
  s.issueG rk pg pn true rd fun r => r.getG ra + sext12 imm

/-- ANDI. -/
def execAndi (rk : Nat) (pg : BitVec 3) (pn : Bool) (rd ra : BitVec 5) (imm : BitVec 12) (s : State) : Res :=
  s.issueG rk pg pn true rd fun r => r.getG ra &&& zext12 imm

/-- ORI. -/
def execOri (rk : Nat) (pg : BitVec 3) (pn : Bool) (rd ra : BitVec 5) (imm : BitVec 12) (s : State) : Res :=
  s.issueG rk pg pn true rd fun r => r.getG ra ||| zext12 imm

/-- XORI. -/
def execXori (rk : Nat) (pg : BitVec 3) (pn : Bool) (rd ra : BitVec 5) (imm : BitVec 12) (s : State) : Res :=
  s.issueG rk pg pn true rd fun r => r.getG ra ^^^ zext12 imm

/-- SLLI. -/
def execSlli (rk : Nat) (pg : BitVec 3) (pn : Bool) (rd ra : BitVec 5) (sh : BitVec 6) (s : State) : Res :=
  s.issueG rk pg pn true rd fun r => r.getG ra <<< sh.toNat

/-- SRLI. -/
def execSrli (rk : Nat) (pg : BitVec 3) (pn : Bool) (rd ra : BitVec 5) (sh : BitVec 6) (s : State) : Res :=
  s.issueG rk pg pn true rd fun r => r.getG ra >>> sh.toNat

/-- SRAI. -/
def execSrai (rk : Nat) (pg : BitVec 3) (pn : Bool) (rd ra : BitVec 5) (sh : BitVec 6) (s : State) : Res :=
  s.issueG rk pg pn true rd fun r => (r.getG ra).sshiftRight sh.toNat

/-- CMPEQI. -/
def execCmpeqi (rk : Nat) (pg : BitVec 3) (pn : Bool) (pd : BitVec 3) (ra : BitVec 5) (imm : BitVec 12) (s : State) : Res :=
  s.issueP rk pg pn pd fun r => r.getG ra == sext12 imm

/-- CMPLTI, signed. -/
def execCmplti (rk : Nat) (pg : BitVec 3) (pn : Bool) (pd : BitVec 3) (ra : BitVec 5) (imm : BitVec 12) (s : State) : Res :=
  s.issueP rk pg pn pd fun r => sltW (r.getG ra) (sext12 imm)

/-- CMPLTUI: unsigned against sext(imm12). -/
def execCmpltui (rk : Nat) (pg : BitVec 3) (pn : Bool) (pd : BitVec 3) (ra : BitVec 5) (imm : BitVec 12) (s : State) : Res :=
  s.issueP rk pg pn pd fun r => ultW (r.getG ra) (sext12 imm)

/-- IMH: sext(imm16) << s (R60). -/
def execImh (rk : Nat) (pg : BitVec 3) (pn : Bool) (rd : BitVec 5) (sh : BitVec 2) (imm : BitVec 16) (s : State) : Res :=
  s.issueG rk pg pn true rd fun _ => imm.signExtend 64 <<< (16 * sh.toNat)

/-- ORH: rd or (zext(imm16) << s) (R60). -/
def execOrh (rk : Nat) (pg : BitVec 3) (pn : Bool) (rd : BitVec 5) (sh : BitVec 2) (imm : BitVec 16) (s : State) : Res :=
  s.issueG rk pg pn true rd fun r => r.getG rd ||| (imm.zeroExtend 64 <<< (16 * sh.toNat))

/-! ### Branches -/

/-- The target of a BR or CALL: PC + 4 × sext(off22). -/
def branchTarget (pc : Nat) (off : BitVec 22) : Int := pc + 4 * off.toInt

/-- BR. -/
def execBr (rk : Nat) (pg : BitVec 3) (pn : Bool) (off : BitVec 22) (s : State) : Res :=
  s.issue rk pg pn true fun s => s.jump rk (branchTarget (s.rake rk).pc off) fun r => r

/-- CALL: g31 ← PC + 4, then as BR. -/
def execCall (rk : Nat) (pg : BitVec 3) (pn : Bool) (off : BitVec 22) (s : State) : Res :=
  s.issue rk pg pn true fun s =>
    s.jump rk (branchTarget (s.rake rk).pc off) fun r => r.setG 31 (BitVec.ofNat 64 (r.pc + 4))

end Sys2Proof.Machine
end

