-- ==== Sys2Proof/Machine/Timeout.lean ====
section
/-! DEFINITION. An access that ends by a time-out (R142), and what its requester has in flight. -/

namespace Sys2Proof.Machine

/-- A rake's access to a word ends by a time-out: the load in flight takes the poison fault, the latest posted store to the word its
poison error (R68, R142). -/
def State.rakeTimeout (s : State) (rk addr : Nat) (write : Bool) : State :=
  let r := s.rake rk
  if write then
    match r.posted.find? (fun x => x.2 / 32 == addr / 32) with
    | some (pc, a) => if r.storeErr.isSome then s else s.setRake rk { r with storeErr := some ⟨0x06, pc, a⟩ }
    | none => s
  else match r.devLoad with
    | some x => if x.addr / 32 = addr / 32 then s.loadFault rk 0x06 x.addr else s
    | none => s

/-- A channel's access to a word ends by a time-out: a submit's read is poison (R354), the running descriptor's next beat meets
poison and ends it with status 9 (R361). -/
def State.dmaTimeout (s : State) (n addr : Nat) (write : Bool) : State :=
  let c := s.dc n
  if !write ∧ c.submit = some (addr / 32 * 32) then
    ((s.setDc n { c with submit := none }).fset F.DMA_STAT_ERR n 0 1).post (Src.dma n) 0x0E00 [.u 1 9, .u 2 0, .u 4 0]
  else match c.run with
    | some r =>
      let (i, k) := r.beat
      let src := dOp r.desc == 1 && !write && (List.range k).any (fun j => dmaSrcOf r.desc (i + j) / 32 == addr / 32)
      if r.status.isNone ∧ ¬ c.paused ∧ (src ∨ (dDst r.desc + i) / 32 = addr / 32) then
        s.setDc n { c with run := some { r with status := some 9 } }
      else s
    | none => s

/-- The requester's own access ends (R142): what it has in flight at the word. -/
def State.endAccess (s : State) (req addr : Nat) (write : Bool) : State :=
  if Src.rake 0 ≤ req ∧ req < Src.rake 104 then s.rakeTimeout (req - Src.rake 0) addr write
  else if Src.dma 0 ≤ req ∧ req < Src.dma 32 then s.dmaTimeout (req - Src.dma 0) addr write
  else s

/-- ACCESS_TIMEOUT: an access to a running controller gets no response from its PHY (R142). A read ends with a poison
indication; a write ends with a poison error and leaves the word a free value; what the requester has in flight there ends so. The
harrow goes on past its word (R129). -/
def execAccessTimeout (req addr : Nat) (write : Bool) (s : State) : Res :=
  s.wordAccess req addr write fun s =>
    match memUnit addr with
    | some (.hbm n) =>
      if (s.mc n).st = .run then
        let s := s.post (Src.mc n) 0x0804 [.u 4 (wordIndex addr), .u 1 (b2n write)]
        if write then
          (({ s with mem := writeCode s.mem addr (s.free 288) }).drawn.answer req .writePoison).endAccess req addr true
        else
          let s := s.answer req .poison
          if req = Src.harrow ∧ s.flag F.HRW_CTRL_EN 0 0 ∧ s.harrowNext s.harrow.next = some (addr / 32) then
            s.harrowPast (addr / 32)
          else s.endAccess req addr false
      else s
    | _ => s

end Sys2Proof.Machine
end

