-- ==== Sys2Proof/Machine/Vector.lean ====
section
/-! DEFINITION. The vector Glidel instructions (R70, tables ISA-10 and ISA-11). -/

namespace Sys2Proof.Machine

/-- A lane-by-lane instruction. -/
def State.issueLanes (s : State) (rk : Nat) (pg : BitVec 3) (pn : Bool) (wd wa wb : BitVec 4) (lt : BitVec 2)
    (f : (b : Nat) → BitVec b → BitVec b → BitVec b) : Res :=
  s.issueW rk pg pn true wd fun r => mapLanes lt f (r.getW wa) (r.getW wb)

/-- The absolute difference of two unsigned lanes. -/
def absdU (b : Nat) (x y : BitVec b) : BitVec b := if x.toNat < y.toNat then y - x else x - y

/-- VADD: a + b, wrapping. -/
def execVadd (rk : Nat) (pg : BitVec 3) (pn : Bool) (wd wa wb : BitVec 4) (lt : BitVec 2) (s : State) : Res :=
  s.issueLanes rk pg pn wd wa wb lt (fun _ x y => x + y)

/-- VSUB: a − b, wrapping. -/
def execVsub (rk : Nat) (pg : BitVec 3) (pn : Bool) (wd wa wb : BitVec 4) (lt : BitVec 2) (s : State) : Res :=
  s.issueLanes rk pg pn wd wa wb lt (fun _ x y => x - y)

/-- VADDS: a + b, signed saturating. -/
def execVadds (rk : Nat) (pg : BitVec 3) (pn : Bool) (wd wa wb : BitVec 4) (lt : BitVec 2) (s : State) : Res :=
  s.issueLanes rk pg pn wd wa wb lt (fun b x y => satS b (x.toInt + y.toInt))

/-- VADDUS: a + b, unsigned saturating. -/
def execVaddus (rk : Nat) (pg : BitVec 3) (pn : Bool) (wd wa wb : BitVec 4) (lt : BitVec 2) (s : State) : Res :=
  s.issueLanes rk pg pn wd wa wb lt (fun b x y => satU b (x.toNat + y.toNat))

/-- VSUBS: a − b, signed saturating. -/
def execVsubs (rk : Nat) (pg : BitVec 3) (pn : Bool) (wd wa wb : BitVec 4) (lt : BitVec 2) (s : State) : Res :=
  s.issueLanes rk pg pn wd wa wb lt (fun b x y => satS b (x.toInt - y.toInt))

/-- VSUBUS: a − b, unsigned saturating at 0. -/
def execVsubus (rk : Nat) (pg : BitVec 3) (pn : Bool) (wd wa wb : BitVec 4) (lt : BitVec 2) (s : State) : Res :=
  s.issueLanes rk pg pn wd wa wb lt (fun b x y => satU b ((x.toNat : Int) - y.toNat))

/-- VMUL: low lane-width bits of a × b. -/
def execVmul (rk : Nat) (pg : BitVec 3) (pn : Bool) (wd wa wb : BitVec 4) (lt : BitVec 2) (s : State) : Res :=
  s.issueLanes rk pg pn wd wa wb lt (fun _ x y => x * y)

/-- VMIN: signed minimum. -/
def execVmin (rk : Nat) (pg : BitVec 3) (pn : Bool) (wd wa wb : BitVec 4) (lt : BitVec 2) (s : State) : Res :=
  s.issueLanes rk pg pn wd wa wb lt (fun _ x y => if x.toInt < y.toInt then x else y)

/-- VMAX: signed maximum. -/
def execVmax (rk : Nat) (pg : BitVec 3) (pn : Bool) (wd wa wb : BitVec 4) (lt : BitVec 2) (s : State) : Res :=
  s.issueLanes rk pg pn wd wa wb lt (fun _ x y => if x.toInt < y.toInt then y else x)

/-- VMINU: unsigned minimum. -/
def execVminu (rk : Nat) (pg : BitVec 3) (pn : Bool) (wd wa wb : BitVec 4) (lt : BitVec 2) (s : State) : Res :=
  s.issueLanes rk pg pn wd wa wb lt (fun _ x y => if x.toNat < y.toNat then x else y)

/-- VMAXU: unsigned maximum. -/
def execVmaxu (rk : Nat) (pg : BitVec 3) (pn : Bool) (wd wa wb : BitVec 4) (lt : BitVec 2) (s : State) : Res :=
  s.issueLanes rk pg pn wd wa wb lt (fun _ x y => if x.toNat < y.toNat then y else x)

/-- VAVGU: (a + b + 1) >> 1 without overflow. -/
def execVavgu (rk : Nat) (pg : BitVec 3) (pn : Bool) (wd wa wb : BitVec 4) (lt : BitVec 2) (s : State) : Res :=
  s.issueLanes rk pg pn wd wa wb lt (fun b x y => BitVec.ofNat b ((x.toNat + y.toNat + 1) / 2))

/-- VABSDU: absolute difference, unsigned. -/
def execVabsdu (rk : Nat) (pg : BitVec 3) (pn : Bool) (wd wa wb : BitVec 4) (lt : BitVec 2) (s : State) : Res :=
  s.issueLanes rk pg pn wd wa wb lt absdU

/-- VCMPEQ: all ones if a = b. -/
def execVcmpeq (rk : Nat) (pg : BitVec 3) (pn : Bool) (wd wa wb : BitVec 4) (lt : BitVec 2) (s : State) : Res :=
  s.issueLanes rk pg pn wd wa wb lt (fun b x y => maskIf b (x == y))

/-- VCMPGT: all ones if a > b, signed. -/
def execVcmpgt (rk : Nat) (pg : BitVec 3) (pn : Bool) (wd wa wb : BitVec 4) (lt : BitVec 2) (s : State) : Res :=
  s.issueLanes rk pg pn wd wa wb lt (fun b x y => maskIf b (decide (y.toInt < x.toInt)))

/-- VCMPGTU: all ones if a > b, unsigned. -/
def execVcmpgtu (rk : Nat) (pg : BitVec 3) (pn : Bool) (wd wa wb : BitVec 4) (lt : BitVec 2) (s : State) : Res :=
  s.issueLanes rk pg pn wd wa wb lt (fun b x y => maskIf b (decide (y.toNat < x.toNat)))

/-- VSLL: a << (b mod lane width). -/
def execVsll (rk : Nat) (pg : BitVec 3) (pn : Bool) (wd wa wb : BitVec 4) (lt : BitVec 2) (s : State) : Res :=
  s.issueLanes rk pg pn wd wa wb lt (fun b x y => x <<< (y.toNat % b))

/-- VSRL: logical a >> (b mod lane width). -/
def execVsrl (rk : Nat) (pg : BitVec 3) (pn : Bool) (wd wa wb : BitVec 4) (lt : BitVec 2) (s : State) : Res :=
  s.issueLanes rk pg pn wd wa wb lt (fun b x y => x >>> (y.toNat % b))

/-- VSRA: arithmetic a >> (b mod lane width). -/
def execVsra (rk : Nat) (pg : BitVec 3) (pn : Bool) (wd wa wb : BitVec 4) (lt : BitVec 2) (s : State) : Res :=
  s.issueLanes rk pg pn wd wa wb lt (fun b x y => x.sshiftRight (y.toNat % b))

/-- VAND. -/
def execVand (rk : Nat) (pg : BitVec 3) (pn : Bool) (wd wa wb : BitVec 4) (s : State) : Res :=
  s.issueW rk pg pn true wd fun r => r.getW wa &&& r.getW wb

/-- VOR. -/
def execVor (rk : Nat) (pg : BitVec 3) (pn : Bool) (wd wa wb : BitVec 4) (s : State) : Res :=
  s.issueW rk pg pn true wd fun r => r.getW wa ||| r.getW wb

/-- VXOR. -/
def execVxor (rk : Nat) (pg : BitVec 3) (pn : Bool) (wd wa wb : BitVec 4) (s : State) : Res :=
  s.issueW rk pg pn true wd fun r => r.getW wa ^^^ r.getW wb

/-- VSEL: (wa and wd) or (wb and not wd). -/
def execVsel (rk : Nat) (pg : BitVec 3) (pn : Bool) (wd wa wb : BitVec 4) (s : State) : Res :=
  s.issueW rk pg pn true wd fun r => (r.getW wa &&& r.getW wd) ||| (r.getW wb &&& ~~~(r.getW wd))

/-- VSAD: lane 0 of 64 bits receives the sum over the byte lanes of the absolute difference. -/
def execVsad (rk : Nat) (pg : BitVec 3) (pn : Bool) (wd wa wb : BitVec 4) (s : State) : Res :=
  s.issueW rk pg pn true wd fun r => BitVec.ofNat 256 (sumLanes 8 (mapLanes 0 absdU (r.getW wa) (r.getW wb)))

/-- VHSUM: lane 0 of 64 bits receives the unsigned sum of the lanes of wa, modulo 2^64. -/
def execVhsum (rk : Nat) (pg : BitVec 3) (pn : Bool) (wd wa : BitVec 4) (lt : BitVec 2) (s : State) : Res :=
  s.issueW rk pg pn true wd fun r => BitVec.ofNat 256 (sumLanes (laneBits lt) (r.getW wa) % 2 ^ 64)

/-- VPERM: byte i is 0 if bit 7 of wb byte i is set, else wa byte (wb byte i mod 32). -/
def permBytes (x y : W256) : W256 :=
  BitVec.ofNat 256 (ofLanes 8 ((List.range 32).map (fun i =>
    let c := laneOf 8 y i
    if c.getLsbD 7 then 0 else laneOf 8 x (c.toNat % 32))))

/-- VPERM. -/
def execVperm (rk : Nat) (pg : BitVec 3) (pn : Bool) (wd wa wb : BitVec 4) (s : State) : Res :=
  s.issueW rk pg pn true wd fun r => permBytes (r.getW wa) (r.getW wb)

/-- VSPLAT: every lane receives the low lane-width bits of g(ra). -/
def execVsplat (rk : Nat) (pg : BitVec 3) (pn : Bool) (wd : BitVec 4) (ra : BitVec 5) (lt : BitVec 2) (s : State) : Res :=
  s.issueW rk pg pn true wd fun r => mapLanes lt (fun b _ _ => (r.getG ra).setWidth b) 0 0

/-- VINS: one lane receives the low bits of g(ra); a lane at or above the lane count is illegal. -/
def execVins (rk : Nat) (pg : BitVec 3) (pn : Bool) (wd : BitVec 4) (ra lane : BitVec 5) (lt : BitVec 2) (s : State) : Res :=
  s.issueW rk pg pn (laneOk lt lane) wd fun r => setLane lt (r.getW wd) lane.toNat (r.getG ra)

/-- VEXT: a lane, zero-extended. -/
def execVext (rk : Nat) (pg : BitVec 3) (pn : Bool) (rd : BitVec 5) (wa : BitVec 4) (lane : BitVec 5) (lt : BitVec 2)
    (s : State) : Res :=
  s.issueG rk pg pn (laneOk lt lane) rd fun r => (laneOf (laneBits lt) (r.getW wa) lane.toNat).setWidth 64

/-- VEXTS: a lane, sign-extended. -/
def execVexts (rk : Nat) (pg : BitVec 3) (pn : Bool) (rd : BitVec 5) (wa : BitVec 4) (lane : BitVec 5) (lt : BitVec 2)
    (s : State) : Res :=
  s.issueG rk pg pn (laneOk lt lane) rd fun r => (laneOf (laneBits lt) (r.getW wa) lane.toNat).signExtend 64

end Sys2Proof.Machine
end

