-- ==== Sys2Proof/Machine/Dispatch.lean ====
section
/-! DEFINITION. The meaning of each command, one arm a constructor. -/

namespace Sys2Proof.Machine

/-- The effect of a command on everything but the queue. -/
def exec (i : Instr) (s : State) : Host.Outcome State Fault Refusal :=
  match i with
  | .registerWrite req addr val => Sys2Proof.Machine.execRegisterWrite req addr val s
  | .unalignedAccess req addr write => Sys2Proof.Machine.execUnalignedAccess req addr write s
  | .unimplementedAccess req addr write => Sys2Proof.Machine.execUnimplementedAccess req addr write s
  | .readClear req addr => Sys2Proof.Machine.execReadClear req addr s
  | .pairLoRead req addr => Sys2Proof.Machine.execPairLoRead req addr s
  | .pairHiRead req addr => Sys2Proof.Machine.execPairHiRead req addr s
  | .pairLoWrite req addr val => Sys2Proof.Machine.execPairLoWrite req addr val s
  | .pairHiWrite req addr val => Sys2Proof.Machine.execPairHiWrite req addr val s
  | .admissionDecide arrivals => Sys2Proof.Machine.execAdmissionDecide arrivals s
  | .precedenceReverse => Sys2Proof.Machine.execPrecedenceReverse s
  | .add rk pg pn rd ra rb => Sys2Proof.Machine.execAdd rk pg pn rd ra rb s
  | .sub rk pg pn rd ra rb => Sys2Proof.Machine.execSub rk pg pn rd ra rb s
  | .and rk pg pn rd ra rb => Sys2Proof.Machine.execAnd rk pg pn rd ra rb s
  | .or rk pg pn rd ra rb => Sys2Proof.Machine.execOr rk pg pn rd ra rb s
  | .xor rk pg pn rd ra rb => Sys2Proof.Machine.execXor rk pg pn rd ra rb s
  | .andn rk pg pn rd ra rb => Sys2Proof.Machine.execAndn rk pg pn rd ra rb s
  | .sll rk pg pn rd ra rb => Sys2Proof.Machine.execSll rk pg pn rd ra rb s
  | .srl rk pg pn rd ra rb => Sys2Proof.Machine.execSrl rk pg pn rd ra rb s
  | .sra rk pg pn rd ra rb => Sys2Proof.Machine.execSra rk pg pn rd ra rb s
  | .min rk pg pn rd ra rb => Sys2Proof.Machine.execMin rk pg pn rd ra rb s
  | .max rk pg pn rd ra rb => Sys2Proof.Machine.execMax rk pg pn rd ra rb s
  | .minu rk pg pn rd ra rb => Sys2Proof.Machine.execMinu rk pg pn rd ra rb s
  | .maxu rk pg pn rd ra rb => Sys2Proof.Machine.execMaxu rk pg pn rd ra rb s
  | .clz rk pg pn rd ra => Sys2Proof.Machine.execClz rk pg pn rd ra s
  | .popc rk pg pn rd ra => Sys2Proof.Machine.execPopc rk pg pn rd ra s
  | .bswap rk pg pn rd ra => Sys2Proof.Machine.execBswap rk pg pn rd ra s
  | .jr rk pg pn ra => Sys2Proof.Machine.execJr rk pg pn ra s
  | .jalr rk pg pn rd ra => Sys2Proof.Machine.execJalr rk pg pn rd ra s
  | .cmpeq rk pg pn pd ra rb => Sys2Proof.Machine.execCmpeq rk pg pn pd ra rb s
  | .cmpne rk pg pn pd ra rb => Sys2Proof.Machine.execCmpne rk pg pn pd ra rb s
  | .cmplt rk pg pn pd ra rb => Sys2Proof.Machine.execCmplt rk pg pn pd ra rb s
  | .cmpge rk pg pn pd ra rb => Sys2Proof.Machine.execCmpge rk pg pn pd ra rb s
  | .cmpltu rk pg pn pd ra rb => Sys2Proof.Machine.execCmpltu rk pg pn pd ra rb s
  | .cmpgeu rk pg pn pd ra rb => Sys2Proof.Machine.execCmpgeu rk pg pn pd ra rb s
  | .pand rk pg pn pd pa pb => Sys2Proof.Machine.execPand rk pg pn pd pa pb s
  | .por rk pg pn pd pa pb => Sys2Proof.Machine.execPor rk pg pn pd pa pb s
  | .pxor rk pg pn pd pa pb => Sys2Proof.Machine.execPxor rk pg pn pd pa pb s
  | .pandn rk pg pn pd pa pb => Sys2Proof.Machine.execPandn rk pg pn pd pa pb s
  | .pget rk pg pn rd => Sys2Proof.Machine.execPget rk pg pn rd s
  | .pset rk pg pn ra => Sys2Proof.Machine.execPset rk pg pn ra s
  | .mul rk pg pn rd ra rb => Sys2Proof.Machine.execMul rk pg pn rd ra rb s
  | .mulhu rk pg pn rd ra rb => Sys2Proof.Machine.execMulhu rk pg pn rd ra rb s
  | .mulhs rk pg pn rd ra rb => Sys2Proof.Machine.execMulhs rk pg pn rd ra rb s
  | .divu rk pg pn rd ra rb => Sys2Proof.Machine.execDivu rk pg pn rd ra rb s
  | .divs rk pg pn rd ra rb => Sys2Proof.Machine.execDivs rk pg pn rd ra rb s
  | .remu rk pg pn rd ra rb => Sys2Proof.Machine.execRemu rk pg pn rd ra rb s
  | .rems rk pg pn rd ra rb => Sys2Proof.Machine.execRems rk pg pn rd ra rb s
  | .addi rk pg pn rd ra imm => Sys2Proof.Machine.execAddi rk pg pn rd ra imm s
  | .andi rk pg pn rd ra imm => Sys2Proof.Machine.execAndi rk pg pn rd ra imm s
  | .ori rk pg pn rd ra imm => Sys2Proof.Machine.execOri rk pg pn rd ra imm s
  | .xori rk pg pn rd ra imm => Sys2Proof.Machine.execXori rk pg pn rd ra imm s
  | .slli rk pg pn rd ra sh => Sys2Proof.Machine.execSlli rk pg pn rd ra sh s
  | .srli rk pg pn rd ra sh => Sys2Proof.Machine.execSrli rk pg pn rd ra sh s
  | .srai rk pg pn rd ra sh => Sys2Proof.Machine.execSrai rk pg pn rd ra sh s
  | .cmpeqi rk pg pn pd ra imm => Sys2Proof.Machine.execCmpeqi rk pg pn pd ra imm s
  | .cmplti rk pg pn pd ra imm => Sys2Proof.Machine.execCmplti rk pg pn pd ra imm s
  | .cmpltui rk pg pn pd ra imm => Sys2Proof.Machine.execCmpltui rk pg pn pd ra imm s
  | .imh rk pg pn rd sh imm => Sys2Proof.Machine.execImh rk pg pn rd sh imm s
  | .orh rk pg pn rd sh imm => Sys2Proof.Machine.execOrh rk pg pn rd sh imm s
  | .br rk pg pn off => Sys2Proof.Machine.execBr rk pg pn off s
  | .call rk pg pn off => Sys2Proof.Machine.execCall rk pg pn off s
  | .ld rk pg pn rd ra sp sz sx off => Sys2Proof.Machine.execLd rk pg pn rd ra sp sz sx off s
  | .st rk pg pn rd ra sp sz off => Sys2Proof.Machine.execSt rk pg pn rd ra sp sz off s
  | .ldv rk pg pn wd ra sp off => Sys2Proof.Machine.execLdv rk pg pn wd ra sp off s
  | .stv rk pg pn wd ra sp off => Sys2Proof.Machine.execStv rk pg pn wd ra sp off s
  | .aadd rk pg pn rd ra rb sp => Sys2Proof.Machine.execAadd rk pg pn rd ra rb sp s
  | .aswap rk pg pn rd ra rb sp => Sys2Proof.Machine.execAswap rk pg pn rd ra rb sp s
  | .acas rk pg pn rd ra rb sp => Sys2Proof.Machine.execAcas rk pg pn rd ra rb sp s
  | .aand rk pg pn rd ra rb sp => Sys2Proof.Machine.execAand rk pg pn rd ra rb sp s
  | .aor rk pg pn rd ra rb sp => Sys2Proof.Machine.execAor rk pg pn rd ra rb sp s
  | .amaxu rk pg pn rd ra rb sp => Sys2Proof.Machine.execAmaxu rk pg pn rd ra rb sp s
  | .aminu rk pg pn rd ra rb sp => Sys2Proof.Machine.execAminu rk pg pn rd ra rb sp s
  | .vadd rk pg pn wd wa wb lt => Sys2Proof.Machine.execVadd rk pg pn wd wa wb lt s
  | .vsub rk pg pn wd wa wb lt => Sys2Proof.Machine.execVsub rk pg pn wd wa wb lt s
  | .vadds rk pg pn wd wa wb lt => Sys2Proof.Machine.execVadds rk pg pn wd wa wb lt s
  | .vaddus rk pg pn wd wa wb lt => Sys2Proof.Machine.execVaddus rk pg pn wd wa wb lt s
  | .vsubs rk pg pn wd wa wb lt => Sys2Proof.Machine.execVsubs rk pg pn wd wa wb lt s
  | .vsubus rk pg pn wd wa wb lt => Sys2Proof.Machine.execVsubus rk pg pn wd wa wb lt s
  | .vmul rk pg pn wd wa wb lt => Sys2Proof.Machine.execVmul rk pg pn wd wa wb lt s
  | .vmin rk pg pn wd wa wb lt => Sys2Proof.Machine.execVmin rk pg pn wd wa wb lt s
  | .vmax rk pg pn wd wa wb lt => Sys2Proof.Machine.execVmax rk pg pn wd wa wb lt s
  | .vminu rk pg pn wd wa wb lt => Sys2Proof.Machine.execVminu rk pg pn wd wa wb lt s
  | .vmaxu rk pg pn wd wa wb lt => Sys2Proof.Machine.execVmaxu rk pg pn wd wa wb lt s
  | .vavgu rk pg pn wd wa wb lt => Sys2Proof.Machine.execVavgu rk pg pn wd wa wb lt s
  | .vabsdu rk pg pn wd wa wb lt => Sys2Proof.Machine.execVabsdu rk pg pn wd wa wb lt s
  | .vand rk pg pn wd wa wb => Sys2Proof.Machine.execVand rk pg pn wd wa wb s
  | .vor rk pg pn wd wa wb => Sys2Proof.Machine.execVor rk pg pn wd wa wb s
  | .vxor rk pg pn wd wa wb => Sys2Proof.Machine.execVxor rk pg pn wd wa wb s
  | .vsel rk pg pn wd wa wb => Sys2Proof.Machine.execVsel rk pg pn wd wa wb s
  | .vcmpeq rk pg pn wd wa wb lt => Sys2Proof.Machine.execVcmpeq rk pg pn wd wa wb lt s
  | .vcmpgt rk pg pn wd wa wb lt => Sys2Proof.Machine.execVcmpgt rk pg pn wd wa wb lt s
  | .vcmpgtu rk pg pn wd wa wb lt => Sys2Proof.Machine.execVcmpgtu rk pg pn wd wa wb lt s
  | .vsad rk pg pn wd wa wb => Sys2Proof.Machine.execVsad rk pg pn wd wa wb s
  | .vhsum rk pg pn wd wa lt => Sys2Proof.Machine.execVhsum rk pg pn wd wa lt s
  | .vsll rk pg pn wd wa wb lt => Sys2Proof.Machine.execVsll rk pg pn wd wa wb lt s
  | .vsrl rk pg pn wd wa wb lt => Sys2Proof.Machine.execVsrl rk pg pn wd wa wb lt s
  | .vsra rk pg pn wd wa wb lt => Sys2Proof.Machine.execVsra rk pg pn wd wa wb lt s
  | .vperm rk pg pn wd wa wb => Sys2Proof.Machine.execVperm rk pg pn wd wa wb s
  | .vsplat rk pg pn wd ra lt => Sys2Proof.Machine.execVsplat rk pg pn wd ra lt s
  | .vins rk pg pn wd ra lane lt => Sys2Proof.Machine.execVins rk pg pn wd ra lane lt s
  | .vext rk pg pn rd wa lane lt => Sys2Proof.Machine.execVext rk pg pn rd wa lane lt s
  | .vexts rk pg pn rd wa lane lt => Sys2Proof.Machine.execVexts rk pg pn rd wa lane lt s
  | .tsend rk pg pn ra rb => Sys2Proof.Machine.execTsend rk pg pn ra rb s
  | .tdelay rk pg pn rd ra rb => Sys2Proof.Machine.execTdelay rk pg pn rd ra rb s
  | .tcancel rk pg pn ra => Sys2Proof.Machine.execTcancel rk pg pn ra s
  | .tarm rk pg pn ra rb => Sys2Proof.Machine.execTarm rk pg pn ra rb s
  | .frel rk pg pn ra rb => Sys2Proof.Machine.execFrel rk pg pn ra rb s
  | .evpost rk pg pn ra wb => Sys2Proof.Machine.execEvpost rk pg pn ra wb s
  | .tend rk pg pn => Sys2Proof.Machine.execTend rk pg pn s
  | .tfail rk pg pn ra => Sys2Proof.Machine.execTfail rk pg pn ra s
  | .pcmd rk pg pn ra wb => Sys2Proof.Machine.execPcmd rk pg pn ra wb s
  | .nop rk pg pn => Sys2Proof.Machine.execNop rk pg pn s
  | .fence rk pg pn => Sys2Proof.Machine.execFence rk pg pn s
  | .brk rk pg pn => Sys2Proof.Machine.execBrk rk pg pn s
  | .srd rk pg pn rd num => Sys2Proof.Machine.execSrd rk pg pn rd num s
  | .swr rk pg pn ra num => Sys2Proof.Machine.execSwr rk pg pn ra num s
  | .illegalInstruction rk word => Sys2Proof.Machine.execIllegalInstruction rk word s
  | .deviceLoadReturn rk => Sys2Proof.Machine.execDeviceLoadReturn rk s
  | .storeFault rk => Sys2Proof.Machine.execStoreFault rk s
  | .taskCommit rk => Sys2Proof.Machine.execTaskCommit rk s
  | .outboxDelivery pos => Sys2Proof.Machine.execOutboxDelivery pos s
  | .watchdogFault rk => Sys2Proof.Machine.execWatchdogFault rk s
  | .selfCheckFailure rk storeError => Sys2Proof.Machine.execSelfCheckFailure rk storeError s
  | .imageLoadComplete rk => Sys2Proof.Machine.execImageLoadComplete rk s
  | .positionLoadFailed rk addr => Sys2Proof.Machine.execPositionLoadFailed rk addr s
  | .rkLoad req val => Sys2Proof.Machine.execRkLoad req val s
  | .rkSwap req val => Sys2Proof.Machine.execRkSwap req val s
  | .rkRetire req val => Sys2Proof.Machine.execRkRetire req val s
  | .rkRestore req val => Sys2Proof.Machine.execRkRestore req val s
  | .resume req rk val => Sys2Proof.Machine.execResume req rk val s
  | .armRequest src target desc => Sys2Proof.Machine.execArmRequest src target desc s
  | .token src dest value => Sys2Proof.Machine.execToken src dest value s
  | .cancelRequest src target => Sys2Proof.Machine.execCancelRequest src target s
  | .delayedTokenDue => Sys2Proof.Machine.execDelayedTokenDue s
  | .timeoutTaken => Sys2Proof.Machine.execTimeoutTaken s
  | .taskDispatch => Sys2Proof.Machine.execTaskDispatch s
  | .flowRelease flow => Sys2Proof.Machine.execFlowRelease flow s
  | .flowSkip flow => Sys2Proof.Machine.execFlowSkip flow s
  | .flowEnable req val => Sys2Proof.Machine.execFlowEnable req val s
  | .flowDisable req val => Sys2Proof.Machine.execFlowDisable req val s
  | .tickPeriodWrite req val => Sys2Proof.Machine.execTickPeriodWrite req val s
  | .memoryRead req addr => Sys2Proof.Machine.execMemoryRead req addr s
  | .partialWrite req addr mask data => Sys2Proof.Machine.execPartialWrite req addr mask data s
  | .wholeWordWrite req addr data => Sys2Proof.Machine.execWholeWordWrite req addr data s
  | .injArm req bank n val => Sys2Proof.Machine.execInjArm req bank n val s
  | .bucketLeak bank n => Sys2Proof.Machine.execBucketLeak bank n s
  | .eccCfgWrite req bank n val => Sys2Proof.Machine.execEccCfgWrite req bank n val s
  | .harrowRead => Sys2Proof.Machine.execHarrowRead s
  | .harrowPassLate => Sys2Proof.Machine.execHarrowPassLate s
  | .hrwEnable req val => Sys2Proof.Machine.execHrwEnable req val s
  | .hrwDisable req val => Sys2Proof.Machine.execHrwDisable req val s
  | .hrwPeriodWrite req val => Sys2Proof.Machine.execHrwPeriodWrite req val s
  | .bankFillComplete n => Sys2Proof.Machine.execBankFillComplete n s
  | .bankWakeComplete n => Sys2Proof.Machine.execBankWakeComplete n s
  | .mcEnable req n val => Sys2Proof.Machine.execMcEnable req n val s
  | .mcInitComplete n => Sys2Proof.Machine.execMcInitComplete n s
  | .mcIntervalStart n temp => Sys2Proof.Machine.execMcIntervalStart n temp s
  | .caParityError n => Sys2Proof.Machine.execCaParityError n s
  | .mcHalfWrite req n val => Sys2Proof.Machine.execMcHalfWrite req n val s
  | .mcCalWrite req n lat val => Sys2Proof.Machine.execMcCalWrite req n lat val s
  | .accessTimeout req addr write => Sys2Proof.Machine.execAccessTimeout req addr write s
  | .rowPlan k => Sys2Proof.Machine.execRowPlan k s
  | .rowStart n => Sys2Proof.Machine.execRowStart n s
  | .ctuEncode k => Sys2Proof.Machine.execCtuEncode k s
  | .referenceFetchReturn k => Sys2Proof.Machine.execReferenceFetchReturn k s
  | .inputRowRead k => Sys2Proof.Machine.execInputRowRead k s
  | .rowCommit k => Sys2Proof.Machine.execRowCommit k s
  | .abandonPoint k => Sys2Proof.Machine.execAbandonPoint k s
  | .activate n cmd => Sys2Proof.Machine.execActivate n cmd s
  | .modify n cmd => Sys2Proof.Machine.execModify n cmd s
  | .panStop n cmd => Sys2Proof.Machine.execPanStop n cmd s
  | .picture n cmd => Sys2Proof.Machine.execPicture n cmd s
  | .rate n cmd => Sys2Proof.Machine.execRate n cmd s
  | .pictureLate k => Sys2Proof.Machine.execPictureLate k s
  | .sluOpen n ctx cmd => Sys2Proof.Machine.execSluOpen n ctx cmd s
  | .sluDecode n ctx cmd => Sys2Proof.Machine.execSluDecode n ctx cmd s
  | .sluFlush n ctx cmd => Sys2Proof.Machine.execSluFlush n ctx cmd s
  | .sluClose n ctx cmd => Sys2Proof.Machine.execSluClose n ctx cmd s
  | .pictureOutput n ctx => Sys2Proof.Machine.execPictureOutput n ctx s
  | .stageOut n q cmd => Sys2Proof.Machine.execStageOut n q cmd s
  | .stageLayer n q cmd => Sys2Proof.Machine.execStageLayer n q cmd s
  | .stageSig n q cmd => Sys2Proof.Machine.execStageSig n q cmd s
  | .cmpCommit n q cmd => Sys2Proof.Machine.execCmpCommit n q cmd s
  | .loadColour n q cmd => Sys2Proof.Machine.execLoadColour n q cmd s
  | .cmpPresent n q cmd => Sys2Proof.Machine.execCmpPresent n q cmd s
  | .cmpBand n q cmd => Sys2Proof.Machine.execCmpBand n q cmd s
  | .setTiming n cmd => Sys2Proof.Machine.execSetTiming n cmd s
  | .setPlane n cmd => Sys2Proof.Machine.execSetPlane n cmd s
  | .headStop n cmd => Sys2Proof.Machine.execHeadStop n cmd s
  | .headPresent n cmd => Sys2Proof.Machine.execHeadPresent n cmd s
  | .frameBoundary n => Sys2Proof.Machine.execFrameBoundary n s
  | .activeLine n => Sys2Proof.Machine.execActiveLine n s
  | .scanFetchReturn n p => Sys2Proof.Machine.execScanFetchReturn n p s
  | .scanLate n p => Sys2Proof.Machine.execScanLate n p s
  | .teEdge n level => Sys2Proof.Machine.execTeEdge n level s
  | .teTimeout n => Sys2Proof.Machine.execTeTimeout n s
  | .frameReceived port link frame fcs => Sys2Proof.Machine.execFrameReceived port link frame fcs s
  | .bandTimeout flow idle => Sys2Proof.Machine.execBandTimeout flow idle s
  | .ethLinkChange port link up => Sys2Proof.Machine.execEthLinkChange port link up s
  | .ethModeWrite req n val => Sys2Proof.Machine.execEthModeWrite req n val s
  | .rxfEnable req val => Sys2Proof.Machine.execRxfEnable req val s
  | .rxfDisable req val => Sys2Proof.Machine.execRxfDisable req val s
  | .txRelease port q => Sys2Proof.Machine.execTxRelease port q s
  | .packetStart port link => Sys2Proof.Machine.execPacketStart port link s
  | .txPoisonAbort port link => Sys2Proof.Machine.execTxPoisonAbort port link s
  | .openQ req n val => Sys2Proof.Machine.execOpenQ req n val s
  | .closeQ req n val => Sys2Proof.Machine.execCloseQ req n val s
  | .gate req n val => Sys2Proof.Machine.execGate req n val s
  | .srtpLoad req n val => Sys2Proof.Machine.execSrtpLoad req n val s
  | .gateListStart port => Sys2Proof.Machine.execGateListStart port s
  | .gateEntryChange port => Sys2Proof.Machine.execGateEntryChange port s
  | .queueSample port => Sys2Proof.Machine.execQueueSample port s
  | .timeLoad => Sys2Proof.Machine.execTimeLoad s
  | .timeStep => Sys2Proof.Machine.execTimeStep s
  | .timeSlew => Sys2Proof.Machine.execTimeSlew s
  | .timeInvalidate => Sys2Proof.Machine.execTimeInvalidate s
  | .slewDone => Sys2Proof.Machine.execSlewDone s
  | .incWrite req val => Sys2Proof.Machine.execIncWrite req val s
  | .hincWrite req val => Sys2Proof.Machine.execHincWrite req val s
  | .timeNowRead req => Sys2Proof.Machine.execTimeNowRead req s
  | .txtsRead req port => Sys2Proof.Machine.execTxtsRead req port s
  | .toutEnable req n val => Sys2Proof.Machine.execToutEnable req n val s
  | .toutEdge n => Sys2Proof.Machine.execToutEdge n s
  | .toutPulseEnd n => Sys2Proof.Machine.execToutPulseEnd n s
  | .audioFrame n f => Sys2Proof.Machine.execAudioFrame n f s
  | .audioLockLoss n => Sys2Proof.Machine.execAudioLockLoss n s
  | .captureEnable req n val => Sys2Proof.Machine.execCaptureEnable req n val s
  | .captureDisable req n val => Sys2Proof.Machine.execCaptureDisable req n val s
  | .maskWrite req n val => Sys2Proof.Machine.execMaskWrite req n val s
  | .playoutEnable req n val => Sys2Proof.Machine.execPlayoutEnable req n val s
  | .playoutFrame n => Sys2Proof.Machine.execPlayoutFrame n s
  | .dmaPcmd n desc => Sys2Proof.Machine.execDmaPcmd n desc s
  | .dmaSubmit req n val => Sys2Proof.Machine.execDmaSubmit req n val s
  | .dmaSubmitRead n => Sys2Proof.Machine.execDmaSubmitRead n s
  | .dmaStart n => Sys2Proof.Machine.execDmaStart n s
  | .dmaBeatDone n => Sys2Proof.Machine.execDmaBeatDone n s
  | .dmaComplete n => Sys2Proof.Machine.execDmaComplete n s
  | .dmaPaused n => Sys2Proof.Machine.execDmaPaused n s
  | .dmaResumed n => Sys2Proof.Machine.execDmaResumed n s
  | .dmaEnable req n val => Sys2Proof.Machine.execDmaEnable req n val s
  | .dmaDisable req n val => Sys2Proof.Machine.execDmaDisable req n val s
  | .laneModeWrite req q val => Sys2Proof.Machine.execLaneModeWrite req q val s
  | .laneReady q => Sys2Proof.Machine.execLaneReady q s
  | .laneLock q l lock errs => Sys2Proof.Machine.execLaneLock q l lock errs s
  | .laneFirWrite req q l val => Sys2Proof.Machine.execLaneFirWrite req q l val s
  | .laneSleepWrite req q l val => Sys2Proof.Machine.execLaneSleepWrite req q l val s
  | .sdiCaptureEnable req q val => Sys2Proof.Machine.execSdiCaptureEnable req q val s
  | .sdiCaptureDisable req q val => Sys2Proof.Machine.execSdiCaptureDisable req q val s
  | .sdiLockAcquired q l errs => Sys2Proof.Machine.execSdiLockAcquired q l errs s
  | .sdiLockLoss q l errs => Sys2Proof.Machine.execSdiLockLoss q l errs s
  | .sdiFrameStart q l w h => Sys2Proof.Machine.execSdiFrameStart q l w h s
  | .sdiBandClose q l samples => Sys2Proof.Machine.execSdiBandClose q l samples s
  | .sdiRepeat q l => Sys2Proof.Machine.execSdiRepeat q l s
  | .eventRoute src masked maskedVf => Sys2Proof.Machine.execEventRoute src masked maskedVf s
  | .msixHoldExpiry fn ring masked => Sys2Proof.Machine.execMsixHoldExpiry fn ring masked s
  | .chkEnable req n val => Sys2Proof.Machine.execChkEnable req n val s
  | .chkDisable req n val => Sys2Proof.Machine.execChkDisable req n val s
  | .chkBlockStart n => Sys2Proof.Machine.execChkBlockStart n s
  | .chkBlockEnd n => Sys2Proof.Machine.execChkBlockEnd n s
  | .twinEnable req val => Sys2Proof.Machine.execTwinEnable req val s
  | .twinDisable req val => Sys2Proof.Machine.execTwinDisable req val s
  | .heartbeatSend => Sys2Proof.Machine.execHeartbeatSend s
  | .heartbeat words => Sys2Proof.Machine.execHeartbeat words s
  | .hbPulse ns => Sys2Proof.Machine.execHbPulse ns s
  | .heartbeatLost => Sys2Proof.Machine.execHeartbeatLost s
  | .pairingTimeout => Sys2Proof.Machine.execPairingTimeout s
  | .standbyContention => Sys2Proof.Machine.execStandbyContention s
  | .sluiceLinkUp => Sys2Proof.Machine.execSluiceLinkUp s
  | .sluiceLinkDown => Sys2Proof.Machine.execSluiceLinkDown s
  | .inSig words => Sys2Proof.Machine.execInSig words s
  | .bandHoldTimeout => Sys2Proof.Machine.execBandHoldTimeout s
  | .repairReq words => Sys2Proof.Machine.execRepairReq words s
  | .repairData words => Sys2Proof.Machine.execRepairData words s
  | .repairNak words => Sys2Proof.Machine.execRepairNak words s
  | .outSig words => Sys2Proof.Machine.execOutSig words s
  | .outSigTimeout => Sys2Proof.Machine.execOutSigTimeout s
  | .unmute => Sys2Proof.Machine.execUnmute s
  | .roleTake words => Sys2Proof.Machine.execRoleTake words s
  | .roleYield words => Sys2Proof.Machine.execRoleYield words s
  | .switchReq words => Sys2Proof.Machine.execSwitchReq words s
  | .switchAck words => Sys2Proof.Machine.execSwitchAck words s
  | .plannedSwitch => Sys2Proof.Machine.execPlannedSwitch s
  | .revertHoldoff => Sys2Proof.Machine.execRevertHoldoff s
  | .revertTimeout => Sys2Proof.Machine.execRevertTimeout s
  | .wdogKick req val => Sys2Proof.Machine.execWdogKick req val s
  | .wdogExpiry => Sys2Proof.Machine.execWdogExpiry s
  | .twnSync req val => Sys2Proof.Machine.execTwnSync req val s
  | .twnAbort req val => Sys2Proof.Machine.execTwnAbort req val s
  | .autoSync => Sys2Proof.Machine.execAutoSync s
  | .syncOpen words => Sys2Proof.Machine.execSyncOpen words s
  | .syncState words => Sys2Proof.Machine.execSyncState words s
  | .syncSeg words => Sys2Proof.Machine.execSyncSeg words s
  | .syncCommitSend => Sys2Proof.Machine.execSyncCommitSend s
  | .syncCommit words => Sys2Proof.Machine.execSyncCommit words s
  | .syncCommitTimeout => Sys2Proof.Machine.execSyncCommitTimeout s
  | .syncAbort words => Sys2Proof.Machine.execSyncAbort words s
  | .deviceResetRelease bootSel => Sys2Proof.Machine.execDeviceResetRelease bootSel s
  | .headersRead sfdp a b => Sys2Proof.Machine.execHeadersRead sfdp a b s
  | .signatureVerified => Sys2Proof.Machine.execSignatureVerified s
  | .payloadStaged payload => Sys2Proof.Machine.execPayloadStaged payload s
  | .bootGo req val => Sys2Proof.Machine.execBootGo req val s
  | .presenceTrue => Sys2Proof.Machine.execPresenceTrue s
  | .presenceEnd => Sys2Proof.Machine.execPresenceEnd s
  | .provisionRootKey req val words => Sys2Proof.Machine.execProvisionRootKey req val words s
  | .revokeRootKey req val words => Sys2Proof.Machine.execRevokeRootKey req val words s
  | .programFuse req val words => Sys2Proof.Machine.execProgramFuse req val words s
  | .twinRoleChange req val words => Sys2Proof.Machine.execTwinRoleChange req val words s
  | .keyLoad req val => Sys2Proof.Machine.execKeyLoad req val s
  | .keyErase req val => Sys2Proof.Machine.execKeyErase req val s
  | .tamperLoopOpen => Sys2Proof.Machine.execTamperLoopOpen s
  | .idcode => Sys2Proof.Machine.execIdcode s
  | .samplePreload pins preload => Sys2Proof.Machine.execSamplePreload pins preload s
  | .extest pins drive => Sys2Proof.Machine.execExtest pins drive s
  | .bypass => Sys2Proof.Machine.execBypass s
  | .dbgChal => Sys2Proof.Machine.execDbgChal s
  | .dbgResp qx qy r sg => Sys2Proof.Machine.execDbgResp qx qy r sg s
  | .dbgLock bit => Sys2Proof.Machine.execDbgLock bit s
  | .dbgAp addr write data => Sys2Proof.Machine.execDbgAp addr write data s
  | .debugRelock req val => Sys2Proof.Machine.execDebugRelock req val s
  | .counterOverflow set k => Sys2Proof.Machine.execCounterOverflow set k s
  | .pmuSnapshot busy => Sys2Proof.Machine.execPmuSnapshot busy s
  | .tagEnable req n val => Sys2Proof.Machine.execTagEnable req n val s
  | .tagRecord rk full => Sys2Proof.Machine.execTagRecord rk full s
  | .barRead fn bar off len => Sys2Proof.Machine.execBarRead fn bar off len s
  | .barWrite fn bar off len data ep => Sys2Proof.Machine.execBarWrite fn bar off len data ep s
  | .doorbell fn val => Sys2Proof.Machine.execDoorbell fn val s
  | .doorbellDeliver fn => Sys2Proof.Machine.execDoorbellDeliver fn s
  | .vfFlr v => Sys2Proof.Machine.execVfFlr v s
  | .pfFlr => Sys2Proof.Machine.execPfFlr s
  | .hostLinkChange speed width numvf => Sys2Proof.Machine.execHostLinkChange speed width numvf s
  | .perst => Sys2Proof.Machine.execPerst s
  | .routeSet req val => Sys2Proof.Machine.execRouteSet req val s
  | .ringEnable fn req val => Sys2Proof.Machine.execRingEnable fn req val s
  | .refclkLost cause count => Sys2Proof.Machine.execRefclkLost cause count s
  | .refclkValid count => Sys2Proof.Machine.execRefclkValid count s
  | .refokSet => Sys2Proof.Machine.execRefokSet s
  | .refclkReturn req val lossNow => Sys2Proof.Machine.execRefclkReturn req val lossNow s
  | .feedLost f above => Sys2Proof.Machine.execFeedLost f above s
  | .feedGood f => Sys2Proof.Machine.execFeedGood f s
  | .vstbyLost => Sys2Proof.Machine.execVstbyLost s
  | .alwaysOnResetRelease refclkValid => Sys2Proof.Machine.execAlwaysOnResetRelease refclkValid s
  | .sysRst => Sys2Proof.Machine.execSysRst s
  | .softwareReset req val => Sys2Proof.Machine.execSoftwareReset req val s
  | .pllFault => Sys2Proof.Machine.execPllFault s
  | .thermalTrip => Sys2Proof.Machine.execThermalTrip s
  | .temperatureReading temp => Sys2Proof.Machine.execTemperatureReading temp s
  | .powerRequest req val => Sys2Proof.Machine.execPowerRequest req val s
  | .powerTransitionDone domain => Sys2Proof.Machine.execPowerTransitionDone domain s
  | .timeBaseTick => Sys2Proof.Machine.execTimeBaseTick s
  | .tickBoundary => Sys2Proof.Machine.execTickBoundary s
  | .laneWakeComplete q l rx => Sys2Proof.Machine.execLaneWakeComplete q l rx s
  | .prbs31CheckerLock q l bits => Sys2Proof.Machine.execPrbs31CheckerLock q l bits s
  | .tamperLoopClosed => Sys2Proof.Machine.execTamperLoopClosed s

end Sys2Proof.Machine
end

