-- ==== Sys2Proof/Safety.lean ====
section
/-! DEFINITION. The words in which statements are written: what it is for a command to complete, to leave the rest of
the part as it was, to set register fields, to post events. -/

namespace Sys2Proof.Safety

open Sys2Proof.Machine

/-- The command completes: it answers a next state, of which `P` holds. -/
def Completes (o : Res) (P : State → Prop) : Prop := ∃ t, o = .next t ∧ P t

/-- `s` with the parts of `t` that posting events and counting them may change: the event sources, the counters and tag
units, the registers (EVT_STAT; `Sets` says which), the fault-indicator counts. A frame is an equation
`t = { Around s t with … }`: every part of the state that it does not name is as in `s`. -/
def Around (s t : State) : State :=
  { s with events := t.events, pmu := t.pmu, tags := t.tags, regs := t.regs,
           twin := { s.twin with fi := t.twin.fi } }

/-- One field of one copy of a register, and the value that it takes. -/
structure FieldSet where
  fld : Fld
  inst : Nat
  sub : Nat
  val : Nat

/-- The registers of `t` are those of `s` with the listed fields set in order, and nothing else: every other field and
register is unchanged. EVT_STAT, which a lost record sets, is `Posts`'s. -/
def Sets (s t : State) (l : List FieldSet) : Prop :=
  ∀ r i k, r ≠ .EVT_STAT →
    t.reg r i k = (l.foldl (fun u x => u.fset x.fld x.inst x.sub x.val) s).reg r i k

/-- An event source after a record is posted (R391, R393): the record takes the next SEQ and joins the buffer, or is lost
and counted when the buffer holds 16. -/
def takeRecord (e : EvSource) (tb : TimeBase) (src code : Nat) (items : List PItem) : EvSource :=
  if e.buf.length < 16 then
    { e with
      seq := e.seq + 1
      buf := e.buf ++ [{
        seq := e.seq, code := BitVec.ofNat 16 code, src := src, fi := faultIndicators.contains code,
        notime := !tb.valid, hold := tb.hold, time := packTime tb.sec tb.ns,
        secx := tb.sec.extractLsb' 34 16, payload := BitVec.ofNat 112 (packItems items) }] }
  else { e with seq := e.seq + 1, lost := min (e.lost + 1) 0xFFFF }

/-- One posted event: its source, its code, its payload (R389). -/
structure Ev where
  src : Nat
  code : Nat
  items : List PItem

/-- `t` has posted the listed events in order, and no other: every source's buffer, SEQ and loss count follow from those
of `s`; and EVT_STAT changes only where a buffer was full. -/
def Posts (s t : State) (l : List Ev) : Prop :=
  (∀ src, t.evSource src =
    l.foldl (fun e x => if x.src = src then takeRecord e t.time src x.code x.items else e) (s.evSource src)) ∧
  ((∀ x ∈ l, (s.evSource x.src).buf.length + l.length ≤ 16) → t.reg .EVT_STAT 0 0 = s.reg .EVT_STAT 0 0)

/-! ### Rakes -/

/-- The rake on which a Glidel instruction executes. -/
def glidelRake : Instr → Option Nat
  | .add rk _ _ _ _ _ => some rk
  | .sub rk _ _ _ _ _ => some rk
  | .and rk _ _ _ _ _ => some rk
  | .or rk _ _ _ _ _ => some rk
  | .xor rk _ _ _ _ _ => some rk
  | .andn rk _ _ _ _ _ => some rk
  | .sll rk _ _ _ _ _ => some rk
  | .srl rk _ _ _ _ _ => some rk
  | .sra rk _ _ _ _ _ => some rk
  | .min rk _ _ _ _ _ => some rk
  | .max rk _ _ _ _ _ => some rk
  | .minu rk _ _ _ _ _ => some rk
  | .maxu rk _ _ _ _ _ => some rk
  | .clz rk _ _ _ _ => some rk
  | .popc rk _ _ _ _ => some rk
  | .bswap rk _ _ _ _ => some rk
  | .jr rk _ _ _ => some rk
  | .jalr rk _ _ _ _ => some rk
  | .cmpeq rk _ _ _ _ _ => some rk
  | .cmpne rk _ _ _ _ _ => some rk
  | .cmplt rk _ _ _ _ _ => some rk
  | .cmpge rk _ _ _ _ _ => some rk
  | .cmpltu rk _ _ _ _ _ => some rk
  | .cmpgeu rk _ _ _ _ _ => some rk
  | .pand rk _ _ _ _ _ => some rk
  | .por rk _ _ _ _ _ => some rk
  | .pxor rk _ _ _ _ _ => some rk
  | .pandn rk _ _ _ _ _ => some rk
  | .pget rk _ _ _ => some rk
  | .pset rk _ _ _ => some rk
  | .mul rk _ _ _ _ _ => some rk
  | .mulhu rk _ _ _ _ _ => some rk
  | .mulhs rk _ _ _ _ _ => some rk
  | .divu rk _ _ _ _ _ => some rk
  | .divs rk _ _ _ _ _ => some rk
  | .remu rk _ _ _ _ _ => some rk
  | .rems rk _ _ _ _ _ => some rk
  | .addi rk _ _ _ _ _ => some rk
  | .andi rk _ _ _ _ _ => some rk
  | .ori rk _ _ _ _ _ => some rk
  | .xori rk _ _ _ _ _ => some rk
  | .slli rk _ _ _ _ _ => some rk
  | .srli rk _ _ _ _ _ => some rk
  | .srai rk _ _ _ _ _ => some rk
  | .cmpeqi rk _ _ _ _ _ => some rk
  | .cmplti rk _ _ _ _ _ => some rk
  | .cmpltui rk _ _ _ _ _ => some rk
  | .imh rk _ _ _ _ _ => some rk
  | .orh rk _ _ _ _ _ => some rk
  | .br rk _ _ _ => some rk
  | .call rk _ _ _ => some rk
  | .ld rk _ _ _ _ _ _ _ _ => some rk
  | .st rk _ _ _ _ _ _ _ => some rk
  | .ldv rk _ _ _ _ _ _ => some rk
  | .stv rk _ _ _ _ _ _ => some rk
  | .aadd rk _ _ _ _ _ _ => some rk
  | .aswap rk _ _ _ _ _ _ => some rk
  | .acas rk _ _ _ _ _ _ => some rk
  | .aand rk _ _ _ _ _ _ => some rk
  | .aor rk _ _ _ _ _ _ => some rk
  | .amaxu rk _ _ _ _ _ _ => some rk
  | .aminu rk _ _ _ _ _ _ => some rk
  | .vadd rk _ _ _ _ _ _ => some rk
  | .vsub rk _ _ _ _ _ _ => some rk
  | .vadds rk _ _ _ _ _ _ => some rk
  | .vaddus rk _ _ _ _ _ _ => some rk
  | .vsubs rk _ _ _ _ _ _ => some rk
  | .vsubus rk _ _ _ _ _ _ => some rk
  | .vmul rk _ _ _ _ _ _ => some rk
  | .vmin rk _ _ _ _ _ _ => some rk
  | .vmax rk _ _ _ _ _ _ => some rk
  | .vminu rk _ _ _ _ _ _ => some rk
  | .vmaxu rk _ _ _ _ _ _ => some rk
  | .vavgu rk _ _ _ _ _ _ => some rk
  | .vabsdu rk _ _ _ _ _ _ => some rk
  | .vand rk _ _ _ _ _ => some rk
  | .vor rk _ _ _ _ _ => some rk
  | .vxor rk _ _ _ _ _ => some rk
  | .vsel rk _ _ _ _ _ => some rk
  | .vcmpeq rk _ _ _ _ _ _ => some rk
  | .vcmpgt rk _ _ _ _ _ _ => some rk
  | .vcmpgtu rk _ _ _ _ _ _ => some rk
  | .vsad rk _ _ _ _ _ => some rk
  | .vhsum rk _ _ _ _ _ => some rk
  | .vsll rk _ _ _ _ _ _ => some rk
  | .vsrl rk _ _ _ _ _ _ => some rk
  | .vsra rk _ _ _ _ _ _ => some rk
  | .vperm rk _ _ _ _ _ => some rk
  | .vsplat rk _ _ _ _ _ => some rk
  | .vins rk _ _ _ _ _ _ => some rk
  | .vext rk _ _ _ _ _ _ => some rk
  | .vexts rk _ _ _ _ _ _ => some rk
  | .tsend rk _ _ _ _ => some rk
  | .tdelay rk _ _ _ _ _ => some rk
  | .tcancel rk _ _ _ => some rk
  | .tarm rk _ _ _ _ => some rk
  | .frel rk _ _ _ _ => some rk
  | .evpost rk _ _ _ _ => some rk
  | .tend rk _ _ => some rk
  | .tfail rk _ _ _ => some rk
  | .pcmd rk _ _ _ _ => some rk
  | .nop rk _ _ => some rk
  | .fence rk _ _ => some rk
  | .brk rk _ _ => some rk
  | .srd rk _ _ _ _ => some rk
  | .swr rk _ _ _ _ => some rk
  | _ => none

/-- The units that a command names are units that the part has. -/
def present (i : Instr) : Bool :=
  match glidelRake i with
  | some rk => decide (rk < 104)
  | none => i.wf

/-- A rake issues an instruction whose guard is true (R55, R58), and which is not the last of the store (R62). -/
def Issues (s : State) (rk : Nat) (pg : BitVec 3) (pn : Bool) : Prop :=
  rk < 104 ∧ (s.rake rk).issues = true ∧ guardOk pg pn = true ∧ xor ((s.rake rk).getP pg) pn = true ∧
    (s.rake rk).pc < 0xFFFC

/-- `t` differs from `s` in the rake alone, and in what is counted of the instruction (R452, R459). -/
def RakeOnly (rk : Nat) (s t : State) : Prop :=
  t = { s with rakes := t.rakes, pmu := t.pmu, tags := t.tags } ∧ ∀ n, n ≠ rk → t.rake n = s.rake n

/-- The command writes v to g(rd) and goes on to the next instruction; a write of g0 is discarded. -/
def WritesG (i : Instr) (s : State) (rk : Nat) (rd : BitVec 5) (v : W64) : Prop :=
  Completes (exec i s) fun t => RakeOnly rk s t ∧
    t.rake rk = { s.rake rk with g := (t.rake rk).g, pc := (s.rake rk).pc + 4 } ∧
    ∀ j, (t.rake rk).getG j = if j = rd ∧ j ≠ 0 then v else (s.rake rk).getG j

/-- The command writes v to p(pd) and goes on to the next instruction; a write of p0 is discarded. -/
def WritesP (i : Instr) (s : State) (rk : Nat) (pd : BitVec 3) (v : Bool) : Prop :=
  Completes (exec i s) fun t => RakeOnly rk s t ∧
    t.rake rk = { s.rake rk with p := (t.rake rk).p, pc := (s.rake rk).pc + 4 } ∧
    ∀ j, (t.rake rk).getP j = if j = pd ∧ j ≠ 0 then v else (s.rake rk).getP j

/-- The command writes v to w(wd) and goes on to the next instruction. -/
def WritesW (i : Instr) (s : State) (rk : Nat) (wd : BitVec 4) (v : W256) : Prop :=
  Completes (exec i s) fun t => RakeOnly rk s t ∧
    t.rake rk = { s.rake rk with w := (t.rake rk).w, pc := (s.rake rk).pc + 4 } ∧
    ∀ j, (t.rake rk).getW j = if j = wd then v else (s.rake rk).getW j

/-- Lane j of the result of a lane-by-lane instruction, for every lane of the width that LT gives. -/
def LanesAre (w : W256) (lt : BitVec 2) (v : (b : Nat) → Nat → BitVec b) : Prop :=
  ∀ j, j < 256 / (8 * 2 ^ lt.toNat) →
    w.extractLsb' (8 * 2 ^ lt.toNat * j) (8 * 2 ^ lt.toNat) = v (8 * 2 ^ lt.toNat) j

/-- The command raises a class P fault (R81, R82, table TLY-3): it has no effect of its own; the fault is recorded and
rake-fault posted, the outbox is discarded, the rake is IDLE, the task's slot is FREE and task-failed is posted. `pre` are the
events that the faulting access itself posts. Where the task was asked to drain, table ISA-2 applies instead. -/
def FaultsP (i : Instr) (s : State) (rk cause pc addr : Nat) (pre : List Ev) : Prop :=
  ∀ c : TaskCtx, (s.rake rk).task = some c → (s.rake rk).drainTo = none → (s.slot c.slot).st = .run →
    Completes (exec i s) fun t =>
      t = { Around s t with rakes := t.rakes, tally := t.tally } ∧
      (∀ n, n ≠ rk → t.rake n = s.rake n) ∧
      t.rake rk = { s.rake rk with
        st := .idle, task := none, outbox := [], devLoad := none, storeErr := none, posted := [], ending := false } ∧
      t.slot c.slot = {} ∧ (∀ n, n ≠ c.slot → t.slot n = s.slot n) ∧
      Sets s t [⟨F.RK_FAULT_COUNT, rk, 0, min (s.fget F.RK_FAULT_COUNT rk 0 + 1) 0xFFFF⟩, ⟨F.RK_FAULT_NEW, rk, 0, 1⟩,
        ⟨F.RK_FAULT_CAUSE, rk, 0, cause⟩, ⟨F.RK_FAULT_PC_REPLAY, rk, 0, c.replay⟩, ⟨F.RK_FAULT_PC_SLOT, rk, 0, c.slot⟩,
        ⟨F.RK_FAULT_PC_PC, rk, 0, pc⟩, ⟨F.RK_FAULT_ADDR_LO_ADDR, rk, 0, addr % 2 ^ 32⟩,
        ⟨F.RK_FAULT_ADDR_HI_ADDR, rk, 0, addr / 2 ^ 32⟩] ∧
      Posts s t (pre ++
        [⟨Src.rake rk, 0x0600, [.u 1 cause, .u 2 pc, .u 6 addr, .u 2 c.slot, .u 1 c.replay]⟩,
          ⟨Src.tally, 0x0504, [.u 2 c.slot, .u 1 cause, .u 1 (s.slot c.slot).pos, .u 1 (s.slot c.slot).replay]⟩])

/-- The effective address of R64. -/
def ea64 (s : State) (rk : Nat) (ra : BitVec 5) (off : BitVec 8) (scale : Nat) : Nat :=
  (((s.rake rk).getG ra).toNat + (off.toInt * scale % 2 ^ 64).toNat) % 2 ^ 64

/-- The device address of the word that holds a byte of a rake's own scratch (table MEM-4). -/
def scratchWord (rk ea : Nat) : Nat := 0x001008000000 + rk * 0x80000 + 0x10000 + ea / 32 * 32

/-- Every data byte of memory outside [lo, lo + n) reads in `t` as in `s`. -/
def MemBut (s t : State) (lo n : Nat) : Prop := ∀ a, a < 2 ^ 48 → ¬ (lo ≤ a ∧ a < lo + n) → memGet a t.mem = memGet a s.mem

/-- Every data byte of memory outside the words that [a, a + n) touches reads in `t` as in `s`: a write of a part of a word that
is poisoned makes all of it poison (R123). -/
def MemOut (s t : State) (a n : Nat) : Prop := MemBut s t (a / 32 * 32) ((a % 32 + n + 31) / 32 * 32)

/-- The registers that an access of memory itself may change: the error buckets and the armed injections of the units, and
EVT_STAT. -/
def memRegs : List Reg := [.EVT_STAT, .MC_ECC_BKT, .MC_ECC_WORD, .MC_INJ, .BNK_ECC_BKT, .BNK_ECC_WORD, .BNK_INJ]

/-- No register changes but the listed ones and those that an access of memory may change. -/
def OnlyRegs (s t : State) (l : List Reg) : Prop := ∀ r i k, r ∉ l → r ∉ memRegs → t.reg r i k = s.reg r i k

/-! ### Commands of the pipeline units -/

/-- A command of a queue reaches its unit, in state u: it is the front of its queue and leaves it, or the queue is empty and it
comes directly (R72); the unit's power domain is ON (R489). -/
def Taken (s u : State) (win inst q dom : Nat) (cmd : W256) : Prop := s.popCmd win inst q cmd = some u ∧ s.dom dom = .on

/-- The completion token that a command asks for (R182): its status, its opcode, its tag. -/
def cmdTok (src : Nat) (cmd : W256) (st : Nat) : List Msg :=
  if cmd.getLsbD 16 = true ∧ tokenDestOk (cmd.extractLsb' 192 64) = true then
    [⟨src, cmd.extractLsb' 192 64, BitVec.ofNat 64 (st + bitsOf cmd 7 0 * 2 ^ 8 + bitsOf cmd 63 32 * 2 ^ 32)⟩]
  else []

/-- The tally's inbox after a unit sends tokens. -/
def Sends (s t : State) (l : List Msg) : Prop := t.tally = { s.tally with inbox := s.tally.inbox ++ l }

/-- What becomes of a command of a queue before its unit executes it (R72, R182, R489): one that is not the front of its queue waits;
a queue whose front has another opcode of the unit waits for the command of that opcode; an opcode that the queue does not take, or a
bad format, is status 8; then, while the unit's domain is not ON, status 4. `refused` says what a refusal leaves. -/
def TurnedAway (i : Instr) (s : State) (win inst q dom : Nat) (ops : List Nat) (op : Nat) (cmd : W256) (form : Bool)
    (refused : State → Nat → State → Prop) : Prop :=
  (s.popCmd win inst q cmd = none → exec i s = .next s) ∧
  ∀ u, s.popCmd win inst q cmd = some u →
    (bitsOf cmd 7 0 ≠ op → bitsOf cmd 7 0 ∈ ops → exec i s = .next s) ∧
    (bitsOf cmd 7 0 ∉ ops ∨ (bitsOf cmd 7 0 = op ∧ form = false) → Completes (exec i s) (refused u 8)) ∧
    (bitsOf cmd 7 0 = op → form = true → s.dom dom ≠ .on → Completes (exec i s) (refused u 4))

/-- PAN_CMD_STAT after a command of pan n completes with a status (R182). -/
def panStat (n : Nat) (cmd : W256) (st : Nat) : List FieldSet :=
  [⟨F.PAN_CMD_STAT_PGM, n, 0, bitsOf cmd 15 8 % 64⟩, ⟨F.PAN_CMD_STAT_OPCODE, n, 0, bitsOf cmd 7 0⟩,
    ⟨F.PAN_CMD_STAT_STATUS, n, 0, st⟩] ++ if st = 0 then [] else [⟨F.PAN_CMD_STAT_REFUSED, n, 0, 1⟩]

/-- The event of a command of pan n that is refused (R182). -/
def panEv (n : Nat) (cmd : W256) (st : Nat) : List Ev :=
  if st = 0 then []
  else [⟨Src.pan n, 0x0A00, [.u 1 (bitsOf cmd 7 0), .u 1 (bitsOf cmd 15 8 % 64), .u 1 st]⟩]

/-- SLU_CMD_STAT after a command of context c of sluice n completes with a status (R238). -/
def sluStat (n c : Nat) (cmd : W256) (st : Nat) : List FieldSet :=
  [⟨F.SLU_CMD_STAT_CTX, n, 0, c⟩, ⟨F.SLU_CMD_STAT_OPCODE, n, 0, bitsOf cmd 7 0⟩, ⟨F.SLU_CMD_STAT_STATUS, n, 0, st⟩]

/-- CMP_CMD_STAT after a command of output q of compositor n completes with a status (R252). -/
def cmpStat (n q : Nat) (cmd : W256) (st : Nat) : List FieldSet :=
  [⟨F.CMP_CMD_STAT_OUT, n, 0, q⟩, ⟨F.CMP_CMD_STAT_OPCODE, n, 0, bitsOf cmd 7 0⟩, ⟨F.CMP_CMD_STAT_STATUS, n, 0, st⟩]

/-! ### The twin unit -/

/-- A message of a type arrives whole at a twin unit that is enabled, with its payload; of a control message it is not a copy of
one heard before (R408, R409). -/
def Hears (s : State) (type : Nat) (words : List W64) (seq : BitVec 32) (p : List W64) : Prop :=
  s.twin.st ≠ .solo ∧ twinParse words = some (type, seq, p) ∧
    (twinIsBulk type = true ∨ ∀ x, s.twin.seen = some x → 0 < (seq - x).toNat ∧ (seq - x).toNat < 2 ^ 31)

/-- The twin unit once a message of a type has been heard. -/
def heardTwin (x : Twin) (type : Nat) (seq : BitVec 32) : Twin := if twinIsBulk type then x else { x with seen := some seq }

/-- The twin unit without held bands and transaction after a change of state (table TWN-2): an agreed switch is off, nothing is
compared, what the peer said of bands stays while bands are held. -/
def roleTwin (x : Twin) (st : TwinState) : Twin :=
  { x with
    st := st, muteUntil := false, switchAt := none, asked := false, rows := [], peerRows := [], lastFi := []
    peerBands := if (st = .active ∨ st = .standby) ∧ x.link = true ∧ x.current = true then x.peerBands else [] }

/-- A held band leaves now: it is released, its token has not been sent, and no band before it of its flow or lane still waits
(R309, R413). -/
def leavesNow (l : List HeldBand) (i : Nat) : Bool := match l[i]? with
  | some b => !b.sent && b.released.isSome &&
      (l.take i).all fun c => c.sent || c.released.isSome || c.sdi != b.sdi || c.id != b.id
  | none => false

/-- The tokens of the bands that leave now, in order. -/
def tokensAfter (l : List HeldBand) : List Msg :=
  ((List.range l.length).filter (leavesNow l)).filterMap fun i => l[i]?.map fun b => ⟨b.src, b.dest, b.value⟩

/-- The bands still known once those that leave now have left: one that has left is forgotten `RWAIT` after its release. -/
def bandsAfter (s : State) (l : List HeldBand) : List HeldBand :=
  (l.mapIdx fun i b => if leavesNow l i then { b with sent := true } else b).filter fun b =>
    !(b.sent && (b.released.map fun r => decide (r + s.rwait < s.nowNs)).getD false)

/-- Every held band of the twin unit released as it stands. -/
def freedBands (s : State) : List HeldBand := s.twin.bands.map fun b => b.release s.nowNs

/-- The event of an open transaction that a change ends (R427). -/
def syncEnds (s : State) : List Ev := match s.twin.trans with
  | some x => [⟨Src.twin, 0x1505, [.u 2 x.num, .u 1 0, .u 1 3]⟩]
  | none => []

/-- The programmes without the marks of an open transaction. -/
def unmarked (s : State) : State := match s.twin.trans with
  | some x => s.clearSyncMarks x.mask
  | none => s

/-- Only the control lanes, lane 0 of Q8 and of Q9, have sent anything, and not they either unless the twin unit sent a control
message. -/
def ControlLanes (s t : State) : Prop :=
  (t.twin.ctlSeq = s.twin.ctlSeq → t.lanes = s.lanes) ∧
  ∀ q l, (q, l) ≠ (8, 0) → (q, l) ≠ (9, 0) → t.laneTx q l = s.laneTx q l

/-- The twin unit, y but for this, changes state (tables TWN-1, TWN-2, R413, R427): an open transaction ends, the bands leave unless
it goes on holding them. `l` are the registers set, `pre` and `post` the events before and after that of the transaction. -/
def TwinEnters (s : State) (y : Twin) (st : TwinState) (l : List FieldSet) (pre post : List Ev) (t : State) : Prop :=
  let holds := (st = .active ∨ st = .standby) ∧ y.link = true ∧ y.current = true
  t = { Around s t with twin := t.twin, pgms := t.pgms, tally := t.tally, lanes := t.lanes } ∧
  t.pgms = (unmarked s).pgms ∧ ControlLanes s t ∧ Sets s t l ∧
  t.twin = { roleTwin y st with
    trans := none, bands := if holds then y.bands else bandsAfter s (freedBands s), fi := t.twin.fi } ∧
  Sends s t (if holds then [] else tokensAfter (freedBands s)) ∧ Posts s t (pre ++ syncEnds s ++ post)

/-- The twin unit after it has sent a message on the control lanes. -/
def sentTwin (x : Twin) (type : Nat) (p : List W64) : Twin :=
  { x with ctlSeq := x.ctlSeq + 1, out := x.out ++ [.msg false (twinMessage type x.ctlSeq p)] }

/-- The twin unit, y but for this, takes over (R418, R419): ROLE TAKE, a pulse, and unless the part is warm-ready a random-access
picture of every programme. -/
def TwinTakes (s : State) (y : Twin) (cause : Nat) (l : List FieldSet) (pre : List Ev) (t : State) : Prop :=
  let holds := y.link = true ∧ y.current = true
  t = { Around s t with twin := t.twin, pgms := t.pgms, tally := t.tally, lanes := t.lanes } ∧
  t.pgms = (if s.warmReady then unmarked s else (unmarked s).requireRaps).pgms ∧ ControlLanes s t ∧ Sets s t l ∧
  t.twin = { sentTwin (roleTwin y .active) 0x0C [1, 0] with
    trans := none, bands := if holds then y.bands else bandsAfter s (freedBands s), muteUntil := true
    out := y.out ++ [.msg false (twinMessage 0x0C y.ctlSeq [1, 0]), .pulse true], fi := t.twin.fi } ∧
  Sends s t (if holds then [] else tokensAfter (freedBands s)) ∧
  Posts s t (pre ++ syncEnds s ++ [⟨Src.twin, 0x1500, [.u 1 y.st.code, .u 1 2, .u 1 cause]⟩,
    ⟨Src.twin, 0x1501, [.u 1 cause, .u 1 (if s.warmReady then 0 else 1), .u 1 s.unsynced.length]⟩])

/-! ### Resets -/

/-- Every halted rake below the last one has an instruction after its `BRK` to go on at. -/
def HaltsGoOn (s : State) : Prop := ∀ n, n < 104 → (s.rake n).st = .halt → (s.rake n).pc < 0x10000

/-- A rake once debug is locked again (R52): out of HALT, into RUN. -/
def resumed (s : State) (n : Nat) : Rake :=
  if n < 104 ∧ (s.rake n).st = .halt then { s.rake n with st := .run } else s.rake n

/-- Of the DMA channels that `mine` names, the enabled ones have dropped everything they held and are disabled (R366, R473); the
others hold what they held. -/
def DropsDma (s t : State) (mine : Nat → Bool) : Prop := ∀ c, c < 32 →
  if mine c && s.flag F.DMA_CFG_EN c 0 then
    t.dc c = { down := (s.dc c).down } ∧ t.flag F.DMA_CFG_EN c 0 = false ∧ t.fget F.DMA_COUNT_COUNT c 0 = 0
  else t.dc c = s.dc c

/-- The registers that a device reset leaves: those of the clocks, the power monitor and the time base, and the always-on ones of
the security controller (R483, tables ARC-9, SEC-11). -/
def keptReg (r : Reg) : Bool :=
  [1, 2, 17].contains r.desc.win || [Reg.SEC_STAT, .SEC_KEY_CMD, .SEC_KEY_STAT, .SEC_KEY_BUF].contains r

/-- Device reset (R15, R483, R485): the always-on domain is kept, time and the key store among it; everything else is as
`State.reset` has it, the latches and held halves of register pairs too, but for what stands in memory, what the outside world
has seen, the commands that wait. Of the always-on
registers those of `l` may change; debug access is locked, and `PREF` is as the twin role change command left it. -/
def ResetButFor (s t : State) (l : List Reg) : Prop :=
  t = { ({} : State) with
    pending := s.pending, freeCtr := s.freeCtr, answers := s.answers, mem := s.mem, time := t.time, regs := t.regs
    events := t.events, resets := t.resets, power := t.power, banks := t.banks
    sec := { keys := s.sec.keys, fuses := s.sec.fuses, tap := s.sec.tap, tamperPost := t.sec.tamperPost }
    host := { out := s.host.out }, headOut := s.headOut, lanes := sentLanes s.lanes, net := { out := s.net.out }
    audio := { sent := s.audio.sent }, twin := { out := s.twin.out } } ∧
  (∀ r i k, r ∉ [Reg.SEC_STAT, .TWN_STAT] ++ l → t.reg r i k = if keptReg r then s.reg r i k else r.desc.reset) ∧
  (∀ i k, t.reg .SEC_STAT i k = (s.fset F.SEC_STAT_DBG 0 0 0).reg .SEC_STAT i k) ∧
  ∀ i k, t.reg .TWN_STAT i k = (State.reset.fset F.TWN_STAT_PREF 0 0 (s.fget F.TWN_STAT_PREF 0 0)).reg .TWN_STAT i k

end Sys2Proof.Safety
end

