-- ==== Sys2Proof/Certificates/Slice0/Obligations.lean ====
section
/-! DEFINITION. The statements about the part, in the words of `Sys2Proof/Safety.lean`. -/

open Sys2Proof Sys2Proof.Machine Sys2Proof.Safety

/-! ### Rakes (chapter 2) -/

/-- R61, table ISA-6: each register-format scalar instruction writes its result to rd, leaves every other register as
it was and goes on to the next instruction; a write of g0 is discarded. ADD with all fields 0 is the illegal word.
R59, R60, table ISA-5: the immediate forms, IMH and ORH. -/
def Obligations.ScalarResults : Prop :=
  (∀ (s : State) (rk : Nat) (pg : BitVec 3) (pn : Bool) (rd ra rb : BitVec 5), Issues s rk pg pn →
    let a := (s.rake rk).getG ra
    let b := (s.rake rk).getG rb
    let n := b.toNat % 64
    ((pg, rd, ra, rb) ≠ (0, 0, 0, 0) → WritesG (.add rk pg pn rd ra rb) s rk rd (BitVec.ofNat 64 (a.toNat + b.toNat))) ∧
    WritesG (.sub rk pg pn rd ra rb) s rk rd (BitVec.ofInt 64 (a.toNat - b.toNat)) ∧
    WritesG (.and rk pg pn rd ra rb) s rk rd (a &&& b) ∧
    WritesG (.or rk pg pn rd ra rb) s rk rd (a ||| b) ∧
    WritesG (.xor rk pg pn rd ra rb) s rk rd (a ^^^ b) ∧
    WritesG (.andn rk pg pn rd ra rb) s rk rd (a &&& ~~~b) ∧
    WritesG (.sll rk pg pn rd ra rb) s rk rd (BitVec.ofNat 64 (a.toNat * 2 ^ n)) ∧
    WritesG (.srl rk pg pn rd ra rb) s rk rd (BitVec.ofNat 64 (a.toNat / 2 ^ n)) ∧
    WritesG (.sra rk pg pn rd ra rb) s rk rd (BitVec.ofInt 64 (a.toInt / 2 ^ n)) ∧
    WritesG (.min rk pg pn rd ra rb) s rk rd (BitVec.ofInt 64 (min a.toInt b.toInt)) ∧
    WritesG (.max rk pg pn rd ra rb) s rk rd (BitVec.ofInt 64 (max a.toInt b.toInt)) ∧
    WritesG (.minu rk pg pn rd ra rb) s rk rd (BitVec.ofNat 64 (min a.toNat b.toNat)) ∧
    WritesG (.maxu rk pg pn rd ra rb) s rk rd (BitVec.ofNat 64 (max a.toNat b.toNat)) ∧
    (∀ z, (z ≤ 64 ∧ ∀ i, i < 64 → 64 - z ≤ i → a.getLsbD i = false) → (z < 64 → a.getLsbD (63 - z) = true) →
      WritesG (.clz rk pg pn rd ra) s rk rd (BitVec.ofNat 64 z)) ∧
    WritesG (.popc rk pg pn rd ra) s rk rd (BitVec.ofNat 64 ((List.range 64).countP fun i => a.getLsbD i)) ∧
    (∀ v : W64, (∀ i, i < 8 → v.extractLsb' (8 * i) 8 = a.extractLsb' (56 - 8 * i) 8) →
      WritesG (.bswap rk pg pn rd ra) s rk rd v)) ∧
  (∀ (s : State) (rk : Nat) (pg : BitVec 3) (pn : Bool) (rd ra : BitVec 5), Issues s rk pg pn →
    let a := (s.rake rk).getG ra
    (∀ imm : BitVec 12,
      WritesG (.addi rk pg pn rd ra imm) s rk rd (BitVec.ofInt 64 (a.toInt + imm.toInt)) ∧
      WritesG (.andi rk pg pn rd ra imm) s rk rd (a &&& BitVec.ofNat 64 imm.toNat) ∧
      WritesG (.ori rk pg pn rd ra imm) s rk rd (a ||| BitVec.ofNat 64 imm.toNat) ∧
      WritesG (.xori rk pg pn rd ra imm) s rk rd (a ^^^ BitVec.ofNat 64 imm.toNat)) ∧
    (∀ sh : BitVec 6,
      WritesG (.slli rk pg pn rd ra sh) s rk rd (BitVec.ofNat 64 (a.toNat * 2 ^ sh.toNat)) ∧
      WritesG (.srli rk pg pn rd ra sh) s rk rd (BitVec.ofNat 64 (a.toNat / 2 ^ sh.toNat)) ∧
      WritesG (.srai rk pg pn rd ra sh) s rk rd (BitVec.ofInt 64 (a.toInt / 2 ^ sh.toNat))) ∧
    (∀ (sh : BitVec 2) (imm : BitVec 16),
      WritesG (.imh rk pg pn rd sh imm) s rk rd (BitVec.ofInt 64 (imm.toInt * 2 ^ (16 * sh.toNat))) ∧
      WritesG (.orh rk pg pn rd sh imm) s rk rd
        ((s.rake rk).getG rd ||| BitVec.ofNat 64 (imm.toNat * 2 ^ (16 * sh.toNat)))))

/-- Table ISA-7: the compares and predicate instructions write one predicate, PGET writes p7 to p0 into bits [7:0]
of rd, PSET writes p1 to p7 from bits [7:1] of ra; p0 stays 1.
R63, table ISA-8: multiply and divide; a divisor of 0 and −2^63 ÷ −1 have the table's results and no fault. -/
def Obligations.PredicateMultiplyDivideResults : Prop :=
  (∀ (s : State) (rk : Nat) (pg : BitVec 3) (pn : Bool), Issues s rk pg pn →
    (∀ (pd : BitVec 3) (ra rb : BitVec 5),
      let a := (s.rake rk).getG ra
      let b := (s.rake rk).getG rb
      WritesP (.cmpeq rk pg pn pd ra rb) s rk pd (decide (a = b)) ∧
      WritesP (.cmpne rk pg pn pd ra rb) s rk pd (decide (a ≠ b)) ∧
      WritesP (.cmplt rk pg pn pd ra rb) s rk pd (decide (a.toInt < b.toInt)) ∧
      WritesP (.cmpge rk pg pn pd ra rb) s rk pd (decide (b.toInt ≤ a.toInt)) ∧
      WritesP (.cmpltu rk pg pn pd ra rb) s rk pd (decide (a.toNat < b.toNat)) ∧
      WritesP (.cmpgeu rk pg pn pd ra rb) s rk pd (decide (b.toNat ≤ a.toNat))) ∧
    (∀ (pd : BitVec 3) (ra : BitVec 5) (imm : BitVec 12),
      let a := (s.rake rk).getG ra
      WritesP (.cmpeqi rk pg pn pd ra imm) s rk pd (decide (a = imm.signExtend 64)) ∧
      WritesP (.cmplti rk pg pn pd ra imm) s rk pd (decide (a.toInt < imm.toInt)) ∧
      WritesP (.cmpltui rk pg pn pd ra imm) s rk pd (decide (a.toNat < (imm.signExtend 64).toNat))) ∧
    (∀ (pd pa pb : BitVec 3),
      let a := (s.rake rk).getP pa
      let b := (s.rake rk).getP pb
      WritesP (.pand rk pg pn pd pa pb) s rk pd (a && b) ∧
      WritesP (.por rk pg pn pd pa pb) s rk pd (a || b) ∧
      WritesP (.pxor rk pg pn pd pa pb) s rk pd (xor a b) ∧
      WritesP (.pandn rk pg pn pd pa pb) s rk pd (a && !b)) ∧
    (∀ (rd : BitVec 5) (v : W64), (∀ i, i < 64 → v.getLsbD i = (decide (i < 8) && (s.rake rk).getP (BitVec.ofNat 3 i))) →
      WritesG (.pget rk pg pn rd) s rk rd v) ∧
    (∀ (ra : BitVec 5), Completes (exec (.pset rk pg pn ra) s) fun t => RakeOnly rk s t ∧
      t.rake rk = { s.rake rk with p := (t.rake rk).p, pc := (s.rake rk).pc + 4 } ∧
      ∀ j : BitVec 3, (t.rake rk).getP j = if j = 0 then true else ((s.rake rk).getG ra).getLsbD j.toNat)) ∧
  (∀ (s : State) (rk : Nat) (pg : BitVec 3) (pn : Bool) (rd ra rb : BitVec 5), Issues s rk pg pn →
    let a := (s.rake rk).getG ra
    let b := (s.rake rk).getG rb
    WritesG (.mul rk pg pn rd ra rb) s rk rd (BitVec.ofNat 64 (a.toNat * b.toNat)) ∧
    WritesG (.mulhu rk pg pn rd ra rb) s rk rd (BitVec.ofNat 64 (a.toNat * b.toNat / 2 ^ 64)) ∧
    WritesG (.mulhs rk pg pn rd ra rb) s rk rd (BitVec.ofInt 64 (a.toInt * b.toInt / 2 ^ 64)) ∧
    (b = 0 →
      WritesG (.divu rk pg pn rd ra rb) s rk rd (BitVec.allOnes 64) ∧
      WritesG (.divs rk pg pn rd ra rb) s rk rd (BitVec.allOnes 64) ∧
      WritesG (.remu rk pg pn rd ra rb) s rk rd a ∧ WritesG (.rems rk pg pn rd ra rb) s rk rd a) ∧
    (b ≠ 0 →
      WritesG (.divu rk pg pn rd ra rb) s rk rd (BitVec.ofNat 64 (a.toNat / b.toNat)) ∧
      WritesG (.remu rk pg pn rd ra rb) s rk rd (BitVec.ofNat 64 (a.toNat % b.toNat)) ∧
      (∀ q r : Int, a.toInt = q * b.toInt + r → r.natAbs < b.toInt.natAbs → (r ≠ 0 → r.sign = a.toInt.sign) →
        WritesG (.divs rk pg pn rd ra rb) s rk rd (BitVec.ofInt 64 q) ∧
        WritesG (.rems rk pg pn rd ra rb) s rk rd (BitVec.ofInt 64 r))) ∧
    (a.toInt = -2 ^ 63 → b.toInt = -1 →
      WritesG (.divs rk pg pn rd ra rb) s rk rd (BitVec.ofInt 64 (-2 ^ 63)) ∧ WritesG (.rems rk pg pn rd ra rb) s rk rd 0))

/-- On R70, table ISA-10: the lane-by-lane instructions, for every lane of every lane width. -/
def Obligations.VectorLaneResults : Prop :=
  ∀ (s : State) (rk : Nat) (pg : BitVec 3) (pn : Bool) (wd wa wb : BitVec 4) (lt : BitVec 2), Issues s rk pg pn →
    let x (b j : Nat) : BitVec b := ((s.rake rk).getW wa).extractLsb' (b * j) b
    let y (b j : Nat) : BitVec b := ((s.rake rk).getW wb).extractLsb' (b * j) b
    let does (i : Instr) (f : (b j : Nat) → BitVec b) : Prop := ∀ v, LanesAre v lt f → WritesW i s rk wd v
    does (.vadd rk pg pn wd wa wb lt) (fun b j => BitVec.ofNat b ((x b j).toNat + (y b j).toNat)) ∧
    does (.vsub rk pg pn wd wa wb lt) (fun b j => BitVec.ofInt b ((x b j).toNat - (y b j).toNat)) ∧
    does (.vadds rk pg pn wd wa wb lt) (fun b j =>
      BitVec.ofInt b (max (-2 ^ (b - 1)) (min (2 ^ (b - 1) - 1) ((x b j).toInt + (y b j).toInt)))) ∧
    does (.vaddus rk pg pn wd wa wb lt) (fun b j => BitVec.ofNat b (min (2 ^ b - 1) ((x b j).toNat + (y b j).toNat))) ∧
    does (.vsubs rk pg pn wd wa wb lt) (fun b j =>
      BitVec.ofInt b (max (-2 ^ (b - 1)) (min (2 ^ (b - 1) - 1) ((x b j).toInt - (y b j).toInt)))) ∧
    does (.vsubus rk pg pn wd wa wb lt) (fun b j => BitVec.ofNat b ((x b j).toNat - (y b j).toNat)) ∧
    does (.vmul rk pg pn wd wa wb lt) (fun b j => BitVec.ofNat b ((x b j).toNat * (y b j).toNat)) ∧
    does (.vmin rk pg pn wd wa wb lt) (fun b j => BitVec.ofInt b (min (x b j).toInt (y b j).toInt)) ∧
    does (.vmax rk pg pn wd wa wb lt) (fun b j => BitVec.ofInt b (max (x b j).toInt (y b j).toInt)) ∧
    does (.vminu rk pg pn wd wa wb lt) (fun b j => BitVec.ofNat b (min (x b j).toNat (y b j).toNat)) ∧
    does (.vmaxu rk pg pn wd wa wb lt) (fun b j => BitVec.ofNat b (max (x b j).toNat (y b j).toNat)) ∧
    does (.vavgu rk pg pn wd wa wb lt) (fun b j => BitVec.ofNat b (((x b j).toNat + (y b j).toNat + 1) / 2)) ∧
    does (.vabsdu rk pg pn wd wa wb lt) (fun b j =>
      BitVec.ofNat b (max (x b j).toNat (y b j).toNat - min (x b j).toNat (y b j).toNat)) ∧
    does (.vcmpeq rk pg pn wd wa wb lt) (fun b j => if x b j = y b j then BitVec.allOnes b else 0) ∧
    does (.vcmpgt rk pg pn wd wa wb lt) (fun b j => if (y b j).toInt < (x b j).toInt then BitVec.allOnes b else 0) ∧
    does (.vcmpgtu rk pg pn wd wa wb lt) (fun b j => if (y b j).toNat < (x b j).toNat then BitVec.allOnes b else 0) ∧
    does (.vsll rk pg pn wd wa wb lt) (fun b j => BitVec.ofNat b ((x b j).toNat * 2 ^ ((y b j).toNat % b))) ∧
    does (.vsrl rk pg pn wd wa wb lt) (fun b j => BitVec.ofNat b ((x b j).toNat / 2 ^ ((y b j).toNat % b))) ∧
    does (.vsra rk pg pn wd wa wb lt) (fun b j => BitVec.ofInt b ((x b j).toInt / 2 ^ ((y b j).toNat % b)))

/-- On R70, tables ISA-10 and ISA-11: the whole-vector instructions, the sums, VPERM, and the moves between general and
vector registers; a lane at or above the lane count is not encoded. -/
def Obligations.VectorWholeAndMoveResults : Prop :=
  ∀ (s : State) (rk : Nat) (pg : BitVec 3) (pn : Bool) (wd wa wb : BitVec 4), Issues s rk pg pn →
    let d := (s.rake rk).getW wd
    let x := (s.rake rk).getW wa
    let y := (s.rake rk).getW wb
    let xb (j : Nat) : Nat := (x.extractLsb' (8 * j) 8).toNat
    let yb (j : Nat) : Nat := (y.extractLsb' (8 * j) 8).toNat
    WritesW (.vand rk pg pn wd wa wb) s rk wd (x &&& y) ∧
    WritesW (.vor rk pg pn wd wa wb) s rk wd (x ||| y) ∧
    WritesW (.vxor rk pg pn wd wa wb) s rk wd (x ^^^ y) ∧
    WritesW (.vsel rk pg pn wd wa wb) s rk wd ((x &&& d) ||| (y &&& ~~~d)) ∧
    WritesW (.vsad rk pg pn wd wa wb) s rk wd
      (BitVec.ofNat 256 (((List.range 32).map fun j => max (xb j) (yb j) - min (xb j) (yb j)).sum)) ∧
    (∀ v, LanesAre v 0 (fun b j => if 128 ≤ yb j then 0 else BitVec.ofNat b (xb (yb j % 32))) →
      WritesW (.vperm rk pg pn wd wa wb) s rk wd v) ∧
    ∀ lt : BitVec 2,
      let b := 8 * 2 ^ lt.toNat
      WritesW (.vhsum rk pg pn wd wa lt) s rk wd
        (BitVec.ofNat 256 (((List.range (256 / b)).map fun j => (x.extractLsb' (b * j) b).toNat).sum % 2 ^ 64)) ∧
      (∀ (ra : BitVec 5) (v : W256), LanesAre v lt (fun b _ => BitVec.ofNat b ((s.rake rk).getG ra).toNat) →
        WritesW (.vsplat rk pg pn wd ra lt) s rk wd v) ∧
      ∀ (ra lane : BitVec 5), lane.toNat < 256 / b →
        (∀ v, LanesAre v lt (fun b j => if j = lane.toNat then BitVec.ofNat b ((s.rake rk).getG ra).toNat
            else d.extractLsb' (b * j) b) →
          WritesW (.vins rk pg pn wd ra lane lt) s rk wd v) ∧
        WritesG (.vext rk pg pn ra wa lane lt) s rk ra (BitVec.ofNat 64 (x.extractLsb' (b * lane.toNat) b).toNat) ∧
        WritesG (.vexts rk pg pn ra wa lane lt) s rk ra (BitVec.ofInt 64 (x.extractLsb' (b * lane.toNat) b).toInt)

/-- On R62: a taken branch or jump to a word of the store sets the PC and nothing else but the link register; a target
outside the store, or not on a word, raises the instruction-fetch fault at the jump, with no link written.
On R58, R59: a legal Glidel instruction whose guard is false completes and does nothing but go on to the next
instruction.
On R62: an instruction at 0xFFFC takes effect, and then the instruction-fetch fault is raised in place of the next one.
The model's reading or choice where the spec leaves it open: log entry 19. -/
def Obligations.ControlFlow : Prop :=
  (∀ (s : State) (rk : Nat) (pg : BitVec 3) (pn : Bool), Issues s rk pg pn →
    let pc := (s.rake rk).pc
    let jumps (i : Instr) (target : Int) (link : Option (BitVec 5)) : Prop :=
      (0 ≤ target ∧ target ≤ 0xFFFC ∧ target % 4 = 0 →
        Completes (exec i s) fun t => RakeOnly rk s t ∧
          t.rake rk = { s.rake rk with g := (t.rake rk).g, pc := target.toNat } ∧
          ∀ j, (t.rake rk).getG j =
            if some j = link ∧ j ≠ 0 then BitVec.ofNat 64 (pc + 4) else (s.rake rk).getG j) ∧
      (¬ (0 ≤ target ∧ target ≤ 0xFFFC ∧ target % 4 = 0) →
        exec i s = .next (s.issued (s.rakeFault rk 0x02 pc (target % 2 ^ 64).toNat) rk true 0))
    (∀ off : BitVec 22,
      jumps (.br rk pg pn off) (pc + 4 * off.toInt) none ∧ jumps (.call rk pg pn off) (pc + 4 * off.toInt) (some 31)) ∧
    ∀ rd ra : BitVec 5,
      jumps (.jr rk pg pn ra) ((s.rake rk).getG ra).toNat none ∧
      jumps (.jalr rk pg pn rd ra) ((s.rake rk).getG ra).toNat (some rd)) ∧
  (∀ (i : Instr) (s : State) (rk : Nat) (w : W32), glidelRake i = some rk → i.wf = true → encodeGlidel i = some w →
    (s.rake rk).issues = true → (s.rake rk).pc < 0xFFFC →
    xor ((s.rake rk).getP (w.extractLsb' 23 3)) (w.getLsbD 22) = false →
    Completes (exec i s) fun t => RakeOnly rk s t ∧
      t.rake rk = { s.rake rk with pc := (s.rake rk).pc + 4 }) ∧
  (∀ (s : State) (rk : Nat) (pg : BitVec 3) (pn : Bool),
    rk < 104 → (s.rake rk).issues = true → guardOk pg pn = true → xor ((s.rake rk).getP pg) pn = true →
    (s.rake rk).pc = 0xFFFC → FaultsP (.nop rk pg pn) s rk 0x02 0xFFFC 0x10000 [])

/-- On R64, R66 to R68: a load from scratch whose word reads without error puts the bytes, zero- or sign-extended, into its
register; a device load is in flight until its data return, and DEVICE_LOAD_RETURN then does the same. No byte of memory
changes.
The model's reading or choice where the spec leaves it open: log entry 17. -/
def Obligations.LoadsComplete : Prop :=
  ∀ (s : State) (rk : Nat) (pg : BitVec 3) (pn : Bool) (ra : BitVec 5) (off : BitVec 8),
    (Issues s rk pg pn →
      (∀ (rd : BitVec 5) (sz : BitVec 2) (sx : Bool) (d : W256),
        let n := 2 ^ sz.toNat
        let ea := ea64 s rk ra off n
        let b := d.extractLsb' (8 * (ea % 32)) (8 * n)
        ¬ (sx = true ∧ sz = 3) → ea % n = 0 → ea + n ≤ 0x70000 →
        (s.memRead (Src.rake rk) (scratchWord rk ea)).1 = .ok d →
        Completes (exec (.ld rk pg pn rd ra false sz sx off) s) fun t =>
          t = { Around s t with rakes := t.rakes } ∧ (∀ m, m ≠ rk → t.rake m = s.rake m) ∧
          t.rake rk = { s.rake rk with g := (t.rake rk).g, pc := (s.rake rk).pc + 4 } ∧
          ∀ j, (t.rake rk).getG j =
            if j = rd ∧ j ≠ 0 then (if sx then b.signExtend 64 else b.setWidth 64) else (s.rake rk).getG j) ∧
      (∀ (wd : BitVec 4) (d : W256),
        let ea := ea64 s rk ra off 32
        ea % 32 = 0 → ea + 32 ≤ 0x70000 → (s.memRead (Src.rake rk) (scratchWord rk ea)).1 = .ok d →
        Completes (exec (.ldv rk pg pn wd ra false off) s) fun t =>
          t = { Around s t with rakes := t.rakes } ∧ (∀ m, m ≠ rk → t.rake m = s.rake m) ∧
          t.rake rk = { s.rake rk with w := (t.rake rk).w, pc := (s.rake rk).pc + 4 } ∧
          ∀ j, (t.rake rk).getW j = if j = wd then d else (s.rake rk).getW j) ∧
      (∀ (rd : BitVec 5) (sz : BitVec 2) (sx : Bool),
        let ea := ea64 s rk ra off (2 ^ sz.toNat)
        ¬ (sx = true ∧ sz = 3) → ea % 2 ^ sz.toNat = 0 → inMem ea = true →
        Completes (exec (.ld rk pg pn rd ra true sz sx off) s) fun t => RakeOnly rk s t ∧
          t.rake rk = { s.rake rk with devLoad := some (.scalar rd sz.toNat sx ea) }) ∧
      (∀ wd : BitVec 4,
        let ea := ea64 s rk ra off 32
        ea % 32 = 0 → inMem ea = true →
        Completes (exec (.ldv rk pg pn wd ra true off) s) fun t => RakeOnly rk s t ∧
          t.rake rk = { s.rake rk with devLoad := some (.vector wd ea) })) ∧
    (rk < 104 → (s.rake rk).pc < 0xFFFC →
      (∀ (rd : BitVec 5) (sz a : Nat) (sx : Bool) (d : W256),
        let b := d.extractLsb' (8 * (a % 32)) (8 * 2 ^ sz)
        (s.rake rk).devLoad = some (.scalar rd sz sx a) → inRegs a = false →
        (s.memRead (Src.rake rk) (a / 32 * 32)).1 = .ok d →
        Completes (exec (.deviceLoadReturn rk) s) fun t =>
          t = { Around s t with rakes := t.rakes, freeCtr := t.freeCtr } ∧ (∀ m, m ≠ rk → t.rake m = s.rake m) ∧
          t.rake rk = { s.rake rk with g := (t.rake rk).g, devLoad := none, pc := (s.rake rk).pc + 4 } ∧
          ∀ j, (t.rake rk).getG j =
            if j = rd ∧ j ≠ 0 then (if sx then b.signExtend 64 else b.setWidth 64) else (s.rake rk).getG j) ∧
      (∀ (wd : BitVec 4) (a : Nat) (d : W256),
        (s.rake rk).devLoad = some (.vector wd a) → inRegs a = false →
        (s.memRead (Src.rake rk) (a / 32 * 32)).1 = .ok d →
        Completes (exec (.deviceLoadReturn rk) s) fun t =>
          t = { Around s t with rakes := t.rakes, freeCtr := t.freeCtr } ∧ (∀ m, m ≠ rk → t.rake m = s.rake m) ∧
          t.rake rk = { s.rake rk with w := (t.rake rk).w, devLoad := none, pc := (s.rake rk).pc + 4 } ∧
          ∀ j, (t.rake rk).getW j = if j = wd then d else (s.rake rk).getW j))

/-- On R64, R66, R67, R123: a store whose word takes it writes the low 2^SZ bytes of rd, or the 32 bytes of w(wd), at the
effective address, in scratch or in HBM and the banks, and nothing else but the counts of its read and write. The word
reads back with those bytes. A store to HBM and the banks is posted: the rake keeps it as one in flight until its next FENCE.
The model's reading or choice where the spec leaves it open: log entry 17. -/
def Obligations.StoresComplete : Prop :=
  ∀ (s : State) (rk : Nat) (pg : BitVec 3) (pn : Bool) (ra : BitVec 5) (off : BitVec 8) (sp : Bool) (u : MemUnit) (d : W256),
    Memory.wf s.mem → Issues s rk pg pn →
    let goesTo (ea n : Nat) (i : Instr) (v : Nat) : Prop :=
      let a := if sp then ea / 32 * 32 else scratchWord rk ea
      ea % n = 0 → (if sp then inMem ea = true else ea + n ≤ 0x70000) →
      memUnit a = some u → s.writeRefused (Src.rake rk) a u = none → s.flag u.regs.arm u.regs.inst 0 = false →
      decodeWord (readCode s.mem a) = .clean d →
      Completes (exec i s) fun t =>
        t = { Around s t with rakes := t.rakes, mem := t.mem } ∧ (∀ m, m ≠ rk → t.rake m = s.rake m) ∧
        t.rake rk = { s.rake rk with
          pc := (s.rake rk).pc + 4,
          posted := if sp then ((s.rake rk).pc, ea) :: (s.rake rk).posted else (s.rake rk).posted } ∧
        Sets s t [] ∧ Posts s t [] ∧
        MemBut s t (a + ea % 32) n ∧ (∀ b, b % 32 = 0 → b ≠ a → b < 2 ^ 48 → readCode t.mem b = readCode s.mem b) ∧
        ∃ d', readCode t.mem a = encodeWord d' ∧
          ∀ j, j < 32 → d'.extractLsb' (8 * j) 8 =
            if ea % 32 ≤ j ∧ j < ea % 32 + n then BitVec.ofNat 8 (v / 256 ^ (j - ea % 32)) else d.extractLsb' (8 * j) 8
    (∀ (rd : BitVec 5) (sz : BitVec 2), goesTo (ea64 s rk ra off (2 ^ sz.toNat)) (2 ^ sz.toNat)
      (.st rk pg pn rd ra sp sz off) ((s.rake rk).getG rd).toNat) ∧
    ∀ wd : BitVec 4, goesTo (ea64 s rk ra off 32) 32 (.stv rk pg pn wd ra sp off) ((s.rake rk).getW wd).toNat

/-- On R69: an atomic on a word that reads without error writes the new value of its 8 bytes, and rd receives the old
value. -/
def Obligations.AtomicsComplete : Prop :=
  ∀ (s : State) (rk : Nat) (pg : BitVec 3) (pn : Bool) (rd ra rb : BitVec 5) (sp : Bool) (u : MemUnit) (d : W256),
    Memory.wf s.mem → Issues s rk pg pn →
    let ea := ((s.rake rk).getG ra).toNat
    let a := if sp then ea / 32 * 32 else scratchWord rk ea
    let old : W64 := d.extractLsb' (8 * (ea % 32)) 64
    let b := (s.rake rk).getG rb
    let does (i : Instr) (v : W64) : Prop :=
      ea % 8 = 0 → (if sp then inMem ea = true else ea + 8 ≤ 0x70000) →
      (sp = true → ∀ c, (s.rake rk).task = some c → bitOf c.attr 0 = false) →
      memUnit a = some u → s.writeRefused (Src.rake rk) a u = none → decodeWord (readCode s.mem a) = .clean d →
      Completes (exec i s) fun t =>
        t = { Around s t with rakes := t.rakes, mem := t.mem } ∧ (∀ m, m ≠ rk → t.rake m = s.rake m) ∧
        t.rake rk = { s.rake rk with g := (t.rake rk).g, pc := (s.rake rk).pc + 4 } ∧
        (∀ j, (t.rake rk).getG j = if j = rd ∧ j ≠ 0 then old else (s.rake rk).getG j) ∧
        Sets s t [] ∧ Posts s t [] ∧
        MemBut s t (a + ea % 32) 8 ∧ (∀ c, c % 32 = 0 → c ≠ a → c < 2 ^ 48 → readCode t.mem c = readCode s.mem c) ∧
        ∃ d', readCode t.mem a = encodeWord d' ∧
          ∀ j, j < 32 → d'.extractLsb' (8 * j) 8 =
            if ea % 32 ≤ j ∧ j < ea % 32 + 8 then v.extractLsb' (8 * (j - ea % 32)) 8 else d.extractLsb' (8 * j) 8
    does (.aadd rk pg pn rd ra rb sp) (old + b) ∧
    does (.aswap rk pg pn rd ra rb sp) b ∧
    does (.acas rk pg pn rd ra rb sp) (if old = (s.rake rk).getG rd then b else old) ∧
    does (.aand rk pg pn rd ra rb sp) (old &&& b) ∧
    does (.aor rk pg pn rd ra rb sp) (old ||| b) ∧
    does (.amaxu rk pg pn rd ra rb sp) (BitVec.ofNat 64 (max old.toNat b.toNat)) ∧
    does (.aminu rk pg pn rd ra rb sp) (BitVec.ofNat 64 (min old.toNat b.toNat))

/-- On R65, R69, R84: the checks of a memory instruction, the first that applies: alignment, local bound, address, and the
class violation of a replayable task. An access to an unmapped range posts access-error (R40).
The model's readings and choices where the spec leaves it open: log entries 13 and 18. -/
def Obligations.AccessChecksFault : Prop :=
  ∀ (s : State) (rk : Nat) (pg : BitVec 3) (pn : Bool) (rd ra rb : BitVec 5) (wd : BitVec 4) (off : BitVec 8) (sp : Bool),
    Issues s rk pg pn →
    let pc := (s.rake rk).pc
    let replayable := ∃ c, (s.rake rk).task = some c ∧ bitOf c.attr 0 = true
    let checked (i : Instr) (ea n : Nat) (window : Prop) : Prop :=
      let f (cause : Nat) (pre : List Ev) : Prop := FaultsP i s rk cause pc ea pre
      (ea % n ≠ 0 → f 0x03 []) ∧
      (ea % n = 0 → sp = false → 0x70000 < ea + n → f 0x04 []) ∧
      (ea % n = 0 → sp = true → 2 ^ 48 ≤ ea → f 0x05 []) ∧
      (ea % n = 0 → sp = true → ea < 2 ^ 48 → mapped ea = false →
        f 0x05 [⟨Src.fabric, 0x0000, [.u 2 (Src.rake rk), .u 6 ea, .u 1 2]⟩]) ∧
      (ea % n = 0 → sp = true → window → f 0x07 [])
    (∀ (sz : BitVec 2) (sx : Bool),
      let ea := ea64 s rk ra off (2 ^ sz.toNat)
      (¬ (sx = true ∧ sz = 3) →
        checked (.ld rk pg pn rd ra sp sz sx off) ea (2 ^ sz.toNat) (inRegs ea = true ∧ replayable)) ∧
      checked (.st rk pg pn rd ra sp sz off) ea (2 ^ sz.toNat) (inRegs ea = true ∧ replayable)) ∧
    checked (.ldv rk pg pn wd ra sp off) (ea64 s rk ra off 32) 32
      (inRegs (ea64 s rk ra off 32) = true ∧ replayable) ∧
    checked (.stv rk pg pn wd ra sp off) (ea64 s rk ra off 32) 32
      (inRegs (ea64 s rk ra off 32) = true ∧ replayable) ∧
    let ea := ((s.rake rk).getG ra).toNat
    ∀ i ∈ [Instr.aadd rk pg pn rd ra rb sp, .aswap rk pg pn rd ra rb sp, .acas rk pg pn rd ra rb sp,
        .aand rk pg pn rd ra rb sp, .aor rk pg pn rd ra rb sp, .amaxu rk pg pn rd ra rb sp, .aminu rk pg pn rd ra rb sp],
      checked i ea 8 (inMem ea = true ∧ replayable) ∧
      (ea % 8 = 0 → sp = true → inRegs ea = true → FaultsP i s rk 0x05 pc ea [])

/-- R71 to R73, R92, R93: the outbox instructions add one entry and go on; a failed operand check raises fault 0x08, a
49th entry fault 0x09. -/
def Obligations.OutboxInstructions : Prop :=
  ∀ (s : State) (rk : Nat) (pg : BitVec 3) (pn : Bool) (rd ra rb : BitVec 5) (wb : BitVec 4), Issues s rk pg pn →
    let a := (s.rake rk).getG ra
    let b := (s.rake rk).getG rb
    let d := (s.rake rk).getG rd
    let w := (s.rake rk).getW wb
    let token (port : Nat) : Prop := bitsOf a 16 14 ≤ port ∧ bitsOf a 23 17 = 0 ∧ bitsOf a 63 32 = 0
    let adds (i : Instr) (ok : Prop) (e : OutEntry) : Prop :=
      (ok → (s.rake rk).outbox.length < 48 →
        Completes (exec i s) fun t => RakeOnly rk s t ∧
          t.rake rk = { s.rake rk with outbox := (s.rake rk).outbox ++ [e], pc := (s.rake rk).pc + 4 }) ∧
      (¬ ok → FaultsP i s rk 0x08 (s.rake rk).pc 0 []) ∧
      (ok → 48 ≤ (s.rake rk).outbox.length → FaultsP i s rk 0x09 (s.rake rk).pc 0 [])
    adds (.tsend rk pg pn ra rb) (token 3) (.token a b) ∧
    adds (.tdelay rk pg pn rd ra rb) (bitsOf d 19 0 ≠ 0 ∧ bitsOf d 63 22 = 0 ∧ token 4) (.delayed d a b) ∧
    adds (.tcancel rk pg pn ra) (bitsOf a 23 14 = 0 ∧ bitsOf a 63 32 = 0) (.cancel a) ∧
    adds (.tarm rk pg pn ra rb)
      (bitsOf a 63 14 = 0 ∧ bitsOf b 30 28 ≤ 4 ∧ b.getLsbD 55 = false ∧ (b.getLsbD 36 = true → bitsOf b 43 37 ≤ 95)) (.arm a b) ∧
    adds (.frel rk pg pn ra rb)
      (∃ c, (s.rake rk).task = some c ∧ c.attr.getLsbD 2 = true ∧ a.toNat = bitsOf c.flow 9 0) (.frel a.toNat b) ∧
    adds (.evpost rk pg pn ra wb) (0xC000 ≤ bitsOf a 15 0) (.event (a.extractLsb' 0 16) (w.extractLsb' 0 112)) ∧
    adds (.pcmd rk pg pn ra wb)
      (bitsOf a 63 16 = 0 ∧ queueOk (bitsOf a 12 8) (bitsOf a 7 0) (bitsOf a 15 13) = true) (.pcmd a w)

/-- On R52, R59, R68, R74, R77, R78, tables ISA-13 to ISA-15: NOP, FENCE, BRK, TEND, TFAIL, SRD; SWR and every word that no
instruction encodes raise the illegal-instruction fault whatever the guard. What CYCLE has counted is a free value (log entry 97);
BRK in DRAIN only goes on, and FENCE leaves no posted store in flight (log entries 85, 93).
The model's readings and choices where the spec leaves it open: log entries 1 and 19. -/
def Obligations.SystemInstructions : Prop :=
  ∀ (s : State) (rk : Nat) (pg : BitVec 3) (pn : Bool),
    let r := s.rake rk
    (Issues s rk pg pn →
      Completes (exec (.nop rk pg pn) s) (fun t => RakeOnly rk s t ∧ t.rake rk = { r with pc := r.pc + 4 }) ∧
      (r.storeErr = none →
        Completes (exec (.fence rk pg pn) s)
          (fun t => RakeOnly rk s t ∧ t.rake rk = { r with posted := [], pc := r.pc + 4 }) ∧
        Completes (exec (.tend rk pg pn) s) (fun t => RakeOnly rk s t ∧ t.rake rk = { r with ending := true })) ∧
      (∀ e, r.storeErr = some e → e.cause < 0x20 →
        FaultsP (.fence rk pg pn) s rk e.cause e.pc e.addr [] ∧ FaultsP (.tend rk pg pn) s rk e.cause e.pc e.addr []) ∧
      (s.flag F.RK_CTRL_DBG_EN rk 0 = true → s.flag F.SEC_STAT_DBG 0 0 = true →
        Completes (exec (.brk rk pg pn) s) fun t => RakeOnly rk s t ∧
          t.rake rk = { r with st := if r.st = .run then .halt else r.st, pc := r.pc + 4 }) ∧
      (¬ (s.flag F.RK_CTRL_DBG_EN rk 0 = true ∧ s.flag F.SEC_STAT_DBG 0 0 = true) →
        FaultsP (.brk rk pg pn) s rk 0x0B r.pc 0 []) ∧
      (∀ ra, FaultsP (.tfail rk pg pn ra) s rk 0x0C r.pc (bitsOf (r.getG ra) 15 0) []) ∧
      (∀ (rd : BitVec 5) (c : TaskCtx), r.task = some c →
        let reads (num : BitVec 12) (v : W64) : Prop := WritesG (.srd rk pg pn rd num) s rk rd v
        reads 0x000 (BitVec.ofNat 64 c.slot) ∧ reads 0x001 c.attr ∧ reads 0x002 c.flow ∧
        reads 0x003 (BitVec.ofNat 64 c.opcnt) ∧ reads 0x004 (BitVec.ofNat 64 c.replay) ∧
        (∀ p, r.pos = some p → reads 0x008 (BitVec.ofNat 64 p)) ∧ reads 0x009 (BitVec.ofNat 64 rk) ∧
        reads 0x011 c.tstart ∧ reads 0x019 r.latNs ∧ reads 0x01A r.latFrac ∧
        reads 0x020 (BitVec.ofNat 64 r.outbox.length) ∧
        (Completes (exec (.srd rk pg pn rd 0x018) s) fun t => RakeOnly rk s t ∧
          t.rake rk = { r with
            g := (t.rake rk).g, pc := r.pc + 4
            latNs := BitVec.ofNat 64 s.time.ns, latFrac := BitVec.ofNat 64 s.time.frac } ∧
          ∀ j, (t.rake rk).getG j = if j = rd ∧ j ≠ 0 then s.time.sec else r.getG j) ∧
        (Completes (exec (.srd rk pg pn rd 0x010) s) fun t =>
          t = { s with rakes := t.rakes, pmu := t.pmu, tags := t.tags, freeCtr := t.freeCtr } ∧
          (∀ n, n ≠ rk → t.rake n = s.rake n) ∧
          t.rake rk = { r with g := (t.rake rk).g, cycle := (t.rake rk).cycle, pc := r.pc + 4 } ∧
          ∀ j, (t.rake rk).getG j = if j = rd ∧ j ≠ 0 then (t.rake rk).cycle else r.getG j))) ∧
    (rk < 104 → r.issues = true →
      (∀ (ra : BitVec 5) (num : BitVec 12), FaultsP (.swr rk pg pn ra num) s rk 0x01 r.pc 0 []) ∧
      (∀ w : W32, decodeGlidel rk w = none → FaultsP (.illegalInstruction rk w) s rk 0x01 r.pc 0 []))

/-- On R74, R75, R109: the commit point of a task whose rake was not asked to drain: its slot is FREE, the entries of its outbox await
delivery in program order, a delayed token with the tick in which it is due (R99), and the rake is IDLE. The releases of a member
of an ordered flow go to its place in the flow; each event of the outbox is posted by the position. A rake asked to load loads.
On R52, R68, R76, R512, R513: what ends a task or a rake from outside the instruction stream, and the resumption of a
halted rake.
The model's readings and choices where the spec leaves it open: log entries 17, 66, 81, 82, 83 and 85. -/
def Obligations.CommitsAndRakeEvents : Prop :=
  (∀ (s : State) (rk p : Nat) (c : TaskCtx),
    let r := s.rake rk
    let x := s.slot c.slot
    let events := r.outbox.filter fun e => match e with | .event .. => true | _ => false
    let frels := r.outbox.filterMap fun e => match e with | .frel _ v => some v | _ => none
    let late := r.outbox.filter fun e => match e with | .event .. => false | .frel .. => false | _ => true
    let commits (t : State) : Prop :=
      (∀ n, n ≠ rk → t.rake n = s.rake n) ∧ t.slot c.slot = {} ∧ (∀ n, n ≠ c.slot → t.slot n = s.slot n) ∧
      Tab.getD t.tally.commits p [] = Tab.getD s.tally.commits p [] ++ (late.map fun e => match e with
        | .delayed dl d v => .due (bitsOf dl 21 20) (s.tally.tick + bitsOf dl 19 0) d v
        | e => e) ∧
      (∀ q, q ≠ p → Tab.getD t.tally.commits q [] = Tab.getD s.tally.commits q []) ∧ t.tally.inbox = s.tally.inbox ∧
      (x.desc.getLsbD 44 = false → t.tally.flows = s.tally.flows) ∧
      (x.desc.getLsbD 44 = true → let f := s.flow (descFlow x.desc)
        t.flow (descFlow x.desc) = { f with fates := Tab.set f.fates x.flowPos (.done frels) } ∧
        ∀ g, g ≠ descFlow x.desc → t.flow g = s.flow g)
    rk < 104 →
    (r.task = none ∨ r.ending = false ∨ r.storeErr ≠ none → exec (.taskCommit rk) s = .next s) ∧
    (r.task = some c → r.ending = true → r.storeErr = none → r.pos = some p →
      (r.drainTo = none → Completes (exec (.taskCommit rk) s) fun t =>
        t = { Around s t with rakes := t.rakes, tally := t.tally } ∧ OnlyRegs s t [] ∧ commits t ∧
        t.rake rk = { r with
          st := .idle, task := none, outbox := [], devLoad := none, storeErr := none, posted := [], ending := false } ∧
        (t.evSource (Src.pos p)).seq = (s.evSource (Src.pos p)).seq + BitVec.ofNat 32 events.length ∧
        (∀ k, k ≠ Src.pos p → t.evSource k = s.evSource k) ∧ (events = [] → t.events = s.events ∧ t.regs = s.regs)) ∧
      (r.drainTo = some .load → Completes (exec (.taskCommit rk) s) fun t =>
        t = { Around s t with rakes := t.rakes, tally := t.tally } ∧ OnlyRegs s t [] ∧ commits t ∧
        t.rake rk = { ({} : Rake) with
          st := .loading, pos := some p, loadFrom := some ((s.fget F.RK_IMG_BASE_BASE 0 0 + p) * 0x80000) }))) ∧
  (∀ (s : State) (rk : Nat), rk < 104 →
    let r := s.rake rk
    (∀ e, r.storeErr = some e → e.cause < 0x20 → r.st ≠ .halt → FaultsP (.storeFault rk) s rk e.cause e.pc e.addr []) ∧
    (r.st = .run ∨ r.st = .drain → s.fget F.RK_WDOG_BUDGET 0 0 ≠ 0 →
      FaultsP (.watchdogFault rk) s rk 0x0A r.pc 0 []) ∧
    (r.st = .halt ∨ r.storeErr = none ∨ r.task = none → exec (.storeFault rk) s = .next s) ∧
    (¬ (r.st = .run ∨ r.st = .drain) ∨ r.task = none ∨ s.fget F.RK_WDOG_BUDGET 0 0 = 0 →
      exec (.watchdogFault rk) s = .next s) ∧
    (∀ se : Bool, r.st = .off ∨ r.st = .retired ∨ s.bank (16 + rk) ≠ .on ∨ se = true ∧ r.st ≠ .run ∧ r.st ≠ .drain →
      exec (.selfCheckFailure rk se) s = .next s) ∧
    (∀ (se : Bool) (c : TaskCtx) (p sp : Nat),
      let x := s.slot c.slot
      s.bank (16 + rk) = .on → r.st = .run → r.task = some c → x.st = .run → r.pos = some p → r.drainTo = none → sp < 104 →
      (s.rake sp).st = .spare → (s.rake sp).held = false → (∀ n, n < sp → (s.rake n).st ≠ .spare ∨ (s.rake n).held = true) →
      Completes (exec (.selfCheckFailure rk se) s) fun t =>
        t = { Around s t with rakes := t.rakes, tally := t.tally } ∧ (∀ n, n ≠ rk → n ≠ sp → t.rake n = s.rake n) ∧
        t.rake rk = { ({} : Rake) with st := .retired } ∧
        t.rake sp = { ({} : Rake) with
          st := .loading, pos := some p, loadFrom := some ((s.fget F.RK_IMG_BASE_BASE 0 0 + p) * 0x80000) } ∧
        t.slot c.slot =
          (if x.desc.getLsbD 31 = true ∧ x.replay < 2 then { x with st := .ready, replay := x.replay + 1 } else {}) ∧
        ∀ n, n ≠ c.slot → t.slot n = s.slot n) ∧
    (s.bank (16 + rk) = .on → r.st = .spare → r.task = none → r.pos = none →
      let cause := 0x22
      Completes (exec (.selfCheckFailure rk false) s) fun t =>
        t = { Around s t with rakes := t.rakes } ∧ (∀ n, n ≠ rk → t.rake n = s.rake n) ∧
        (t.rake rk).st = .retired ∧ (t.rake rk).pos = none ∧
        Sets s t [⟨F.RK_FAULT_COUNT, rk, 0, min (s.fget F.RK_FAULT_COUNT rk 0 + 1) 0xFFFF⟩, ⟨F.RK_FAULT_NEW, rk, 0, 1⟩,
          ⟨F.RK_FAULT_CAUSE, rk, 0, cause⟩, ⟨F.RK_FAULT_PC_REPLAY, rk, 0, 0⟩, ⟨F.RK_FAULT_PC_SLOT, rk, 0, 0⟩,
          ⟨F.RK_FAULT_PC_PC, rk, 0, 0⟩, ⟨F.RK_FAULT_ADDR_LO_ADDR, rk, 0, 0⟩, ⟨F.RK_FAULT_ADDR_HI_ADDR, rk, 0, 0⟩] ∧
        Posts s t [⟨Src.rake rk, 0x0600, [.u 1 cause, .u 2 0, .u 6 0, .u 2 0, .u 1 0]⟩]) ∧
    (∀ (req : Nat) (val : W32), r.st = .halt → val.getLsbD 1 = true → r.pc < 0x10000 →
      Completes (exec (.resume req rk val) s) fun t =>
        t = { s with rakes := t.rakes, regs := t.regs } ∧ (∀ n, n ≠ rk → t.rake n = s.rake n) ∧
        t.rake rk = { r with st := .run } ∧
        Sets s t [⟨F.RK_CTRL_DBG_EN, rk, 0, bitsOf val 0 0⟩]) ∧
    (∀ (req : Nat) (val : W32), r.st ≠ .halt ∨ val.getLsbD 1 = false →
      Completes (exec (.resume req rk val) s) fun t =>
        t = { s with regs := t.regs } ∧ Sets s t [⟨F.RK_CTRL_DBG_EN, rk, 0, bitsOf val 0 0⟩]))

/-- On R49, R51, R86, R87, R90, R514: RK_CMD LOAD, SWAP, RETIRE and RESTORE of an idle or spare rake with no command in progress, what
refuses or drops one, the end of an image load, and the failure of one.
The model's readings and choices where the spec leaves it open: log entries 6, 67, 83, 84, 89 and 90. -/
def Obligations.RakeManagerCommands : Prop :=
  ∀ (s : State) (req : Nat) (val : W32) (rk p : Nat),
    let op := bitsOf val 3 0
    let target := bitsOf val 14 8
    let base := s.fget F.RK_IMG_BASE_BASE 0 0
    let image := (base + p) * 0x80000
    let loading : Rake := { ({} : Rake) with st := .loading, pos := some p, loadFrom := some image }
    (s.mgr.cmd = none → op = 1 → target = p → p < 96 → base + 95 ≤ 65535 → s.rakeOf p = some rk → s.autoLoading p = false →
      (s.rake rk).st = .empty ∨ (s.rake rk).st = .idle →
      Completes (exec (.rkLoad req val) s) fun t =>
        t = { s with rakes := t.rakes, regs := t.regs, mgr := { s.mgr with cmd := some ⟨[p], []⟩ } } ∧
        t.rake rk = loading ∧ (∀ n, n ≠ rk → t.rake n = s.rake n) ∧ Sets s t [⟨F.RK_CMD_STAT_STATUS, 0, 0, 1⟩]) ∧
    (s.mgr.cmd = none → op = 1 → target = p → p < 96 → base + 95 ≤ 65535 → s.rakeOf p = some rk → s.autoLoading p = false →
      (s.rake rk).st = .run →
      Completes (exec (.rkLoad req val) s) fun t =>
        t = { s with rakes := t.rakes, regs := t.regs, mgr := { s.mgr with cmd := some ⟨[p], []⟩ } } ∧
        t.rake rk = { s.rake rk with st := .drain, drainTo := some .load } ∧ (∀ n, n ≠ rk → t.rake n = s.rake n) ∧
        Sets s t [⟨F.RK_CMD_STAT_STATUS, 0, 0, 1⟩]) ∧
    (∀ sp, s.mgr.cmd = none → op = 2 → target = p → p < 96 → s.rakeOf p = some rk → s.autoLoading p = false →
      (s.rake rk).st = .idle → (∀ q, q < 96 → Tab.find? q s.mgr.lost = none) →
      (s.rake sp).st = .spare → (s.rake sp).held = false → sp < 104 →
      (∀ n, n < sp → (s.rake n).st ≠ .spare ∨ (s.rake n).held = true) →
      Completes (exec (.rkSwap req val) s) fun t =>
        t = { Around s t with rakes := t.rakes, mgr := { s.mgr with cmd := some ⟨[p], []⟩ } } ∧
        t.rake sp = loading ∧ t.rake rk = {} ∧ (∀ n, n ≠ rk → n ≠ sp → t.rake n = s.rake n) ∧
        Sets s t [⟨F.RK_CMD_STAT_STATUS, 0, 0, 1⟩] ∧
        Posts s t [⟨Src.rakeMgr, 0x0601, [.u 1 p, .u 1 rk, .u 1 sp]⟩]) ∧
    (s.mgr.cmd = none → op = 3 → target = rk → rk < 104 → (s.rake rk).st = .spare → (s.rake rk).held = false →
      Completes (exec (.rkRetire req val) s) fun t =>
        t = { s with rakes := t.rakes, regs := t.regs } ∧ (t.rake rk).st = .retired ∧ (∀ n, n ≠ rk → t.rake n = s.rake n) ∧
        Sets s t [⟨F.RK_CMD_STAT_STATUS, 0, 0, 0⟩]) ∧
    (s.mgr.cmd = none → op = 4 → target = rk → rk < 104 → (s.rake rk).st = .retired →
      (∀ q, q < 96 → Tab.find? q s.mgr.lost = none) →
      Completes (exec (.rkRestore req val) s) fun t =>
        t = { s with rakes := t.rakes, regs := t.regs } ∧ t.rake rk = {} ∧ (∀ n, n ≠ rk → t.rake n = s.rake n) ∧
        Sets s t [⟨F.RK_CMD_STAT_STATUS, 0, 0, 0⟩]) ∧
    (s.mgr.cmd = none → op = 1 → target = 0x7F → base + 95 ≤ 65535 → s.autoLoading 0x7F = false →
      (∀ q k, q < 96 → s.rakeOf q = some k → (s.rake k).st ≠ .empty) →
      Completes (exec (.rkLoad req val) s) fun t => t = { s with regs := t.regs } ∧ Sets s t [⟨F.RK_CMD_STAT_STATUS, 0, 0, 0⟩]) ∧
    (s.mgr.cmd = none → op = 1 → s.autoLoading target = false → 65535 < base + 95 →
      Completes (exec (.rkLoad req val) s) fun t => t = { s with regs := t.regs } ∧ Sets s t [⟨F.RK_CMD_STAT_STATUS, 0, 0, 3⟩]) ∧
    (s.mgr.cmd = none → op = 2 → target = p → s.autoLoading p = false → s.rakeOf p = some rk →
      (s.rake rk).st = .idle ∨ (s.rake rk).st = .run → (∀ n, n < 104 → (s.rake n).st ≠ .spare) →
      Completes (exec (.rkSwap req val) s) fun t => t = { s with regs := t.regs } ∧ Sets s t [⟨F.RK_CMD_STAT_STATUS, 0, 0, 2⟩]) ∧
    ((op ≠ 1 → exec (.rkLoad req val) s = .next s) ∧ (op ≠ 2 → exec (.rkSwap req val) s = .next s) ∧
      (op ≠ 3 → exec (.rkRetire req val) s = .next s) ∧ (op ≠ 4 → exec (.rkRestore req val) s = .next s)) ∧
    (let refused (i : Instr) : Prop := Completes (exec i s) fun t =>
        t = { s with regs := t.regs } ∧ Sets s t [⟨F.RK_CMD_STAT_STATUS, 0, 0, 3⟩]
     let unable : Prop := ∀ k, s.rakeOf target = some k → (s.rake k).st ≠ .empty ∧ (s.rake k).st ≠ .idle ∧ (s.rake k).st ≠ .run
     s.mgr.cmd = none →
      (op = 1 → s.autoLoading target = false → base + 95 ≤ 65535 → target ≠ 0x7F → unable → refused (.rkLoad req val)) ∧
      (op = 2 → s.autoLoading target = false → unable → refused (.rkSwap req val)) ∧
      (op = 3 → ¬ ((s.rake target).st = .spare ∧ (s.rake target).held = false ∧ target < 104) → refused (.rkRetire req val)) ∧
      (op = 4 → ¬ ((s.rake target).st = .retired ∧ target < 104) → refused (.rkRestore req val))) ∧
    (op = 1 → s.autoLoading target = true → Completes (exec (.rkLoad req val) s) fun t =>
      t = { s with regs := t.regs } ∧ Sets s t [⟨F.RK_CMD_STAT_DROPPED, 0, 0, 1⟩]) ∧
    (op = 2 → s.autoLoading target = true → Completes (exec (.rkSwap req val) s) fun t =>
      t = { s with regs := t.regs } ∧ Sets s t [⟨F.RK_CMD_STAT_DROPPED, 0, 0, 1⟩]) ∧
    (∀ cmd : RkCmd, s.mgr.cmd = some cmd →
      (op = 1 → Completes (exec (.rkLoad req val) s) fun t => t = { s with regs := t.regs } ∧ Sets s t [⟨F.RK_CMD_STAT_DROPPED, 0, 0, 1⟩]) ∧
      (op = 2 → Completes (exec (.rkSwap req val) s) fun t => t = { s with regs := t.regs } ∧ Sets s t [⟨F.RK_CMD_STAT_DROPPED, 0, 0, 1⟩]) ∧
      (op = 3 → Completes (exec (.rkRetire req val) s) fun t => t = { s with regs := t.regs } ∧ Sets s t [⟨F.RK_CMD_STAT_DROPPED, 0, 0, 1⟩]) ∧
      (op = 4 → Completes (exec (.rkRestore req val) s) fun t => t = { s with regs := t.regs } ∧ Sets s t [⟨F.RK_CMD_STAT_DROPPED, 0, 0, 1⟩])) ∧
    (rk < 104 → (s.rake rk).st = .loading → (s.rake rk).pos = some p → (s.rake rk).loadFrom = some image →
      s.mgr.cmd = none → s.sec.trial = none → s.imageReadable image = true → s.bank (16 + rk) = .on →
      Completes (exec (.imageLoadComplete rk) s) fun t =>
        t = { Around s t with rakes := t.rakes, mem := t.mem } ∧ OnlyRegs s t [] ∧
        t.rake rk = { ({} : Rake) with st := .idle, pos := some p } ∧ ∀ n, n ≠ rk → t.rake n = s.rake n) ∧
    (∀ addr, rk < 104 → (s.rake rk).st = .loading → (s.rake rk).pos = some p → (s.rake rk).loadFrom = some image →
      s.mgr.cmd = none → image ≤ addr → addr < image + 0x80000 → addr < 0x000800000000 →
      (s.mc (addr / 512 % 16)).st ≠ .run →
      Completes (exec (.positionLoadFailed rk addr) s) fun t =>
        t = { Around s t with rakes := t.rakes } ∧
        t.rake rk = { ({} : Rake) with st := .empty, pos := some p } ∧ (∀ n, n ≠ rk → t.rake n = s.rake n) ∧
        Sets s t [] ∧ Posts s t [⟨Src.fabric, 0x0000, [.u 2 Src.rakeMgr, .u 6 addr, .u 1 4]⟩,
          ⟨Src.rakeMgr, 0x0603, [.u 1 p, .u 1 rk, .u 6 addr]⟩])

/-! ### Tally (chapter 3) -/

/-- On R96 to R98, R107, R516: what a token, an arm and a cancel do to a task slot: a token fills a port, or is dropped with its
case; an arm of a FREE slot starts a wait, of any other is refused; a cancel frees a waiting slot. The tally takes one block's tokens
in the order in which it sent them (R95).
The model's readings and choices where the spec leaves it open: log entries 5, 71 and 86. -/
def Obligations.SlotArrivals : Prop :=
  ∀ (s : State) (src : Nat) (dest value : W64),
    let n := bitsOf dest 13 0
    let port := bitsOf dest 16 14
    let gen := bitsOf dest 31 24
    let x := s.slot n
    let msg : Msg := ⟨src, dest, value⟩
    let legal := port ≤ 3 ∧ bitsOf dest 23 17 = 0 ∧ bitsOf dest 63 32 = 0 ∧
      s.tally.inbox.find? (fun m => m.src == src) = some msg
    let drops (c : Nat) (f : Fld) : Prop :=
      Completes (exec (.token src dest value) s) fun t =>
        t = { Around s t with tally := { s.tally with inbox := s.tally.inbox.erase msg } } ∧
        Sets s t [⟨f, 0, 0, 1⟩] ∧ Posts s t [⟨Src.tally, 0x0501, [.u 2 n, .u 1 port, .u 1 c]⟩]
    (port ≤ 3 → bitsOf dest 23 17 = 0 → bitsOf dest 63 32 = 0 → s.tally.inbox.find? (fun m => m.src == src) ≠ some msg →
      exec (.token src dest value) s = .next s) ∧
    (legal → x.st = .free ∨ bitsOf x.desc 63 56 ≠ gen → drops 0 F.TLY_STAT_STALE) ∧
    (legal → x.st ≠ .free → bitsOf x.desc 63 56 = gen → (x.st = .ready ∨ x.st = .run ∨ x.timedOut = true) →
      drops 1 F.TLY_STAT_LATE) ∧
    (legal → x.st = .wait → bitsOf x.desc 63 56 = gen → x.timedOut = false →
      (bitsOf x.desc 30 28 ≤ port ∨ (x.ports.toList.getD port none).isSome = true) → drops 2 F.TLY_STAT_DUP) ∧
    (legal → x.st = .wait → bitsOf x.desc 63 56 = gen → x.timedOut = false → port < bitsOf x.desc 30 28 →
      x.ports.toList.getD port none = none →
      (∃ q, q < bitsOf x.desc 30 28 ∧ q ≠ port ∧ x.ports.toList.getD q none = none) → bitsOf x.desc 30 28 ≤ 4 →
      Completes (exec (.token src dest value) s) fun t =>
        t = { s with tally := t.tally, pmu := t.pmu } ∧
        t.slot n = { x with ports := x.ports.setIfInBounds port (some value) } ∧
        (∀ m, m ≠ n → t.slot m = s.slot m) ∧ t.tally.ready = s.tally.ready ∧ t.tally.flows = s.tally.flows) ∧
    (legal → x.st = .wait → bitsOf x.desc 63 56 = gen → x.timedOut = false → port < bitsOf x.desc 30 28 →
      x.ports.toList.getD port none = none → bitsOf x.desc 30 28 ≤ 4 → x.desc.getLsbD 44 = false →
      (∀ q, q < bitsOf x.desc 30 28 → q ≠ port → (x.ports.toList.getD q none).isSome = true) →
      Completes (exec (.token src dest value) s) fun t =>
        t = { s with tally := t.tally, pmu := t.pmu } ∧
        t.slot n = { x with st := .ready, ports := x.ports.setIfInBounds port (some value) } ∧
        (∀ m, m ≠ n → t.slot m = s.slot m) ∧
        t.readyList (bitsOf x.desc 35 32) = s.readyList (bitsOf x.desc 35 32) ++ [n] ∧
        ∀ l, l ≠ bitsOf x.desc 35 32 → t.readyList l = s.readyList l) ∧
    (∀ desc : W64, bitsOf dest 63 14 = 0 → bitsOf desc 30 28 ≤ 4 → desc.getLsbD 55 = false →
      (desc.getLsbD 36 = true → bitsOf desc 43 37 ≤ 95 ∧ Tab.find? (bitsOf desc 43 37) s.mgr.lost = none) →
      (x.st ≠ .free → Completes (exec (.armRequest src dest desc) s) fun t =>
        t = Around s t ∧ Sets s t [⟨F.TLY_STAT_ARMREF, 0, 0, 1⟩] ∧ Posts s t [⟨Src.tally, 0x0500, [.u 2 n, .u 1 0]⟩]) ∧
      (x.st = .free → desc.getLsbD 44 = true → s.flag F.TLY_FLOW_CFG_EN 0 (bitsOf desc 54 45) = false →
        Completes (exec (.armRequest src dest desc) s) fun t =>
          t = Around s t ∧ Sets s t [⟨F.TLY_STAT_ARMREF, 0, 0, 1⟩] ∧ Posts s t [⟨Src.tally, 0x0500, [.u 2 n, .u 1 1]⟩]) ∧
      (x.st = .free → desc.getLsbD 44 = false → 0 < bitsOf desc 30 28 →
        Completes (exec (.armRequest src dest desc) s) fun t =>
          t = { s with tally := t.tally } ∧ t.slot n = { ({} : Slot) with st := .wait, desc := desc } ∧
          (∀ m, m ≠ n → t.slot m = s.slot m) ∧ t.tally.flows = s.tally.flows) ∧
      (x.st = .free → desc.getLsbD 44 = true → s.flag F.TLY_FLOW_CFG_EN 0 (bitsOf desc 54 45) = true → 0 < bitsOf desc 30 28 →
        let f := s.flow (bitsOf desc 54 45)
        Completes (exec (.armRequest src dest desc) s) fun t =>
          t = { s with tally := t.tally } ∧ t.slot n = { ({} : Slot) with st := .wait, desc := desc, flowPos := f.next } ∧
          (∀ m, m ≠ n → t.slot m = s.slot m) ∧
          (t.flow (bitsOf desc 54 45)).next = f.next + 1 ∧ (t.flow (bitsOf desc 54 45)).rel = f.rel)) ∧
    (bitsOf dest 23 14 = 0 → bitsOf dest 63 32 = 0 →
      let outcome (k : Nat) : List Ev := [⟨Src.tally, 0x0503, [.u 2 n, .u 1 gen, .u 1 k]⟩]
      (x.st = .free ∨ bitsOf x.desc 63 56 ≠ gen →
        Completes (exec (.cancelRequest src dest) s) fun t => t = Around s t ∧ Sets s t [] ∧ Posts s t (outcome 2)) ∧
      (x.st = .run → bitsOf x.desc 63 56 = gen →
        Completes (exec (.cancelRequest src dest) s) fun t => t = Around s t ∧ Sets s t [] ∧ Posts s t (outcome 1)) ∧
      (x.st = .wait ∨ x.st = .ready → bitsOf x.desc 63 56 = gen →
        Completes (exec (.cancelRequest src dest) s) fun t =>
          t = { Around s t with tally := t.tally } ∧ t.slot n = {} ∧ (∀ m, m ≠ n → t.slot m = s.slot m) ∧
          (∀ l, n ∈ t.readyList l → n ∈ s.readyList l ∧ l ≠ bitsOf x.desc 35 32) ∧ Sets s t [] ∧ Posts s t (outcome 0)))

/-- On R54, R105, R106: the tally dispatches the slot nearest the head of the highest level that holds a dispatchable one, to the
position it is pinned to or to the lowest-numbered IDLE one, and the rake receives the task's registers. TSTART is CYCLE at
dispatch (table ISA-15).
On R75, R99 to R101, R103: the front entry of a position's outbox is delivered to its command queue when that has room; a due
delayed token and a due timeout take effect; a tick boundary and a write of the period.
The model's readings and choices where the spec leaves it open: log entries 3, 66, 67, 71, 87, 88 and 97. -/
def Obligations.TaskDispatches : Prop :=
  (∀ (s : State) (n p rk lvl : Nat) (rest : List Nat),
    let x := s.slot n
    let idle (q : Nat) : Prop := ∃ k, s.rakeOf q = some k ∧ (s.rake k).st = .idle
    (s.flag F.TLY_CTRL_DISPATCH 0 0 = false ∨ (∀ l, l < 16 → s.readyList l = []) ∨ (∀ q, ¬ idle q) →
      exec .taskDispatch s = .next s) ∧
    (s.flag F.TLY_CTRL_DISPATCH 0 0 = true → lvl < 16 → s.readyList lvl = n :: rest → bitsOf x.desc 35 32 = lvl →
    (∀ l, lvl < l → l < 16 → s.readyList l = []) → p < 96 → idle p → s.rakeOf p = some rk →
    (x.desc.getLsbD 36 = true → bitsOf x.desc 43 37 = p) → (x.desc.getLsbD 36 = false → ∀ q, q < p → ¬ idle q) →
    Completes (exec .taskDispatch s) fun t =>
      t = { s with tally := t.tally, rakes := t.rakes, pmu := t.pmu, freeCtr := s.freeCtr + 1 } ∧
      t.slot n = { x with st := .run, pos := p } ∧ (∀ m, m ≠ n → t.slot m = s.slot m) ∧
      (∀ l, t.readyList l = if l = lvl then rest.filter (· ≠ n) else s.readyList l) ∧
      (∀ k, k ≠ rk → t.rake k = s.rake k) ∧
      let r := t.rake rk
      r.st = .run ∧ r.pos = some p ∧ r.outbox = [] ∧ (∃ c, r.task = some c ∧ c.tstart = r.cycle) ∧
      r.pc = 4 * (if x.timedOut then bitsOf x.desc 27 14 else bitsOf x.desc 13 0) ∧
      (∀ i : BitVec 5, r.getG i =
        if 1 ≤ i.toNat ∧ i.toNat ≤ 4 then (x.ports.toList.getD (i.toNat - 1) none).getD 0 else 0) ∧
      (∀ i : BitVec 3, r.getP i = decide (i = 0)) ∧ (∀ i : BitVec 4, r.getW i = 0) ∧
      ∃ c, r.task = some c ∧ c.slot = n ∧ c.replay = x.replay ∧
        c.opcnt = (x.ports.toList.filter Option.isSome).length ∧
        bitsOf c.attr 63 12 = 0 ∧ bitsOf c.attr 11 8 = lvl ∧ bitsOf c.attr 7 3 = 0 ∧ c.attr.getLsbD 2 = x.desc.getLsbD 44 ∧
        c.attr.getLsbD 1 = x.desc.getLsbD 36 ∧ c.attr.getLsbD 0 = x.desc.getLsbD 31 ∧
        c.flow = if x.desc.getLsbD 44 then x.flowPos ++ BitVec.ofNat 32 (bitsOf x.desc 54 45) else 0)) ∧
  (∀ (s : State),
    -- no delayed token is due in the lists below l
    let quiet (l : Nat) : Prop := ∀ k, k < l → ∀ e ∈ s.delayList k, s.tally.tick < e.due ∨ bitsOf e.dest 16 14 = 4
    (∀ (pos : Nat) (tg : W64) (c : W256) (rest : List OutEntry), pos < 96 →
      Tab.getD s.tally.commits pos [] = .pcmd tg c :: rest →
      let w := bitsOf tg 12 8
      let i := bitsOf tg 7 0
      let q := bitsOf tg 15 13
      w ≠ 14 →
      let cap := if w = 10 then (if i < 16 then 16 else 8) else 32
      ((s.queue w i q).length < cap → Completes (exec (.outboxDelivery pos) s) fun t =>
        t = { s with tally := t.tally, queues := t.queues } ∧ t.queue w i q = s.queue w i q ++ [c] ∧
        (∀ w' i' q', (w', i', q') ≠ (w, i, q) → t.queue w' i' q' = s.queue w' i' q') ∧
        Tab.getD t.tally.commits pos [] = rest ∧ t.tally.slots = s.tally.slots) ∧
      (cap ≤ (s.queue w i q).length → exec (.outboxDelivery pos) s = .next s)) ∧
    (∀ (pos l due : Nat) (d v : W64) (rest : List OutEntry), pos < 96 →
      Tab.getD s.tally.commits pos [] = .due l due d v :: rest → bitsOf d 16 14 ≠ 4 →
      (∀ e ∈ s.delayList l, e.due ≤ due) → (s.delayList l).length < 4096 →
      Completes (exec (.outboxDelivery pos) s) fun t =>
        t = { s with tally := t.tally } ∧ t.delayList l = s.delayList l ++ [⟨due, d, v⟩] ∧
        Tab.getD t.tally.commits pos [] = rest ∧ t.tally.slots = s.tally.slots) ∧
    (∀ (l : Nat) (d : Delayed) (rest : List Delayed), l < 4 → quiet l → s.delayList l = d :: rest → d.due ≤ s.tally.tick →
      bitsOf d.dest 16 14 ≠ 4 → (s.slot (bitsOf d.dest 13 0)).st = .free →
      Completes (exec .delayedTokenDue s) fun t =>
        t = { Around s t with tally := t.tally } ∧ t.delayList l = rest ∧ (∀ k, k ≠ l → t.delayList k = s.delayList k) ∧
        t.tally.slots = s.tally.slots ∧
        Sets s t [⟨F.TLY_STAT_STALE, 0, 0, 1⟩] ∧
        Posts s t [⟨Src.tally, 0x0501, [.u 2 (bitsOf d.dest 13 0), .u 1 (bitsOf d.dest 16 14), .u 1 0]⟩]) ∧
    (∀ (l : Nat) (d : Delayed) (rest : List Delayed) (x : Slot) (p : Nat), l < 4 → quiet l →
      s.delayList l = d :: rest → d.due ≤ s.tally.tick → s.slot (bitsOf d.dest 13 0) = x → bitsOf d.dest 16 14 = p →
      x.st = .wait → x.timedOut = false → bitsOf x.desc 63 56 = bitsOf d.dest 31 24 → p < bitsOf x.desc 30 28 →
      bitsOf x.desc 30 28 ≤ 4 → x.ports.toList.getD p none = none →
      (∃ q, q < bitsOf x.desc 30 28 ∧ q ≠ p ∧ x.ports.toList.getD q none = none) →
      Completes (exec .delayedTokenDue s) fun t =>
        t = { s with tally := t.tally, pmu := t.pmu } ∧ t.delayList l = rest ∧ (∀ k, k ≠ l → t.delayList k = s.delayList k) ∧
        t.slot (bitsOf d.dest 13 0) = { x with ports := x.ports.setIfInBounds p (some d.value) } ∧
        (∀ m, m ≠ bitsOf d.dest 13 0 → t.slot m = s.slot m) ∧ t.tally.ready = s.tally.ready) ∧
    (∀ (l : Nat) (d : Delayed) (rest : List Delayed) (x : Slot), l < 4 → quiet 4 →
      (∀ k, k < l → ∀ e ∈ s.delayList k, s.tally.tick < e.due) → s.delayList l = d :: rest → bitsOf d.dest 16 14 = 4 → d.due ≤ s.tally.tick → s.slot (bitsOf d.dest 13 0) = x →
      x.st = .wait → x.timedOut = false → bitsOf x.desc 63 56 = bitsOf d.dest 31 24 → x.desc.getLsbD 44 = false →
      Completes (exec .timeoutTaken s) fun t =>
        t = { s with tally := t.tally } ∧
        t.slot (bitsOf d.dest 13 0) = { x with st := .ready, timedOut := true } ∧
        (∀ m, m ≠ bitsOf d.dest 13 0 → t.slot m = s.slot m) ∧
        t.readyList (bitsOf x.desc 35 32) = s.readyList (bitsOf x.desc 35 32) ++ [bitsOf d.dest 13 0]) ∧
    (∀ (l : Nat) (d : Delayed) (rest : List Delayed), l < 4 → quiet 4 →
      (∀ k, k < l → ∀ e ∈ s.delayList k, s.tally.tick < e.due) → s.delayList l = d :: rest → bitsOf d.dest 16 14 = 4 →
      d.due ≤ s.tally.tick →
      let x := s.slot (bitsOf d.dest 13 0)
      let stale := x.st = .free ∨ bitsOf x.desc 63 56 ≠ bitsOf d.dest 31 24
      stale ∨ x.st ≠ .wait ∨ x.timedOut = true → Completes (exec .timeoutTaken s) fun t =>
        t = { Around s t with tally := t.tally } ∧ t.delayList l = rest ∧ t.tally.slots = s.tally.slots ∧
        t.tally.ready = s.tally.ready ∧ (¬ stale → t.events = s.events ∧ t.regs = s.regs) ∧
        (stale → Sets s t [⟨F.TLY_STAT_STALE, 0, 0, 1⟩] ∧ Posts s t [⟨Src.tally, 0x0501, [.u 2 (bitsOf d.dest 13 0), .u 1 4, .u 1 0]⟩])) ∧
    (∀ pos, pos < 96 → Tab.getD s.tally.commits pos [] = [] → exec (.outboxDelivery pos) s = .next s) ∧
    (quiet 4 → exec .delayedTokenDue s = .next s) ∧
    (¬ quiet 4 ∨ (∀ l, l < 4 → ∀ e ∈ s.delayList l, s.tally.tick < e.due) → exec .timeoutTaken s = .next s) ∧
    ((∀ l, l < 4 → ∀ e ∈ s.delayList l, s.tally.tick < e.due) →
      Completes (exec .tickBoundary s) fun t =>
        t = { s with tally := { s.tally with tick := (s.tally.tick + 1) % 2 ^ 64, newPeriod := none }, regs := t.regs } ∧
        Sets s t (match s.tally.newPeriod with | some p => [⟨F.TLY_TICK_PERIOD, 0, 0, p⟩] | none => [])) ∧
    (∀ (req : Nat) (val : W32),
      let p := bitsOf val 19 0
      (80 ≤ p → p ≤ 800000 → exec (.tickPeriodWrite req val) s =
        .next { s with tally := { s.tally with newPeriod := some p } }) ∧
      (p < 80 ∨ 800000 < p → Completes (exec (.tickPeriodWrite req val) s) fun t =>
        t = { s with regs := t.regs } ∧ Sets s t [⟨F.TLY_STAT_BADTICK, 0, 0, 1⟩])))

/-- On R108 to R111: enabling and disabling a flow, the release of the front position to a transmit queue, and the skip of a
position whose task ended without commit.
The model's readings and choices where the spec leaves it open: log entries 6 and 71. -/
def Obligations.FlowCommands : Prop :=
  ∀ (s : State) (req flow : Nat) (val : W32),
    let x := s.flow flow
    let w := bitsOf val 14 8
    let clears : List FieldSet := if val.getLsbD 31 then [⟨F.TLY_FLOW_CFG_REFUSED, 0, flow, 0⟩] else []
    (s.fget F.TLY_FLOW_SEL_FLOW 0 req = flow → val.getLsbD 0 = true → s.flag F.TLY_FLOW_CFG_EN 0 flow = false →
      flow < 1024 →
      let tgt := s.pair .TLY_FLOW_TGT_LO .TLY_FLOW_TGT_HI 0 flow
      let cfg : List FieldSet := [⟨F.TLY_FLOW_CFG_WINDOW, 0, flow, w⟩, ⟨F.TLY_FLOW_CFG_TYPE, 0, flow, bitsOf val 1 1⟩]
      let reserved := (((List.range 1024).filter fun f => s.flag F.TLY_FLOW_CFG_EN 0 f).map fun f =>
        s.fget F.TLY_FLOW_CFG_WINDOW 0 f * 48).sum
      let target := if val.getLsbD 1 then
          bitsOf tgt 5 0 = 0 ∧ bitsOf tgt 63 53 = 0 ∧ 4 ≤ bitsOf tgt 52 48 ∧ bitsOf tgt 52 48 ≤ 16
        else bitsOf tgt 7 3 = 0 ∧ bitsOf tgt 31 17 = 0 ∧ bitsOf tgt 63 32 = 0
      (1 ≤ w ∧ w ≤ 64 ∧ reserved + w * 48 ≤ 65536 ∧ target →
        Completes (exec (.flowEnable req val) s) fun t =>
          t = { s with regs := t.regs, tally := t.tally } ∧ t.flow flow = {} ∧ (∀ f, f ≠ flow → t.flow f = s.flow f) ∧
          t.tally.slots = s.tally.slots ∧
          Sets s t (clears ++ cfg ++ [⟨F.TLY_FLOW_RING_PROD, 0, flow, 0⟩, ⟨F.TLY_FLOW_RING_CONS, 0, flow, 0⟩,
            ⟨F.TLY_FLOW_CFG_EN, 0, flow, 1⟩])) ∧
      (¬ (1 ≤ w ∧ w ≤ 64 ∧ reserved + w * 48 ≤ 65536 ∧ target) →
        Completes (exec (.flowEnable req val) s) fun t =>
          t = { s with regs := t.regs } ∧ Sets s t (clears ++ cfg ++ [⟨F.TLY_FLOW_CFG_REFUSED, 0, flow, 1⟩]))) ∧
    (s.fget F.TLY_FLOW_SEL_FLOW 0 req = flow → val.getLsbD 0 = false → s.flag F.TLY_FLOW_CFG_EN 0 flow = true →
      (x.next = x.rel → Completes (exec (.flowDisable req val) s) fun t =>
        t = { s with regs := t.regs } ∧ Sets s t (clears ++ [⟨F.TLY_FLOW_CFG_EN, 0, flow, 0⟩])) ∧
      (x.next ≠ x.rel → Completes (exec (.flowDisable req val) s) fun t =>
        t = { s with regs := t.regs } ∧ Sets s t (clears ++ [⟨F.TLY_FLOW_CFG_REFUSED, 0, flow, 1⟩]))) ∧
    (∀ (v : W64) (vs : List W64), flow < 1024 → Tab.find? x.rel x.fates = some (.done (v :: vs)) →
      s.flag F.TLY_FLOW_CFG_TYPE 0 flow = false →
      let tgt := s.pair .TLY_FLOW_TGT_LO .TLY_FLOW_TGT_HI 0 flow
      let port := bitsOf tgt 2 0
      let q := bitsOf tgt 16 8
      (∀ e ∈ s.txWaiting port q, e.1 ≠ flow) →
      Completes (exec (.flowRelease flow) s) fun t =>
        t = { s with tally := t.tally, releases := t.releases } ∧
        t.flow flow = { x with fates := Tab.set x.fates x.rel (.done vs) } ∧ (∀ f, f ≠ flow → t.flow f = s.flow f) ∧
        t.txWaiting port q = s.txWaiting port q ++ [(flow, v)] ∧
        ∀ a b, (a, b) ≠ (port, q) → t.txWaiting a b = s.txWaiting a b) ∧
    (flow < 1024 → Tab.find? x.rel x.fates = some (.done []) → s.flag F.TLY_FLOW_CFG_TYPE 0 flow = true →
      Completes (exec (.flowRelease flow) s) fun t =>
        t = { s with tally := t.tally } ∧ (t.flow flow).rel = x.rel + 1 ∧ (t.flow flow).next = x.next ∧
        ∀ f, f ≠ flow → t.flow f = s.flow f) ∧
    (s.fget F.TLY_FLOW_SEL_FLOW 0 req = flow → val.getLsbD 0 = true → s.flag F.TLY_FLOW_CFG_EN 0 flow = true →
      Completes (exec (.flowEnable req val) s) fun t => t = { s with regs := t.regs } ∧ Sets s t clears) ∧
    (s.fget F.TLY_FLOW_SEL_FLOW 0 req = flow → val.getLsbD 0 = false → s.flag F.TLY_FLOW_CFG_EN 0 flow = false →
      Completes (exec (.flowDisable req val) s) fun t => t = { s with regs := t.regs } ∧ Sets s t (clears ++
        [⟨F.TLY_FLOW_CFG_WINDOW, 0, flow, w⟩, ⟨F.TLY_FLOW_CFG_TYPE, 0, flow, bitsOf val 1 1⟩])) ∧
    (val.getLsbD 0 = false → exec (.flowEnable req val) s = .next s) ∧
    (val.getLsbD 0 = true → exec (.flowDisable req val) s = .next s) ∧
    (flow < 1024 → (∀ vs, Tab.find? x.rel x.fates ≠ some (.done vs)) → exec (.flowRelease flow) s = .next s) ∧
    (flow < 1024 → (∀ n, Tab.find? x.rel x.fates ≠ some (.skip n)) → exec (.flowSkip flow) s = .next s) ∧
    (∀ n, flow < 1024 → Tab.find? x.rel x.fates = some (.skip n) →
      Completes (exec (.flowSkip flow) s) fun t =>
        t = { Around s t with tally := t.tally } ∧ (t.flow flow).rel = x.rel + 1 ∧ (t.flow flow).next = x.next ∧
        (∀ f, f ≠ flow → t.flow f = s.flow f) ∧ Sets s t [] ∧
        Posts s t [⟨Src.tally, 0x0505, [.u 2 flow, .u 4 x.rel.toNat, .u 2 n]⟩])

/-! ### Admission ledger (chapter 1) -/

/-- On R27, R29, R30: with no other arrival the ledger decides the submission that has waited longest: it is charged where no
entry that it raises goes above its limit, and is refused otherwise, naming the lowest such entry. Submissions of one cycle
are taken in ascending order of their sources.
On R37: once the limit of entry 52 covers the full used value, the programme of the lowest number in cap-floor mode is
restored, Class A first; with none left the host and DMA throttle is lifted. A reversal after precedence-exhausted posts
precedence-cleared first. With no step in force, a reversal under way or the limit short, nothing happens; nor does the ledger
decide anything where nothing waits.
The model's reading or choice where the spec leaves it open: log entry 9. -/
def Obligations.LedgerDecides : Prop :=
  (∀ (s : State) (x : Submission) (rest : List Submission), s.ledger.waiting = x :: rest →
    let after := s.ledger.accept x.holder x.charge
    let raised (e : Nat) : Prop := s.ledger.used e < after.used e ∧ s.ledgerLimit e < after.used e
    ((∀ e, e < 64 → ¬ raised e) → after.used 52 ≤ s.limit52 →
      Completes (exec (.admissionDecide []) s) fun t =>
        t = { s with ledger := { s.ledger with waiting := rest, holdings := t.ledger.holdings } } ∧
        t.ledger.holding x.holder = { s.ledger.holding x.holder with next := some x.charge } ∧
        ∀ h, h ≠ x.holder → t.ledger.holding h = s.ledger.holding h) ∧
    (∀ e, e < 64 → raised e → (∀ d, d < e → ¬ raised d) →
      Completes (exec (.admissionDecide []) s) fun t =>
        t = { Around s t with ledger := { s.ledger with waiting := rest } } ∧
        Sets s t [⟨F.HST_ADM_LAST_REFUSED, 0, 0, 1⟩, ⟨F.HST_ADM_LAST_SRC, 0, 0, x.src⟩, ⟨F.HST_ADM_LAST_ENTRY, 0, 0, e⟩] ∧
        Posts s t [⟨Src.ledger, 0x0001, [.u 1 e, .u 2 x.src]⟩]) ∧
    (∀ y z : Submission, y.src < z.src →
      exec (.admissionDecide [z, y]) s = exec (.admissionDecide []) { s with ledger := { s.ledger with waiting := x :: rest ++ [y, z] } })) ∧
  (∀ (s : State),
    (s.ledger.waiting = [] → exec (.admissionDecide []) s = .next s) ∧
    (s.ledger.reversing = true ∨ s.limit52 < s.ledger.full52 ∨ s.ledger.throttled = false ∧ s.ledger.reduced = [] →
      exec .precedenceReverse s = .next s) ∧
    (s.ledger.reversing = false → s.ledger.full52 ≤ s.limit52 →
      let cleared : List Ev := if s.ledger.exhausted then
          [⟨Src.ledger, 0x0005, [.u 4 (s.ledger.used 52), .u 4 s.limit52]⟩] else []
      (∀ k, k < 64 → k ∈ s.ledger.reduced →
        (∀ j ∈ s.ledger.reduced, (s.ledger.pgm j).classA = (s.ledger.pgm k).classA → k ≤ j) →
        ((s.ledger.pgm k).classA = false → ∀ j ∈ s.ledger.reduced, (s.ledger.pgm j).classA = false) →
        Completes (exec .precedenceReverse s) fun t => t = { Around s t with ledger := t.ledger } ∧ Sets s t [] ∧
          t.ledger = { s.ledger with
            reversing := true, awaiting := some k, exhausted := false, reduced := s.ledger.reduced.filter (· ≠ k) } ∧
          Posts s t cleared) ∧
      (s.ledger.reduced = [] → s.ledger.throttled = true →
        Completes (exec .precedenceReverse s) fun t =>
          t = { Around s t with ledger := { s.ledger with throttled := false, awaiting := none, exhausted := false } } ∧
          Sets s t [] ∧ Posts s t (cleared ++ [⟨Src.ledger, 0x0003, [.u 4 (s.ledger.used 52), .u 4 s.limit52]⟩]))))

/-! ### Time base (chapter 11) -/

/-- On R326, R327, R329 to R332: a tick adds the increment and the slew term, and posts slew-done as a slew ends and time-source as
the source of TCLK has changed; LOAD, STEP, SLEW and INVALIDATE execute in the tick that takes them, and an operation that table
TIM-1 does not accept is refused. What a LOAD or STEP does to a timed output or a playout unit that runs stands with those units.
The model's reading or choice where the spec leaves it open: log entry 64. -/
def Obligations.TimeOperations : Prop :=
  ∀ (s : State),
    let hold := s.flag F.CLK_STAT_HOLD 0 0
    let inc := bitsOf (if hold then s.pair .TIM_HINC_LO .TIM_HINC_HI 0 0 else s.pair .TIM_INC_LO .TIM_INC_HI 0 0) 35 0
    let total (t : State) : Nat := (t.time.sec.toNat * 1000000000 + t.time.ns) * 2 ^ 32 + t.time.frac
    let unit := 10737418240 * s.fget F.TIM_CFG_SLEW 0 0 / 1000000
    let ns := s.fget F.TIM_OP_NS_NS 0 0
    let mag := (s.pair .TIM_OP_SEC_LO .TIM_OP_SEC_HI 0 0).toNat * 1000000000 + ns
    let off : Int := if s.flag F.TIM_OP_NS_NEG 0 0 then -(mag : Int) else mag
    let does (i : Instr) (l : List Ev) (sets : List FieldSet) (p : State → Prop) : Prop :=
      (l = [] ∨ s.time.hold = hold) → Completes (exec i s) fun t =>
        t = { Around s t with time := t.time } ∧ t.time.stamps = s.time.stamps ∧ t.time.hold = hold ∧ t.time.cmd = none ∧
        t.time.ns < 1000000000 ∧ t.time.frac < 2 ^ 32 ∧ p t ∧ Sets s t sets ∧
        Posts s t (l ++ (if s.time.hold = hold then [] else
          [⟨Src.time, 0x1103, [.u 1 (b2n hold), .u 8 (packTime t.time.sec t.time.ns).toNat]⟩]))
    let goesOn (x : Slew) : Prop := unit ≤ x.rem.natAbs
    let add (x : Slew) : Int := if goesOn x then (if x.rem < 0 then -(unit : Int) else unit) else x.rem
    total s + inc + 2 ^ 64 < 2 ^ 64 * 1000000000 * 2 ^ 32 → unit < 2 ^ 64 →
    (∀ p ∈ [(1, Instr.timeLoad), (2, .timeStep), (3, .timeSlew), (4, .timeInvalidate)],
      (s.time.cmd ≠ some p.1 → exec p.2 s = .next s) ∧ (s.time.cmd = some p.1 → exec .timeBaseTick s = exec p.2 s)) ∧
    (s.time.cmd ≠ none ∨ s.time.slew = none ∨ (∃ x, s.time.slew = some x ∧ goesOn x) → exec .slewDone s = .next s) ∧
    (s.time.cmd = none → s.time.slew = none → does .timeBaseTick [] [] fun t =>
      total t = total s + inc ∧ t.time.slew = none ∧ t.time.valid = s.time.valid) ∧
    (∀ x, s.time.cmd = none → s.time.slew = some x → goesOn x → 0 ≤ total s + inc + add x → does .timeBaseTick [] [] fun t =>
      (total t : Int) = total s + inc + add x ∧ t.time.slew = some { x with rem := x.rem - add x } ∧
      t.time.valid = s.time.valid) ∧
    (∀ x, s.time.cmd = none → s.time.slew = some x → ¬ goesOn x → 0 ≤ total s + inc + x.rem →
      ∀ i ∈ [Instr.slewDone, Instr.timeBaseTick], does i [⟨Src.time, 0x1104, [.i 4 x.start]⟩] [] fun t =>
        (total t : Int) = total s + inc + x.rem ∧ t.time.slew = none ∧ t.time.valid = s.time.valid) ∧
    (s.time.cmd = some 3 → ns < 1000000000 → mag ≤ s.fget F.TIM_CFG_JUMP 0 0 * 1000 → does .timeSlew [] [] fun t =>
      total t = total s + inc ∧ t.time.slew = some ⟨off * 2 ^ 32, off⟩ ∧ t.time.valid = s.time.valid) ∧
    (s.time.cmd = some 4 → s.time.slew = none → does .timeInvalidate [] [] fun t =>
      total t = total s + inc ∧ t.time.slew = none ∧ t.time.valid = false) ∧
    (∀ x, s.time.cmd = some 4 → s.time.slew = some x → goesOn x → 0 ≤ total s + inc + add x →
      does .timeInvalidate [] [] fun t =>
        (total t : Int) = total s + inc + add x ∧ t.time.slew = some { x with rem := x.rem - add x } ∧
        t.time.valid = false) ∧
    (∀ (op : Nat) (i : Instr), (op, i) ∈ [(1, Instr.timeLoad), (2, .timeStep), (3, .timeSlew)] → s.time.cmd = some op →
      s.time.slew = none →
      1000000000 ≤ ns ∨ op = 1 ∧ (s.flag F.TIM_OP_NS_NEG 0 0 = true ∨ s.time.valid = true) ∨
        op ≠ 1 ∧ s.fget F.TIM_CFG_JUMP 0 0 * 1000 < mag ∨ op = 2 ∧ (total s + inc : Int) + off * 2 ^ 32 < 0 →
      does i [⟨Src.time, 0x1102, [.u 1 op, .u 4 mag]⟩] [⟨F.TIM_STAT_REFUSED, 0, 0, 1⟩] fun t =>
        total t = total s + inc ∧ t.time.slew = none ∧ t.time.valid = s.time.valid) ∧
    ((∀ n, n < 8 → s.flag F.TIM_TOUT_CTRL_EN (n + 1) 0 = false) → (∀ n, n < 16 → s.flag F.AUD_OUT_CFG_EN (16 + n) 0 = false) →
      (s.time.cmd = some 1 → ns < 1000000000 → s.flag F.TIM_OP_NS_NEG 0 0 = false → s.time.valid = false →
        does .timeLoad [⟨Src.time, 0x1100, [.u 8 (packTime (s.pair .TIM_OP_SEC_LO .TIM_OP_SEC_HI 0 0) ns).toNat]⟩] [] fun t =>
          t.time.sec = s.pair .TIM_OP_SEC_LO .TIM_OP_SEC_HI 0 0 ∧ t.time.ns = ns ∧ t.time.frac = 0 ∧ t.time.slew = none ∧
          t.time.valid = true) ∧
      (s.time.cmd = some 2 → ns < 1000000000 → mag ≤ s.fget F.TIM_CFG_JUMP 0 0 * 1000 →
        0 ≤ (total s + inc : Int) + off * 2 ^ 32 → does .timeStep [⟨Src.time, 0x1101, [.i 4 off]⟩] [] fun t =>
          (total t : Int) = total s + inc + off * 2 ^ 32 ∧ t.time.slew = none ∧ t.time.valid = s.time.valid))

/-- On R327, R328, R336 to R339: the increment registers, the latching reads, and the timed outputs.
The model's readings and choices where the spec leaves it open: log entries 3, 8 and 11. -/
def Obligations.TimeRegistersAndOutputs : Prop :=
  ∀ (s : State) (req : Nat),
    (∀ val : W32,
      let inc (lo : Reg) : Nat := bitsOf val 3 0 * 2 ^ 32 + (Tab.getD s.helds (req, lo, 0) (s.reg lo 0 0)).toNat
      let writes (i : Instr) (lo hi : Reg) : Prop :=
        (10726680822 ≤ inc lo → inc lo ≤ 10748155658 → Completes (exec i s) fun t =>
          t = { s with regs := t.regs, helds := t.helds } ∧ (t.pair lo hi 0 0).toNat = inc lo ∧
          (∀ r a b, (r, a, b) ≠ (lo, 0, 0) → (r, a, b) ≠ (hi, 0, 0) → t.reg r a b = s.reg r a b) ∧
          Tab.find? (req, lo, 0) t.helds = none) ∧
        (inc lo < 10726680822 ∨ 10748155658 < inc lo → Completes (exec i s) fun t =>
          t = { s with regs := t.regs, helds := t.helds } ∧ Sets s t [⟨F.TIM_STAT_BADINC, 0, 0, 1⟩])
      writes (.incWrite req val) .TIM_INC_LO .TIM_INC_HI ∧ writes (.hincWrite req val) .TIM_HINC_LO .TIM_HINC_HI) ∧
    (Completes (exec (.timeNowRead req) s) fun t =>
      t = { s with answers := t.answers, latches := t.latches } ∧
      Tab.find? req t.answers = some (.data 4 (BitVec.ofNat 256 (s.time.ns % 2 ^ 32))) ∧
      (∀ r, r ≠ req → Tab.find? r t.answers = Tab.find? r s.answers) ∧
      Tab.find? (req, .TIM_NOW_FRAC, 0) t.latches = some (BitVec.ofNat 32 s.time.frac) ∧
      Tab.find? (req, .TIM_NOW_SEC_LO, 0) t.latches = some (s.time.sec.extractLsb' 0 32) ∧
      Tab.find? (req, .TIM_NOW_SEC_HI, 0) t.latches = some (s.time.sec.extractLsb' 32 32)) ∧
    (∀ (port : Nat) (x : TxStamp) (rest : List TxStamp), port < 8 → s.stamps port = x :: rest →
      Completes (exec (.txtsRead req port) s) fun t =>
        t = { s with answers := t.answers, latches := t.latches, time := { s.time with stamps := t.time.stamps } } ∧
        t.stamps port = rest ∧ (∀ p, p ≠ port → t.stamps p = s.stamps p) ∧
        Tab.find? (req, .TIM_TXTS_NS, port) t.latches = some (BitVec.ofNat 32 x.ns) ∧
        Tab.find? (req, .TIM_TXTS_SEC, port) t.latches = some (x.sec.extractLsb' 0 32) ∧
        ∃ w : W32, Tab.find? req t.answers = some (.data 4 (w.zeroExtend 256)) ∧ w.getLsbD 31 = true ∧
          w.getLsbD 30 = x.abort ∧ bitsOf w 29 28 = x.link % 4 ∧ bitsOf w 15 0 = x.tsid.toNat) ∧
    (∀ port, port < 8 → s.stamps port = [] → Completes (exec (.txtsRead req port) s) fun t =>
      t = { s with answers := t.answers, latches := t.latches } ∧ Tab.find? req t.answers = some (.data 4 0)) ∧
    ∀ n, n < 8 →
      let i := n + 1
      let start := (s.pair .TIM_TOUT_START_SEC_LO .TIM_TOUT_START_SEC_HI i 0).toNat * 1000000000 +
        s.fget F.TIM_TOUT_START_NS_NS i 0
      let num := s.fget F.TIM_TOUT_FR_NUM_FR_NUM i 0
      let den := s.fget F.TIM_TOUT_FR_DEN_FR_DEN i 0
      let w := s.fget F.TIM_TOUT_WIDTH_WIDTH i 0
      let edge (k : Nat) : Nat := start + k * den * 1000000000 / num
      let repeats := s.flag F.TIM_TOUT_CTRL_MODE i 0
      let outputs (t : State) : Prop := t = { s with regs := t.regs, time := { s.time with touts := t.time.touts } } ∧
        ∀ m, m ≠ n → t.tout m = s.tout m
      (∀ val : W32,
        let clears : List FieldSet := (if val.getLsbD 31 then [⟨F.TIM_TOUT_CTRL_LATE, i, 0, 0⟩] else []) ++
          (if val.getLsbD 30 then [⟨F.TIM_TOUT_CTRL_BAD, i, 0, 0⟩] else [])
        let cfg : List FieldSet := [⟨F.TIM_TOUT_CTRL_POL, i, 0, bitsOf val 2 2⟩, ⟨F.TIM_TOUT_CTRL_MODE, i, 0, bitsOf val 1 1⟩]
        let on : List FieldSet := clears ++ cfg ++ [⟨F.TIM_TOUT_CTRL_EN, i, 0, 1⟩, ⟨F.TIM_TOUT_COUNT_COUNT, i, 0, 0⟩]
        let good := 10 ≤ w ∧ s.fget F.TIM_TOUT_START_NS_NS i 0 < 1000000000 ∧
          (val.getLsbD 1 = true → num ≠ 0 ∧ w < den * 1000000000 / num)
        (s.flag F.TIM_TOUT_CTRL_EN i 0 = true → Completes (exec (.toutEnable req n val) s) fun t =>
          outputs t ∧ t.tout n = (if val.getLsbD 0 then s.tout n else {}) ∧
          Sets s t (clears ++ (if val.getLsbD 0 then [] else [⟨F.TIM_TOUT_CTRL_EN, i, 0, 0⟩]))) ∧
        (s.flag F.TIM_TOUT_CTRL_EN i 0 = false → val.getLsbD 0 = false →
          Completes (exec (.toutEnable req n val) s) fun t => t = { s with regs := t.regs } ∧ Sets s t (clears ++ cfg)) ∧
        (s.flag F.TIM_TOUT_CTRL_EN i 0 = false → val.getLsbD 0 = true →
          (good → val.getLsbD 1 = false → Completes (exec (.toutEnable req n val) s) fun t =>
            outputs t ∧ t.tout n = { due := true, late := decide (start * 2 ^ 32 < s.time.total) } ∧ Sets s t on) ∧
          (good → val.getLsbD 1 = true → Completes (exec (.toutEnable req n val) s) fun t =>
            outputs t ∧ t.tout n = { k := (t.tout n).k } ∧ s.time.total ≤ edge (t.tout n).k * 2 ^ 32 ∧
            (∀ j, j < (t.tout n).k → edge j * 2 ^ 32 < s.time.total) ∧ Sets s t on) ∧
          (¬ good → val.getLsbD 30 = false → Completes (exec (.toutEnable req n val) s) fun t =>
            t = { s with regs := t.regs } ∧ Sets s t (clears ++ [⟨F.TIM_TOUT_CTRL_BAD, i, 0, 1⟩])))) ∧
      (let next := if repeats then edge (s.tout n).k else start
        let comes := s.flag F.TIM_TOUT_CTRL_EN i 0 = true ∧ (repeats = false → (s.tout n).due = true) ∧ next * 2 ^ 32 ≤ s.time.total
        let late := repeats = false ∧ (s.tout n).late = true
        (comes → Completes (exec (.toutEdge n) s) fun t =>
          t = { Around s t with time := { s.time with touts := t.time.touts } } ∧ (∀ m, m ≠ n → t.tout m = s.tout m) ∧
          (∃ p, t.tout n = { k := if repeats then (s.tout n).k + 1 else (s.tout n).k, due := false, late := false, pulse := some p } ∧
            2 * w ≤ 5 * p ∧ 5 * p < 2 * w + 5) ∧
          Sets s t ([⟨F.TIM_TOUT_COUNT_COUNT, i, 0, (s.fget F.TIM_TOUT_COUNT_COUNT i 0 + 1) % 2 ^ 32⟩] ++
            (if late then [⟨F.TIM_TOUT_CTRL_LATE, i, 0, 1⟩] else [])) ∧
          Posts s t (if late then [⟨Src.time, 0x1106, [.u 1 n,
            .u 8 (packTime (s.pair .TIM_TOUT_START_SEC_LO .TIM_TOUT_START_SEC_HI i 0) (s.fget F.TIM_TOUT_START_NS_NS i 0)).toNat]⟩]
            else [])) ∧
        (¬ comes → exec (.toutEdge n) s = .next s)) ∧
      ((s.tout n).pulse = some 0 → Completes (exec (.toutPulseEnd n) s) fun t =>
        outputs t ∧ t.tout n = { s.tout n with pulse := none } ∧
        Sets s t (if repeats then [] else [⟨F.TIM_TOUT_CTRL_EN, i, 0, 0⟩])) ∧
      ((s.tout n).pulse ≠ some 0 → exec (.toutPulseEnd n) s = .next s)

/-! ### Memory (chapter 4) -/

/-- On R116 to R119: the check bits of a word decode clean; a half of which any one symbol is wrong is corrected; the poison pattern
reads as poisoned. -/
def Obligations.OneSymbolIsCorrected : Prop :=
  (∀ d : W256, decodeWord (encodeWord d) = .clean d) ∧
  (∀ (d : BitVec 128) (i : Nat) (e : BitVec 4), i < 32 → e ≠ 0 →
    decodeHalf (d ^^^ (e.setWidth 128 <<< (4 * i))) (checkBits d) = (.corrected, d)) ∧
  (∀ (d : BitVec 128) (j : Nat) (e : BitVec 4), j < 4 → e ≠ 0 →
    decodeHalf d (checkBits d ^^^ (e.setWidth 16 <<< (4 * j))) = (.corrected, d)) ∧
  decodeWord poisonWord = .poisoned

/-- On R10, R38, R40, R117 to R124, R134, R139, R143: a read of a word, a write of a whole word and a write of some of its bytes, for
each outcome of the read, and in the register windows. An address outside the 48-bit space is no access of the part. A word that the
unit of its bank holds, in a form that the spec does not give, reads as a free value (log entry 109).
The model's readings and choices where the spec leaves it open: log entries 4, 5 and 96. -/
def Obligations.MemoryCommands : Prop :=
  ∀ (s : State) (req a : Nat) (m : BitVec 32) (data : W256), Memory.wf s.mem →
    let answered (t : State) (x : Answer) : Prop :=
      Tab.find? req t.answers = some x ∧ ∀ r, r ≠ req → Tab.find? r t.answers = Tab.find? r s.answers
    let otherWords (t : State) : Prop :=
      ∀ b, b % 32 = 0 → b ≠ a → b < 2 ^ 48 → readCode t.mem b = readCode s.mem b
    (2 ^ 48 ≤ a →
      exec (.memoryRead req a) s = .fault (.outsideAddressSpace a) ∧
      exec (.partialWrite req a m data) s = .fault (.outsideAddressSpace a) ∧
      exec (.wholeWordWrite req a data) s = .fault (.outsideAddressSpace a)) ∧
    (a % 32 = 0 → a < 2 ^ 48 → inRegs a = false → memUnit a = none →
      let err (t : State) : Prop := t = { Around s t with answers := t.answers } ∧ answered t .addrErr ∧ Sets s t [] ∧
        Posts s t [⟨Src.fabric, 0x0000, [.u 2 req, .u 6 a, .u 1 2]⟩]
      Completes (exec (.memoryRead req a) s) err ∧ Completes (exec (.wholeWordWrite req a data) s) err ∧
      Completes (exec (.partialWrite req a m data) s) err) ∧
    (a % 32 = 0 → a < 2 ^ 48 → inRegs a = true →
      let still (x : Answer) (t : State) : Prop := t = { Around s t with answers := t.answers } ∧ answered t x ∧ Sets s t [] ∧
        Posts s t [⟨Src.fabric, 0x0000, [.u 2 req, .u 6 a, .u 1 0]⟩]
      Completes (exec (.memoryRead req a) s) (still (.data 32 0)) ∧
      Completes (exec (.wholeWordWrite req a data) s) (still .written) ∧
      Completes (exec (.partialWrite req a m data) s) (still .written)) ∧
    ∀ u : MemUnit, a % 32 = 0 → memUnit a = some u →
      (s.unitReady u = false →
        let err (t : State) : Prop := t = { Around s t with answers := t.answers } ∧ answered t .addrErr ∧ Sets s t [] ∧
          Posts s t [⟨Src.fabric, 0x0000, [.u 2 req, .u 6 a, .u 1 4]⟩]
        Completes (exec (.memoryRead req a) s) err ∧ Completes (exec (.wholeWordWrite req a data) s) err ∧
        Completes (exec (.partialWrite req a m data) s) err) ∧
      (s.unitReady u = true →
        (∀ d, decodeWord (readCode s.mem a) = .clean d → Completes (exec (.memoryRead req a) s) fun t =>
          t = { Around s t with answers := t.answers } ∧ answered t (.data 32 d) ∧ Sets s t [] ∧ Posts s t []) ∧
        (∀ d h0 h1, decodeWord (readCode s.mem a) = .corrected d h0 h1 →
          s.fget u.regs.count u.regs.inst 0 < s.fget u.regs.thresh u.regs.inst 0 → s.flag u.regs.ovf u.regs.inst 0 = false →
          Completes (exec (.memoryRead req a) s) fun t =>
            t = { Around s t with answers := t.answers } ∧ answered t (.data 32 d) ∧ Posts s t [] ∧
            Sets s t [⟨u.regs.h1, u.regs.inst, 0, b2n h1⟩, ⟨u.regs.h0, u.regs.inst, 0, b2n h0⟩,
              ⟨u.regs.word, u.regs.inst, 0, wordIndex a⟩,
              ⟨u.regs.count, u.regs.inst, 0, s.fget u.regs.count u.regs.inst 0 + 1⟩]) ∧
        (decodeWord (readCode s.mem a) = .poisoned → s.unitHolds u a = false →
          Completes (exec (.memoryRead req a) s) fun t =>
            t = { Around s t with answers := t.answers } ∧ answered t .poison ∧ Sets s t [] ∧ Posts s t []) ∧
        (decodeWord (readCode s.mem a) = .poisoned → s.unitHolds u a = true →
          Completes (exec (.memoryRead req a) s) fun t =>
            t = { Around s t with answers := t.answers, freeCtr := t.freeCtr } ∧ (∃ d, answered t (.data 32 d)) ∧ Sets s t [] ∧
            Posts s t []) ∧
        (∀ x y, decodeWord (readCode s.mem a) = .uncorrectable x y → Completes (exec (.memoryRead req a) s) fun t =>
          t = { Around s t with answers := t.answers } ∧ answered t .poison ∧ Sets s t [] ∧
          Posts s t [⟨u.src, u.regs.evUnc, [.u 4 (wordIndex a), .u 2 x.toNat, .u 2 y.toNat]⟩])) ∧
      (s.writeRefused req a u = none →
        (s.flag u.regs.arm u.regs.inst 0 = false ∨ s.fget u.regs.injWord u.regs.inst 0 ≠ wordIndex a →
          Completes (exec (.wholeWordWrite req a data) s) fun t =>
            t = { Around s t with answers := t.answers, mem := t.mem } ∧ answered t .written ∧ Sets s t [] ∧ Posts s t [] ∧
            readCode t.mem a = encodeWord data ∧ otherWords t) ∧
        (s.flag u.regs.arm u.regs.inst 0 = true → s.fget u.regs.injWord u.regs.inst 0 = wordIndex a →
          let flip (k mask : Nat) : BitVec 288 := if k ≤ 71 then BitVec.ofNat 288 (mask * 16 ^ k) else 0
          Completes (exec (.wholeWordWrite req a data) s) fun t =>
            t = { Around s t with answers := t.answers, mem := t.mem } ∧ answered t .written ∧ Posts s t [] ∧
            Sets s t [⟨u.regs.arm, u.regs.inst, 0, 0⟩] ∧ otherWords t ∧
            readCode t.mem a = encodeWord data ^^^
              flip (s.fget u.regs.symA u.regs.inst 0) (s.fget u.regs.maskA u.regs.inst 0) ^^^
              flip (s.fget u.regs.symB u.regs.inst 0) (s.fget u.regs.maskB u.regs.inst 0)) ∧
        (m ≠ 0xFFFFFFFF#32 →
          (∀ d, decodeWord (readCode s.mem a) = .clean d → Completes (exec (.partialWrite req a m data) s) fun t =>
            t = { Around s t with answers := t.answers, mem := t.mem } ∧ answered t .written ∧ Sets s t [] ∧ Posts s t [] ∧
            otherWords t ∧ ∃ d', readCode t.mem a = encodeWord d' ∧
              ∀ j, j < 32 → d'.extractLsb' (8 * j) 8 = if m.getLsbD j then data.extractLsb' (8 * j) 8 else d.extractLsb' (8 * j) 8) ∧
          (decodeWord (readCode s.mem a) = .poisoned → s.unitHolds u a = false →
            Completes (exec (.partialWrite req a m data) s) fun t =>
            t = { Around s t with answers := t.answers, mem := t.mem } ∧ answered t .writePoison ∧ Sets s t [] ∧ Posts s t [] ∧
            otherWords t ∧ readCode t.mem a = poisonWord) ∧
          (∀ x y, decodeWord (readCode s.mem a) = .uncorrectable x y →
            Completes (exec (.partialWrite req a m data) s) fun t =>
              t = { Around s t with answers := t.answers, mem := t.mem } ∧ answered t .writePoison ∧ Sets s t [] ∧
              Posts s t [⟨u.src, u.regs.evUnc, [.u 4 (wordIndex a), .u 2 x.toNat, .u 2 y.toNat]⟩] ∧
              otherWords t ∧ readCode t.mem a = poisonWord)))

/-- On R137 to R143: the controllers: enable, the end of INIT, temperature, parity errors, half rate, calibration, and an access
without an answer, which ends what its requester has in flight at the word (log entry 93). Clauses in which the limit of entry 52
falls take no charge to be held.
The model's reading or choice where the spec leaves it open: log entry 7. -/
def Obligations.ControllerCommands : Prop :=
  ∀ (s : State) (req n : Nat), n < 16 → Memory.wf s.mem →
    let others (t : State) : Prop := ∀ k, k ≠ n → t.mc k = s.mc k
    (∀ val : W32,
      let starts := val.getLsbD 0 = true ∧ s.flag F.MC_CTRL_EN n 0 = false
      let sets : List FieldSet := (if starts then [⟨F.MC_CTRL_EN, n, 0, 1⟩] else []) ++ [⟨F.MC_CTRL_HALF, n, 0, bitsOf val 1 1⟩]
      let state (t : State) : Prop := t.mc n = (if starts then { st := .init, parity := 0 } else s.mc n) ∧ others t
      (val.getLsbD 0 = false → exec (.mcEnable req n val) s = .next s) ∧
      ∀ i ∈ [Instr.mcEnable req n val, .mcHalfWrite req n val], i = .mcHalfWrite req n val ∨ val.getLsbD 0 = true →
        (s.flag F.MC_STAT_HALFACT n 0 = val.getLsbD 1 → Completes (exec i s) fun t =>
          t = { s with regs := t.regs, mcs := t.mcs } ∧ state t ∧ Sets s t sets) ∧
        (s.flag F.MC_STAT_HALFACT n 0 = !val.getLsbD 1 → s.ledger.holdings = [] → Completes (exec i s) fun t =>
          t = { Around s t with mcs := t.mcs } ∧ state t ∧ Sets s t (sets ++ [⟨F.MC_STAT_HALFACT, n, 0, bitsOf val 1 1⟩]) ∧
          Posts s t [⟨Src.mc n, 0x0803, [.u 1 (bitsOf val 1 1), .u 1 0]⟩])) ∧
    (s.flag F.MC_CTRL_EN n 0 = false → (∀ temp : BitVec 8, exec (.mcIntervalStart n temp) s = .next s) ∧
      exec (.caParityError n) s = .next s) ∧
    ((s.mc n).st ≠ .init → exec (.mcInitComplete n) s = .next s) ∧
    ((s.mc n).st = .init → Completes (exec (.mcInitComplete n) s) fun t =>
      t = { s with mcs := t.mcs, mem := t.mem } ∧ t.mc n = { s.mc n with st := .run } ∧ others t ∧
      (∀ a, a % 32 = 0 → a < 2 ^ 48 →
        readCode t.mem a = if inHbm a = true ∧ a / 512 % 16 = n then poisonWord else readCode s.mem a)) ∧
    (∀ temp : BitVec 8, s.flag F.MC_CTRL_EN n 0 = true →
      ((82 < temp.toInt ∧ temp.toInt ≤ 85) ∨ (85 < temp.toInt ∧ s.flag F.MC_STAT_HOTREF n 0 = true) ∨
        (temp.toInt ≤ 82 ∧ s.flag F.MC_STAT_HOTREF n 0 = false) →
        Completes (exec (.mcIntervalStart n temp) s) fun t =>
          t = { s with regs := t.regs, mcs := t.mcs } ∧ t.mc n = { s.mc n with parity := 0 } ∧ others t ∧
          Sets s t [⟨F.MC_STAT_TEMP, n, 0, temp.toNat⟩]) ∧
      (∀ hot : Bool, (if hot then 85 < temp.toInt else temp.toInt ≤ 82) → s.flag F.MC_STAT_HOTREF n 0 = !hot →
        s.ledger.holdings = [] → Completes (exec (.mcIntervalStart n temp) s) fun t =>
          t = { Around s t with mcs := t.mcs } ∧ t.mc n = { s.mc n with parity := 0 } ∧ others t ∧
          Sets s t [⟨F.MC_STAT_TEMP, n, 0, temp.toNat⟩, ⟨F.MC_STAT_HOTREF, n, 0, b2n hot⟩] ∧
          Posts s t [⟨Src.mc n, 0x0802, [.i 4 temp.toInt, .u 1 (b2n hot)]⟩])) ∧
    (s.flag F.MC_CTRL_EN n 0 = true →
      let cap : FieldSet := ⟨F.MC_STAT_CAPAR, n, 0, min (s.fget F.MC_STAT_CAPAR n 0 + 1) 0xFFFF⟩
      ((s.mc n).parity ≠ 16 → Completes (exec (.caParityError n) s) fun t =>
        t = { s with regs := t.regs, mcs := t.mcs } ∧ t.mc n = { s.mc n with parity := (s.mc n).parity + 1 } ∧ others t ∧
        Sets s t [cap]) ∧
      ((s.mc n).parity = 16 → s.flag F.MC_STAT_HALFACT n 0 = true → Completes (exec (.caParityError n) s) fun t =>
        t = { s with regs := t.regs, mcs := t.mcs } ∧ t.mc n = { s.mc n with parity := 17 } ∧ others t ∧
        Sets s t [cap, ⟨F.MC_CTRL_HALF, n, 0, 1⟩]) ∧
      ((s.mc n).parity = 16 → s.flag F.MC_STAT_HALFACT n 0 = false → s.ledger.holdings = [] →
        Completes (exec (.caParityError n) s) fun t =>
          t = { Around s t with mcs := t.mcs } ∧ (t.mc n).parity = 17 ∧ (t.mc n).st = (s.mc n).st ∧ others t ∧
          Sets s t [cap, ⟨F.MC_CTRL_HALF, n, 0, 1⟩, ⟨F.MC_STAT_HALFACT, n, 0, 1⟩] ∧
          Posts s t [⟨Src.mc n, 0x0803, [.u 1 1, .u 1 1]⟩])) ∧
    (∀ (val : W32) (lat : Bool),
      (s.flag F.MC_CTRL_EN n 0 = true → Completes (exec (.mcCalWrite req n lat val) s) fun t =>
        t = { s with regs := t.regs } ∧ Sets s t [⟨F.MC_STAT_CALLOCK, n, 0, 1⟩]) ∧
      (s.flag F.MC_CTRL_EN n 0 = false → Completes (exec (.mcCalWrite req n lat val) s) fun t =>
        let lane := s.fget F.MC_CAL_SEL_LANE n req
        t = { s with regs := t.regs } ∧
        Sets s t (if lat then [⟨F.MC_CAL_LAT_WRLAT, n, 0, bitsOf val 13 8⟩, ⟨F.MC_CAL_LAT_RDLAT, n, 0, bitsOf val 5 0⟩]
          else [⟨F.MC_CAL_VAL_RDLY, n, lane, bitsOf val 15 8⟩, ⟨F.MC_CAL_VAL_WDLY, n, lane, bitsOf val 7 0⟩]))) ∧
    (∀ (a : Nat) (write : Bool), a % 32 = 0 → a < 0x000800000000 → a / 512 % 16 = n → (s.mc n).st = .run →
      let ended (r : Nat) (t : State) : Prop :=
        Tab.find? r t.answers = some (if write then .writePoison else .poison) ∧
        (∀ q, q ≠ r → Tab.find? q t.answers = Tab.find? q s.answers) ∧ (write = false → t.mem = s.mem) ∧
        (∀ b, b % 32 = 0 → b ≠ a → b < 2 ^ 48 → readCode t.mem b = readCode s.mem b)
      let timedOut : Ev := ⟨Src.mc n, 0x0804, [.u 4 (a / 32), .u 1 (if write then 1 else 0)]⟩
      (req ≠ Src.harrow → (∀ k, k < 104 → req ≠ Src.rake k) → (∀ k, k < 32 → req ≠ Src.dma k) →
        Completes (exec (.accessTimeout req a write) s) fun t =>
          t = { Around s t with answers := t.answers, mem := t.mem, freeCtr := t.freeCtr } ∧ Sets s t [] ∧ ended req t ∧
          Posts s t [timedOut]) ∧
      (∀ (k : Nat) (x : DevLoad) (c : TaskCtx), k < 104 → write = false → (s.rake k).devLoad = some x → x.addr / 32 * 32 = a →
        (s.rake k).task = some c → (s.rake k).drainTo = none → (s.slot c.slot).st = .run →
        Completes (exec (.accessTimeout (Src.rake k) a write) s) fun t =>
          t = { Around s t with answers := t.answers, rakes := t.rakes, tally := t.tally } ∧ ended (Src.rake k) t ∧
          (∀ m, m ≠ k → t.rake m = s.rake m) ∧ (t.rake k).st = .idle ∧ (t.rake k).task = none ∧ (t.rake k).devLoad = none ∧
          t.slot c.slot = {} ∧ (∀ m, m ≠ c.slot → t.slot m = s.slot m) ∧ t.fget F.RK_FAULT_CAUSE k 0 = 0x06 ∧
          Posts s t [timedOut,
            ⟨Src.rake k, 0x0600, [.u 1 0x06, .u 2 (s.rake k).pc, .u 6 x.addr, .u 2 c.slot, .u 1 c.replay]⟩,
            ⟨Src.tally, 0x0504, [.u 2 c.slot, .u 1 0x06, .u 1 (s.slot c.slot).pos, .u 1 (s.slot c.slot).replay]⟩]) ∧
      (∀ (k pc ea : Nat) (rest : List (Nat × Nat)), k < 104 → write = true → (s.rake k).posted = (pc, ea) :: rest →
        ea / 32 * 32 = a → (s.rake k).storeErr = none →
        Completes (exec (.accessTimeout (Src.rake k) a write) s) fun t =>
          t = { Around s t with answers := t.answers, mem := t.mem, freeCtr := t.freeCtr, rakes := t.rakes } ∧ Sets s t [] ∧
          ended (Src.rake k) t ∧ (∀ m, m ≠ k → t.rake m = s.rake m) ∧
          t.rake k = { s.rake k with storeErr := some ⟨0x06, pc, ea⟩ } ∧ Posts s t [timedOut]) ∧
      (∀ (k : Nat) (r : DmaRun), k < 32 → write = true → (s.dc k).run = some r → r.status = none → (s.dc k).paused = false →
        (bitsOf r.desc 175 128 + r.done) / 32 * 32 = a →
        Completes (exec (.accessTimeout (Src.dma k) a write) s) fun t =>
          t = { Around s t with answers := t.answers, mem := t.mem, freeCtr := t.freeCtr, dma := t.dma } ∧ Sets s t [] ∧
          ended (Src.dma k) t ∧ (∀ m, m ≠ k → t.dc m = s.dc m) ∧
          t.dc k = { s.dc k with run := some { r with status := some 9 } } ∧ Posts s t [timedOut]))

/-- On R125, R128 to R131, R134, R143: a bucket's leak and configuration and the arming of an injection, for every controller and
bank; the harrow's action on its next word by what that word decodes to, with the end of a pass and a late pass; and the ends of a
bank's FILL and WAKE while its domain is ON.
The model's readings and choices where the spec leaves it open: log entries 3, 4 and 63. -/
def Obligations.BucketsHarrowAndBanks : Prop :=
  ∀ (s : State) (req : Nat) (val : W32), Memory.wf s.mem →
    (∀ (bank : Bool) (n : Nat), n < (if bank then 146 else 16) →
      let u : MemUnit := if bank then .bank n else .hbm n
      let count := s.fget u.regs.count n 0
      let leak := bitsOf val 31 16
      let th := bitsOf val 15 0
      (Completes (exec (.bucketLeak bank n) s) fun t => t = { s with regs := t.regs } ∧
        Sets s t [⟨u.regs.count, n, 0, count - 1⟩]) ∧
      (Completes (exec (.eccCfgWrite req bank n val) s) fun t => t = { s with regs := t.regs } ∧
        Sets s t ((if leak = 0 then [] else [⟨u.regs.leak, n, 0, leak⟩]) ++
          (if th = 0 then [] else [⟨u.regs.thresh, n, 0, th⟩]) ++
          (if 0 < th ∧ th < count then [⟨u.regs.count, n, 0, th⟩] else []))) ∧
      (val.getLsbD 31 = false → exec (.injArm req bank n val) s = .next s) ∧
      (val.getLsbD 31 = true → Completes (exec (.injArm req bank n val) s) fun t => t = { s with regs := t.regs } ∧
        Sets s t [⟨u.regs.arm, n, 0, 1⟩, ⟨u.regs.symB, n, 0, bitsOf val 21 15⟩, ⟨u.regs.maskB, n, 0, bitsOf val 14 11⟩,
          ⟨u.regs.symA, n, 0, bitsOf val 10 4⟩, ⟨u.regs.maskA, n, 0, bitsOf val 3 0⟩])) ∧
    (∀ (i : Nat) (u : MemUnit),
      let a := if i < 2 ^ 30 then 32 * i else 0x001000000000 + 32 * (i - 2 ^ 30)
      let passed (t : State) : Prop :=
        (∀ b, b % 32 = 0 → b ≠ a → b < 2 ^ 48 → readCode t.mem b = readCode s.mem b) ∧
        t = { Around s t with mem := t.mem, harrow := { s.harrow with next := i + 1 } }
      s.flag F.HRW_CTRL_EN 0 0 = true → s.harrow.next = i → memUnit a = some u → s.unitReady u = true →
      s.flag u.regs.arm u.regs.inst 0 = false → (s.harrowNext (i + 1)).isSome = true →
      (∀ d, decodeWord (readCode s.mem a) = .clean d ∨ decodeWord (readCode s.mem a) = .poisoned →
        Completes (exec .harrowRead s) fun t =>
          passed t ∧ readCode t.mem a = readCode s.mem a ∧ Sets s t [] ∧ Posts s t []) ∧
      (∀ d h0 h1, decodeWord (readCode s.mem a) = .corrected d h0 h1 →
        Completes (exec .harrowRead s) fun t => passed t ∧ readCode t.mem a = encodeWord d ∧ OnlyRegs s t []) ∧
      (∀ x y, decodeWord (readCode s.mem a) = .uncorrectable x y →
        Completes (exec .harrowRead s) fun t => passed t ∧ readCode t.mem a = poisonWord ∧ Sets s t [] ∧
          Posts s t [⟨u.src, u.regs.evUnc, [.u 4 (wordIndex a), .u 2 x.toNat, .u 2 y.toNat]⟩,
            ⟨Src.harrow, 0x0900, [.u 6 a, .u 2 x.toNat, .u 2 y.toNat]⟩])) ∧
    (let n := (s.fget F.HRW_STAT_PASSES 0 0 + 1) % 2 ^ 24
      let completed (t : State) : Prop := t = { Around s t with harrow := t.harrow } ∧ t.harrow.next = 0 ∧
        t.harrow.late = false ∧ t.harrow.seconds = s.fget F.HRW_PERIOD_SECONDS 0 0 ∧
        Sets s t [⟨F.HRW_STAT_PASSES, 0, 0, n⟩] ∧ Posts s t [⟨Src.harrow, 0x0901, [.u 4 n]⟩]
      (∀ (i : Nat) (u : MemUnit) (d : W256),
        let a := if i < 2 ^ 30 then 32 * i else 0x001000000000 + 32 * (i - 2 ^ 30)
        s.flag F.HRW_CTRL_EN 0 0 = true → s.harrow.next = i → memUnit a = some u → s.unitReady u = true →
        (s.harrowNext (i + 1)).isSome = false → decodeWord (readCode s.mem a) = .clean d →
        Completes (exec .harrowRead s) completed) ∧
      (s.flag F.HRW_CTRL_EN 0 0 = true → (s.harrowNext s.harrow.next).isSome = false →
        Completes (exec .harrowPassLate s) completed)) ∧
    (s.flag F.HRW_CTRL_EN 0 0 = true → (s.harrowNext s.harrow.next).isSome = true →
      Completes (exec .harrowPassLate s) fun t =>
        t = { s with regs := t.regs, harrow := { s.harrow with late := true } } ∧ Sets s t [⟨F.HRW_STAT_LATE, 0, 0, 1⟩]) ∧
    (s.flag F.HRW_CTRL_EN 0 0 = false → exec .harrowRead s = .next s ∧ exec .harrowPassLate s = .next s) ∧
    (val.getLsbD 0 = true → s.flag F.HRW_CTRL_EN 0 0 = true → Completes (exec (.hrwEnable req val) s) fun t =>
      t = { s with regs := t.regs } ∧ Sets s t [⟨F.HRW_CTRL_EN, 0, 0, 1⟩]) ∧
    (val.getLsbD 0 = true → s.flag F.HRW_CTRL_EN 0 0 = false → Completes (exec (.hrwEnable req val) s) fun t =>
      t = { s with regs := t.regs, harrow := t.harrow } ∧ t.harrow.next = 0 ∧ t.harrow.late = false ∧
      t.harrow.seconds = s.fget F.HRW_PERIOD_SECONDS 0 0 ∧ Sets s t [⟨F.HRW_CTRL_EN, 0, 0, 1⟩]) ∧
    (val.getLsbD 0 = false → Completes (exec (.hrwDisable req val) s) fun t =>
      t = { s with regs := t.regs } ∧ Sets s t [⟨F.HRW_CTRL_EN, 0, 0, 0⟩]) ∧
    (60 ≤ bitsOf val 16 0 → bitsOf val 16 0 ≤ 86400 → Completes (exec (.hrwPeriodWrite req val) s) fun t =>
      t = { s with regs := t.regs } ∧ Sets s t [⟨F.HRW_PERIOD_SECONDS, 0, 0, bitsOf val 16 0⟩]) ∧
    (bitsOf val 16 0 < 60 ∨ 86400 < bitsOf val 16 0 → exec (.hrwPeriodWrite req val) s = .next s) ∧
    (∀ i, i < 146 → s.bank i = .fill → s.dom (i + 2) = .on ∨ 144 ≤ i →
      Completes (exec (.bankFillComplete i) s) fun t =>
        t = { s with banks := t.banks, mem := t.mem } ∧ t.bank i = .on ∧ (∀ k, k ≠ i → t.bank k = s.bank k) ∧
        ∀ a, a % 32 = 0 → a < 2 ^ 48 → readCode t.mem a =
          if bankBase i ≤ a ∧ a < bankBase i + bankSize i then poisonWord else readCode s.mem a) ∧
    (∀ i, i < 146 → s.bank i = .wake → s.dom (i + 2) = .on ∨ 144 ≤ i →
      Completes (exec (.bankWakeComplete i) s) fun t =>
        t = { s with banks := t.banks } ∧ t.bank i = .on ∧ ∀ k, k ≠ i → t.bank k = s.bank k) ∧
    (∀ i, i < 146 → (s.bank i ≠ .fill → exec (.bankFillComplete i) s = .next s) ∧
      (s.bank i ≠ .wake → exec (.bankWakeComplete i) s = .next s))

/-! ### DMA (chapter 13) -/

/-- On R354, R356, R366: a descriptor reaches a channel by command or by a submitted address; enabling, disabling. A command
reaches its unit as the front of its queue, or directly where the queue is empty.
The model's readings and choices where the spec leaves it open: log entries 39 and 62. -/
def Obligations.DmaSubmission : Prop :=
  ∀ (s u : State) (req n : Nat) (val : W32) (desc : W256), n < 32 →
    let c := s.dc n
    let others (t : State) : Prop := ∀ k, k ≠ n → t.dc k = s.dc k
    let tok (st : Nat) : List Msg :=
      if desc.getLsbD 8 = true ∧ tokenDestOk (desc.extractLsb' 192 64) = true then
        [⟨Src.dma n, desc.extractLsb' 192 64, BitVec.ofNat 64 (st + bitsOf desc 3 0 * 2 ^ 8 + bitsOf desc 191 176 * 2 ^ 16)⟩]
      else []
    (s.popCmd 14 n 0 desc = some u → s.flag F.DMA_CFG_OWNER n 0 = false → s.flag F.DMA_CFG_EN n 0 = true →
      c.queue.length + (if c.run.isSome then 1 else 0) < 16 → Completes (exec (.dmaPcmd n desc) s) fun t =>
        t = { u with dma := t.dma } ∧ t.dc n = { c with queue := c.queue ++ [desc] } ∧ others t) ∧
    (s.flag F.DMA_CFG_OWNER n 0 = false → s.flag F.DMA_CFG_EN n 0 = true →
      16 ≤ c.queue.length + (if c.run.isSome then 1 else 0) → exec (.dmaPcmd n desc) s = .next s) ∧
    (s.popCmd 14 n 0 desc = some u → s.flag F.DMA_CFG_EN n 0 = false ∨ s.flag F.DMA_CFG_OWNER n 0 = true →
      Completes (exec (.dmaPcmd n desc) s) fun t =>
        t = { Around u t with tally := { s.tally with inbox := s.tally.inbox ++ tok 4 } } ∧
        Sets s t ([⟨F.DMA_STAT_STATUS, n, 0, 4⟩, ⟨F.DMA_STAT_ERR, n, 0, 1⟩] ++ if s.flag F.DMA_CFG_EN n 0 then
          [⟨F.DMA_COUNT_COUNT, n, 0, (s.fget F.DMA_COUNT_COUNT n 0 + 1) % 2 ^ 32⟩] else []) ∧
        Posts s t [⟨Src.dma n, 0x0E00, [.u 1 4, .u 2 (bitsOf desc 191 176), .u 4 0]⟩]) ∧
    (let low := Tab.getD s.helds (req, .DMA_SUBMIT_LO, n) (s.reg .DMA_SUBMIT_LO n 0);
      (s.dmaHeld n < 16 → c.submit = none → s.flag F.DMA_CFG_OWNER n 0 = true → s.flag F.DMA_CFG_EN n 0 = true →
        low.toNat % 32 = 0 → Completes (exec (.dmaSubmit req n val) s) fun t =>
          t = { s with regs := t.regs, helds := t.helds, dma := t.dma } ∧
          t.dc n = { c with submit := some (bitsOf val 15 0 * 2 ^ 32 + low.toNat) } ∧ others t ∧
          t.reg .DMA_SUBMIT_LO n 0 = low ∧ Tab.find? (req, .DMA_SUBMIT_LO, n) t.helds = none) ∧
      (16 ≤ s.dmaHeld n ∨ c.submit ≠ none ∨ s.flag F.DMA_CFG_OWNER n 0 = false ∨ s.flag F.DMA_CFG_EN n 0 = false ∨
        low.toNat % 32 ≠ 0 → Completes (exec (.dmaSubmit req n val) s) fun t =>
          t = { s with regs := t.regs, helds := t.helds } ∧ Sets s t [⟨F.DMA_STAT_DROPPED, n, 0, 1⟩])) ∧
    (∀ a d, c.submit = some a → (s.memRead (Src.dma n) a).1 = .ok d →
      Completes (exec (.dmaSubmitRead n) s) fun t =>
        t = { Around s t with dma := t.dma, freeCtr := t.freeCtr } ∧
        t.dc n = { c with submit := none, queue := c.queue ++ [d] } ∧ others t) ∧
    (∀ a, c.submit = some a → inRegs a = false → memUnit a = none → Completes (exec (.dmaSubmitRead n) s) fun t =>
      t = { Around s t with dma := t.dma } ∧ t.dc n = { c with submit := none } ∧ others t ∧
      Sets s t [⟨F.DMA_STAT_ERR, n, 0, 1⟩] ∧
      Posts s t [⟨Src.fabric, 0x0000, [.u 2 (Src.dma n), .u 6 a, .u 1 2]⟩,
        ⟨Src.dma n, 0x0E00, [.u 1 25, .u 2 0, .u 4 0]⟩]) ∧
    (c.submit = none → exec (.dmaSubmitRead n) s = .next s) ∧
    (∀ a r v, c.submit = some a → s.memRead (Src.dma n) a = (r, v) →
      let fails (st : Nat) : Prop := Completes (exec (.dmaSubmitRead n) s) fun t =>
        t = { Around v t with dma := t.dma } ∧ t.dc n = { c with submit := none } ∧ others t ∧
        Sets v t [⟨F.DMA_STAT_ERR, n, 0, 1⟩] ∧ Posts v t [⟨Src.dma n, 0x0E00, [.u 1 st, .u 2 0, .u 4 0]⟩]
      (∀ w, r = .poison w → fails 9) ∧ (r = .addrErr → fails 25)) ∧
    (val.getLsbD 0 = true → s.flag F.DMA_CFG_EN n 0 = false → Completes (exec (.dmaEnable req n val) s) fun t =>
      t = { s with regs := t.regs } ∧ t.flag F.DMA_CFG_EN n 0 = true ∧
      t.flag F.DMA_CFG_OWNER n 0 = val.getLsbD 1 ∧ t.fget F.DMA_COUNT_COUNT n 0 = 0 ∧
      ∀ r i k, r ≠ .DMA_CFG ∧ r ≠ .DMA_COUNT ∨ i ≠ n → t.reg r i k = s.reg r i k) ∧
    (val.getLsbD 0 = true → s.flag F.DMA_CFG_EN n 0 = true → exec (.dmaEnable req n val) s = .next s) ∧
    (val.getLsbD 0 = false → s.flag F.DMA_CFG_EN n 0 = true →
      let mine := s.flag F.DMA_CFG_OWNER n 0 = false
      let drops (t : State) : Prop :=
        t.dc n = { ({} : DmaChan) with down := c.down } ∧ others t ∧
        (∀ w i q, t.queue w i q = if mine ∧ (w, i, q) = (14, n, 0) then [] else s.queue w i q) ∧
        Sets s t [⟨F.DMA_CFG_EN, n, 0, 0⟩, ⟨F.DMA_COUNT_COUNT, n, 0, 0⟩] ∧
        Posts s t [⟨Src.dma n, 0x0E03, [.u 1 ((if mine then (s.queue 14 n 0).length else 0) + c.queue.length +
          (if c.run.isSome then 1 else 0))]⟩]
      (c.run = none → Completes (exec (.dmaDisable req n val) s) fun t =>
        t = { Around s t with dma := t.dma, queues := t.queues } ∧ drops t) ∧
      (∀ r, c.run = some r → Memory.wf s.mem → Completes (exec (.dmaDisable req n val) s) fun t =>
        t = { Around s t with dma := t.dma, queues := t.queues, mem := t.mem, freeCtr := t.freeCtr } ∧ drops t ∧
        (c.paused = true → t.mem = s.mem) ∧ MemOut s t (bitsOf r.desc 175 128) r.len)) ∧
    (val.getLsbD 0 = true → exec (.dmaDisable req n val) s = .next s) ∧
    (val.getLsbD 0 = false → s.flag F.DMA_CFG_EN n 0 = false → Completes (exec (.dmaDisable req n val) s) fun t =>
      t = { s with regs := t.regs } ∧ Sets s t [⟨F.DMA_CFG_OWNER, n, 0, bitsOf val 1 1⟩])

/-- On R355 to R364: a descriptor starts with the four checks in order, moves its bytes, a pattern or a copy, in beats of one destination
word, none of them while a domain that it touches is held, and ends with its status; a channel pauses and resumes with the domains
that it touches.
The model's readings and choices where the spec leaves it open: log entries 62 and 94. -/
def Obligations.DmaTransfers : Prop :=
  ∀ (s : State) (n : Nat), n < 32 →
    let c := s.dc n
    let others (t : State) : Prop := ∀ k, k ≠ n → t.dc k = s.dc k
    (∀ (d : W256) (rest : List W256), c.run = none → c.queue = d :: rest → s.flag F.DMA_CFG_EN n 0 = true →
      let started (t : State) (r : DmaRun) : Prop :=
        t.dc n = { c with queue := rest, run := some r, down := r.down, done := 0 } ∧ others t
      let op := bitsOf d 3 0
      let unit := if bitsOf d 5 4 = 0 then 1 else if bitsOf d 5 4 = 1 then 2 else 4
      let src := bitsOf d 111 64
      let dst := bitsOf d 175 128
      let room (r a : Nat) : Nat :=
        let first := s.fget F.DMA_RGN_BASE_BASE 0 r * 65536
        let last := s.fget F.DMA_RGN_END_END 0 r * 65536
        if first ≤ a ∧ a < last then last - a else 0
      let most := min (bitsOf d 63 32) (room (bitsOf d 21 16) dst)
      let most := if op = 1 then min most (room (bitsOf d 15 10) src) else most
      let len := most - most % unit
      (s.dmaFormatOk d = false → Completes (exec (.dmaStart n) s) fun t =>
        t = { s with dma := t.dma } ∧ started t { desc := d, len := 0, down := false, status := some 2 }) ∧
      (s.dmaFormatOk d = true → len = 0 → Completes (exec (.dmaStart n) s) fun t =>
        t = { s with dma := t.dma } ∧ started t { desc := d, len := 0, down := false, status := some 24 }) ∧
      (∀ a, s.dmaFormatOk d = true → 0 < len → dmaOutside d len = some a → Completes (exec (.dmaStart n) s) fun t =>
        t = { Around s t with dma := t.dma } ∧ started t { desc := d, len := 0, down := false, status := some 25 } ∧
        Sets s t [] ∧ Posts s t [⟨Src.fabric, 0x0000, [.u 2 (Src.dma n), .u 6 a, .u 1 2]⟩]) ∧
      (s.dmaFormatOk d = true → 0 < len → dmaOutside d len = none → Completes (exec (.dmaStart n) s) fun t =>
        t = { s with dma := t.dma } ∧
        started t { desc := d, len := len, down := op == 1 && decide (src < dst ∧ dst < src + len) })) ∧
    (∀ (r : DmaRun) (u : MemUnit), c.run = some r → r.status = none → c.paused = false → r.done < r.len →
      (∀ d ∈ r.domains, s.dom d ≠ .hold) → Memory.wf s.mem →
      let left := r.len - r.done
      let dst := bitsOf r.desc 175 128
      let k := if r.down then min left ((dst + left - 1) % 32 + 1) else min left (32 - (dst + r.done) % 32)
      let i := if r.down then left - k else r.done
      let a := dst + i
      let w := a / 32 * 32
      memUnit w = some u → s.writeRefused (Src.dma n) w u = none → s.flag u.regs.arm u.regs.inst 0 = false →
      (∃ d, decodeWord (readCode s.mem w) = .clean d) → r.halfSent = true ∨ r.desc.getLsbD 6 = false →
      let moves (byte : Nat → Byte) : Prop :=
        Completes (exec (.dmaBeatDone n) s) fun t =>
          t = { Around s t with dma := t.dma, mem := t.mem } ∧ others t ∧ Sets s t [] ∧ Posts s t [] ∧
          MemBut s t a k ∧ (∀ j, j < k → memGet (a + j) t.mem = byte j) ∧
          ∃ r', t.dc n = { c with run := some r', done := r.done + k } ∧ r'.done = r.done + k ∧ r'.len = r.len ∧
            r'.desc = r.desc ∧ r'.down = r.down ∧ r'.moved = r.moved ++ (List.range k).map byte ∧
            r'.status = if r.done + k = r.len then some (if r.len < bitsOf r.desc 63 32 then 24 else 0) else none
      (bitsOf r.desc 3 0 = 2 → moves fun j => BitVec.ofNat 8 (bitsOf r.desc 127 64 / 256 ^ ((a + j) % 8))) ∧
      let source (j : Nat) : Nat := bitsOf r.desc 111 64 + ((i + j) ^^^ bitsOf r.desc 5 4)
      (bitsOf r.desc 3 0 = 1 → r.saved = [] → (∀ j, j < k → ∃ v d, memUnit (source j / 32 * 32) = some v ∧
          s.unitReady v = true ∧ decodeWord (readCode s.mem (source j / 32 * 32)) = .clean d) →
        moves fun j => memGet (source j) s.mem)) ∧
    (∀ r : DmaRun, c.run = some r → r.status = none → (∃ d ∈ r.domains, s.dom d = .hold) →
      exec (.dmaBeatDone n) s = .next s) ∧
    (c.run ≠ none ∨ c.queue = [] ∨ s.flag F.DMA_CFG_EN n 0 = false → exec (.dmaStart n) s = .next s) ∧
    (c.run = none → exec (.dmaBeatDone n) s = .next s ∧ exec (.dmaComplete n) s = .next s ∧ exec (.dmaPaused n) s = .next s ∧
      exec (.dmaResumed n) s = .next s) ∧
    (∀ r : DmaRun, c.run = some r →
      (r.status = none → exec (.dmaComplete n) s = .next s) ∧
      (r.status ≠ none ∨ c.paused = true → exec (.dmaBeatDone n) s = .next s ∧ exec (.dmaPaused n) s = .next s) ∧
      ((∀ d ∈ r.domains, s.dom d ≠ .hold) → exec (.dmaPaused n) s = .next s) ∧
      (c.paused = false ∨ (∃ d ∈ r.domains, s.dom d ≠ .on) → exec (.dmaResumed n) s = .next s)) ∧
    (∀ (r : DmaRun) (st : Nat), c.run = some r → r.status = some st →
      (∀ m, m < 32 → s.chkSnoops m 5 n = false) →
      let d := r.desc
      let tag := bitsOf d 191 176
      let ended := { c with run := none, paused := false, down := r.down, done := r.done }
      Completes (exec (.dmaComplete n) s) fun t =>
        t = { Around s t with dma := t.dma, tally := t.tally } ∧ t.dc n = ended ∧ others t ∧
        t.tally = { s.tally with inbox := s.tally.inbox ++
          (if d.getLsbD 8 = true ∧ tokenDestOk (d.extractLsb' 192 64) = true then
            [⟨Src.dma n, d.extractLsb' 192 64, BitVec.ofNat 64
              (st + bitsOf d 3 0 * 2 ^ 8 + tag * 2 ^ 16 + r.done % 2 ^ 32 * 2 ^ 32)⟩] else []) } ∧
        Sets s t ([⟨F.DMA_STAT_STATUS, n, 0, st⟩] ++ (if st = 0 then [] else [⟨F.DMA_STAT_ERR, n, 0, 1⟩]) ++
          [⟨F.DMA_COUNT_COUNT, n, 0, (s.fget F.DMA_COUNT_COUNT n 0 + 1) % 2 ^ 32⟩]) ∧
        Posts s t (if st = 0 then (if d.getLsbD 7 then [⟨Src.dma n, 0x0E02, [.u 2 tag, .u 4 (bitsOf d 63 32)]⟩] else [])
          else [⟨Src.dma n, 0x0E00, [.u 1 st, .u 2 tag, .u 4 r.done]⟩])) ∧
    (∀ r : DmaRun, c.run = some r → r.status = none →
      let payload : List PItem := [.u 2 (bitsOf r.desc 191 176), .u 4 r.done]
      (c.paused = false → (∃ d ∈ r.domains, s.dom d = .hold) → Completes (exec (.dmaPaused n) s) fun t =>
        t = { Around s t with dma := t.dma } ∧ t.dc n = { c with paused := true } ∧ others t ∧ Sets s t [] ∧
        Posts s t [⟨Src.dma n, 0x0E04, payload⟩]) ∧
      (c.paused = true → (∀ d ∈ r.domains, s.dom d = .on) → Completes (exec (.dmaResumed n) s) fun t =>
        t = { Around s t with dma := t.dma } ∧ t.dc n = { c with paused := false } ∧ others t ∧ Sets s t [] ∧
        Posts s t [⟨Src.dma n, 0x0E05, payload⟩]))

/-! ### Register accesses (chapter 0), the host port (chapter 19) -/

/-- On R10, R11, R12: a write of a register whose chapter gives it no further effect writes each of its fields by the field's access
code; an access that is not a naturally aligned 32-bit one, or reaches no register, is an access-error, reads 0 and writes
nothing; a read clears the RC fields. A write to a function's page by a rake has no effect (R468).
The model's readings and choices where the spec leaves it open: log entries 6, 11 and 13. -/
def Obligations.RegisterAccesses : Prop :=
  ∀ (s : State) (req addr : Nat) (val : W32), inRegs addr = true →
    let answered (t : State) (x : Answer) : Prop :=
      Tab.find? req t.answers = some x ∧ ∀ r, r ≠ req → Tab.find? r t.answers = Tab.find? r s.answers
    let error (kind : Nat) (x : Answer) (t : State) : Prop :=
      t = { Around s t with answers := t.answers } ∧ answered t x ∧ Sets s t [] ∧
        Posts s t [⟨Src.fabric, 0x0000, [.u 2 req, .u 6 addr, .u 1 kind]⟩]
    Completes (exec (.unalignedAccess req addr false) s) (error 0 (.data 4 0)) ∧
    Completes (exec (.unalignedAccess req addr true) s) (error 0 .written) ∧
    (addr % 4 = 0 → regAt addr = none →
      Completes (exec (.unimplementedAccess req addr false) s) (error 1 (.data 4 0)) ∧
      Completes (exec (.unimplementedAccess req addr true) s) (error 1 .written) ∧
      Completes (exec (.registerWrite req addr val) s) (error 1 .written)) ∧
    (∀ x, addr % 4 = 0 → regAt addr = some x →
      let c := s.copyOf req x
      let others (t : State) : Prop := ∀ r i k, (r, i, k) ≠ (x.reg, x.inst, c) → t.reg r i k = s.reg r i k
      (x.reg ∈ [.EVT_STAT, .TLY_CTRL, .TLY_STAT, .TLY_FLOW_SEL, .TLY_FLOW_RING, .MC_CAL_SEL, .RK_WDOG, .RK_IMG_BASE,
          .DMA_RGN_SEL, .DMA_RGN_BASE, .DMA_RGN_END, .DMA_RGN_CFG, .HST_ADM_SEL, .HST_VF_SEL, .TIM_OP_NS,
          .CHK_PHASE, .PWR_DOM_SEL, .EVT_SEL] →
        Completes (exec (.registerWrite req addr val) s) fun t =>
          t = { s with regs := t.regs, answers := t.answers } ∧ answered t .written ∧ others t ∧
          ∀ f ∈ x.reg.desc.fields,
            let new := bitsOf val f.hi f.lo
            let old := bitsOf (s.reg x.reg x.inst c) f.hi f.lo
            bitsOf (t.reg x.reg x.inst c) f.hi f.lo = match f.acc with
              | .rw => new
              | .w1c => old - (old &&& new)
              | .w1s => old ||| new
              | .ro | .wo | .rc => old) ∧
      (x.reg.isPage = true → Src.isRake req = true → Completes (exec (.registerWrite req addr val) s) fun t =>
        t = { s with answers := t.answers } ∧ answered t .written) ∧
      (x.reg ∈ [.TIM_TXTS_STAT, .LN_LANE_STAT, .TWN_ERR, .PMU_TAG_CNT] → Completes (exec (.readClear req addr) s) fun t =>
        t = { s with regs := t.regs, answers := t.answers } ∧ others t ∧
        (∃ v : W32, answered t (.data 4 (v.zeroExtend 256)) ∧ ∀ f ∈ x.reg.desc.fields,
          bitsOf v f.hi f.lo = bitsOf (s.regView x.reg x.inst c) f.hi f.lo) ∧
        ∀ f ∈ x.reg.desc.fields, bitsOf (t.reg x.reg x.inst c) f.hi f.lo =
          if f.acc = .rc then 0 else bitsOf (s.reg x.reg x.inst c) f.hi f.lo) ∧
      (x.reg = .EVT_LOST → Completes (exec (.readClear req addr) s) fun t =>
        t = { s with events := t.events, answers := t.answers } ∧
        answered t (.data 4 (BitVec.ofNat 256 ((s.evSource c).lost % 2 ^ 16))) ∧
        t.evSource c = { s.evSource c with lost := 0 } ∧ ∀ k, k ≠ c → t.evSource k = s.evSource k) ∧
      (hasRc x.reg.desc.fields = false → exec (.readClear req addr) s = .next s))

/-- On R15: the halves of a pair: a read of the lower half latches the upper half for its requester; a read of the upper half returns
the latch; a write of the lower half is held for its requester; a write of the upper half writes both together.
The model's reading or choice where the spec leaves it open: log entry 8. -/
def Obligations.PairAccesses : Prop :=
  ∀ (s : State) (req addr : Nat) (val : W32) (x : RegAt), inRegs addr = true → addr % 4 = 0 → regAt addr = some x →
    x.reg.isPage = false ∨ Src.isRake req = false →
    let c := s.copyOf req x
    let k := x.latchKey
    let data (t : State) (v : W32) : Prop :=
      Tab.find? req t.answers = some (.data 4 (v.zeroExtend 256)) ∧
      ∀ r, r ≠ req → Tab.find? r t.answers = Tab.find? r s.answers
    let written (t : State) : Prop :=
      Tab.find? req t.answers = some .written ∧ ∀ r, r ≠ req → Tab.find? r t.answers = Tab.find? r s.answers
    (∀ hi, x.reg.upper = some hi → x.reg ∉ [.HST_DB_DEST_LO, .HST_DB_VAL_LO] →
      Completes (exec (.pairLoRead req addr) s) fun t =>
        t = { s with latches := t.latches, answers := t.answers } ∧ data t (readable x.reg.desc.fields (s.regView x.reg x.inst c)) ∧
        Tab.find? (req, hi, k) t.latches = some (readable hi.desc.fields (s.regView hi x.inst c)) ∧
        ∀ y, y ≠ (req, hi, k) → Tab.find? y t.latches = Tab.find? y s.latches) ∧
    (∀ lo v, x.reg.lower = some lo → x.reg ∉ [.HST_DB_DEST_HI, .HST_DB_VAL_HI] → Tab.find? (req, x.reg, k) s.latches = some v →
      Completes (exec (.pairHiRead req addr) s) fun t =>
        t = { s with answers := t.answers } ∧ data t (readable x.reg.desc.fields v)) ∧
    (∀ hi, x.reg.upper = some hi → Completes (exec (.pairLoWrite req addr val) s) fun t =>
      t = { s with helds := t.helds, answers := t.answers } ∧ written t ∧ Tab.find? (req, x.reg, k) t.helds = some val ∧
      ∀ y, y ≠ (req, x.reg, k) → Tab.find? y t.helds = Tab.find? y s.helds) ∧
    (∀ lo, x.reg.lower = some lo →
      let low := Tab.getD s.helds (req, lo, k) (s.reg lo x.inst c)
      (x.reg = .TIM_TOUT_START_SEC_HI → s.flag F.TIM_TOUT_CTRL_EN x.inst 0 = false) →
      x.reg ∈ [.TIM_OP_SEC_HI, .TIM_TOUT_START_SEC_HI, .TSH_ADDR_HI, .ETH_RXF_ADDR_HI, .TWN_SYNC_HI, .TWN_LIST_HI, .TWN_STAGE_HI,
        .SEC_SVC_ADDR_HI, .PMU_DUMP_BASE_HI, .LN_SDI_ADDR_HI, .TSH_SMP_BASE_HI] →
      Completes (exec (.pairHiWrite req addr val) s) fun t =>
        t = { s with regs := t.regs, helds := t.helds, answers := t.answers } ∧ written t ∧
        Tab.find? (req, lo, k) t.helds = none ∧
        (∀ y, y ≠ (req, lo, k) → Tab.find? y t.helds = Tab.find? y s.helds) ∧
        (∀ r i j, (r, i, j) ≠ (lo, x.inst, c) → (r, i, j) ≠ (x.reg, x.inst, c) → t.reg r i j = s.reg r i j) ∧
        (∀ f ∈ lo.desc.fields, f.acc = .rw → bitsOf (t.reg lo x.inst c) f.hi f.lo = bitsOf low f.hi f.lo) ∧
        ∀ f ∈ x.reg.desc.fields, f.acc = .rw → bitsOf (t.reg x.reg x.inst c) f.hi f.lo = bitsOf val f.hi f.lo)

/-- On R464 to R467: an access through a BAR reaches memory, a register, or nothing; a write with EP set is discarded.
The model's reading or choice where the spec leaves it open: log entry 14. -/
def Obligations.BarAccesses : Prop :=
  ∀ (s : State) (fn bar off len a : Nat) (data : W256), Memory.wf s.mem → barOk fn bar off len = true →
    let req := Src.fn fn
    let answered (t : State) (x : Answer) : Prop :=
      Tab.find? req t.answers = some x ∧ ∀ r, r ≠ req → Tab.find? r t.answers = Tab.find? r s.answers
    (s.numVf < fn → exec (.barRead fn bar off len) s = .next s ∧
      ∀ ep, exec (.barWrite fn bar off len data ep) s = .next s) ∧
    (fn ≤ s.numVf →
      (∀ b, s.barTo fn bar off len false = .mem a → (s.readRange req a len).1 = .ok b →
        Completes (exec (.barRead fn bar off len) s) fun t =>
          t = { Around s t with answers := t.answers, freeCtr := t.freeCtr } ∧ answered t (.data len (BitVec.ofNat 256 (leNat b)))) ∧
      (∀ w, s.barTo fn bar off len false = .mem a → (s.readRange req a len).1 = .poison w →
        Completes (exec (.barRead fn bar off len) s) fun t =>
          t = { Around s t with answers := t.answers, freeCtr := t.freeCtr } ∧ answered t .poison) ∧
      (s.barTo fn bar off len false = .nowhere (some a) → Completes (exec (.barRead fn bar off len) s) fun t =>
        t = { Around s t with answers := t.answers } ∧ answered t .addrErr ∧ Sets s t [] ∧
        Posts s t [⟨Src.fabric, 0x0000, [.u 2 req, .u 6 a, .u 1 2]⟩]) ∧
      (∀ x, s.barTo fn bar off len false = .regs a → a % 4 = 0 → len = 4 → regAt a = some x →
        x.reg ∈ [.EVT_STAT, .TLY_CTRL, .HST_STAT, .RK_STATE, .BNK_STAT, .SEC_STAT, .CLK_STAT] →
        Completes (exec (.barRead fn bar off len) s) fun t => t = { s with answers := t.answers } ∧
          answered t (.data 4 ((readable x.reg.desc.fields (s.regView x.reg x.inst (s.copyOf req x))).zeroExtend 256))) ∧
      (s.barTo fn bar off len true = .mem a →
        (∀ w ∈ wordsOf a len, ∃ u d, memUnit w = some u ∧ s.writeRefused req w u = none ∧
          s.flag u.regs.arm u.regs.inst 0 = false ∧ decodeWord (readCode s.mem w) = .clean d) →
        Completes (exec (.barWrite fn bar off len data false) s) fun t =>
          t = { Around s t with answers := t.answers, mem := t.mem } ∧ answered t .written ∧ Sets s t [] ∧ Posts s t [] ∧
          MemBut s t a len ∧ ∀ j, j < len → memGet (a + j) t.mem = data.extractLsb' (8 * j) 8) ∧
      (s.barTo fn bar off len true = .nowhere (some a) → Completes (exec (.barWrite fn bar off len data false) s) fun t =>
        t = { Around s t with answers := t.answers } ∧ answered t .written ∧ Sets s t [] ∧
        Posts s t [⟨Src.fabric, 0x0000, [.u 2 req, .u 6 a, .u 1 2]⟩]) ∧
      (∀ x, s.barTo fn bar off len true = .regs a → a % 4 = 0 → len = 4 → regAt a = some x →
        x.reg ∈ [.TLY_CTRL, .EVT_SEL, .PAN_PGM_BSCONS, .HST_ADM_SEL] →
        Completes (exec (.barWrite fn bar off len data false) s) fun t =>
          t = { s with regs := t.regs, answers := t.answers } ∧ answered t .written ∧
          (∀ f ∈ x.reg.desc.fields, f.acc = .rw →
            bitsOf (t.reg x.reg x.inst (s.copyOf req x)) f.hi f.lo = bitsOf (data.extractLsb' 0 32) f.hi f.lo) ∧
          ∀ r i k, (r, i, k) ≠ (x.reg, x.inst, s.copyOf req x) → t.reg r i k = s.reg r i k) ∧
      (s.barTo fn bar off len true = .mem a ∨ s.barTo fn bar off len true = .regs a →
        Completes (exec (.barWrite fn bar off len data true) s) fun t =>
          t = Around s t ∧ Sets s t [] ∧ Posts s t [⟨Src.host, 0x0022, [.u 1 fn, .u 6 a]⟩]))

/-- On R468 to R472: doorbells, event routing, event rings and their messages.
The model's reading or choice where the spec leaves it open: log entry 68. -/
def Obligations.DoorbellsAndRings : Prop :=
  ∀ (s : State) (fn : Nat) (val : W32), fn < 65 →
    let x := s.hostFn fn
    let hostOnly (t : State) : Prop := t.host = { s.host with fns := t.host.fns } ∧ ∀ f, f ≠ fn → t.hostFn f = s.hostFn f
    (x.held.length < 16 →
      let low := Tab.getD s.helds (Src.fn fn, .HST_DB_VAL_LO, 0) (s.reg .HST_DB_VAL_LO 0 fn)
      Completes (exec (.doorbell fn val) s) fun t =>
        t = { s with regs := t.regs, helds := t.helds, host := t.host } ∧ hostOnly t ∧
        t.hostFn fn = { x with held := x.held ++ [(x.dest.getD 0, val ++ low)] } ∧
        Tab.find? (Src.fn fn, .HST_DB_VAL_LO, 0) t.helds = none ∧
        ∀ r i k, (r, i, k) ≠ (.HST_DB_VAL_LO, 0, fn) → (r, i, k) ≠ (.HST_DB_VAL_HI, 0, fn) → t.reg r i k = s.reg r i k) ∧
    (16 ≤ x.held.length → exec (.doorbell fn val) s = .next s) ∧
    (∀ d v rest, x.held = (d, v) :: rest →
      let slot := bitsOf d 13 0
      let l := s.fget F.HST_VF_SLOTS_LOG2 0 fn
      let b := s.fget F.HST_VF_SLOTS_BASE 0 fn
      let ok := bitsOf d 16 14 ≤ 3 ∧ bitsOf d 23 17 = 0 ∧ bitsOf d 63 32 = 0 ∧
        (fn = 0 ∨ (l ≤ 14 ∧ b ≤ slot ∧ slot < b + 2 ^ l))
      (ok → Completes (exec (.doorbellDeliver fn) s) fun t =>
        t = { s with host := t.host, tally := { s.tally with inbox := s.tally.inbox ++ [⟨Src.fn fn, d, v⟩] } } ∧
        hostOnly t ∧ t.hostFn fn = { x with held := rest }) ∧
      (¬ ok → Completes (exec (.doorbellDeliver fn) s) fun t =>
        t = { Around s t with host := t.host } ∧ hostOnly t ∧ t.hostFn fn = { x with held := rest } ∧
        Sets s t [⟨F.HST_DB_STAT_DBERR, 0, fn, 1⟩] ∧
        Posts s t [⟨Src.host, 0x0021, [.u 1 fn, .u 4 (bitsOf d 31 0)]⟩])) ∧
    (∀ (src : Nat) (m mv : Bool), (s.evSource src).buf = [] → exec (.eventRoute src m mv) s = .next s) ∧
    (∀ (src : Nat) (mv : Bool) (ev : EventRec) (rest : List EventRec), (s.evSource src).buf = ev :: rest → s.vfCopy ev = none →
      let sub := s.fget F.HST_ROUTE_RING 0 src
      let n := s.fget F.HST_RING_CFG_LOG2 0 sub
      let prod := s.fget F.HST_RING_IDX_PROD 0 sub
      let used := (prod + 65536 - s.fget F.HST_RING_IDX_CONS 0 sub) % 65536
      let taken (t : State) : Prop := t.evSource src = { s.evSource src with buf := rest } ∧
        ∀ k, k ≠ src → t.evSource k = s.evSource k
      (s.flag F.HST_ROUTE_EN 0 src = false ∨ s.flag F.HST_RING_CFG_EN 0 sub = false →
        ∀ m, Completes (exec (.eventRoute src m mv) s) fun t => t = { s with events := t.events } ∧ taken t) ∧
      (s.flag F.HST_ROUTE_EN 0 src = true → s.flag F.HST_RING_CFG_EN 0 sub = true → 4 ≤ n → n ≤ 16 →
        (min (2 ^ n) 65535 ≤ used → ∀ m, Completes (exec (.eventRoute src m mv) s) fun t =>
          t = { s with events := t.events, regs := t.regs } ∧ taken t ∧
          t.flag F.HST_RING_CFG_FULL 0 sub = true ∧ ∀ r i k, (r, i, k) ≠ (.HST_RING_CFG, 0, sub) → t.reg r i k = s.reg r i k) ∧
        (used < min (2 ^ n) 65535 →
          let rec_ : HostOut := .record (s.pair .HST_RING_BASE_LO .HST_RING_BASE_HI 0 sub +
            BitVec.ofNat 64 (32 * (prod % 2 ^ n))) ev
          ((s.ring sub).inHold = true → ∀ m, Completes (exec (.eventRoute src m mv) s) fun t =>
            t = { s with events := t.events, regs := t.regs, host := t.host } ∧ taken t ∧
            t.host = { s.host with rings := t.host.rings, out := s.host.out ++ [rec_] } ∧
            t.ring sub = { inHold := true, deferred := true } ∧ (∀ k, k ≠ sub → t.ring k = s.ring k) ∧
            Sets s t [⟨F.HST_RING_IDX_PROD, 0, sub, (prod + 1) % 65536⟩]) ∧
          ((s.ring sub).inHold = false → Completes (exec (.eventRoute src false mv) s) fun t =>
            t = { s with events := t.events, regs := t.regs, host := t.host } ∧ taken t ∧
            t.host = { s.host with
              rings := t.host.rings, out := s.host.out ++ [rec_, .msix 0 (s.fget F.HST_RING_CFG_VECTOR 0 sub)] } ∧
            t.ring sub = { inHold := decide (s.fget F.HST_RING_CFG_HOLD 0 sub ≠ 0), deferred := false } ∧
            (∀ k, k ≠ sub → t.ring k = s.ring k) ∧
            Sets s t [⟨F.HST_RING_IDX_PROD, 0, sub, (prod + 1) % 65536⟩])))) ∧
    (∀ r, r < 32 → fn = 0 ∨ r = 0 →
      let sub := fn * 32 + r
      ((s.ring sub).inHold = true → (s.ring sub).deferred = true → Completes (exec (.msixHoldExpiry fn r false) s) fun t =>
        t = { s with host := t.host } ∧ t.host = { s.host with
          rings := t.host.rings, out := s.host.out ++ [.msix fn (s.fget F.HST_RING_CFG_VECTOR 0 sub)] } ∧
        t.ring sub = { inHold := true, deferred := false } ∧ ∀ k, k ≠ sub → t.ring k = s.ring k) ∧
      ((s.ring sub).deferred = false → ∀ m, Completes (exec (.msixHoldExpiry fn r m) s) fun t =>
        t = { s with host := t.host } ∧ t.host = { s.host with rings := t.host.rings } ∧
        t.ring sub = {} ∧ ∀ k, k ≠ sub → t.ring k = s.ring k))

/-- On R15, R462, R470, R471, R473: the reset of a function, a change of the link, and the writes of HST_ROUTE and HST_RING_CFG. A
function that is reset loses its own latches and held halves too (log entry 77); the DMA channels of a VF that is reset drop all
they hold, and nothing else changes where none of them is enabled.
The model's readings and choices where the spec leaves it open: log entries 14 and 68. -/
def Obligations.FunctionsAndRoutes : Prop :=
  ∀ (s : State) (req : Nat) (val : W32),
    let dropsOf (fn : Nat → Prop) (t : State) : Prop :=
      (∀ f r k, fn f → Tab.find? (Src.fn f, r, k) t.latches = none ∧ Tab.find? (Src.fn f, r, k) t.helds = none) ∧
      ∀ y : Nat × Reg × Nat, (∀ f, fn f → y.1 ≠ Src.fn f) →
        Tab.find? y t.latches = Tab.find? y s.latches ∧ Tab.find? y t.helds = Tab.find? y s.helds
    (∀ v, 1 ≤ v → v < 65 → (∀ c, c < 32 → (s.reg .HST_VF_DMA 0 v).getLsbD c = true → s.flag F.DMA_CFG_EN c 0 = false) →
      Completes (exec (.vfFlr v) s) fun t =>
        t = { Around s t with host := t.host, latches := t.latches, helds := t.helds } ∧ dropsOf (· = v) t ∧
        t.host = { s.host with fns := t.host.fns, rings := t.host.rings } ∧
        t.hostFn v = { s.hostFn v with dest := none, held := [] } ∧ (∀ f, f ≠ v → t.hostFn f = s.hostFn f) ∧
        t.ring (32 * v) = {} ∧ (∀ k, k ≠ 32 * v → t.ring k = s.ring k) ∧
        Sets s t [⟨F.HST_RING_CFG_EN, 0, 32 * v, 0⟩] ∧ Posts s t [⟨Src.host, 0x0023, [.u 1 v]⟩]) ∧
    (∀ v, 1 ≤ v → v < 65 → Completes (exec (.vfFlr v) s) fun t =>
      DropsDma s t (fun c => (s.reg .HST_VF_DMA 0 v).getLsbD c) ∧ dropsOf (· = v) t ∧
      t.hostFn v = { s.hostFn v with dest := none, held := [] } ∧ t.flag F.HST_RING_CFG_EN 0 (32 * v) = false) ∧
    (s.numVf ≤ 64 → Completes (exec .pfFlr s) fun t =>
      DropsDma s t (fun c => (List.range s.numVf).any fun v => (s.reg .HST_VF_DMA 0 (v + 1)).getLsbD c) ∧
      dropsOf (· ≤ s.numVf) t ∧ t.numVf = 0 ∧
      ∀ f, t.hostFn f = if f ≤ s.numVf then { s.hostFn f with dest := none, held := [] } else s.hostFn f) ∧
    (s.numVf ≤ 64 → (∀ v c, 1 ≤ v → v ≤ s.numVf → c < 32 → (s.reg .HST_VF_DMA 0 v).getLsbD c = true →
        s.flag F.DMA_CFG_EN c 0 = false) →
      Completes (exec .pfFlr s) fun t =>
        t = { Around s t with host := t.host, latches := t.latches, helds := t.helds } ∧ dropsOf (· ≤ s.numVf) t ∧
        t.host.out = s.host.out ∧
        (∀ f, t.hostFn f = if f ≤ s.numVf then { s.hostFn f with dest := none, held := [] } else s.hostFn f) ∧
        (∀ k, t.ring k = if k < 32 ∨ (k % 32 = 0 ∧ k / 32 ≤ s.numVf) then {} else s.ring k) ∧ t.numVf = 0 ∧
        (∀ v, 1 ≤ v → v ≤ s.numVf → t.flag F.HST_RING_CFG_EN 0 (32 * v) = false) ∧
        (∀ k : RegKey, k.pfPage = true → t.reg k.reg k.inst k.sub = k.reg.desc.reset) ∧
        (∀ k : RegKey, k.pfPage = false → k.reg ∉ [.EVT_STAT, .HST_STAT, .HST_RING_CFG] →
          t.reg k.reg k.inst k.sub = s.reg k.reg k.inst k.sub) ∧
        Posts s t ((List.range s.numVf).map fun i => ⟨Src.host, 0x0023, [.u 1 (i + 1)]⟩)) ∧
    (∀ speed width numvf, speed ≤ 5 → width ≤ 16 → numvf ≤ 64 →
      Completes (exec (.hostLinkChange speed width numvf) s) fun t =>
        t = Around s t ∧
        Sets s t [⟨F.HST_STAT_SPEED, 0, 0, speed⟩, ⟨F.HST_STAT_WIDTH, 0, 0, width⟩, ⟨F.HST_STAT_NUMVF, 0, 0, numvf⟩] ∧
        Posts s t (if s.fget F.HST_STAT_SPEED 0 0 = speed ∧ s.fget F.HST_STAT_WIDTH 0 0 = width then []
          else [⟨Src.host, 0x0020, [.u 1 (if speed = 0 then 0 else 1), .u 1 speed, .u 1 width]⟩])) ∧
    (Completes (exec (.routeSet req val) s) fun t =>
      t = { s with regs := t.regs } ∧
      Sets s t ([⟨F.HST_ROUTE_SRC, 0, 2 ^ 16 + req, bitsOf val 27 16⟩] ++
        (if val.getLsbD 15 then [⟨F.HST_ROUTE_EN, 0, bitsOf val 27 16, bitsOf val 31 31⟩,
          ⟨F.HST_ROUTE_RING, 0, bitsOf val 27 16, bitsOf val 4 0⟩] else []))) ∧
    (∀ fn, fn < 65 →
      let sub := fn * 32 + (if fn = 0 then s.fget F.HST_RING_SEL_RING 0 req else 0)
      let l := bitsOf val 30 26
      let v := bitsOf val 25 16
      let always : List FieldSet := (if val.getLsbD 31 then [⟨F.HST_RING_CFG_FULL, 0, sub, 0⟩] else []) ++
        [⟨F.HST_RING_CFG_HOLD, 0, sub, bitsOf val 15 8⟩]
      let off : List FieldSet := [⟨F.HST_RING_CFG_LOG2, 0, sub, l⟩, ⟨F.HST_RING_CFG_VECTOR, 0, sub, v⟩]
      let good := val.getLsbD 0 = true ∧ 4 ≤ l ∧ l ≤ 16 ∧ v < (if fn = 0 then 1024 else 16)
      (s.flag F.HST_RING_CFG_EN 0 sub = true → Completes (exec (.ringEnable fn req val) s) fun t =>
        t = { s with regs := t.regs } ∧
        Sets s t (always ++ if val.getLsbD 0 then [] else [⟨F.HST_RING_CFG_EN, 0, sub, 0⟩])) ∧
      (s.flag F.HST_RING_CFG_EN 0 sub = false → good → Completes (exec (.ringEnable fn req val) s) fun t =>
        t = { s with regs := t.regs } ∧ Sets s t (always ++ off ++ [⟨F.HST_RING_CFG_EN, 0, sub, 1⟩,
          ⟨F.HST_RING_IDX_CONS, 0, sub, 0⟩, ⟨F.HST_RING_IDX_PROD, 0, sub, 0⟩])) ∧
      (s.flag F.HST_RING_CFG_EN 0 sub = false → ¬ good → Completes (exec (.ringEnable fn req val) s) fun t =>
        t = { s with regs := t.regs } ∧ Sets s t (always ++ off)))

/-! ### Pans (chapters 5 to 7) -/

/-- On R147, R181 to R189, R519: the commands of a pan's queue and of a programme's picture queue. A refused command changes
nothing but what reports it.
The model's readings and choices where the spec leaves it open: log entries 21, 25, 26, 38, 39, 91 and 92. -/
def Obligations.PanCommands : Prop :=
  ∀ (s u : State) (k : Nat) (cmd : W256), k < 64 →
    let n := k / 4
    let p := s.pgm k
    let addr := bitsOf cmd 127 64
    let arg1 := bitsOf cmd 191 128
    let op := bitsOf cmd 7 0
    let others (t : State) : Prop := ∀ j, j ≠ k → t.pgm j = s.pgm j
    let ends (v : State) (st : Nat) (t : State) : Prop :=
      t = { Around v t with tally := t.tally } ∧ Sends v t (cmdTok (Src.pan n) cmd st) ∧ Sets v t (panStat n cmd st) ∧
        Posts v t (panEv n cmd st)
    let own : Bool := decide (bitsOf cmd 15 8 / 4 = n)
    let mine : Bool := decide (bitsOf cmd 15 8 = k)
    TurnedAway (.activate n cmd) s 10 n 0 (2 + n) [1, 2, 3] 1 cmd (own && cmdFormOk cmd mask48 0) ends ∧
    TurnedAway (.modify n cmd) s 10 n 0 (2 + n) [1, 2, 3] 2 cmd (own && cmdFormOk cmd mask48 (lowMask 32)) ends ∧
    TurnedAway (.panStop n cmd) s 10 n 0 (2 + n) [1, 2, 3] 3 cmd (own && cmdFormOk cmd 0 (lowMask 32)) ends ∧
    (p.outstanding < 4 → TurnedAway (.picture k cmd) s 10 (64 + k) 0 (2 + n) [0x10, 0x11] 0x10 cmd
      (mine && cmdFormOk cmd mask48 (lowMask 30 + 0xFF * 2 ^ 32 + 2 ^ 48)) ends) ∧
    TurnedAway (.rate k cmd) s 10 (64 + k) 0 (2 + n) [0x10, 0x11] 0x11 cmd (mine && cmdFormOk cmd mask48 0) ends ∧
    (Taken s u 10 n 0 (2 + n) cmd → bitsOf cmd 15 8 = k →
      (op = 1 → cmdFormOk cmd mask48 0 = true →
        (p.st ≠ .idle → Completes (exec (.activate n cmd) s) (ends u 4)) ∧
        (∀ st v, u.panLoad n addr = (.inl st, v) → p.st = .idle → Completes (exec (.activate n cmd) s) (ends v st)) ∧
        (∀ c v, u.panLoad n addr = (.inr c, v) → p.st = .idle → c.limitStatus ≠ 0 →
          Completes (exec (.activate n cmd) s) (ends v c.limitStatus)) ∧
        (∀ c v, u.panLoad n addr = (.inr c, v) → p.st = .idle → c.limitStatus = 0 → v.panConflict k c.slots = true →
          Completes (exec (.activate n cmd) s) (ends v 3)) ∧
        (∀ c v w, u.panLoad n addr = (.inr c, v) → p.st = .idle → c.limitStatus = 0 → v.panConflict k c.slots = false →
          v.submit ⟨Src.pan n, .pgm k, c.charge k⟩ = (false, w) → Completes (exec (.activate n cmd) s) (ends w 1)) ∧
        (∀ c v w, u.panLoad n addr = (.inr c, v) → p.st = .idle → c.limitStatus = 0 → v.panConflict k c.slots = false →
          v.submit ⟨Src.pan n, .pgm k, c.charge k⟩ = (true, w) →
          Completes (exec (.activate n cmd) s) fun t =>
            t = { Around s t with queues := u.queues, tally := t.tally, pgms := t.pgms, ledger := t.ledger } ∧
            Sends s t (cmdTok (Src.pan n) cmd 0) ∧ others t ∧
            t.pgm k = { ({} : Pgm) with st := .active, cfg := c, credit := 48, states := [(0, c.freshHist {})] } ∧
            (t.ledger.holding (.pgm k)).next = none ∧ t.fget F.PAN_CMD_STAT_STATUS n 0 = 0 ∧
            t.fget F.PAN_PGM_STATE_STATE (64 + k) 0 = 1 ∧ t.fget F.PAN_PGM_ROW_CREDIT (64 + k) 0 = 48 ∧
            t.reg .PAN_PGM_PIC (64 + k) 0 = 0 ∧ t.reg .PAN_PGM_BSCONS (64 + k) 0 = 0)) ∧
      (op = 2 → cmdFormOk cmd mask48 (lowMask 32) = true →
        (p.st ≠ .active → Completes (exec (.modify n cmd) s) (ends u 4)) ∧
        (∀ st v, u.panLoad n addr = (.inl st, v) → p.st = .active → Completes (exec (.modify n cmd) s) (ends v st)) ∧
        (∀ c v, u.panLoad n addr = (.inr c, v) → p.st = .active → c.keeps p.cfg = false →
          Completes (exec (.modify n cmd) s) (ends v 2)) ∧
        (∀ c v, u.panLoad n addr = (.inr c, v) → p.st = .active → c.keeps p.cfg = true → c.limitStatus ≠ 0 →
          Completes (exec (.modify n cmd) s) (ends v c.limitStatus)) ∧
        (∀ c v, u.panLoad n addr = (.inr c, v) → p.st = .active → c.keeps p.cfg = true → c.limitStatus = 0 →
          let was := v.ledger.pgm k
          let asks := (v.setFloor k { was with next52 := max was.next52 (c.mbps c.mFloor) }).submit
            ⟨Src.pan n, .pgm k, p.mods.foldl (fun a m => Charge.join a m.charge) (c.charge k)⟩
          (asks.1 = false → Completes (exec (.modify n cmd) s) (ends (asks.2.setFloor k was) 1)) ∧
          (asks.1 = true → Completes (exec (.modify n cmd) s) fun t =>
            t = { asks.2 with pgms := t.pgms } ∧ others t ∧
            t.pgm k = { p with mods := p.mods ++ [⟨cmd, arg1, c, c.charge k, c.mbps c.mFloor⟩] }))) ∧
      (op = 3 → cmdFormOk cmd 0 (lowMask 32) = true →
        (p.st ≠ .active ∨ p.stopAt ≠ none → Completes (exec (.panStop n cmd) s) (ends u 4)) ∧
        (∀ last, p.st = .active → p.stopAt = none →
          (p.done ≤ arg1 ∧ last = arg1) ∨
            (arg1 < p.done ∧ ∃ x, p.pics.head? = some x ∧ x.cmd ≠ none ∧ last = x.c ∧ p.done ≤ last) →
          Completes (exec (.panStop n cmd) s) fun t =>
            let gone := (p.pics.filter fun x => decide (last < x.c)).filterMap fun x => x.cmd
            t = { Around u t with pgms := t.pgms, tally := t.tally } ∧ others t ∧ OnlyRegs s t (Reg.ofWindow 10) ∧
            (t.pgm k).st = (if (p.rows.any fun r => decide (r.plan.pic = last ∧ r.stage = .encoded) &&
              ((p.openOf last).map fun o => decide (r.i + 1 = o.cfg.nrows)).getD false) then .stopping else .active) ∧
            t.pgm k = { p with
              st := (t.pgm k).st, stopAt := some last, stopCmd := some cmd, inPics := p.inPics.filter fun x => decide (x.1.c ≤ last)
              pics := p.pics.filter fun x => decide (x.c ≤ last), rows := p.rows.filter fun r => decide (r.plan.pic ≤ last) } ∧
            Sends u t (gone.flatMap fun c => cmdTok (Src.pan n) c 4) ∧ Posts u t (gone.flatMap fun c => panEv n c 4)) ∧
        (p.st = .active → p.stopAt = none → arg1 < p.done → p.pics = [] → p.mods = [] → p.rates = [] →
          Completes (exec (.panStop n cmd) s) fun t =>
            t = { Around u t with pgms := t.pgms, tally := t.tally, ledger := t.ledger } ∧ others t ∧ t.pgm k = {} ∧
            t.ledger.holding (.pgm k) = {} ∧ Sends s t (cmdTok (Src.pan n) cmd 0) ∧
            t.fget F.PAN_PGM_STATE_STATE (64 + k) 0 = 0 ∧ t.fget F.PAN_CMD_STAT_STATUS n 0 = 0))) ∧
    (4 ≤ p.outstanding → exec (.picture k cmd) s = .next s) ∧
    (Taken s u 10 (64 + k) 0 (2 + n) cmd → bitsOf cmd 15 8 = k →
      (op = 0x10 → p.outstanding < 4 → cmdFormOk cmd mask48 (lowMask 30 + 0xFF * 2 ^ 32 + 2 ^ 48) = true →
        let c := p.cfgAt p.nextPic
        let at_ : Frac := ⟨addr * 1000000000 + arg1 % 2 ^ 30, 1⟩
        let x : PicRec := { c := p.nextPic, t := at_, idx := arg1 / 2 ^ 32 % 256, force := arg1 / 2 ^ 48 % 2 == 1, cmd := some cmd,
                            rates := p.rates }
        let bad := 1000000000 ≤ arg1 % 2 ^ 30 ∨ (c.memIn = true ∧ c.inPics ≤ arg1 / 2 ^ 32 % 256)
        (p.st = .idle ∨ p.beyond = true → Completes (exec (.picture k cmd) s) (ends u 4)) ∧
        (p.st ≠ .idle → p.beyond = false → bad → Completes (exec (.picture k cmd) s) (ends u 2)) ∧
        (p.st ≠ .idle → p.beyond = false → ¬ bad →
          (∀ e, p.expected = some e → p.lastCfg.frame.lt ((e.dist at_).times 4) = false) →
          Completes (exec (.picture k cmd) s) fun t =>
            t = { u with pgms := t.pgms } ∧ others t ∧ t.pgm k = { p with
              pics := p.pics ++ [x], nextPic := p.nextPic + 1, lastT := some at_, rates := [] }) ∧
        (∀ e, p.st ≠ .idle → p.beyond = false → ¬ bad → p.expected = some e → p.lastCfg.frame.lt ((e.dist at_).times 4) = true →
          Completes (exec (.picture k cmd) s) fun t =>
            t = { Around u t with pgms := t.pgms } ∧ others t ∧ (t.pgm k).pics = p.pics ++ [x] ∧ Sets s t [] ∧
            ∃ d, Posts s t [⟨Src.pan n, 0x0A05, [.u 1 k, .u 8 (packTime (BitVec.ofNat 64 addr) (arg1 % 2 ^ 30)).toNat, .i 5 d]⟩])) ∧
      (op = 0x11 → cmdFormOk cmd mask48 0 = true →
        (p.st = .idle → Completes (exec (.rate k cmd) s) (ends u 4)) ∧
        (∀ st v, p.st ≠ .idle → u.cmdRead (Src.pan n) addr 64 = (.inl st, v) → Completes (exec (.rate k cmd) s) (ends v st)) ∧
        (∀ b v, p.st ≠ .idle → u.cmdRead (Src.pan n) addr 64 = (.inr b, v) →
          let blk := bytesBv 512 b
          let c := p.cfgAt p.nextPic
          let r := if blkRoiEn blk ≠ 0 then v.cmdRead (Src.pan n) (blkRoiAddr blk) 128 else (.inr [], v)
          let roi := bytesBv 1024 (readBytes r.1)
          (∀ st w, r = (.inl st, w) → Completes (exec (.rate k cmd) s) (ends w st)) ∧
          (∀ x w, r = (.inr x, w) →
            (c.blkOk blk roi = false → Completes (exec (.rate k cmd) s) (ends w 2)) ∧
            (c.blkOk blk roi = true → c.overRate blk = true → Completes (exec (.rate k cmd) s) (ends w 7)) ∧
            (c.blkOk blk roi = true → c.overRate blk = false → Completes (exec (.rate k cmd) s) fun t =>
              t = { w with pgms := t.pgms } ∧ others t ∧ t.pgm k = { p with rates := p.rates ++ [⟨cmd, blk, roi⟩] })))))

/-- On R148 to R151, R157, R159, R165, R171, R174, R186, R206, R207, R209: the rows of a programme from input to commit. What the coding of a
CTU makes of its inputs is open (log entry 24): the statement says what those inputs are, what the rules fix of the outcome, and what
becomes of the row. A command for which nothing is ready changes nothing.
The model's readings and choices where the spec leaves it open: log entries 22, 23, 24, 28, 29, 30, 31, 74, 104, 105, 106 and 107. -/
def Obligations.PanRows : Prop :=
  ∀ (s : State) (k : Nat), k < 64 →
    let n := k / 4
    let p := s.pgm k
    let others (t : State) : Prop := ∀ j, j ≠ k → t.pgm j = s.pgm j
    ((∀ x o, p.picOf (p.committed + p.rows.length) = some (x, o) →
        p.eligible (p.committed + p.rows.length) x o = false → exec (.rowPlan k) s = .next s) ∧
      (s.panPick n = none → exec (.rowStart n) s = .next s) ∧
      (p.toFetch = none → exec (.referenceFetchReturn k) s = .next s) ∧
      (p.inEc = none → exec (.ctuEncode k) s = .next s) ∧
      (∀ d r x o, p.inEc = some (d, r) → p.picOf (p.committed + d) = some (x, o) → o.refs r.plan.floor ≠ 0 →
        r.fetched < min o.cfg.ctus (r.ctus.length + 5) → exec (.ctuEncode k) s = .next s) ∧
      (p.rows = [] → exec (.rowCommit k) s = .next s) ∧
      (∀ r rest x o, p.rows = r :: rest → p.picOf p.committed = some (x, o) →
        r.stage ≠ .encoded ∨ s.panRoom k o.cfg r.size = false → exec (.rowCommit k) s = .next s) ∧
      (p.expected = none ∨ p.st = .idle ∨ p.beyond = true ∨
        (∃ e, p.expected = some e ∧ s.nowNs < (p.cfgAt p.nextPic).abandon e 0) → exec (.pictureLate k) s = .next s)) ∧
    (∀ x o rest, p.inPics = (x, o) :: rest → p.ring.length < o.cfg.ringRows → o.cfg.memIn = true → p.committed ≤ max p.inRows o.j0 →
      Completes (exec (.inputRowRead k) s) fun t =>
        let j := max p.inRows o.j0
        t = { Around s t with pgms := t.pgms, mem := t.mem, freeCtr := t.freeCtr } ∧ others t ∧
        ∃ r : InRow, r.j = j ∧ r.luma.length = o.cfg.rowLines (j - o.j0) ∧ t.pgm k = { p with
          ring := p.ring ++ [r], inRows := j + 1, inPics := if j + 1 = o.j0 + o.cfg.nrows then rest else p.inPics }) ∧
    (∀ x o, p.picOf (p.committed + p.rows.length) = some (x, o) → p.eligible (p.committed + p.rows.length) x o = true →
      o.classFloor ≠ none → Completes (exec (.rowPlan k) s) fun t =>
        let j := p.committed + p.rows.length
        t = { s with pgms := t.pgms } ∧ others t ∧
        ∃ pl : RowPlan, t.pgm k = { p with rows := p.rows ++ [{ i := j - o.j0, plan := pl }] } ∧
          pl.pic = x.c ∧ pl.d = o.cfg.grant j ∧ pl.qb = o.cfg.qb o.rap ∧
          (pl.floor = true → pl.q = blkQmax o.cfg.blk) ∧ (pl.floor = false → pl.qb ≤ pl.q ∧ pl.q ≤ blkQmax o.cfg.blk)) ∧
    (∀ j r x o, s.panPick n = some k → p.toStart = some (j, r, x, o) →
      Completes (exec (.rowStart n) s) fun t =>
        t = { Around s t with pgms := t.pgms } ∧ others t ∧ OnlyRegs s t [] ∧ (t.pgm k).rows.length = p.rows.length ∧
        (∀ (e : Nat) q, p.rows[e]? = some q → e ≠ j - p.committed → (t.pgm k).rows[e]? = some q) ∧
        ∀ q, p.rows[j - p.committed]? = some q → ∃ q' : RowRec, (t.pgm k).rows[j - p.committed]? = some q' ∧
          q' = { q with stage := .running, lgs := q'.lgs, coarse := q'.coarse } ∧ q'.lgs.length = o.cfg.ctus ∧
          (o.refs r.plan.floor = 0 ∨ r.plan.floor = true → q'.coarse = q.coarse)) ∧
    (∀ (d : Nat) r x o, p.toFetch = some d → p.rows[d]? = some r → p.picOf (p.committed + d) = some (x, o) → o.j0 ≤ p.committed →
      Completes (exec (.referenceFetchReturn k) s) fun t =>
        t = { Around s t with pgms := t.pgms } ∧ others t ∧ OnlyRegs s t [] ∧
        ∃ l : List RefArea, t.pgm k = { p with
          pics := (t.pgm k).pics
          rows := p.rows.modify d fun r => { r with fetched := r.fetched + 1, areas := r.areas ++ l } }) ∧
    (∀ (d : Nat) r x o, p.inEc = some (d, r) → p.picOf (p.committed + d) = some (x, o) →
      o.refs r.plan.floor = 0 ∨ min o.cfg.ctus (r.ctus.length + 5) ≤ r.fetched →
      let c := r.ctus.length
      let bad := match p.inputOf (p.committed + d) with | some y => y.bad | none => []
      let isMin := r.minCtu bad c
      let forced := o.forcedIntra r.i c
      let refs := o.refs r.plan.floor
      ∀ (mvs : List Mv) (areas : List RefArea) (r1 : RowRec) (s1 : State),
        (if isMin = true ∨ forced = true then ((List.replicate refs (0, 0), [], r), s)
          else s.panSearch k d x o (List.range refs) r) = ((mvs, areas, r1), s1) →
        let r' : RowRec := { (s1.pgm k).codeCtu d r1 x o isMin forced mvs areas with
          poisonMin := r1.poisonMin || bad.contains c }
        let most := r'.head.length + r'.ctus.flatten.length + 4 + 16 * (o.cfg.ctus - (c + 1)) + 64
        let v := (s1.pgm k).bucketBefore d o r1.i
        let fits := r1.cf ≠ none ∨ v + most ≤ blkCapBuf o.cfg.blk + r1.plan.d
        (∃ b : List Byte, r'.ctus = r1.ctus ++ [b] ∧ (isMin = true → r1.first[c]? = none → b.length ≤ 16)) ∧
        r'.qps = r1.qps ++ [o.cfg.ctuQp r1.plan (r1.lgs.getD r1.ctus.length 0) r1.ctus.length r1.i] ∧
        (fits → c + 1 ≠ o.cfg.ctus → Completes (exec (.ctuEncode k) s) fun t =>
          t = { Around s t with pgms := t.pgms } ∧ others t ∧ OnlyRegs s t [] ∧
          t.pgm k = { s1.pgm k with rows := (s1.pgm k).rows.modify d fun _ => r' }) ∧
        (¬ fits → Completes (exec (.ctuEncode k) s) fun t =>
          t = { Around s t with pgms := t.pgms } ∧ others t ∧ OnlyRegs s t [] ∧
          t.pgm k = { s1.pgm k with rows := (s1.pgm k).rows.take d ++ [{ r' with
            stage := .planned, cf := some c, firstHead := r'.head, first := r'.ctus.take c
            firstInfo := r'.info.take c, head := [], ctus := [], info := [], tail := [], fetched := 0
            areas := [], patches := [], coarse := [], far := (0, 0), qps := [] }] }) ∧
        (fits → c + 1 = o.cfg.ctus → p.stopAt = none → d < p.rows.length → Completes (exec (.ctuEncode k) s) fun t =>
          t = { Around s t with pgms := t.pgms, mem := t.mem } ∧ others t ∧ OnlyRegs s t [] ∧
          (t.pgm k).committed = p.committed ∧ (t.pgm k).rows.length = p.rows.length ∧
          ∃ q : RowRec, (t.pgm k).rows[d]? = some q ∧ q.stage = .encoded ∧ q.ctus = r'.ctus ∧ q.qps = r'.qps ∧
            q.tail.length ≤ 64)) ∧
    (∀ r rest x o, p.rows = r :: rest → p.picOf p.committed = some (x, o) → r.stage = .encoded →
      s.panRoom k o.cfg r.size = true → p.stopAt = none → p.sync = none → s.twin.st = .solo →
      Completes (exec (.rowCommit k) s) fun t => others t ∧ (t.pgm k).committed = p.committed + 1 ∧
        (t.pgm k).records = p.records + 1 ∧ (t.pgm k).wpos = (p.wpos + r.size) % 2 ^ o.cfg.bsLog2 ∧
        (t.pgm k).done = (if r.i + 1 = o.cfg.nrows then x.c + 1 else p.done) ∧
        t.fget F.PAN_PGM_RRING_PROD (64 + k) 0 = (s.fget F.PAN_PGM_RRING_PROD (64 + k) 0 + 1) % 65536) ∧
    (∀ r rest x o, p.rows = r :: rest → p.picOf p.committed = some (x, o) → r.stage = .encoded →
      s.panRoom k o.cfg r.size = true → r.i + 1 < o.cfg.nrows → o.cfg.spec = 0 → s.twin.st = .solo → p.sync = none →
      (∀ m, m < 32 → s.chkSnoops m 2 k = false) → o.cfg.paired r.i = false → r.deadline = false → r.cf = none →
      r.plan.floor = false → r.forced = false → r.poisonMin = false →
      Completes (exec (.rowCommit k) s) fun t =>
        t = { Around s t with pgms := t.pgms, mem := t.mem, tally := t.tally } ∧ others t ∧ OnlyRegs s t (Reg.ofWindow 10) ∧
        (t.pgm k).committed = p.committed + 1 ∧ (t.pgm k).rows = rest ∧ (t.pgm k).credit = min 48 (p.credit + 3) ∧
        (t.pgm k).records = p.records + 1 ∧ (t.pgm k).wpos = (p.wpos + r.size) % 2 ^ o.cfg.bsLog2 ∧
        (t.pgm k).pics = (p.mapOpen r.plan.pic fun o => { o with ctxs := o.ctxs ++ [r.ctx] }).pics ∧ (t.pgm k).done = p.done ∧
        t.fget F.PAN_PGM_RRING_PROD (64 + k) 0 = (s.fget F.PAN_PGM_RRING_PROD (64 + k) 0 + 1) % 65536 ∧
        Sends s t [⟨Src.pan n, o.cfg.rowToken, BitVec.ofNat 64 (p.records % 2 ^ 32 + r.i * 2 ^ 32 + k * 2 ^ 48)⟩]) ∧
    (∀ x o, let d := (p.rows.takeWhile (fun r => r.deadline)).length
      let i := p.committed + d - o.j0
      p.picOf (p.committed + d) = some (x, o) → o.cfg.classB = false ∨ s.ledger.exhausted = false ∨ o.skip = true →
      o.cfg.abandon x.t i ≤ s.nowNs ∨ o.skip = true → p.stopAt = none → d ≤ p.rows.length →
      i ≠ 0 ∨ p.rows[d]? ≠ none ∨ o.classFloor ≠ none →
      Completes (exec (.abandonPoint k) s) fun t =>
        t = { Around s t with pgms := t.pgms, mem := t.mem, freeCtr := t.freeCtr } ∧ others t ∧ OnlyRegs s t [] ∧
        t.evSource (Src.pan n) = takeRecord (s.evSource (Src.pan n)) t.time (Src.pan n) 0x0A01
          [.u 1 k, .u 4 (x.c % 2 ^ 32), .u 2 i] ∧
        (t.pgm k).committed = p.committed ∧ (t.pgm k).rows.length = d + 1 ∧ (t.pgm k).rows.take d = p.rows.take d ∧
        ∃ r : RowRec, (t.pgm k).rows[d]? = some r ∧ r.deadline = true ∧ r.stage = .encoded ∧ r.i = i ∧
          r.ctus.length = o.cfg.ctus ∧ (∀ b ∈ r.ctus, b.length ≤ 16) ∧ r.tail.length ≤ 64 ∧
          ∀ q, p.rows[d]? = some q → r.plan = q.plan ∧ r.cf = q.cf) ∧
    (∀ e, p.expected = some e → p.st ≠ .idle → p.beyond = false → (p.cfgAt p.nextPic).abandon e 0 ≤ s.nowNs →
      Completes (exec (.pictureLate k) s) fun t =>
        t = { Around s t with pgms := t.pgms } ∧ others t ∧ Sets s t [] ∧
        Posts s t [⟨Src.pan n, 0x0A04, [.u 1 k, .u 4 p.nextPic]⟩] ∧
        t.pgm k = { p with pics := p.pics ++ [{ c := p.nextPic, t := e, cmd := none }], nextPic := p.nextPic + 1, lastT := some e })

/-- On R190, R191, R201, R206: the cap. The grants of consecutive rows add up to the cap's own count; a plan that is no cap-floor
row takes the lowest row QP for which the bucket, projected through the picture, stays within the planning limit; and a
row that passes the guard at every CTU, with the rest coded as minimum CTUs, leaves the bucket within the cap.
The model's readings and choices where the spec leaves it open: log entries 28, 74 and 107. -/
def Obligations.RowsKeepTheCap : Prop :=
  (∀ (c : PgmCfg) (j m : Nat), c.n0 ≤ j →
    ((List.range m).map fun d => c.grant (j + d)).sum =
      c.capA (j + m - c.n0 + c.nAdd) - c.capA (j - c.n0 + c.nAdd)) ∧
  (∀ (st : RateSt) (o : PicOpen) (c i j v qprev : Nat),
    let b := o.cfg.blk
    let lim := blkCapBuf b * blkFill b / 256
    let qlo := if i = 0 then o.cfg.qb o.rap else max (o.cfg.qb o.rap) (qprev - blkDownStep b)
    let pl := planRow st o c i j v qprev false false
    (∀ q, qlo ≤ q → q < pl.q → st.fits o.cfg o.rap j i q v lim = false) ∧
    (pl.floor = false → qlo ≤ pl.q ∧ st.fits o.cfg o.rap j i pl.q v lim = true) ∧
    (pl.floor = true → pl.q = blkQmax b ∧ ∀ q, qlo ≤ q → q ≤ blkQmax b → st.fits o.cfg o.rap j i q v lim = false)) ∧
  (∀ (emitted n c cap v d rest tail : Nat), c < n → guardFails emitted n c cap v d = false →
    rest ≤ 16 * (n - (c + 1)) → tail ≤ 64 → bucket v (emitted + rest + tail) d ≤ cap)

/-! ### Sluices (chapter 7) -/

/-- On R236 to R246: OPEN, DECODE, FLUSH and CLOSE of a stream context, and the output of a due picture. What the bytes of a unit code, and
the samples they decode to, are the standards' (log entry 24): the statement holds whatever they are, for a unit that is rejected, one
that codes no picture, and one that codes a picture alone in its frame.
On R239 to R241: the first due picture is output while the consumer leaves room in the picture record ring.
The model's readings and choices where the spec leaves it open: log entries 33 and 108. -/
def Obligations.SluiceCommands : Prop :=
  (∀ (s u : State) (n c : Nat) (cmd : W256), n < 4 → c < 8 →
    let x := s.slu n c
    let op := bitsOf cmd 7 0
    let addr := bitsOf cmd 127 64
    let others (t : State) : Prop := ∀ m d, (m, d) ≠ (n, c) → t.slu m d = s.slu m d
    let refused (v : State) (st : Nat) (t : State) : Prop :=
      t = { Around v t with tally := t.tally } ∧ Sends v t (cmdTok (Src.slu n) cmd st) ∧
        Sets v t ([⟨F.SLU_CMD_STAT_REFUSED, n, 0, 1⟩] ++ sluStat n c cmd st) ∧
        Posts v t [⟨Src.slu n, 0x0B00, [.u 1 c, .u 1 op, .u 1 st]⟩]
    let changed (t : State) : Prop :=
      t = { Around s t with queues := u.queues, tally := t.tally, slus := t.slus } ∧ others t
    let form (m0 m1 : Nat) : Bool := decide (bitsOf cmd 15 8 = 0) && cmdFormOk cmd m0 m1
    TurnedAway (.sluOpen n c cmd) s 11 n c (122 + n) [1, 2, 3, 4] 1 cmd (form mask48 0) refused ∧
    TurnedAway (.sluDecode n c cmd) s 11 n c (122 + n) [1, 2, 3, 4] 2 cmd
      (decide (addr / 2 ^ 36 ≠ 0) && form (lowMask 64 - 2 ^ 35) (lowMask 64)) refused ∧
    TurnedAway (.sluFlush n c cmd) s 11 n c (122 + n) [1, 2, 3, 4] 3 cmd (form 0 0) refused ∧
    TurnedAway (.sluClose n c cmd) s 11 n c (122 + n) [1, 2, 3, 4] 4 cmd (form 0 0) refused ∧
    (Taken s u 11 n c (122 + n) cmd → bitsOf cmd 15 8 = 0 →
    (op = 1 → cmdFormOk cmd mask48 0 = true →
      (x.st ≠ .closed → Completes (exec (.sluOpen n c cmd) s) (refused u 4)) ∧
      (∀ st v, x.st = .closed → u.cmdRead (Src.slu n) addr 64 = (.inl st, v) →
        Completes (exec (.sluOpen n c cmd) s) (refused v st)) ∧
      (∀ b v, x.st = .closed → u.cmdRead (Src.slu n) addr 64 = (.inr b, v) →
        let y : SluCtx := { desc := bytesBv 512 b }
        (y.descOk = false → Completes (exec (.sluOpen n c cmd) s) (refused v 2)) ∧
        (∀ w, y.descOk = true → v.submit ⟨Src.slu n, .sluCtx n c, y.charge n⟩ = (false, w) →
          Completes (exec (.sluOpen n c cmd) s) (refused w 1)) ∧
        (∀ w, y.descOk = true → v.submit ⟨Src.slu n, .sluCtx n c, y.charge n⟩ = (true, w) →
          Completes (exec (.sluOpen n c cmd) s) fun t =>
            t = { Around s t with queues := u.queues, tally := t.tally, slus := t.slus, ledger := t.ledger } ∧ others t ∧
            t.slu n c = { y with st := .opened } ∧ (t.ledger.holding (.sluCtx n c)).next = none ∧
            Sends s t (cmdTok (Src.slu n) cmd 0) ∧ t.fget F.SLU_CMD_STAT_STATUS n 0 = 0 ∧
            t.fget F.SLU_STR_STATE_STATE n c = 1 ∧ t.fget F.SLU_STR_STATE_CODEC n c = y.codec ∧
            t.reg .SLU_STR_RRING n c = 0 ∧ t.reg .SLU_STR_ERR n c = 0))) ∧
    (op = 4 → cmdFormOk cmd 0 0 = true →
      (x.st = .closed → Completes (exec (.sluClose n c cmd) s) (refused u 4)) ∧
      (x.st ≠ .closed → Completes (exec (.sluClose n c cmd) s) fun t =>
        t = { Around s t with queues := u.queues, tally := t.tally, slus := t.slus, ledger := t.ledger } ∧ others t ∧
        t.slu n c = {} ∧ t.ledger.holding (.sluCtx n c) = {} ∧
        (∀ h, h ≠ .sluCtx n c → t.ledger.holding h = s.ledger.holding h) ∧
        Sends s t ((match x.flush with | some f => cmdTok (Src.slu n) f 0 | none => []) ++ cmdTok (Src.slu n) cmd 0) ∧
        t.fget F.SLU_STR_STATE_STATE n c = 0 ∧ Posts s t [])) ∧
    (op = 2 → cmdFormOk cmd (lowMask 64 - 2 ^ 35) (lowMask 64) = true → addr / 2 ^ 36 ≠ 0 →
      (x.st = .closed → Completes (exec (.sluDecode n c cmd) s) (refused u 4)) ∧
      (x.st = .flushing → exec (.sluDecode n c cmd) s = .next s) ∧
      (∀ b bad v, x.st = .opened → u.readOpen (Src.slu n) (addr % 2 ^ 35) (addr / 2 ^ 36)
          (wordsOf (addr % 2 ^ 35) (addr / 2 ^ 36)) [] [] = ((b, bad), v) →
        let unit := b.take (bad.headD (addr / 2 ^ 36))
        exec (.sluDecode n c cmd) s = .next ((v.sluUnit n c cmd bad.head? (Config.auParse x.codec x.parse unit)
          (Config.auNext x.codec x.parse unit) fun i l pl px py =>
            (Config.auSample x.codec x.parse unit i l pl px py).toNat).getD s)) ∧
      ∀ (v : State) (au : AuInfo) (next : Nat) (sample : Nat → List (List Nat) → Nat → Nat → Nat → Nat),
        let y := v.slu n c
        let others (t : State) : Prop := ∀ m d, (m, d) ≠ (n, c) → t.slu m d = v.slu m d
        y.half = none →
        (∀ r bad, y.rejectsUnit au = some r → ∃ t, v.sluUnit n c cmd bad au next sample = some t ∧
          t = { Around v t with tally := t.tally, slus := t.slus } ∧ others t ∧
          t.slu n c = { y with decCnt := y.decCnt + 1 } ∧ Sends v t (cmdTok (Src.slu n) cmd 10) ∧
          Sets v t ([⟨F.SLU_STR_ERR_ERRS, n, c, min (v.fget F.SLU_STR_ERR_ERRS n c + 1) 0xFFFF⟩] ++ sluStat n c cmd 10) ∧
          Posts v t [⟨Src.slu n, 0x0B04, [.u 1 c, .u 4 (y.decCnt % 2 ^ 32), .u 1 r]⟩]) ∧
        (au.items = [] → au.errors = [] → ∃ t, v.sluUnit n c cmd none au next sample = some t ∧
          t = { Around v t with tally := t.tally, slus := t.slus } ∧ others t ∧
          t.slu n c = { y with decCnt := y.decCnt + 1, parse := next } ∧ Sends v t (cmdTok (Src.slu n) cmd 0) ∧
          Sets v t (sluStat n c cmd 0) ∧ Posts v t []) ∧
        (au.items = [] → au.errors = [] → ∀ off, ∃ t, v.sluUnit n c cmd (some off) au next sample = some t ∧ others t ∧
          Sends v t (cmdTok (Src.slu n) cmd 11) ∧
          Posts v t [⟨Src.slu n, 0x0B03, [.u 1 c, .u 4 (y.decCnt % 2 ^ 32), .u 6 (addr % 2 ^ 35 + off)]⟩,
            ⟨Src.slu n, 0x0B02, [.u 1 c, .u 4 (y.decCnt % 2 ^ 32), .u 4 off]⟩]) ∧
        (∀ p : AuPic, au.items = [.frame p] → au.errors = [] → y.rejects p = none → p.field = none →
          let kept := match p.retain with
            | some keep => y.unname fun k => !keep.contains k
            | none => y
          let z := kept.outBefore p
          z.missing p = [] →
          (z.freeBuf = none → v.sluUnit n c cmd none au next sample = none) ∧
          ∀ b, z.freeBuf = some b → ∃ t, v.sluUnit n c cmd none au next sample = some t ∧
            t = { Around v t with slus := t.slus, tally := t.tally, mem := t.mem, freeCtr := t.freeCtr } ∧ others t ∧
            OnlyRegs v t (Reg.ofWindow 11) ∧ (t.slu n c).decCnt = y.decCnt + 1 ∧ (t.slu n c).parse = next ∧
            (t.slu n c).st = y.st ∧ (t.slu n c).desc = y.desc ∧ (t.slu n c).outCnt = y.outCnt ∧
            Sends v t (cmdTok (Src.slu n) cmd 0) ∧ t.fget F.SLU_CMD_STAT_STATUS n 0 = 0 ∧
            (p.names ≠ [] → ∃ q ∈ (t.slu n c).pics, q.buf = b ∧ q.names = p.names ∧ q.decCnt = y.decCnt ∧
              q.pts = bitsOf cmd 191 128))) ∧
    (op = 3 → cmdFormOk cmd 0 0 = true →
      (x.st = .closed → Completes (exec (.sluFlush n c cmd) s) (refused u 4)) ∧
      (x.st = .flushing → exec (.sluFlush n c cmd) s = .next s) ∧
      (x.st = .opened →
        let y := ((x.unpair.unname fun _ => true).bumpAll).settle
        (∃ l, y.due = x.due ++ l ∧ ∀ p ∈ x.pics, p.waiting = true → p.buf ∈ l) ∧
        (∀ p ∈ y.pics, p.names = [] ∧ p.waiting = false ∧ p.buf ∈ y.due) ∧
        (y.due = [] → Completes (exec (.sluFlush n c cmd) s) fun t => changed t ∧ t.slu n c = y ∧
          Sends s t (cmdTok (Src.slu n) cmd 0) ∧ Sets s t (sluStat n c cmd 0) ∧ Posts s t []) ∧
        (y.due ≠ [] → Completes (exec (.sluFlush n c cmd) s) fun t => changed t ∧
          t.slu n c = { y with st := .flushing, flush := some cmd } ∧ Sends s t [] ∧ Posts s t [] ∧
          t.fget F.SLU_STR_STATE_STATE n c = 2))))) ∧
  (∀ (s : State) (n c b : Nat) (rest : List Nat) (p : SluPic), n < 4 → c < 8 →
    let x := s.slu n c
    x.due = b :: rest → x.pics.find? (fun p => p.buf == b) = some p →
    let ahead := (x.outCnt + 65536 - s.fget F.SLU_STR_RRING_CONS n c) % 65536
    (x.outCount ≤ ahead → exec (.pictureOutput n c) s = .next s) ∧
    (ahead < x.outCount → x.flush = none → (∀ m, m < 32 → s.chkSnoops m 6 (n + 4 * c) = false) →
      Completes (exec (.pictureOutput n c) s) fun t =>
        t = { Around s t with slus := t.slus, mem := t.mem, tally := t.tally, freeCtr := t.freeCtr } ∧
        (∀ m d, (m, d) ≠ (n, c) → t.slu m d = s.slu m d) ∧ OnlyRegs s t (Reg.ofWindow 11) ∧
        t.fget F.SLU_STR_RRING_PROD n c = (s.fget F.SLU_STR_RRING_PROD n c + 1) % 65536 ∧
        ∃ poisoned : Bool, t.slu n c = { x with
            outCnt := x.outCnt + 1, due := rest
            pics := (x.pics.map fun q => if q.buf = p.buf then { q with concealed := q.concealed || poisoned } else q).filter
              fun q => !q.names.isEmpty || q.waiting || rest.contains q.buf } ∧ (p.concealed = true → t.fget F.SLU_STR_STATE_CONCEAL n c = 1) ∧
          Sends s t [⟨Src.slu n, x.desc.extractLsb' 448 64, BitVec.ofNat 64 (x.outCnt % 2 ^ 32 +
            x.outCnt % x.outCount % 256 * 2 ^ 32 + c * 2 ^ 40 + p.flags poisoned * 2 ^ 48)⟩]))

/-! ### Compositors (chapter 8) -/

/-- On R252 to R256, R258: staging, COMMIT, LOAD_COLOUR and PRESENT of a compositor output.
The model's readings and choices where the spec leaves it open: log entries 36, 37 and 38. -/
def Obligations.CompositorConfiguration : Prop :=
  ∀ (s u : State) (n q : Nat) (cmd : W256), n < 8 → q < 8 →
    let x := s.cmpOut n q
    let op := bitsOf cmd 7 0
    let addr := bitsOf cmd 127 64
    let arg1 := bitsOf cmd 191 128
    let others (t : State) : Prop := ∀ m d, (m, d) ≠ (n, q) → t.cmpOut m d = s.cmpOut m d
    let refused (v : State) (st : Nat) (t : State) : Prop :=
      t = { Around v t with tally := t.tally } ∧ Sends v t (cmdTok (Src.cmp n) cmd st) ∧
        Sets v t ([⟨F.CMP_CMD_STAT_REFUSED, n, 0, 1⟩] ++ cmpStat n q cmd st) ∧
        Posts v t [⟨Src.cmp n, 0x0C00, [.u 1 q, .u 1 op, .u 1 st]⟩]
    let stages (v : State) (g : CmpStage) (t : State) : Prop :=
      t = { v with tally := t.tally, cmps := t.cmps, regs := t.regs } ∧ others t ∧ t.cmpOut n q = { x with staged := g } ∧
        Sends v t (cmdTok (Src.cmp n) cmd 0) ∧ Sets v t (cmpStat n q cmd 0) ∧ t.reg .EVT_STAT 0 0 = v.reg .EVT_STAT 0 0
    let turned (i : Instr) (k m0 m1 : Nat) : Prop := TurnedAway i s 12 n q (126 + n) [1, 2, 3, 4, 5, 0x10, 0x11] k cmd
      (decide (bitsOf cmd 15 8 = q) && cmdFormOk cmd m0 m1) fun v st t =>
        if op = 4 then
          t = { Around v t with tally := t.tally, cmps := t.cmps } ∧ others t ∧ t.cmpOut n q = { x with staged := {} } ∧
          Sends v t (cmdTok (Src.cmp n) cmd st) ∧ Sets v t ([⟨F.CMP_CMD_STAT_REFUSED, n, 0, 1⟩] ++ cmpStat n q cmd st) ∧
          Posts v t [⟨Src.cmp n, 0x0C00, [.u 1 q, .u 1 op, .u 1 st]⟩]
        else refused v st t
    turned (.stageOut n q cmd) 1 mask48 0 ∧ turned (.stageLayer n q cmd) 2 mask48 15 ∧ turned (.stageSig n q cmd) 3 mask48 0 ∧
    turned (.cmpCommit n q cmd) 4 0 0 ∧ turned (.loadColour n q cmd) 5 mask48 3 ∧ turned (.cmpPresent n q cmd) 0x10 mask48 15 ∧
    turned (.cmpBand n q cmd) 0x11 0 0xFFFF ∧
    (Taken s u 12 n q (126 + n) cmd → bitsOf cmd 15 8 = q →
    (op = 1 → cmdFormOk cmd mask48 0 = true →
      (∀ st v, u.cmdRead (Src.cmp n) addr 128 = (.inl st, v) → Completes (exec (.stageOut n q cmd) s) (refused v st)) ∧
      (∀ b v, u.cmdRead (Src.cmp n) addr 128 = (.inr b, v) →
        (outOk (bytesBv 1024 b) = false → Completes (exec (.stageOut n q cmd) s) (refused v 2)) ∧
        (outOk (bytesBv 1024 b) = true → Completes (exec (.stageOut n q cmd) s)
          (stages v { x.staged with out := some (bytesBv 1024 b) })))) ∧
    (op = 2 → cmdFormOk cmd mask48 15 = true →
      (∀ st v, u.cmdRead (Src.cmp n) addr 64 = (.inl st, v) → Completes (exec (.stageLayer n q cmd) s) (refused v st)) ∧
      (∀ b v, u.cmdRead (Src.cmp n) addr 64 = (.inr b, v) →
        (layerOk (bytesBv 512 b) = false → Completes (exec (.stageLayer n q cmd) s) (refused v 2)) ∧
        (layerOk (bytesBv 512 b) = true → Completes (exec (.stageLayer n q cmd) s)
          (stages v { x.staged with layers := Tab.set x.staged.layers arg1 (bytesBv 512 b) })))) ∧
    (op = 3 → cmdFormOk cmd mask48 0 = true →
      (addr = 0 → Completes (exec (.stageSig n q cmd) s) (stages u { x.staged with sig := some none })) ∧
      (∀ st v, addr ≠ 0 → u.cmdRead (Src.cmp n) addr 256 = (.inl st, v) →
        Completes (exec (.stageSig n q cmd) s) (refused v st)) ∧
      (∀ b v, addr ≠ 0 → u.cmdRead (Src.cmp n) addr 256 = (.inr b, v) →
        let o := x.staged.out.getD (x.pend.getD x.cur).out
        (sigOk (bytesBv 2048 b) (oWidth o) (oHeight o) = false → Completes (exec (.stageSig n q cmd) s) (refused v 2)) ∧
        (sigOk (bytesBv 2048 b) (oWidth o) (oHeight o) = true → Completes (exec (.stageSig n q cmd) s)
          (stages v { x.staged with sig := some (some (bytesBv 2048 b)) })))) ∧
    (op = 4 → cmdFormOk cmd 0 0 = true →
      let c := (x.pend.getD x.cur).apply x.staged
      let loaded (k : Nat) : Bool := s.colours.contains (n, 4 * q + k)
      (∀ st, c.refusal loaded = some st → Completes (exec (.cmpCommit n q cmd) s) fun t =>
        t = { Around u t with tally := t.tally, cmps := t.cmps } ∧ others t ∧ t.cmpOut n q = { x with staged := {} } ∧
        Sends s t (cmdTok (Src.cmp n) cmd st) ∧ Sets s t ([⟨F.CMP_CMD_STAT_REFUSED, n, 0, 1⟩] ++ cmpStat n q cmd st) ∧
        Posts s t [⟨Src.cmp n, 0x0C00, [.u 1 q, .u 1 op, .u 1 st]⟩]) ∧
      (c.refusal loaded = none → c.out = x.cur.out → x.pend = none → oType x.cur.out ≠ 0 →
        Completes (exec (.cmpCommit n q cmd) s) fun t =>
          t = { u with tally := t.tally, cmps := t.cmps, regs := t.regs } ∧ others t ∧
          t.cmpOut n q = { x with staged := {}, pend := some c, pendSig := x.pendSig || x.staged.sig.isSome } ∧
          Sends s t (cmdTok (Src.cmp n) cmd 0) ∧ t.fget F.CMP_CMD_STAT_STATUS n 0 = 0 ∧
          t.fget F.CMP_OUT_STATE_PENDING n q = 1) ∧
      (c.refusal loaded = none → c.out ≠ x.cur.out → x.pend = none → oType x.cur.out = 0 → s.ledger.waiting = [] →
        (u.submit ⟨Src.cmp n, .cmpOut n q, outCharge n c.out⟩).1 = true →
        Completes (exec (.cmpCommit n q cmd) s) fun t =>
          t = { Around u t with tally := t.tally, cmps := t.cmps, ledger := t.ledger } ∧ others t ∧
          (t.cmpOut n q).cur = c ∧ (t.cmpOut n q).pend = none ∧ (t.cmpOut n q).staged = {} ∧
          Sends s t (cmdTok (Src.cmp n) cmd 0) ∧ t.fget F.CMP_CMD_STAT_STATUS n 0 = 0)) ∧
    (op = 5 → cmdFormOk cmd mask48 3 = true →
      (x.cur.names arg1 = true ∨ (x.pend.getD {}).names arg1 = true →
        Completes (exec (.loadColour n q cmd) s) (refused u 15)) ∧
      (∀ st v, x.cur.names arg1 = false → (x.pend.getD {}).names arg1 = false →
        u.cmdRead (Src.cmp n) addr colourBytes = (.inl st, v) → Completes (exec (.loadColour n q cmd) s) (refused v st)) ∧
      (∀ b v, x.cur.names arg1 = false → (x.pend.getD {}).names arg1 = false →
        u.cmdRead (Src.cmp n) addr colourBytes = (.inr b, v) →
        (colourOk b = false → Completes (exec (.loadColour n q cmd) s) (refused v 2)) ∧
        (colourOk b = true → Completes (exec (.loadColour n q cmd) s) fun t =>
          t = { Around v t with tally := t.tally, mem := t.mem, colours := t.colours } ∧ OnlyRegs v t [.CMP_CMD_STAT] ∧
          (∀ k, k ∈ t.colours ↔ k ∈ s.colours ∨ k = (n, 4 * q + arg1)) ∧ t.fget F.CMP_CMD_STAT_STATUS n 0 = 0 ∧
          Sends s t (cmdTok (Src.cmp n) cmd 0)))) ∧
    (op = 0x10 → cmdFormOk cmd mask48 15 = true →
      (addr % 32 ≠ 0 → Completes (exec (.cmpPresent n q cmd) s) (refused u 2)) ∧
      (addr % 32 = 0 → Completes (exec (.cmpPresent n q cmd) s) fun t =>
        t = { u with tally := t.tally, cmps := t.cmps, regs := t.regs } ∧ others t ∧
        t.cmpOut n q = { x with present := Tab.set x.present arg1 addr } ∧ Sends s t (cmdTok (Src.cmp n) cmd 0) ∧
        Sets s t (cmpStat n q cmd 0))))

/-- On R255, R257 to R260, R269: BAND composes the next band of an output and delivers it, to memory, to the planes that take it, or
to its programme; a disabled output or another band is status 4. The first band of a frame is a frame boundary: a pending
configuration becomes current and presented buffers are latched. A band waits for a plane that takes the output and for a free row
of the programme; a frame that its programme does not take is status 14, band by band.
The model's reading or choice where the spec leaves it open: log entry 37. -/
def Obligations.BandsAreComposed : Prop :=
  ∀ (s u : State) (n q : Nat) (cmd : W256), n < 8 → q < 8 →
    let x := s.cmpOut n q
    let band := bitsOf cmd 191 128
    let c := x.bandCfg band
    let o := c.out
    let k := oPgm o
    let frames := s.fget F.CMP_OUT_FRAME_FRAMES n q
    let f := if band = 0 then frames else (frames + 2 ^ 32 - 1) % 2 ^ 32
    let last := band + 1 = ceilDiv (oHeight o) 64
    let ends : Option CmpCfg := if last ∧ band ≠ 0 then x.pend.filter fun p => oType p.out == 0 else none
    let lates : List Ev := (List.range 16).flatMap fun l =>
      let d := c.layer l
      let has := (Tab.find? l x.latched).isSome
      if lEn d && !lFill d && (Tab.find? l x.present).isNone && (!has || lExpect d) then
        [⟨Src.cmp n, 0x0C01, [.u 1 q, .u 1 l, .u 4 f, .u 1 (if has then 0 else 1)]⟩] else []
    let out (st : Nat) (v t : State) : Prop :=
      (∀ m d, (m, d) ≠ (n, q) → t.cmpOut m d = s.cmpOut m d) ∧
      (t.cmpOut n q).next = (if last then 0 else band + 1) ∧ (t.cmpOut n q).cur = ends.getD c ∧
      (∀ m, m < 32 → s.chkSnoops m 1 (n + 8 * q) = false → t.chkUnit m = v.chkUnit m) ∧
      (x.pend = none → t.ledger = v.ledger ∧ OnlyRegs v t (Reg.ofWindow 12)) ∧
      t.fget F.CMP_CMD_STAT_STATUS n 0 = st ∧ t.fget F.CMP_OUT_FRAME_FRAMES n q = (f + 1) % 2 ^ 32 ∧
      t.fget F.CMP_OUT_STATE_NEXTBAND n q = (if last then 0 else (band + 1) % 2 ^ 16)
    let composes (v t : State) : Prop :=
      t = { Around v t with tally := t.tally, cmps := t.cmps, mem := t.mem, freeCtr := t.freeCtr, chk := t.chk
                            ledger := t.ledger, pgms := t.pgms, heads := t.heads } ∧
      out 0 v t ∧ (oType o ≠ 1 → t.pgms = v.pgms) ∧ (oType o ≠ 3 → t.heads = v.heads) ∧
      (∀ l b, band = 0 → l < 16 → lEn (c.layer l) = true → lFill (c.layer l) = false → Tab.find? l x.present = some b →
        Tab.find? l (t.cmpOut n q).latched = some b ∧ Tab.find? l (t.cmpOut n q).present = none) ∧
      ∃ alarm : Bool, Sends v t ((if oBtok o = true ∨ last then [⟨Src.cmp n, oToken o, BitVec.ofNat 64
        (f + band * 2 ^ 32 + (if last then 2 ^ 48 else 0) + (if alarm then 2 ^ 49 else 0))⟩] else []) ++
        cmdTok (Src.cmp n) cmd 0)
    let mismatch (v t : State) : Prop :=
      t = { Around v t with tally := t.tally, cmps := t.cmps, chk := t.chk, ledger := t.ledger } ∧ out 14 v t ∧
      Sends v t (cmdTok (Src.cmp n) cmd 14) ∧
      (x.pend = none → Posts v t (if band = 0 then lates ++ [⟨Src.cmp n, 0x0C04, [.u 1 q, .u 1 k, .u 4 f]⟩] else []))
    Taken s u 12 n q (126 + n) cmd → bitsOf cmd 15 8 = q → bitsOf cmd 7 0 = 0x11 → cmdFormOk cmd 0 0xFFFF = true →
    (oType x.cur.out = 0 ∨ band ≠ x.next → Completes (exec (.cmpBand n q cmd) s) fun t =>
      t = { Around u t with tally := t.tally } ∧ Sends s t (cmdTok (Src.cmp n) cmd 4) ∧
      Sets s t ([⟨F.CMP_CMD_STAT_REFUSED, n, 0, 1⟩] ++ cmpStat n q cmd 4) ∧
      Posts s t [⟨Src.cmp n, 0x0C00, [.u 1 q, .u 1 0x11, .u 1 4]⟩]) ∧
    (oType x.cur.out ≠ 0 → band = x.next →
      (oType o = 2 → Completes (exec (.cmpBand n q cmd) s) (composes u)) ∧
      (oType o = 3 → s.cmpTakers n q o = [] → exec (.cmpBand n q cmd) s = .next s) ∧
      (oType o = 3 → s.cmpTakers n q o ≠ [] → Completes (exec (.cmpBand n q cmd) s) (composes u)) ∧
      (oType o = 1 →
        let fails := (band ≠ 0 ∧ x.mismatch = true) ∨ (band = 0 ∧ (s.pgm k).st ≠ .active)
        (fails → Completes (exec (.cmpBand n q cmd) s) (mismatch u)) ∧
        (∀ v, ¬ fails → u.panNextIn k = (none, v) → exec (.cmpBand n q cmd) s = .next s) ∧
        ∀ j p po v, ¬ fails → u.panNextIn k = (some (j, p, po), v) →
          let takes := po.cfg.memIn = false ∧ po.cfg.cmp = n
          (band ≠ 0 → ¬ takes → exec (.cmpBand n q cmd) s = .next s) ∧
          (band = 0 → panMatches po.cfg n o = false → Completes (exec (.cmpBand n q cmd) s) (mismatch v)) ∧
          ((band ≠ 0 ∧ takes) ∨ (band = 0 ∧ panMatches po.cfg n o = true) →
            Completes (exec (.cmpBand n q cmd) s) fun t => composes v t ∧ (t.pgm k).inRows = j + 1)))

/-! ### Display heads (chapter 9) -/

/-- On R282 to R284, R287, R288, R297, R300: the commands of a head. A SET_TIMING that has not completed holds the list, and the list
of a SLAVE head refuses every command.
The model's readings and choices where the spec leaves it open: log entries 34 and 38. -/
def Obligations.HeadCommands : Prop :=
  ∀ (s u : State) (n : Nat) (cmd : W256), n < 4 →
    let h := s.head n
    let op := bitsOf cmd 7 0
    let addr := bitsOf cmd 127 64
    let p := bitsOf cmd 191 128
    let others (t : State) : Prop := ∀ m, m ≠ n → t.head m = s.head m
    let stat (c : W256) (st : Nat) : List FieldSet := [⟨F.DH_CMD_STAT_OPCODE, n, 0, bitsOf c 7 0⟩, ⟨F.DH_CMD_STAT_STATUS, n, 0, st⟩]
    let refused (v : State) (st : Nat) (t : State) : Prop :=
      t = { Around v t with tally := t.tally } ∧ Sends v t (cmdTok (Src.head n) cmd st) ∧
        Sets v t ([⟨F.DH_CMD_STAT_REFUSED, n, 0, 1⟩] ++ stat cmd st) ∧
        Posts v t (if h.st = .slave then [] else [⟨Src.head n, 0x0D00, [.u 1 op, .u 1 st]⟩])
    let takesEffect (w : State) (tm : BitVec 512) (rest : State → Prop) (t : State) : Prop :=
      t = { Around w t with heads := t.heads, tally := t.tally, ledger := t.ledger, lanes := t.lanes } ∧ rest t ∧
      OnlyRegs w t (Reg.ofWindow 13 ++ [.LN_LANE_STAT]) ∧
      t.head n = { h with
        timing := tm, st := .black, black := true, line := 0, teEdge := false, acc := 0, ahead := 0, sends := some tm } ∧
      (t.ledger.holding (.head n)).next = none ∧
      Sends s t ((if tFtok tm then [⟨Src.head n, tToken tm, BitVec.ofNat 64 (1 + 2 ^ 33)⟩] else []) ++
        cmdTok (Src.head n) cmd 0) ∧
      Posts w t [⟨Src.head n, 0x0D01, [.u 4 1, .u 1 (tPair tm)]⟩] ∧
      t.fget F.DH_FRAME_FRAMES n 0 = 1 ∧ t.fget F.DH_STAT_STATE n 0 = 1 ∧ t.fget F.DH_CMD_STAT_STATUS n 0 = 0 ∧
      ∀ l, l < 4 → t.flag F.LN_LANE_STAT_TXUP (10 + n) l =
        (decide (tOut tm = 0 ∨ l < (if tOut tm = 2 then 4 else 1)) && !s.flag F.LN_LANE_CTRL_TX_SLEEP (10 + n) l)
    (h.next ≠ none → exec (.setTiming n cmd) s = .next s ∧ exec (.setPlane n cmd) s = .next s ∧
      exec (.headStop n cmd) s = .next s ∧ exec (.headPresent n cmd) s = .next s) ∧
    (h.next = none → h.st = .slave → s.popCmd 13 n 0 cmd = some u →
      Completes (exec (.setTiming n cmd) s) (refused u 18) ∧ Completes (exec (.setPlane n cmd) s) (refused u 18) ∧
      Completes (exec (.headStop n cmd) s) (refused u 18) ∧ Completes (exec (.headPresent n cmd) s) (refused u 18)) ∧
    (h.next = none → h.st ≠ .slave →
      let form (m0 m1 : Nat) : Bool := decide (bitsOf cmd 15 8 = 0) && cmdFormOk cmd m0 m1
      TurnedAway (.setTiming n cmd) s 13 n 0 (134 + n) [1, 2, 3, 0x10] 1 cmd (form mask48 0) refused ∧
      TurnedAway (.setPlane n cmd) s 13 n 0 (134 + n) [1, 2, 3, 0x10] 2 cmd (form mask48 3) refused ∧
      TurnedAway (.headStop n cmd) s 13 n 0 (134 + n) [1, 2, 3, 0x10] 3 cmd (form 0 0) refused ∧
      TurnedAway (.headPresent n cmd) s 13 n 0 (134 + n) [1, 2, 3, 0x10] 0x10 cmd (form mask48 3) refused) ∧
    (h.next = none → h.st ≠ .slave → Taken s u 13 n 0 (134 + n) cmd → bitsOf cmd 15 8 = 0 →
      (op = 1 → cmdFormOk cmd mask48 0 = true →
        (h.st = .stopping → Completes (exec (.setTiming n cmd) s) (refused u 4)) ∧
        (∀ st v, h.st ≠ .stopping → u.cmdRead (Src.head n) addr 64 = (.inl st, v) →
          Completes (exec (.setTiming n cmd) s) (refused v st)) ∧
        (∀ b v, h.st ≠ .stopping → u.cmdRead (Src.head n) addr 64 = (.inr b, v) →
          let tm := bytesBv 512 b
          (∀ st, v.timingRefusal n tm = some st → Completes (exec (.setTiming n cmd) s) (refused v st)) ∧
          (∀ w, v.timingRefusal n tm = none → v.submit ⟨Src.head n, .head n, timingCharge n tm⟩ = (false, w) →
            Completes (exec (.setTiming n cmd) s) (refused w 1)) ∧
          (∀ w, v.timingRefusal n tm = none → v.submit ⟨Src.head n, .head n, timingCharge n tm⟩ = (true, w) → h.st ≠ .off →
            Completes (exec (.setTiming n cmd) s) fun t =>
              t = { w with heads := t.heads } ∧ others t ∧ t.head n = { h with next := some (tm, cmd) }) ∧
          (∀ w, v.timingRefusal n tm = none → v.submit ⟨Src.head n, .head n, timingCharge n tm⟩ = (true, w) → h.st = .off →
            tPair tm = 0 → (s.head (n + 1)).st ≠ .slave → Completes (exec (.setTiming n cmd) s) (takesEffect w tm others)) ∧
          (∀ w, v.timingRefusal n tm = none → v.submit ⟨Src.head n, .head n, timingCharge n tm⟩ = (true, w) → h.st = .off →
            tPair tm ≠ 0 → Completes (exec (.setTiming n cmd) s) (takesEffect w tm fun t =>
              t.head (n + 1) = { s.head (n + 1) with st := .slave, sends := some tm } ∧
              ∀ m, m ≠ n → m ≠ n + 1 → t.head m = s.head m)))) ∧
      (op = 2 → cmdFormOk cmd mask48 3 = true →
        (h.st = .off ∨ h.st = .stopping → Completes (exec (.setPlane n cmd) s) (refused u 4)) ∧
        (∀ st v, h.st ≠ .off → h.st ≠ .stopping → u.cmdRead (Src.head n) addr 64 = (.inl st, v) →
          Completes (exec (.setPlane n cmd) s) (refused v st)) ∧
        (∀ b v, h.st ≠ .off → h.st ≠ .stopping → u.cmdRead (Src.head n) addr 64 = (.inr b, v) →
          let d := bytesBv 512 b
          let h' := h.setPlane p { h.plane p with next := some d }
          let ok := planeOk d = true ∧ planeInside d h.timing = true
          (¬ ok → Completes (exec (.setPlane n cmd) s) (refused v 2)) ∧
          (ok → tBudget h.timing < needs h'.enabled h.timing → Completes (exec (.setPlane n cmd) s) (refused v 13)) ∧
          (ok → needs h'.enabled h.timing ≤ tBudget h.timing → Completes (exec (.setPlane n cmd) s) fun t =>
            t = { v with heads := t.heads, tally := t.tally, regs := t.regs } ∧ others t ∧ t.head n = h' ∧
            Sends s t (cmdTok (Src.head n) cmd 0) ∧ Sets v t (stat cmd 0)))) ∧
      (op = 3 → cmdFormOk cmd 0 0 = true →
        (h.st = .off → Completes (exec (.headStop n cmd) s) fun t =>
          t = { u with tally := t.tally, regs := t.regs } ∧ Sends s t (cmdTok (Src.head n) cmd 0) ∧ Sets s t (stat cmd 0)) ∧
        (h.st = .stopping → Completes (exec (.headStop n cmd) s) (refused u 4)) ∧
        (h.st = .black ∨ h.st = .run → Completes (exec (.headStop n cmd) s) fun t =>
          t = { u with heads := t.heads, regs := t.regs } ∧ others t ∧ t.head n = { h with st := .stopping, stop := some cmd } ∧
          t.fget F.DH_STAT_STATE n 0 = 3)) ∧
      (op = 0x10 → cmdFormOk cmd mask48 3 = true →
        let x := h.plane p
        let takes := plEn (x.next.getD x.cur) = true ∧ plRing (x.next.getD x.cur) = false
        (addr % 32 ≠ 0 → Completes (exec (.headPresent n cmd) s) (refused u 2)) ∧
        (addr % 32 = 0 → ¬ takes → Completes (exec (.headPresent n cmd) s) (refused u 4)) ∧
        (addr % 32 = 0 → takes → x.wait = none → Completes (exec (.headPresent n cmd) s) fun t =>
          t = { u with heads := t.heads } ∧ others t ∧ t.head n = h.setPlane p { x with wait := some (cmd, addr) }) ∧
        (∀ old a, addr % 32 = 0 → takes → x.wait = some (old, a) → Completes (exec (.headPresent n cmd) s) fun t =>
          t = { u with heads := t.heads, tally := t.tally, regs := t.regs } ∧ others t ∧
          t.head n = h.setPlane p { x with wait := some (cmd, addr) } ∧ Sends s t (cmdTok (Src.head n) old 17) ∧
          Sets s t (stat old 17))))

/-- On R283 to R296: a frame boundary, tearing-effect edges and their timeout, the fetch of a plane's lines, and active lines.
On R286, R291, R298: what a head sends of a line: one packet on each lane, of which lane l carries the pixels l, l + L, l + 2L …;
each component of a black frame is black. On an SDI link of one lane, the line's samples with a Cb and a Cr for each pair of pixels;
on a quad link, an even line on lanes 0 and 1 and an odd one on lanes 2 and 3. The identifier, line number and CRCs of a link line are
its standard's (log entry 80).
The model's readings and choices where the spec leaves it open: log entries 34, 35, 78, 79 and 80. -/
def Obligations.HeadFrames : Prop :=
  (∀ (s : State) (n p : Nat), n < 4 → p < 4 →
    let h := s.head n
    let x := h.plane p
    let frames := s.fget F.DH_FRAME_FRAMES n 0
    let running := h.st = .black ∨ h.st = .run ∨ h.st = .stopping
    let others (t : State) : Prop := ∀ m, m ≠ n → t.head m = s.head m
    let starts (t : State) : Prop :=
      t = { Around s t with heads := t.heads, tally := t.tally } ∧ others t ∧ OnlyRegs s t (Reg.ofWindow 13) ∧
        (t.head n).st = .run ∧ (t.head n).line = 0 ∧
        (t.head n).black = false ∧ (t.head n).timing = h.timing ∧ (t.head n).teEdge = false ∧
        t.fget F.DH_FRAME_FRAMES n 0 = (frames + 1) % 2 ^ 32 ∧ t.fget F.DH_STAT_STATE n 0 = 2 ∧
        ∀ c base, x.next = none → plEn x.cur = true → plRing x.cur = false → x.wait = some (c, base) →
          ((t.head n).plane p).surf = some base ∧ ((t.head n).plane p).wait = none
    (running → h.line = tVact h.timing →
      (h.st = .stopping → Completes (exec (.frameBoundary n) s) fun t =>
        let rest (x : Head) : Option (BitVec 512) := x.sends.bind fun tm => if tOut tm = 0 then some tm else none
        t = { Around s t with heads := t.heads, tally := t.tally, ledger := t.ledger, lanes := t.lanes } ∧
        (∀ m, m ≠ n → t.head m = if n % 2 = 0 ∧ m = n + 1 ∧ (s.head m).st = .slave then
          { s.head m with st := .off, sends := rest (s.head m) } else s.head m) ∧
        OnlyRegs s t (Reg.ofWindow 13 ++ [.LN_LANE_STAT]) ∧
        t.head n = { h with st := .off, stop := none, black := false, sends := rest h } ∧ t.ledger.holding (.head n) = {} ∧
        t.fget F.DH_STAT_STATE n 0 = 0 ∧
        (∀ tm l, h.sends = some tm → tOut tm ≠ 0 → l < 4 → t.fget F.LN_LANE_STAT_TXUP (10 + n) l = 0) ∧
        Sends s t (match h.stop with | some c => cmdTok (Src.head n) c 0 | none => [])) ∧
      (h.st ≠ .stopping → tPace h.timing = true → h.teEdge = false → exec (.frameBoundary n) s = .next s) ∧
      (h.st ≠ .stopping → tPace h.timing = false ∨ h.teEdge = true → h.next = none →
        Completes (exec (.frameBoundary n) s) starts) ∧
      (h.st ≠ .stopping → tPace h.timing = true → h.teEdge = false → h.next = none →
        Completes (exec (.teTimeout n) s) fun t => starts t ∧
          t.fget F.DH_TE_TIMEOUTS n 0 = min (s.fget F.DH_TE_TIMEOUTS n 0 + 1) 0xFFFF)) ∧
    (∀ level : Bool,
      (s.flag F.DH_TE_LEVEL n 0 = level → exec (.teEdge n level) s = .next s) ∧
      (s.flag F.DH_TE_LEVEL n 0 ≠ level → h.st ≠ .slave → level ≠ tTepol h.timing →
        Completes (exec (.teEdge n level) s) fun t =>
          t = { s with regs := t.regs, heads := t.heads } ∧ others t ∧
          (t.head n).teEdge = (h.teEdge || (tPace h.timing && h.running)) ∧ (t.head n).line = h.line ∧ (t.head n).st = h.st ∧
          Sets s t [⟨F.DH_TE_LEVEL, n, 0, if level then 1 else 0⟩,
            ⟨F.DH_TE_EDGES, n, 0, (s.fget F.DH_TE_EDGES n 0 + 1) % 32768⟩])) ∧
    (∀ base, running → x.base = some base → h.fetches p = true → x.fetched < plH x.cur → x.fetched < h.line - plY x.cur + 16 →
      Completes (exec (.scanFetchReturn n p) s) fun t =>
        t = { Around s t with heads := t.heads } ∧ others t ∧ OnlyRegs s t [.DH_ERR] ∧
        ∃ (px : List PlanePixel) (bad : Bool), px.length = plW x.cur ∧ t.head n = h.setPlane p { x with
          fetched := x.fetched + 1, lines := x.lines ++ [(x.fetched, px)], poison := bad || x.poison } ∧
        t.fget F.DH_ERR_POISON n 0 = (if bad = true ∧ x.poison = false then min (s.fget F.DH_ERR_POISON n 0 + 1) 0xFFFF else
          s.fget F.DH_ERR_POISON n 0)) ∧
    (h.missing p = true → x.late = false → Completes (exec (.scanLate n p) s) fun t =>
      t = { Around s t with heads := t.heads } ∧ others t ∧
      t.head n = h.setPlane p { x with fetched := h.line - plY x.cur + 1, late := true } ∧
      Sets s t [⟨F.DH_ERR_LATE, n, 0, min (s.fget F.DH_ERR_LATE n 0 + 1) 0xFFFF⟩] ∧
      Posts s t [⟨Src.head n, 0x0D02, [.u 1 p, .u 4 frames, .u 2 h.line]⟩]) ∧
    (running → h.line < tVact h.timing → (∀ k, k < 4 → h.missing k = false) →
      Completes (exec (.activeLine n) s) fun t =>
        let cad := cadenceAfter (tN h.timing) (tM h.timing) h.acc
          ((if h.line = 0 then tVtot h.timing - tVact h.timing + 1 else 1) * tHtot h.timing - h.ahead)
        t = { s with
          heads := t.heads, lanes := t.lanes
          headOut := s.headOut ++ h.sendTo n n frames h.line ++
            (if tPair h.timing = 0 then [] else h.sendTo n (n + 1) frames h.line) } ∧ others t ∧
        t.head n = { h with line := h.line + 1, planes := (t.head n).planes, acc := cad.1, ahead := cad.2 } ∧
        ∀ q l, q < 10 ∨ (14 ≤ q ∧ s.fget F.LN_CFG_MODE q 0 ≠ 5) → t.laneTx q l = s.laneTx q l)) ∧
  (∀ (h : Head) (n frame y x0 : Nat) (right : Bool),
    (tOut h.timing = 0 → (h.sendLine n frame y x0 right).length = tLanes h.timing ∧
      ∀ l, l < tLanes h.timing → ∃ bits len header trailer,
        (h.sendLine n frame y x0 right)[l]? = some (.slp n l header bits len trailer) ∧
        (∀ k, l + k * tLanes h.timing < tHact h.timing → ∀ c, c < 3 →
          let px := h.pixel (x0 + l + k * tLanes h.timing) y
          let v := if c = 0 then px.c0 else if c = 1 then px.c1 else px.c2
          bits / 2 ^ (tBpc h.timing * (3 * k + c)) % 2 ^ tBpc h.timing = toBits (tBpc h.timing) v) ∧
        bitsOf header 15 0 = y % 2 ^ 16) ∧
    (tOut h.timing = 1 → ∃ luma cb cr : List Nat,
      h.sendLine n frame y x0 right = [.sdi n 0 ⟨y, luma, cb, cr, Config.sdiIdent h.timing 0, Config.sdiNumber h.timing y,
        Config.sdiCrcs h.timing (Config.sdiNumber h.timing y) luma cb cr⟩] ∧
      luma.length = tHact h.timing ∧ cb.length = tHact h.timing / 2 ∧ cr.length = tHact h.timing / 2 ∧
      (∀ x, x < tHact h.timing → luma[x]? = some (toBits 10 (h.pixel (x0 + x) y).c0)) ∧
      ∀ x, x < tHact h.timing / 2 →
        cb[x]? = some (toBits 10 (((h.pixel (x0 + 2 * x) y).c1 + (h.pixel (x0 + 2 * x + 1) y).c1 + 1) / 2)) ∧
        cr[x]? = some (toBits 10 (((h.pixel (x0 + 2 * x) y).c2 + (h.pixel (x0 + 2 * x + 1) y).c2 + 1) / 2))) ∧
    (tOut h.timing = 2 → ∃ a b : SdiLine,
      h.sendLine n frame y x0 right = [.sdi n (2 * (y % 2)) a, .sdi n (2 * (y % 2) + 1) b] ∧ a.line = y / 2 ∧ b.line = y / 2) ∧
    (h.black = true → ∀ x, h.pixel x y = if tYcc h.timing then ⟨4096, 32768, 32768, 65535⟩ else ⟨0, 0, 0, 65535⟩))

/-! ### Ethernet ports (chapter 10) -/

/-- On R302 to R310, R370: links and modes of the ports, receive flows, the classification of a received frame, and the end of video
bands on a timeout: one that a later packet starts closes the oldest frame's next band, complete or not; the idle timeout closes each
band of that frame, incomplete. The timestamps of closed frames stay known while they lie less than 2^31 behind (log entry 100).
The model's readings and choices where the spec leaves it open: log entries 45, 46 and 47. -/
def Obligations.NetworkReception : Prop :=
  ∀ (s : State) (req n link : Nat) (val : W32), n < 8 → link < 4 →
    let cnt (t : State) (k : Nat × Nat × Nat) : W64 := Tab.getD t.net.counts k 0
    let counted (t : State) (l : List Nat) : Prop := ∀ k, cnt t k = if k.1 = n ∧ k.2.1 = link ∧ k.2.2 ∈ l then cnt s k + 1 else cnt s k
    let quiet (l : List Nat) (t : State) : Prop :=
      t = { s with net := { s.net with counts := t.net.counts } } ∧ counted t l
    let mode := bitsOf val 1 0
    let quad := if 6 ≤ n ∧ mode = 2 ∧ val.getLsbD 8 = true then n + 8 else n
    (∀ (f : List Byte) (fcs : BitVec 32),
      (s.linkUp n link = false → exec (.frameReceived n link f fcs) s = .next s) ∧
      (s.linkUp n link = true → crc crc32 f ≠ fcs → Completes (exec (.frameReceived n link f fcs) s) (quiet [0, 1])) ∧
      (s.linkUp n link = true → crc crc32 f = fcs →
        (9600 < f.length + 4 → Completes (exec (.frameReceived n link f fcs) s) (quiet [0, 2])) ∧
        (f.length + 4 ≤ 9600 → classify f = .control → Completes (exec (.frameReceived n link f fcs) s) (quiet [0, 4])) ∧
        (f.length + 4 ≤ 9600 → classify f = .other → s.fget F.ETH_CFG_DEFLOW n 0 = 0x3FF →
          Completes (exec (.frameReceived n link f fcs) s) (quiet [0, 3])) ∧
        (∀ u k b, f.length + 4 ≤ 9600 → classify f = .udp u → s.rxMatch n link u = some (k, b) →
          let x := s.rxFlow k
          let d := x.desc
          let prod := s.fget F.ETH_RXF_RING_PROD 0 k
          let used := (prod + 65536 - s.fget F.ETH_RXF_RING_CONS 0 k) % 65536
          let full := 2 ^ rxSlotLog2 d < f.length + 32 ∨ min (2 ^ rxRingLog2 d) 65535 ≤ used
          let drops : FieldSet := ⟨F.ETH_RXF_ERR_DROPS, 0, k, min (s.fget F.ETH_RXF_ERR_DROPS 0 k + 1) 0xFFFF⟩
          let seq : Option (BitVec 32) := if rxDup d then rtpSeq (.udp u) else none
          let copy : Bool := seq.any x.seen.contains
          (rxKind d = 2 → copy = true → Completes (exec (.frameReceived n link f fcs) s) (quiet [0])) ∧
          (rxKind d = 2 → copy = false → full → Completes (exec (.frameReceived n link f fcs) s) fun t =>
            t = { s with regs := t.regs, net := { s.net with counts := t.net.counts } } ∧ counted t [0, 5] ∧ Sets s t [drops]) ∧
          (rxKind d = 2 → copy = false → ¬ full → Completes (exec (.frameReceived n link f fcs) s) fun t =>
            t = { Around s t with net := t.net, mem := t.mem, tally := t.tally } ∧ counted t [0] ∧
            OnlyRegs s t [.ETH_RXF_RING] ∧
            MemOut s t (rxBase d + 2 ^ rxSlotLog2 d * (x.s % 2 ^ rxRingLog2 d)) (f.length + 32) ∧
            t.rxFlow k = { x with
              s := x.s + 1, seen := match seq with | some y => (y :: x.seen).take 1024 | none => x.seen } ∧
            (∀ j, j ≠ k → t.rxFlow j = s.rxFlow j) ∧ t.net.tsh = s.net.tsh ∧ t.net.out = s.net.out ∧
            t.fget F.ETH_RXF_RING_PROD 0 k = (prod + 1) % 65536 ∧
            Sends s t [⟨Src.eth (rxPortA d), rxToken d, BitVec.ofNat 64 (x.s % 2 ^ 32)⟩]) ∧
          (∀ v, rxKind d = 1 → rxDup d = false → videoPacket u.payload = some v → x.past.contains v.ts = true →
            Completes (exec (.frameReceived n link f fcs) s) fun t =>
              t = { s with regs := t.regs, net := t.net } ∧ counted t [0, 5] ∧ (∀ j, t.rxFlow j = s.rxFlow j) ∧
              t.net.tsh = s.net.tsh ∧ t.net.out = s.net.out ∧ Sets s t [drops]) ∧
          (∀ v h, rxKind d = 1 → rxDescOk d = true → rxDup d = false → videoPacket u.payload = some v → x.past.contains v.ts = false →
            x.frames = [] → v.headers = [h] → h.inside d = true → Completes (exec (.frameReceived n link f fcs) s) fun t =>
              let (oct, w, _) := pgroup (rxVfmt d)
              t = { Around s t with net := t.net, mem := t.mem } ∧ counted t [0] ∧ OnlyRegs s t [] ∧
              MemBut s t (rxBase d + x.f % rxBufs d * rxStride d) (rxStride d) ∧
              t.rxFlow k = { x with
                f := x.f + 1
                frames := [{ ts := v.ts, f := x.f, reach := h.line / 64 + 1, next := 0
                             got := (List.range (min h.len v.data.length / oct)).map fun i => (h.line, h.off / w + i) }] } ∧
              (∀ j, j ≠ k → t.rxFlow j = s.rxFlow j) ∧ t.net.tsh = s.net.tsh ∧ t.net.out = s.net.out) ∧
          (rxKind d = 1 → videoPacket u.payload = none → Completes (exec (.frameReceived n link f fcs) s) fun t =>
            t = { s with regs := t.regs, net := { s.net with counts := t.net.counts } } ∧ counted t [0] ∧ Sets s t [drops])))) ∧
    (s.linkUp n link = false → (s.fget F.ETH_CFG_MODE n 0 = 1 ∧ link = 0) ∨ s.fget F.ETH_CFG_MODE n 0 = 2 →
      Completes (exec (.ethLinkChange n link true) s) fun t =>
        let q := if 6 ≤ n ∧ s.fget F.ETH_CFG_MODE n 0 = 2 ∧ s.flag F.ETH_CFG_ALTQ n 0 = true then n + 8 else n
        t = { Around s t with freeCtr := t.freeCtr } ∧ t.linkUp n link = true ∧
        (∀ r i k, (r, i, k) ≠ (.ETH_STAT, n, 0) → r ≠ .EVT_STAT → t.reg r i k = s.reg r i k ∨
          (r = .LN_LANE_FIR ∧ i = q ∧ k < 4 ∧ (s.fget F.ETH_CFG_MODE n 0 = 1 ∨ k = link))) ∧
        (∀ k, k < 4 → s.fget F.ETH_CFG_MODE n 0 = 1 ∨ k = link → 16 ≤ t.fget F.LN_LANE_FIR_MAIN q k ∧
          t.fget F.LN_LANE_FIR_PRE q k + t.fget F.LN_LANE_FIR_MAIN q k + t.fget F.LN_LANE_FIR_POST q k ≤ 63) ∧
        (∀ k, k ≠ link → t.linkUp n k = s.linkUp n k) ∧ t.flag F.ETH_STAT_CHG n 0 = true ∧
        Posts s t [⟨Src.eth n, 0x0F00, [.u 1 link, .u 1 1]⟩]) ∧
    (s.linkUp n link = true → Completes (exec (.ethLinkChange n link false) s) fun t =>
      t = Around s t ∧ t.linkUp n link = false ∧ (∀ k, k ≠ link → t.linkUp n k = s.linkUp n k) ∧
      t.flag F.ETH_STAT_CHG n 0 = true ∧ Posts s t [⟨Src.eth n, 0x0F00, [.u 1 link, .u 1 0]⟩]) ∧
    (∀ up, s.linkUp n link = up → exec (.ethLinkChange n link up) s = .next s) ∧
    (¬ ((s.fget F.ETH_CFG_MODE n 0 = 1 ∧ link = 0) ∨ s.fget F.ETH_CFG_MODE n 0 = 2) →
      exec (.ethLinkChange n link true) s = .next s) ∧
    (mode ≠ 0 →
      let ok := s.fget F.ETH_CFG_MODE n 0 = 0 ∧ s.fget F.LN_CFG_MODE quad 0 = 1 ∧ s.flag F.LN_CFG_READY quad 0 = true
      (ok → Completes (exec (.ethModeWrite req n val) s) fun t =>
        t = { s with regs := t.regs } ∧ t.fget F.ETH_CFG_MODE n 0 = mode ∧ t.fget F.ETH_CFG_DEFLOW n 0 = bitsOf val 21 12 ∧
        t.flag F.ETH_CFG_ALTQ n 0 = val.getLsbD 8 ∧ ∀ r i k, (r, i, k) ≠ (.ETH_CFG, n, 0) → t.reg r i k = s.reg r i k) ∧
      (¬ ok → exec (.ethModeWrite req n val) s = .next s)) ∧
    (mode = 0 → Completes (exec (.ethModeWrite req n val) s) fun t =>
      t = Around s t ∧ t.fget F.ETH_CFG_MODE n 0 = 0 ∧ t.fget F.ETH_CFG_DEFLOW n 0 = bitsOf val 21 12 ∧
      t.flag F.ETH_CFG_ALTQ n 0 = val.getLsbD 8 ∧ (∀ k, t.linkUp n k = false) ∧
      (∀ r i k, (r, i, k) ≠ (.ETH_CFG, n, 0) → (r, i, k) ≠ (.ETH_STAT, n, 0) → r ≠ .EVT_STAT → t.reg r i k = s.reg r i k) ∧
      Posts s t (((List.range 4).filter fun k => s.linkUp n k).map fun k => ⟨Src.eth n, 0x0F00, [.u 1 k, .u 1 0]⟩)) ∧
    (let k := bitsOf val 17 8
     let a := bitsOf (s.pair .ETH_RXF_ADDR_LO .ETH_RXF_ADDR_HI 0 0) 47 0
     let stat (st : Nat) : List FieldSet := [⟨F.ETH_RXF_STAT_STATUS, 0, 0, st⟩] ++
       if st = 0 then [] else [⟨F.ETH_RXF_STAT_REFUSED, 0, 0, 1⟩]
     let ev (port st : Nat) : List Ev := [⟨Src.eth port, 0x0F01, [.u 2 k, .u 1 st]⟩]
     let only (t : State) : Prop := t.net = { s.net with flows := t.net.flows } ∧ ∀ j, j ≠ k → t.rxFlow j = s.rxFlow j
     (mode = 1 → (s.rxFlow k).on = true → Completes (exec (.rxfEnable req val) s) fun t =>
       t = Around s t ∧ Sets s t (stat 4) ∧ Posts s t (ev (rxPortA (s.rxFlow k).desc) 4)) ∧
     (∀ b v, mode = 1 → (s.rxFlow k).on = false → s.readRange (Src.eth 0) a 64 = (.ok b, v) →
       (rxDescOk (bytesBv 512 b) = true → Completes (exec (.rxfEnable req val) s) fun t =>
         t = { v with net := t.net, regs := t.regs } ∧ only t ∧ t.rxFlow k = { ({} : RxFlow) with on := true, desc := bytesBv 512 b } ∧
         t.reg .ETH_RXF_RING 0 k = 0 ∧ t.reg .ETH_RXF_ERR 0 k = 0 ∧ t.fget F.ETH_RXF_STAT_STATUS 0 0 = 0) ∧
       (rxDescOk (bytesBv 512 b) = false → Completes (exec (.rxfEnable req val) s) fun t =>
         t = Around v t ∧ Sets v t (stat 2) ∧ Posts v t (ev (rxPortA (bytesBv 512 b)) 2))) ∧
     (∀ r v, mode = 1 → (s.rxFlow k).on = false → s.readRange (Src.eth 0) a 64 = (r, v) → (∀ b, r ≠ .ok b) →
       Completes (exec (.rxfEnable req val) s) fun t =>
         t = Around v t ∧ Sets v t (stat 9) ∧ Posts v t (ev (rxPortA (s.rxFlow k).desc) 9)) ∧
     (mode ≠ 1 → exec (.rxfEnable req val) s = .next s) ∧ (mode ≠ 2 → exec (.rxfDisable req val) s = .next s) ∧
     (mode = 2 → (s.rxFlow k).on = true → Completes (exec (.rxfDisable req val) s) fun t =>
       t = { s with net := t.net, regs := t.regs } ∧ only t ∧ t.rxFlow k = { ({} : RxFlow) with desc := (s.rxFlow k).desc } ∧
       Sets s t (stat 0)) ∧
     (mode = 2 → (s.rxFlow k).on = false → Completes (exec (.rxfDisable req val) s) fun t =>
       t = Around s t ∧ Sets s t (stat 4) ∧ Posts s t (ev (rxPortA (s.rxFlow k).desc) 4))) ∧
    (∀ (k : Nat) fr more, k < 1024 → (s.rxFlow k).frames = fr :: more → (s.rxFlow k).on = true → s.twinHolds = false →
      (∀ m, m < 32 → s.chkSnoops m 4 k = false) →
      let x := s.rxFlow k
      let d := x.desc
      let missing (b : Nat) : Nat := rxBandGroups d b - rxGot fr b
      let gone (b : Nat) : Ev :=
        ⟨Src.eth (rxPortA d), 0x0F02, [.u 2 k, .u 4 fr.ts.toNat, .u 2 b, .u 4 (missing b * (pgroup (rxVfmt d)).1)]⟩
      let tok (b : Nat) (whole : Bool) : Msg :=
        ⟨Src.eth (rxPortA d), rxToken d, rowReady fr.ts.toNat b whole (b + 1 == rxBands d) (fr.f % rxBufs d)⟩
      let waits (l : List RxFrame) : Prop := ∀ y, l.head? = some y → rxBandGroups d y.next ≠ rxGot y y.next
      let rest (t : State) (y : RxFlow) (errs : Nat) : Prop :=
        t = { Around s t with net := { s.net with flows := t.net.flows }, tally := t.tally, freeCtr := t.freeCtr } ∧
        OnlyRegs s t [.ETH_RXF_ERR] ∧ t.rxFlow k = y ∧ (∀ j, j ≠ k → t.rxFlow j = s.rxFlow j) ∧
        t.fget F.ETH_RXF_ERR_INCOMP 0 k = (if errs = 0 then s.fget F.ETH_RXF_ERR_INCOMP 0 k else
          min (s.fget F.ETH_RXF_ERR_INCOMP 0 k + errs) 0xFFFF)
      let past := fr.ts :: x.past.filter fun y => decide ((fr.ts - y).toNat < 2 ^ 31)
      (fr.reach ≤ fr.next + 1 → more = [] → exec (.bandTimeout k false) s = .next s) ∧
      (fr.next + 1 < fr.reach ∨ more ≠ [] →
        let whole := missing fr.next == 0
        let y : RxFlow := if fr.next + 1 = rxBands d then { x with frames := more, past := past } else
          { x with frames := { fr with next := fr.next + 1 } :: more }
        waits y.frames → Completes (exec (.bandTimeout k false) s) fun t =>
          rest t y (if whole then 0 else 1) ∧ Sends s t [tok fr.next whole] ∧ Posts s t (if whole then [] else [gone fr.next])) ∧
      (fr.next < rxBands d → waits more → (∀ y ∈ more, y.ts ≠ fr.ts) → Completes (exec (.bandTimeout k true) s) fun t =>
        let l := (List.range (rxBands d - fr.next)).map fun i => fr.next + i
        rest t { x with frames := more, past := past } l.length ∧ Sends s t (l.map fun b => tok b false) ∧
        Posts s t (l.map gone))) ∧
    (∀ (k : Nat) (idle : Bool), k < 1024 →
      let x := s.rxFlow k
      (x.frames = [] ∨ x.on = false → exec (.bandTimeout k idle) s = .next s) ∧
      Completes (exec (.bandTimeout k idle) s) fun t =>
        t = { Around s t with
          net := { s.net with flows := t.net.flows }, tally := t.tally, freeCtr := t.freeCtr, chk := t.chk, twin := t.twin
          lanes := t.lanes } ∧ OnlyRegs s t [.ETH_RXF_ERR] ∧ (t.rxFlow k).on = x.on ∧ (t.rxFlow k).desc = x.desc ∧
        ∀ j, j ≠ k → t.rxFlow j = s.rxFlow j)

/-- On R304, R311, R314 to R318, R325: releases reach a transmit queue; the packet that may start on a link is sent, discarded, or
found poisoned and aborted.
The model's readings and choices where the spec leaves it open: log entries 16, 45, 48, 101 and 102. -/
def Obligations.NetworkTransmission : Prop :=
  ∀ (s : State) (n link q : Nat), n < 8 → link < 4 → q < 512 →
    let x := s.txq n q
    let others (t : State) : Prop := (∀ k, k ≠ q → t.txq n k = s.txq n k) ∧ ∀ m, m ≠ n → t.tsh m = s.tsh m
    (s.txWaiting n q = [] → exec (.txRelease n q) s = .next s) ∧
    (∀ flow v rest, s.txWaiting n q = (flow, v) :: rest →
      let settled := Tab.find? (s.flow flow).rel (s.flow flow).fates = some (.done [])
      let counter (t : State) : Prop := (¬ settled → t.tally = s.tally) ∧
        (settled → (t.flow flow).rel = (s.flow flow).rel + 1 ∧ ∀ g, g ≠ flow → t.flow g = s.flow g)
      let bad (t : State) (c : Nat) : Prop := t.tsh n = { s.tsh n with bad := (s.tsh n).bad + c } ∧ ∀ m, m ≠ n → t.tsh m = s.tsh m
      let addr := bitsOf v 47 0
      let k := bitsOf v 55 48 + 1
      let gone (t : State) : Prop := t.txWaiting n q = rest ∧ ∀ a b, (a, b) ≠ (n, q) → t.txWaiting a b = s.txWaiting a b
      let evs (cause : Nat) : List Ev := (List.range k).map fun i => ⟨Src.tsh n, 0x1003, [.u 2 q, .u 6 (addr + 32 * i), .u 1 cause]⟩
      (bitsOf v 63 56 ≠ 0 ∨ addr % 32 ≠ 0 → Completes (exec (.txRelease n q) s) fun t =>
        t = { Around s t with releases := t.releases, tally := t.tally, net := { s.net with tsh := t.net.tsh } } ∧ gone t ∧ counter t ∧ bad t k ∧ Sets s t [] ∧
        Posts s t (evs 0)) ∧
      (bitsOf v 63 56 = 0 → addr % 32 = 0 → x.st ≠ .opened → Completes (exec (.txRelease n q) s) fun t =>
        t = { Around s t with releases := t.releases, tally := t.tally, net := { s.net with tsh := t.net.tsh } } ∧ gone t ∧ counter t ∧ bad t k ∧ Sets s t [] ∧
        Posts s t (evs 1)) ∧
      (bitsOf v 63 56 = 0 → addr % 32 = 0 → x.st = .opened → qDepth x.desc < x.pkts.length + k →
        exec (.txRelease n q) s = .next s) ∧
      (∀ d, bitsOf v 63 56 = 0 → addr % 32 = 0 → x.st = .opened → x.pkts.length + k ≤ qDepth x.desc → k = 1 →
        (s.memRead (Src.tsh n) addr).1 = d → Completes (exec (.txRelease n q) s) fun t =>
          t = { Around s t with releases := t.releases, tally := t.tally, net := { s.net with tsh := t.net.tsh } } ∧ gone t ∧
          counter t ∧ OnlyRegs s t [] ∧
          (∀ w, d = .ok w → txDescOk x.desc w = true → others t ∧
            t.txq n q = { x with pkts := x.pkts ++ [⟨w, addr⟩], headAt := if x.pkts.isEmpty then s.nowNs else x.headAt }) ∧
          (∀ w, d = .ok w → txDescOk x.desc w = false → bad t 1 ∧ Posts s t (evs 3)) ∧
          ((∀ w, d ≠ .ok w) → bad t 1 ∧ (t.evSource (Src.tsh n)).seq = (s.evSource (Src.tsh n)).seq + 1)) ∧
      (bitsOf v 63 56 = 0 → addr % 32 = 0 → x.st = .opened → x.pkts.length + k ≤ qDepth x.desc →
        Completes (exec (.txRelease n q) s) fun t => gone t ∧ counter t ∧
          x.pkts <+: (t.txq n q).pkts ∧ (t.txq n q).pkts.length + (t.tsh n).bad = x.pkts.length + (s.tsh n).bad + k)) ∧
    (s.txPick n link = none → exec (.packetStart n link) s = .next s) ∧
    (∀ p rest, s.txPick n link = some q → x.pkts = p :: rest →
      let d := p.desc
      let ctxs := (s.tsh n).ctxs
      let own := Tab.find? (txCtx d) ctxs
      let ends (y : TxQueue) : TxQueue := if x.st = .closing ∧ rest = [] then { y with st := .closed, desc := 0 } else y
      let ledger (t : State) : Prop :=
        (x.st ≠ .closing ∨ rest ≠ [] → (s.ledger.holding (.txq n q)).next = none → t.ledger = s.ledger) ∧
        (x.st = .closing → rest = [] → t.ledger.holding (.txq n q) = {})
      let one (t : State) (c : Nat) : Prop := Tab.getD t.net.counts (n, link, c) 0 = Tab.getD s.net.counts (n, link, c) 0 + 1
      let lim := s.unpackTime (txTime d) + txDur d
      let e := s.eligibleAt x d
      let overrun : Bool := decide (txKind d = 2 ∧ lim < e) && match x.overAt with
        | some y => decide (y + 1000000 ≤ s.nowNs)
        | none => true
      let sent : TxQueue := ends { x with
        pkts := rest, headAt := s.nowNs, last := some (s.nowNs, s.counted n d), maxDelay := max x.maxDelay (s.nowNs - e)
        overAt := if overrun then some s.nowNs else x.overAt }
      let late : List Ev := if overrun then [⟨Src.tsh n, 0x1002, [.u 2 q, .u 4 (e - lim)]⟩] else []
      let stamped (t : State) (abort : Bool) : Prop := if txTsReq d then
          let at_ := addNs s.time.sec s.time.ns (s.fget F.TIM_LAT_TXLAT 0 n)
          t.stamps n = s.stamps n ++ [⟨abort, link, txTsid d, at_.2, at_.1⟩]
        else t.time = s.time
      (s.linkUp n link = false → txCtx d = 0 → Completes (exec (.packetStart n link) s) fun t =>
        t = { s with net := { s.net with tsh := t.net.tsh, counts := t.net.counts }, ledger := t.ledger } ∧ others t ∧ ledger t ∧
        t.txq n q = ends { x with pkts := rest, headAt := s.nowNs } ∧ (t.tsh n).ctxs = ctxs ∧ one t 7) ∧
      (txTsReq d = false ∨ (s.stamps n).length < 64 →
        ∀ b v, s.readRange (Src.tsh n) (txBuf d) (txLen d) = (.ok b, v) →
          let passed : Tab Nat SrtpCtx := match own with
            | some c => if txCtx d = 0 then ctxs else Tab.set ctxs (txCtx d) (c.after b)
            | none => ctxs
          let result := if txCtx d = 0 then .inr b else srtpApply (Tab.find? (txCtx d) passed) b
          (s.linkUp n link = false → txCtx d ≠ 0 → Completes (exec (.packetStart n link) s) fun t =>
            t = { v with net := { s.net with tsh := t.net.tsh, counts := t.net.counts }, ledger := t.ledger } ∧ others t ∧ ledger t ∧
            t.txq n q = ends { x with pkts := rest, headAt := s.nowNs } ∧ (t.tsh n).ctxs = passed ∧ one t 7) ∧
          (∀ cause, s.linkUp n link = true → result = .inl cause → Completes (exec (.packetStart n link) s) fun t =>
            t = { Around v t with net := { s.net with tsh := t.net.tsh }, ledger := t.ledger } ∧ others t ∧ ledger t ∧
            t.txq n q = ends { x with pkts := rest, headAt := s.nowNs } ∧ (t.tsh n).ctxs = passed ∧
            (t.tsh n).srtpDrops = (s.tsh n).srtpDrops + 1 ∧ Sets v t [] ∧
            Posts v t [⟨Src.tsh n, 0x1004, [.u 2 q, .u 1 (txCtx d), .u 1 cause]⟩]) ∧
          (∀ f, s.linkUp n link = true → result = .inr f → s.twinMutes n q = false →
            (∀ m, m < 32 → s.chkSnoops m 3 (n + q * 8) = false) → Completes (exec (.packetStart n link) s) fun t =>
              t = { Around v t with
                net := { s.net with tsh := t.net.tsh, counts := t.net.counts, out := t.net.out }, ledger := t.ledger, time := t.time } ∧
              others t ∧ ledger t ∧ t.txq n q = sent ∧ (t.tsh n).ctxs = passed ∧ one t 6 ∧ stamped t false ∧
              Tab.find? link (t.tsh n).busy = some (s.nowNs + ceilDiv (s.counted n d * 8) (s.lineRate n)) ∧
              t.net.out = s.net.out ++ [{ port := n, link := link, bytes := padFrame (txChecksums f) }] ∧ Sets v t [] ∧
              Posts v t late) ∧
          (∀ f, s.linkUp n link = true → result = .inr f → s.twinMutes n q = true → Completes (exec (.packetStart n link) s) fun t =>
            t = { Around v t with net := { s.net with tsh := t.net.tsh }, ledger := t.ledger, time := t.time } ∧
            others t ∧ ledger t ∧ t.txq n q = sent ∧ (t.tsh n).ctxs = passed ∧ stamped t false ∧ t.net.out = s.net.out ∧
            Sets v t [⟨F.TWN_MUTED_FRAMES, 0, 0, (s.fget F.TWN_MUTED_FRAMES 0 0 + 1) % 2 ^ 32⟩] ∧ Posts v t late)) ∧
      (∀ v a, s.linkUp n link = true → txCtx d = 0 → s.readRange (Src.tsh n) (txBuf d) (txLen d) = (.poison a, v) →
        txTsReq d = false ∨ (s.stamps n).length < 64 → Completes (exec (.packetStart n link) s) fun t =>
          t = { Around s t with
            net := { s.net with tsh := t.net.tsh }, ledger := t.ledger, time := t.time, freeCtr := t.freeCtr } ∧
          others t ∧ ledger t ∧ t.txq n q = sent ∧ (t.tsh n).ctxs = ctxs ∧ stamped t true ∧ OnlyRegs s t [] ∧
          ∃ b : TxAbort, Tab.find? link (t.tsh n).abort = some b ∧ b.q = q ∧ b.pkt = p ∧ b.addr = max a (txBuf d) ∧
            b.muted = s.twinMutes n q ∧ b.sent.length = a - txBuf d)) ∧
    (∀ a : TxAbort, Tab.find? link (s.tsh n).abort = some a → a.muted = false →
      (∀ m, m < 32 → s.chkSnoops m 3 (n + a.q * 8) = false) → Completes (exec (.txPoisonAbort n link) s) fun t =>
        t = { Around s t with net := { s.net with tsh := t.net.tsh, counts := t.net.counts, out := t.net.out } } ∧
        Tab.find? link (t.tsh n).abort = none ∧ (t.tsh n).queues = (s.tsh n).queues ∧
        (∀ m, m ≠ n → t.tsh m = s.tsh m) ∧
        t.net.out = s.net.out ++ [{ port := n, link := link, bytes := a.sent, badFcs := true }] ∧
        Tab.getD t.net.counts (n, link, 8) 0 = Tab.getD s.net.counts (n, link, 8) 0 + 1 ∧ Sets s t [] ∧
        Posts s t [⟨Src.tsh n, 0x1005, [.u 2 a.q, .u 6 a.addr]⟩]) ∧
    (∀ a : TxAbort, Tab.find? link (s.tsh n).abort = some a → a.muted = true → Completes (exec (.txPoisonAbort n link) s) fun t =>
      t = { Around s t with net := { s.net with tsh := t.net.tsh, counts := t.net.counts } } ∧
      Tab.find? link (t.tsh n).abort = none ∧ (t.tsh n).queues = (s.tsh n).queues ∧ (∀ m, m ≠ n → t.tsh m = s.tsh m) ∧
      Tab.getD t.net.counts (n, link, 8) 0 = Tab.getD s.net.counts (n, link, 8) 0 + 1 ∧
      Sets s t [⟨F.TWN_MUTED_FRAMES, 0, 0, (s.fget F.TWN_MUTED_FRAMES 0 0 + 1) % 2 ^ 32⟩] ∧
      Posts s t [⟨Src.tsh n, 0x1005, [.u 2 a.q, .u 6 a.addr]⟩]) ∧
    (Tab.find? link (s.tsh n).abort = none → exec (.txPoisonAbort n link) s = .next s)

/-- On R313, R319 to R323: the scheduler's commands, its gate lists and its snapshots.
The model's readings and choices where the spec leaves it open: log entries 10, 48, 102 and 103. -/
def Obligations.SchedulerCommands : Prop :=
  ∀ (s : State) (req n : Nat) (val : W32), n < 8 →
    let op := bitsOf val 3 0
    let q := bitsOf val 16 8
    let x := s.txq n q
    let sched := s.tsh n
    let a := bitsOf (s.pair .TSH_ADDR_LO .TSH_ADDR_HI n 0) 47 0
    let margin := s.nowNs + s.fget F.TSH_CTRL_MARGIN n 0 * 1000
    let others (t : State) : Prop := ∀ m, m ≠ n → t.tsh m = s.tsh m
    let stat (st : Nat) : List FieldSet := [⟨F.TSH_CMD_STAT_OP, n, 0, op⟩, ⟨F.TSH_CMD_STAT_STATUS, n, 0, st⟩] ++
      if st = 0 then [] else [⟨F.TSH_CMD_STAT_REFUSED, n, 0, 1⟩]
    let refused (v : State) (st : Nat) (t : State) : Prop :=
      t = Around v t ∧ Sets v t (stat st) ∧ Posts v t [⟨Src.tsh n, 0x1000, [.u 1 op, .u 2 q, .u 1 st]⟩]
    let net (v : State) (t : State) : Prop := t = { v with net := { s.net with tsh := t.net.tsh }, regs := t.regs } ∧ others t
    let pends (w : State) (l : GateList) (t : State) : Prop :=
      let base := s.unpackTime l.base
      (margin ≤ base → net w t ∧ t.tsh n = { sched with pend := some (l, base) } ∧
        Sets w t ([⟨F.TSH_GATE_PEND, n, 0, 1⟩] ++ stat 0)) ∧
      (base < margin → ∃ start k : Nat, t = { Around w t with net := { s.net with tsh := t.net.tsh } } ∧ others t ∧
        t.tsh n = { sched with pend := some (l, start) } ∧ start = base + k * l.cycle ∧ margin ≤ start ∧ start < margin + l.cycle ∧
        Sets w t ([⟨F.TSH_GATE_LATE, n, 0, 1⟩, ⟨F.TSH_GATE_PEND, n, 0, 1⟩] ++ stat 0) ∧
        Posts w t [⟨Src.tsh n, 0x1001,
          [.u 8 (packTime (BitVec.ofNat 64 (start / 1000000000)) (start % 1000000000)).toNat]⟩])
    ((op ≠ 1 → exec (.openQ req n val) s = .next s) ∧ (op ≠ 2 → exec (.closeQ req n val) s = .next s) ∧
      (op ≠ 3 → exec (.gate req n val) s = .next s) ∧ (op ≠ 4 → exec (.srtpLoad req n val) s = .next s)) ∧
    (s.dom (138 + n) ≠ .on →
      (op = 1 → Completes (exec (.openQ req n val) s) (refused s 4)) ∧ (op = 2 → Completes (exec (.closeQ req n val) s) (refused s 4)) ∧
      (op = 3 → Completes (exec (.gate req n val) s) (refused s 4)) ∧
      (op = 4 → Completes (exec (.srtpLoad req n val) s) (refused s 4))) ∧
    (s.dom (138 + n) = .on →
      (op = 1 → a % 32 ≠ 0 → Completes (exec (.openQ req n val) s) (refused s 2)) ∧
      (∀ r v, a % 32 = 0 → s.readRange (Src.tsh n) a 32 = (r, v) → (∀ b, r ≠ .ok b) →
        (op = 1 → Completes (exec (.openQ req n val) s) (refused v 9)) ∧
        (op = 4 → 1 ≤ q → q ≤ 255 → (∀ y ∈ sched.queues, ∀ p ∈ y.2.pkts, txCtx p.desc ≠ q) →
          Completes (exec (.srtpLoad req n val) s) (refused v 9))) ∧
      (∀ b v, op = 1 → a % 32 = 0 → s.readRange (Src.tsh n) a 32 = (.ok b, v) →
        let d := bytesBv 256 b
        let mode := s.fget F.ETH_CFG_MODE n 0
        let load := s.otherLoad n q (qLink d)
        let need := max (s.queueHeld n q) (qMbps d)
        let depth := s.otherDepth n q
        let change := qClass d ≠ qClass x.desc ∨ qLink d ≠ qLink x.desc ∨ qPace d ≠ qPace x.desc
        (x.st = .closing → Completes (exec (.openQ req n val) s) (refused v 4)) ∧
        (x.st ≠ .closing → queueDescOk mode d = false → Completes (exec (.openQ req n val) s) (refused v 2)) ∧
        (x.st ≠ .closing → queueDescOk mode d = true →
          (x.st = .opened → change → Completes (exec (.openQ req n val) s) (refused v 4)) ∧
          (¬ (x.st = .opened ∧ change) → mode = 2 → 23750 < load + need → Completes (exec (.openQ req n val) s) (refused v 20)) ∧
          (¬ (x.st = .opened ∧ change) → ¬ (mode = 2 ∧ 23750 < load + need) →
            (49152 < depth + qDepth d → Completes (exec (.openQ req n val) s) (refused v 21)) ∧
            (∀ w, depth + qDepth d ≤ 49152 → v.submit ⟨Src.tsh n, .txq n q, [(54 + n, qMbps d)]⟩ = (false, w) →
              Completes (exec (.openQ req n val) s) (refused w 1)) ∧
            (∀ w, depth + qDepth d ≤ 49152 → v.submit ⟨Src.tsh n, .txq n q, [(54 + n, qMbps d)]⟩ = (true, w) →
              Completes (exec (.openQ req n val) s) fun t =>
                t = { Around w t with net := { s.net with tsh := t.net.tsh }, ledger := t.ledger } ∧ others t ∧
                Sets w t (stat 0) ∧
                t.txq n q = { x with st := .opened, desc := d } ∧ (∀ k, k ≠ q → t.txq n k = s.txq n k) ∧
                (x.st = .closed → (t.ledger.holding (.txq n q)).next = none))))) ∧
      (op = 2 → x.st ≠ .opened → Completes (exec (.closeQ req n val) s) (refused s 4)) ∧
      (op = 2 → x.st = .opened → x.pkts ≠ [] → Completes (exec (.closeQ req n val) s) fun t =>
        net s t ∧ t.txq n q = { x with st := .closing } ∧ (∀ k, k ≠ q → t.txq n k = s.txq n k) ∧ Sets s t (stat 0)) ∧
      (op = 2 → x.st = .opened → x.pkts = [] → Completes (exec (.closeQ req n val) s) fun t =>
        t = { s with net := { s.net with tsh := t.net.tsh }, ledger := t.ledger, regs := t.regs } ∧ others t ∧
        t.txq n q = { x with st := .closed, desc := 0 } ∧
        (∀ k, k ≠ q → t.txq n k = s.txq n k) ∧ t.ledger.holding (.txq n q) = {} ∧ Sets s t (stat 0)) ∧
      (∀ l, op = 3 → a = 0 → sched.op = some l → l.cycle ≠ 0 →
        Completes (exec (.gate req n val) s) (pends s { l with entries := [] })) ∧
      (op = 3 → a = 0 → sched.op = none → Completes (exec (.gate req n val) s) fun t =>
        net s t ∧ t.tsh n = { sched with pend := some ({}, margin) } ∧ Sets s t ([⟨F.TSH_GATE_PEND, n, 0, 1⟩] ++ stat 0)) ∧
      (op = 3 → a % 32 ≠ 0 → Completes (exec (.gate req n val) s) (refused s 2)) ∧
      (∀ h b v w, op = 3 → a ≠ 0 → a % 32 = 0 → s.readRange (Src.tsh n) a 16 = (.ok h, v) →
        let d : BitVec 128 := bytesBv 128 h
        let count := bitsOf d 8 0
        let cycle := bitsOf d 63 32
        let entries := gateEntries count b
        1 ≤ count → count ≤ 256 → bitsOf d 15 9 = 0 → bitsOf d 31 17 = 0 → 1000 ≤ cycle → cycle ≤ 1000000000 →
        bitsOf d 93 64 < 1000000000 → v.readRange (Src.tsh n) (a + 16) (8 * count) = (.ok b, w) →
        (∀ e ∈ entries, bitsOf e 31 8 = 0 ∧ bitsOf e 63 32 ≠ 0) →
        let l : GateList := { guard := d.getLsbD 16, cycle := cycle, base := d.extractLsb' 64 64,
                              entries := entries.map fun e => (bitsOf e 7 0, bitsOf e 63 32) }
        Completes (exec (.gate req n val) s) (pends w l)) ∧
      (∀ h v, op = 3 → a ≠ 0 → a % 32 = 0 → s.readRange (Src.tsh n) a 16 = (.ok h, v) →
        let d : BitVec 128 := bytesBv 128 h
        let count := bitsOf d 8 0
        let cycle := bitsOf d 63 32
        let ok := 1 ≤ count ∧ count ≤ 256 ∧ bitsOf d 15 9 = 0 ∧ bitsOf d 31 17 = 0 ∧ 1000 ≤ cycle ∧ cycle ≤ 1000000000 ∧
          bitsOf d 93 64 < 1000000000
        (¬ ok → Completes (exec (.gate req n val) s) (refused v 2)) ∧
        (∀ b w, ok → v.readRange (Src.tsh n) (a + 16) (8 * count) = (.ok b, w) →
          (∃ e ∈ gateEntries count b, bitsOf e 31 8 ≠ 0 ∨ bitsOf e 63 32 = 0) →
          Completes (exec (.gate req n val) s) (refused w 2))) ∧
      (op = 4 → q = 0 ∨ 255 < q → Completes (exec (.srtpLoad req n val) s) (refused s 2)) ∧
      (op = 4 → 1 ≤ q → q ≤ 255 → (∃ y ∈ sched.queues, ∃ p ∈ y.2.pkts, txCtx p.desc = q) →
        Completes (exec (.srtpLoad req n val) s) (refused s 4)) ∧
      (∀ b v k, op = 4 → 1 ≤ q → q ≤ 255 → a % 32 = 0 → (∀ y ∈ sched.queues, ∀ p ∈ y.2.pkts, txCtx p.desc ≠ q) →
        s.readRange (Src.tsh n) a 32 = (.ok b, v) →
        let d := bytesBv 256 b
        bitsOf d 1 0 ≠ 0 → bitsOf d 7 2 = 0 → bitsOf d 31 14 = 0 → bitsOf d 255 64 = 0 →
        Tab.find? (bitsOf d 13 8) s.sec.keys = some k → k.klen = (if bitsOf d 1 0 = 3 then 2 else 1) →
        let c : SrtpCtx := { suite := bitsOf d 1 0, key := k.key, salt := k.salt, saltLen := k.saltLen, roc := bitsOf d 63 32 }
        Completes (exec (.srtpLoad req n val) s) fun t =>
          net v t ∧ t.tsh n = { sched with ctxs := Tab.set sched.ctxs q c } ∧ Sets v t (stat 0))) ∧
    (∀ l start, sched.pend = some (l, start) →
      (s.nowNs < start → exec (.gateListStart n) s = .next s) ∧
      (start ≤ s.nowNs → Completes (exec (.gateListStart n) s) fun t =>
        net s t ∧ OnlyRegs s t [.TSH_GATE] ∧
        t.tsh n = { sched with op := if l.entries = [] then none else some l, pend := none } ∧
        t.flag F.TSH_GATE_PEND n 0 = false ∧ t.flag F.TSH_GATE_ACTIVE n 0 = (l.entries != []))) ∧
    (∀ l, sched.op = some l → Completes (exec (.gateEntryChange n) s) fun t =>
      t = { s with regs := t.regs } ∧ Sets s t [⟨F.TSH_GATE_ENTRY, n, 0, s.gateEntry l s.nowNs⟩]) ∧
    (let period := s.fget F.TSH_SMP_CFG_PERIOD n 0
     let count := s.fget F.TSH_SMP_CNT_COUNT n 0
     (period < 10 ∨ 1000000 < period → exec (.queueSample n) s = .next s) ∧
     (10 ≤ period → period ≤ 1000000 → Completes (exec (.queueSample n) s) fun t =>
       t = { Around s t with mem := t.mem, net := { s.net with tsh := t.net.tsh } } ∧ others t ∧ OnlyRegs s t [.TSH_SMP_CNT] ∧
       MemOut s t (bitsOf (s.pair .TSH_SMP_BASE_LO .TSH_SMP_BASE_HI n 0) 47 0 +
         8224 * (count % 2 ^ min (s.fget F.TSH_SMP_CFG_LOG2 n 0) 8)) 8224 ∧
       t.fget F.TSH_SMP_CNT_COUNT n 0 = (count + 1) % 2 ^ 32 ∧
       ∀ k, t.txq n k = { s.txq n k with maxDelay := 0 }))

/-! ### Audio (chapter 12) -/

/-- On R342 to R349: a capture unit locks, classifies windows of 64 frames, keeps blocks and masks, drops what does not fit, loses
lock; it is enabled, disabled, masked.
On R343, R344, R348: what a capture unit writes of a classified frame, and when it drops it instead.
The model's readings and choices where the spec leaves it open: log entries 49 and 99. -/
def Obligations.AudioCapture : Prop :=
  (∀ (s : State) (req n : Nat) (val : W32) (f : AudFrame), n < 16 →
    let x := s.audIn n
    let en := s.flag F.AUD_IN_CFG_EN n 0
    let only (t : State) : Prop := t = { Around s t with audio := { s.audio with ins := t.audio.ins } } ∧
      ∀ m, m ≠ n → t.audIn m = s.audIn m
    let mayHold (log2 : Nat) : Prop := 4 ≤ log2 ∧ log2 ≤ 16
    let sdi := s.flag F.AUD_IN_CFG_SRC n 0
    let lane := s.fget F.AUD_IN_CFG_LANE n 0
    let heard := sdi = false ∨
      (s.fget F.LN_CFG_MODE (14 + lane / 4) 0 = 4 ∧ s.flag F.LN_LANE_STAT_LOCK (14 + lane / 4) (lane % 4) = true)
    let clean := f.valid = true ∧ (sdi = true ∨ ∀ y ∈ f.subs, y.viol = false)
    let run := f.subs.foldl (fun k y => if k = 3 then 3 else if y.viol && !sdi then k + 1 else 0) x.viols
    let wrote (t : State) (l : List Reg) : Prop :=
      let prod := s.fget F.AUD_IN_RING_PROD n 0
      let base := bitsOf (s.pair .AUD_IN_BASE_LO .AUD_IN_BASE_HI n 0) 47 5 * 32
      t = { Around s t with audio := { s.audio with ins := t.audio.ins }, mem := t.mem } ∧
      (∀ m, m ≠ n → t.audIn m = s.audIn m) ∧ (t.audIn n).word = [] ∧ (t.audIn n).writing = false ∧
      OnlyRegs s t ([.AUD_IN_RING, .AUD_IN_STAT] ++ l) ∧ t.fget F.AUD_IN_RING_PROD n 0 = (prod + 1) % 65536 ∧
      MemOut s t (base + 32 * (prod % 2 ^ s.fget F.AUD_IN_CFG_LOG2 n 0)) 32
    let lost (i : Instr) : Prop :=
      (en = false ∨ x.word = [] → Completes (exec i s) fun t =>
        only t ∧ t.audIn n = { x with
          valid := 0, viols := 0, win := [], prev := none, cs := [], writing := x.writing && !en, lost := x.lost || en } ∧
        Sets s t [⟨F.AUD_IN_STAT_LOCK, n, 0, 0⟩] ∧ Posts s t [⟨Src.audIn n, 0x1201, [.u 1 n, .u 1 0]⟩]) ∧
      (en = true → x.word ≠ [] → x.word.length < 8 → Completes (exec i s) fun t =>
        wrote t [] ∧ (t.audIn n).lost = true ∧ (t.audIn n).win = [] ∧ (t.audIn n).viols = 0 ∧
        t.flag F.AUD_IN_STAT_LOCK n 0 = false)
    (¬ heard → exec (.audioFrame n f) s = .next s) ∧
    (s.flag F.AUD_IN_STAT_LOCK n 0 = false →
      (heard → ¬ clean → Completes (exec (.audioFrame n f) s) fun t =>
        only t ∧ t.audIn n = { x with valid := 0 } ∧ Sets s t [] ∧ Posts s t []) ∧
      (heard → clean → x.valid ≠ 7 → Completes (exec (.audioFrame n f) s) fun t =>
        only t ∧ t.audIn n = { x with valid := x.valid + 1 } ∧ Sets s t [] ∧ Posts s t []) ∧
      (heard → clean → x.valid = 7 → Completes (exec (.audioFrame n f) s) fun t =>
        only t ∧ t.audIn n = { x with valid := 0, viols := 0, win := [], prev := none } ∧ Sets s t [⟨F.AUD_IN_STAT_LOCK, n, 0, 1⟩] ∧
        Posts s t [⟨Src.audIn n, 0x1201, [.u 1 n, .u 1 1]⟩]) ∧
      exec (.audioLockLoss n) s = .next s) ∧
    (s.flag F.AUD_IN_STAT_LOCK n 0 = true → heard → run = 3 → lost (.audioFrame n f)) ∧
    (s.flag F.AUD_IN_STAT_LOCK n 0 = true → heard → run ≠ 3 →
      (x.win.length < 63 → f.z = true → en = true →
        let m := x.pend.getD x.mask
        Completes (exec (.audioFrame n f) s) fun t =>
          only t ∧ Sets s t [⟨F.AUD_IN_STAT_PEND, n, 0, 0⟩] ∧ Posts s t [] ∧
          t.audIn n = { x with
            viols := run, mask := m, pend := none, writing := true, blocks := x.blocks + 1, cs := (t.audIn n).cs
            win := x.win ++ [⟨f, true, x.blocks, s.now, m, m != x.mask⟩] }) ∧
      (x.win.length < 63 → f.z = false ∨ en = false → x.writing = false ∨ sdi = true →
        Completes (exec (.audioFrame n f) s) fun t =>
          only t ∧ Sets s t [] ∧ Posts s t [] ∧
          t.audIn n = { x with viols := run, win := x.win ++ [⟨f, x.writing, x.blocks - 1, s.now, x.mask, false⟩] }) ∧
      (x.win.length = 63 →
        let p := (x.win.map fun r => r.frame.sclk).sum + f.sclk
        Completes (exec (.audioFrame n f) s) fun t =>
          t = { Around s t with audio := { s.audio with ins := t.audio.ins }, mem := t.mem } ∧
          (∀ m, m ≠ n → t.audIn m = s.audIn m) ∧ OnlyRegs s t [.AUD_IN_RING, .AUD_IN_STAT] ∧ (t.audIn n).win = [] ∧
          (t.audIn n).prev = some (audClassify p) ∧ (t.audIn n).viols = run ∧
          t.fget F.AUD_IN_STAT_PERIOD n 0 = min p 0x7FFFFF) ∧
      (x.win.length = 63 → x.writing = false → f.z = false → (∀ r ∈ x.win, r.write = false) →
        let p := (x.win.map fun r => r.frame.sclk).sum + f.sclk
        let code := audClassify p
        let stable := s.fget F.AUD_IN_STAT_RATE n 0
        let trans := s.flag F.AUD_IN_STAT_TRANS n 0
        let ends := trans = true ∧ x.prev = some code
        Completes (exec (.audioFrame n f) s) fun t =>
          only t ∧ t.audIn n = { x with viols := run, win := [], prev := some code } ∧
          Sets s t ([⟨F.AUD_IN_STAT_PERIOD, n, 0, min p 0x7FFFFF⟩,
            ⟨F.AUD_IN_STAT_TRANS, n, 0, if (trans = true ∨ code ≠ stable) ∧ ¬ ends then 1 else 0⟩] ++
            if ends ∧ code ≠ stable then [⟨F.AUD_IN_STAT_RATE, n, 0, code⟩, ⟨F.AUD_IN_STAT_RATECHG, n, 0, 1⟩] else []) ∧
          Posts s t (if ends ∧ code ≠ stable then [⟨Src.audIn n, 0x1200, [.u 1 n, .u 1 stable, .u 1 code, .u 4 p]⟩] else []))) ∧
    (s.flag F.AUD_IN_STAT_LOCK n 0 = true → lost (.audioLockLoss n)) ∧
    (val.getLsbD 0 = true →
      (en = true ∨ ¬ mayHold (bitsOf val 12 8) → exec (.captureEnable req n val) s = .next s) ∧
      (en = false → mayHold (bitsOf val 12 8) → Completes (exec (.captureEnable req n val) s) fun t =>
        only t ∧ t.audIn n = { x with
          mask := s.reg .AUD_IN_MASK n 0, pend := none, writing := false, blocks := 0, fresh := true, word := [], drops := 0
          lost := false, cs := [] } ∧
        Sets s t [⟨F.AUD_IN_CFG_LOG2, n, 0, bitsOf val 12 8⟩, ⟨F.AUD_IN_CFG_LANE, n, 0, bitsOf val 4 2⟩,
          ⟨F.AUD_IN_CFG_SRC, n, 0, bitsOf val 1 1⟩, ⟨F.AUD_IN_CFG_EN, n, 0, 1⟩, ⟨F.AUD_IN_RING_PROD, n, 0, 0⟩,
          ⟨F.AUD_IN_RING_CONS, n, 0, 0⟩] ∧ Posts s t [])) ∧
    (val.getLsbD 0 = false →
      (en = false → Completes (exec (.captureDisable req n val) s) fun t =>
        t = { s with regs := t.regs } ∧ Sets s t [⟨F.AUD_IN_CFG_LOG2, n, 0, bitsOf val 12 8⟩,
          ⟨F.AUD_IN_CFG_LANE, n, 0, bitsOf val 4 2⟩, ⟨F.AUD_IN_CFG_SRC, n, 0, bitsOf val 1 1⟩]) ∧
      (en = true → x.word = [] → Completes (exec (.captureDisable req n val) s) fun t =>
        only t ∧ t.audIn n = { x with
          win := x.win.map fun r => { r with write := false }, writing := false, lost := false, cs := [], pend := none
          drops := 0 } ∧
        Sets s t [⟨F.AUD_IN_CFG_EN, n, 0, 0⟩, ⟨F.AUD_IN_STAT_PEND, n, 0, 0⟩] ∧ Posts s t []) ∧
      (en = true → x.word ≠ [] → x.word.length < 8 → Completes (exec (.captureDisable req n val) s) fun t =>
        wrote t [.AUD_IN_CFG] ∧ (t.audIn n).lost = false ∧ (t.audIn n).drops = 0 ∧ (t.audIn n).pend = none ∧
        (t.audIn n).win = x.win.map (fun r => { r with write := false }) ∧ t.flag F.AUD_IN_CFG_EN n 0 = false ∧
        t.flag F.AUD_IN_STAT_PEND n 0 = false)) ∧
    (val.getLsbD 0 = true → exec (.captureDisable req n val) s = .next s) ∧
    (val.getLsbD 0 = false → exec (.captureEnable req n val) s = .next s) ∧
    (en = false → Completes (exec (.maskWrite req n val) s) fun t =>
      t = { s with regs := t.regs } ∧ Sets s t [⟨F.AUD_IN_MASK_MASK, n, 0, val.toNat⟩]) ∧
    (en = true → Completes (exec (.maskWrite req n val) s) fun t =>
      only t ∧ t.audIn n = { x with pend := some val } ∧
      Sets s t [⟨F.AUD_IN_MASK_MASK, n, 0, val.toNat⟩, ⟨F.AUD_IN_STAT_PEND, n, 0, 1⟩] ∧ Posts s t [])) ∧
  (∀ (s : State) (n : Nat) (flag : Bool) (r : AudRec), n < 16 → r.write = true →
    let x := s.audIn n
    let sdi := s.flag F.AUD_IN_CFG_SRC n 0
    let word (c : Nat) : W32 := BitVec.ofNat 32
      (((r.frame.word c).getD (BitVec.ofNat 28 0x1000000)).toNat + (if r.frame.z then 0x10000000 else 0) +
        if flag then 0x20000000 else 0)
    let own : List W32 :=
      (if r.frame.z then [BitVec.ofNat 32 (0x81000000 + r.blk % 2 ^ 24), r.time.extractLsb' 0 32, r.time.extractLsb' 32 32] ++
        (if r.maskMark || x.fresh then [0x82000000#32, r.mask] else []) else []) ++
      ((List.range (if sdi then 32 else 2)).filter fun c => r.mask.getLsbD c).map word
    let all := (if x.lost then [0x83010000#32, 0x82000000#32, r.mask] else []) ++
      (if x.drops = 0 then [] else [BitVec.ofNat 32 (0x83000000 + min x.drops 0xFFFF), 0x82000000#32, r.mask]) ++ own
    let used := (s.fget F.AUD_IN_RING_PROD n 0 + 65536 - s.fget F.AUD_IN_RING_CONS n 0) % 65536
    let room := min (2 ^ s.fget F.AUD_IN_CFG_LOG2 n 0) 65535
    audWords sdi flag x.fresh r = own ∧
    (own ≠ [] → room < used + (x.word.length + all.length + 7) / 8 →
      State.audWrite n flag s r = s.setAudIn n { x with drops := x.drops + 1 }) ∧
    (own ≠ [] → used + (x.word.length + all.length + 7) / 8 ≤ room → x.word.length < 8 →
      let t := State.audWrite n flag s r
      t.fget F.AUD_IN_RING_PROD n 0 = (s.fget F.AUD_IN_RING_PROD n 0 + (x.word.length + all.length) / 8) % 65536 ∧
      t.audIn n = { x with
        word := (x.word ++ all).drop ((x.word.length + all.length) / 8 * 8), lost := false, drops := 0
        fresh := x.fresh && !r.frame.z }))

/-- On R350 to R352: a playout unit is enabled, and sends the next frame when its time has come: from the ring, or silence.
The model's readings and choices where the spec leaves it open: log entries 50, 98 and 99. -/
def Obligations.AudioPlayout : Prop :=
  ∀ (s : State) (req n : Nat) (val : W32), n < 16 →
    let i := 16 + n
    let x := s.audOut n
    let en := s.flag F.AUD_OUT_CFG_EN i 0
    let rate := bitsOf val 18 16
    let cfg : List FieldSet := [⟨F.AUD_OUT_CFG_LOG2, i, 0, bitsOf val 12 8⟩, ⟨F.AUD_OUT_CFG_EN, i, 0, bitsOf val 0 0⟩]
    let others (t : State) : Prop := ∀ m, m ≠ n → t.audOut m = s.audOut m
    (en = true → Completes (exec (.playoutEnable req n val) s) fun t => t = { s with regs := t.regs } ∧ Sets s t cfg) ∧
    (en = false → val.getLsbD 0 = true → rate = 0 → exec (.playoutEnable req n val) s = .next s) ∧
    (en = false → val.getLsbD 0 = false → Completes (exec (.playoutEnable req n val) s) fun t =>
      t = { s with regs := t.regs } ∧ Sets s t (⟨F.AUD_OUT_CFG_RATE, i, 0, rate⟩ :: cfg)) ∧
    (en = false → val.getLsbD 0 = true → rate ≠ 0 →
      let up := if s.time.frac = 0 then s.nowNs else s.nowNs + 1
      let k := ((up - s.outStart n) * audRate rate + 999999999) / 1000000000
      Completes (exec (.playoutEnable req n val) s) fun t =>
        t = { Around s t with audio := { s.audio with outs := t.audio.outs } } ∧ others t ∧
        t.audOut n = { k := k, late := decide (s.fget F.AUD_OUT_RING_PROD i 0 < k / 4) } ∧
        Sets s t ([⟨F.AUD_OUT_CFG_RATE, i, 0, rate⟩] ++ cfg ++
          [⟨F.AUD_OUT_RING_CONS, i, 0, k / 4 % 65536⟩, ⟨F.AUD_OUT_STAT_UNDER, i, 0, 0⟩]) ∧
        Posts s t (if k = 0 then [] else [⟨Src.audOut n, 0x1206, [.u 1 n, .u 1 0, .u 4 k]⟩])) ∧
    (en = false ∨ s.nowNs < s.outStart n + x.k * 1000000000 / s.outRate n → exec (.playoutFrame n) s = .next s) ∧
    (en = true → s.outStart n + x.k * 1000000000 / s.outRate n ≤ s.nowNs →
      let prod := s.fget F.AUD_OUT_RING_PROD i 0
      let late : Bool := x.late ||
        decide ((prod + 65536 - s.fget F.AUD_OUT_RING_CONS i 0) % 65536 < (x.k + 1) / 4 - x.k / 4)
      let due (t : State) : Prop := t = { Around s t with audio := { s.audio with outs := t.audio.outs, sent := t.audio.sent } } ∧
        others t
      (∀ d, x.word = some (x.k / 4, some d) → Completes (exec (.playoutFrame n) s) fun t =>
        due t ∧ t.audOut n = { k := x.k + 1, word := x.word, late := late } ∧
        t.audio.sent = s.audio.sent ++ [⟨n, x.k, x.k % 192 == 0, audEntry d (2 * x.k % 8), audEntry d (2 * x.k % 8 + 1), x.low⟩] ∧
        Sets s t [⟨F.AUD_OUT_RING_CONS, i, 0, (x.k + 1) / 4 % 65536⟩] ∧ Posts s t []) ∧
      (x.word = some (x.k / 4, none) → Completes (exec (.playoutFrame n) s) fun t =>
        due t ∧ t.audOut n = { k := x.k + 1, word := x.word, silent := true, late := late } ∧
        t.audio.sent = s.audio.sent ++ [⟨n, x.k, x.k % 192 == 0, audSilence, audSilence, x.low⟩] ∧
        Sets s t [⟨F.AUD_OUT_STAT_UNDER, i, 0, min (s.fget F.AUD_OUT_STAT_UNDER i 0 + 1) 0xFFFFFFFF⟩,
          ⟨F.AUD_OUT_RING_CONS, i, 0, (x.k + 1) / 4 % 65536⟩] ∧
        Posts s t (if x.silent then [] else [⟨Src.audOut n, 0x1204, [.u 1 n, .u 4 (x.k % 2 ^ 32)]⟩])) ∧
      (x.word.map Prod.fst ≠ some (x.k / 4) →
        let log2 := s.fget F.AUD_OUT_CFG_LOG2 i 0
        let ahead := (prod + 65536 - x.k / 4 % 65536) % 65536
        let there := x.late = false ∧ 0 < ahead ∧ ahead ≤ min (2 ^ log2) 65535
        let a := bitsOf (s.pair .AUD_OUT_BASE_LO .AUD_OUT_BASE_HI i 0) 47 5 * 32 + 32 * (x.k / 4 % 2 ^ log2)
        (∀ d v, there → s.memRead (Src.audOut n) a = (.ok d, v) → Completes (exec (.playoutFrame n) s) fun t =>
          t = { Around v t with audio := { s.audio with outs := t.audio.outs, sent := t.audio.sent } } ∧ others t ∧
          t.audOut n = { k := x.k + 1, word := some (x.k / 4, some d), late := late } ∧
          t.audio.sent = s.audio.sent ++ [⟨n, x.k, x.k % 192 == 0, audEntry d (2 * x.k % 8), audEntry d (2 * x.k % 8 + 1), x.low⟩] ∧
          Sets v t [⟨F.AUD_OUT_RING_CONS, i, 0, (x.k + 1) / 4 % 65536⟩]) ∧
        (¬ there → Completes (exec (.playoutFrame n) s) fun t =>
          due t ∧ t.audOut n = { k := x.k + 1, word := some (x.k / 4, none), silent := true, late := late } ∧
          t.audio.sent = s.audio.sent ++ [⟨n, x.k, x.k % 192 == 0, audSilence, audSilence, x.low⟩] ∧
          Sets s t [⟨F.AUD_OUT_STAT_UNDER, i, 0, min (s.fget F.AUD_OUT_STAT_UNDER i 0 + 1) 0xFFFFFFFF⟩,
            ⟨F.AUD_OUT_RING_CONS, i, 0, (x.k + 1) / 4 % 65536⟩] ∧
          Posts s t (if x.silent then [] else [⟨Src.audOut n, 0x1204, [.u 1 n, .u 4 (x.k % 2 ^ 32)]⟩]))))

/-! ### Serial lanes (chapter 14) -/

/-- On R369, R374 to R381: modes, locks, coefficients, sleep and test patterns of the lanes.
The model's readings and choices where the spec leaves it open: log entries 1 and 51. -/
def Obligations.LaneCommands : Prop :=
  ∀ (s : State) (req q l errs : Nat) (val : W32) (up : Bool), q < 16 → l < 4 →
    let mode := bitsOf val 2 0
    let src := bitsOf val 11 8
    let old := s.fget F.LN_CFG_MODE q 0
    let clr : List FieldSet := if val.getLsbD 31 then [⟨F.LN_CFG_DENIED, q, 0, 0⟩] else []
    let put : List FieldSet := [⟨F.LN_CFG_SRC, q, 0, src⟩, ⟨F.LN_CFG_RATE, q, 0, bitsOf val 7 4⟩, ⟨F.LN_CFG_MODE, q, 0, mode⟩]
    let denied (l : List FieldSet) (t : State) : Prop :=
      t = { s with regs := t.regs } ∧ Sets s t (l ++ [⟨F.LN_CFG_DENIED, q, 0, 1⟩])
    let refused := mode ∉ laneModes q ∨ ((mode ≠ old ∨ src ≠ s.fget F.LN_CFG_SRC q 0) ∧ s.quadBusy q = true)
    let locked := s.flag F.LN_LANE_STAT_LOCK q l
    let mirror (p : Nat) : Prop :=
      10 ≤ q ∧ q < 14 ∧ (p = 14 ∨ p = 15) ∧ s.fget F.LN_CFG_MODE p 0 = 5 ∧ s.fget F.LN_CFG_SRC p 0 = q
    let follows (t : State) (from_ k : Nat) : Prop := t.flag F.LN_LANE_STAT_TXUP q k =
      (decide (10 ≤ from_ ∧ from_ < 14) && s.flag F.LN_LANE_STAT_TXUP from_ k && !s.flag F.LN_LANE_CTRL_TX_SLEEP q k)
    (refused → Completes (exec (.laneModeWrite req q val) s) (denied clr)) ∧
    (¬ refused → mode = old → mode ≠ 5 ∨ src = s.fget F.LN_CFG_SRC q 0 → Completes (exec (.laneModeWrite req q val) s) fun t =>
      t = { s with regs := t.regs } ∧ Sets s t (clr ++ put)) ∧
    (¬ refused → mode = old → mode = 5 → src ≠ s.fget F.LN_CFG_SRC q 0 → Completes (exec (.laneModeWrite req q val) s) fun t =>
      t = { s with regs := t.regs, lanes := t.lanes } ∧ OnlyRegs s t [.LN_CFG, .LN_LANE_STAT] ∧ t.fget F.LN_CFG_SRC q 0 = src ∧
      ∀ k, k < 4 → follows t src k) ∧
    (¬ refused → mode ≠ old → Completes (exec (.laneModeWrite req q val) s) fun t =>
      t = { Around s t with prbs := t.prbs, heads := t.heads } ∧ OnlyRegs s t [.LN_CFG, .LN_LANE_STAT] ∧
      (∀ m, t.head m = if 10 ≤ q ∧ q < 14 ∧ m = q - 10 then { s.head m with sends := none } else s.head m) ∧
      t.fget F.LN_CFG_MODE q 0 = mode ∧
      t.fget F.LN_CFG_SRC q 0 = src ∧ t.flag F.LN_CFG_READY q 0 = false ∧
      (∀ k, k < 4 → t.flag F.LN_LANE_STAT_TXUP q k = false ∧ t.flag F.LN_LANE_STAT_RXUP q k = false ∧
        t.flag F.LN_LANE_STAT_LOCK q k = false ∧ Tab.find? (q, k) t.prbs = none) ∧
      (∀ p k, p ≠ q → t.reg .LN_CFG p 0 = s.reg .LN_CFG p 0 ∧ (¬ mirror p → t.reg .LN_LANE_STAT p k = s.reg .LN_LANE_STAT p k) ∧
        Tab.find? (p, k) t.prbs = Tab.find? (p, k) s.prbs) ∧
      Posts s t (((List.range 4).filter fun k => s.flag F.LN_LANE_STAT_LOCK q k).map fun k =>
        ⟨Src.quad q, 0x1300, [.u 1 k, .u 1 0]⟩)) ∧
    (old ≠ 5 → Completes (exec (.laneReady q) s) fun t =>
      t = { s with regs := t.regs } ∧ Sets s t [⟨F.LN_CFG_READY, q, 0, 1⟩]) ∧
    (old = 5 → Completes (exec (.laneReady q) s) fun t =>
      t = { s with regs := t.regs, lanes := t.lanes } ∧ OnlyRegs s t [.LN_CFG, .LN_LANE_STAT] ∧ t.flag F.LN_CFG_READY q 0 = true ∧
      ∀ k, k < 4 → follows t (s.fget F.LN_CFG_SRC q 0) k) ∧
    (old ≠ 2 → exec (.laneLock q l up errs) s = .next s) ∧
    (old = 2 → Completes (exec (.laneLock q l up errs) s) fun t =>
      t = Around s t ∧
      Sets s t ([⟨F.LN_LANE_STAT_ERRS, q, l, min (s.fget F.LN_LANE_STAT_ERRS q l + errs) 0xFFFF⟩] ++
        if locked = up then [] else [⟨F.LN_LANE_STAT_LOCK, q, l, if up then 1 else 0⟩]) ∧
      Posts s t (if locked = up then [] else [⟨Src.quad q, 0x1300, [.u 1 l, .u 1 (if up then 1 else 0)]⟩])) ∧
    (let main := bitsOf val 13 8
     let bad := main < 16 ∨ 63 < bitsOf val 3 0 + main + bitsOf val 21 16 ∨ s.quadPorts q ≠ []
     (bad → Completes (exec (.laneFirWrite req q l val) s) (denied [])) ∧
     (¬ bad → Completes (exec (.laneFirWrite req q l val) s) fun t => t = { s with regs := t.regs } ∧
       Sets s t [⟨F.LN_LANE_FIR_POST, q, l, bitsOf val 21 16⟩, ⟨F.LN_LANE_FIR_MAIN, q, l, main⟩,
         ⟨F.LN_LANE_FIR_PRE, q, l, bitsOf val 3 0⟩])) ∧
    (let refuses := val.getLsbD 16 = true ∧ s.flag F.LN_LANE_CTRL_TX_SLEEP q l = false ∧ 10 ≤ q ∧ q < 14 ∧
       (s.head (q - 10)).st ≠ .off ∧
       l < headLanes (if (s.head (q - 10)).st = .slave then s.head (q - 10 - 1) else s.head (q - 10)).timing
     let pat := bitsOf val 1 0
     let tested := old = 6 ∧ pat ≠ 1
     (refuses → Completes (exec (.laneSleepWrite req q l val) s) (denied [])) ∧
     (¬ refuses → Completes (exec (.laneSleepWrite req q l val) s) fun t =>
       t = { Around s t with prbs := t.prbs, freeCtr := t.freeCtr } ∧
       OnlyRegs s t [.LN_LANE_CTRL, .LN_LANE_STAT, .LN_LANE_EQ] ∧
       t.flag F.LN_LANE_CTRL_TX_SLEEP q l = val.getLsbD 16 ∧ t.flag F.LN_LANE_CTRL_RX_SLEEP q l = val.getLsbD 17 ∧
       t.flag F.LN_LANE_CTRL_FREEZE q l = val.getLsbD 18 ∧
       t.fget F.LN_LANE_CTRL_PAT q l = pat ∧
       t.flag F.LN_LANE_STAT_TXUP q l = (s.flag F.LN_LANE_STAT_TXUP q l && !val.getLsbD 16) ∧
       t.flag F.LN_LANE_STAT_RXUP q l = (s.flag F.LN_LANE_STAT_RXUP q l && !val.getLsbD 17) ∧
       (val.getLsbD 17 = false → val.getLsbD 18 = false → t.freeCtr = s.freeCtr ∧ t.reg .LN_LANE_EQ q l = s.reg .LN_LANE_EQ q l) ∧
       (∀ p k, (p, k) ≠ (q, l) → t.reg .LN_LANE_CTRL p k = s.reg .LN_LANE_CTRL p k ∧
         (¬ (mirror p ∧ k = l) → t.reg .LN_LANE_STAT p k = s.reg .LN_LANE_STAT p k) ∧ t.reg .LN_LANE_EQ p k = s.reg .LN_LANE_EQ p k) ∧
       (¬ tested → t.prbs = s.prbs ∧ t.flag F.LN_LANE_STAT_LOCK q l = locked ∧ Posts s t []) ∧
       (tested → Tab.find? (q, l) t.prbs = none ∧ t.flag F.LN_LANE_STAT_LOCK q l = false ∧
         Posts s t (if locked then [⟨Src.quad q, 0x1300, [.u 1 l, .u 1 0]⟩] else [])))) ∧
    (s.flag F.LN_LANE_CTRL_TX_SLEEP q l = true ∨ s.laneLive q l = false → exec (.laneWakeComplete q l false) s = .next s) ∧
    (s.flag F.LN_LANE_CTRL_TX_SLEEP q l = false → s.laneLive q l = true → Completes (exec (.laneWakeComplete q l false) s) fun t =>
      t = { s with regs := t.regs, lanes := t.lanes } ∧ OnlyRegs s t [.LN_LANE_STAT] ∧ t.flag F.LN_LANE_STAT_TXUP q l = true ∧
      (∀ p k, (p, k) ≠ (q, l) → ¬ (mirror p ∧ k = l) → t.reg .LN_LANE_STAT p k = s.reg .LN_LANE_STAT p k) ∧
      (∀ p, mirror p → t.flag F.LN_LANE_STAT_TXUP p l = !s.flag F.LN_LANE_CTRL_TX_SLEEP p l) ∧
      (s.flag F.LN_LANE_STAT_TXUP q l = true → t.lanes = s.lanes) ∧
      (s.flag F.LN_LANE_STAT_TXUP q l = false → (t.laneTx q l).bits = [] ∧ (t.laneTx q l).run = none) ∧
      ∀ p k, (p, k) ≠ (q, l) → t.laneTx p k = s.laneTx p k) ∧
    (s.flag F.LN_LANE_CTRL_RX_SLEEP q l = true ∨ s.flag F.LN_LANE_STAT_RXUP q l = true → exec (.laneWakeComplete q l true) s = .next s) ∧
    (s.flag F.LN_LANE_CTRL_RX_SLEEP q l = false → s.flag F.LN_LANE_STAT_RXUP q l = false →
      Completes (exec (.laneWakeComplete q l true) s) fun t =>
        t = { s with regs := t.regs, freeCtr := s.freeCtr + 1 } ∧ t.flag F.LN_LANE_STAT_RXUP q l = true ∧
        (∀ r p k, (r, p, k) ≠ (.LN_LANE_EQ, q, l) → (r, p, k) ≠ (.LN_LANE_STAT, q, l) → t.reg r p k = s.reg r p k)) ∧
    (let testing := old = 6 ∧ s.fget F.LN_LANE_CTRL_PAT q l = 1 ∧ s.flag F.LN_LANE_CTRL_RX_SLEEP q l = false
     (∀ bits, ¬ testing → exec (.prbs31CheckerLock q l bits) s = .next s) ∧
     (∀ bits, testing → Tab.find? (q, l) s.prbs = none → bits.length < 31 → exec (.prbs31CheckerLock q l bits) s = .next s) ∧
     (∀ bits, testing → Tab.find? (q, l) s.prbs = none → 31 ≤ bits.length →
       Completes (exec (.prbs31CheckerLock q l bits) s) fun t =>
         t = { Around s t with prbs := t.prbs } ∧
         (∃ seed : BitVec 31, (∀ i, i < 31 → bits[i]? = some (seed.getLsbD (30 - i))) ∧
           Tab.find? (q, l) t.prbs = some ((bits.drop 31).foldl prbsBit (seed, 0)).1 ∧
           t.fget F.LN_LANE_STAT_ERRS q l =
             min (s.fget F.LN_LANE_STAT_ERRS q l + ((bits.drop 31).foldl prbsBit (seed, 0)).2) 0xFFFF) ∧
         (∀ p, p ≠ (q, l) → Tab.find? p t.prbs = Tab.find? p s.prbs) ∧
         Sets s t ((if locked then [] else [⟨F.LN_LANE_STAT_LOCK, q, l, 1⟩]) ++
           [⟨F.LN_LANE_STAT_ERRS, q, l, t.fget F.LN_LANE_STAT_ERRS q l⟩]) ∧
         Posts s t (if locked then [] else [⟨Src.quad q, 0x1300, [.u 1 l, .u 1 1]⟩])) ∧
     (∀ (r : BitVec 31) bits, testing → Tab.find? (q, l) s.prbs = some r →
       Completes (exec (.prbs31CheckerLock q l bits) s) fun t =>
         t = { s with regs := t.regs, prbs := t.prbs } ∧
         Tab.find? (q, l) t.prbs = some (bits.foldl prbsBit (r, 0)).1 ∧
         (∀ p, p ≠ (q, l) → Tab.find? p t.prbs = Tab.find? p s.prbs) ∧
         Sets s t [⟨F.LN_LANE_STAT_ERRS, q, l,
           min (s.fget F.LN_LANE_STAT_ERRS q l + (bits.foldl prbsBit (r, 0)).2) 0xFFFF⟩]) ∧
     (∀ (r : BitVec 31) b, testing → Tab.find? (q, l) s.prbs = some r → Completes (exec (.prbs31CheckerLock q l [b]) s) fun t =>
       let k := r.getLsbD 30 != r.getLsbD 27
       t = { s with regs := t.regs, prbs := t.prbs } ∧
       Tab.find? (q, l) t.prbs = some ((r.extractLsb' 0 30 ++ BitVec.ofBool k).cast (by decide)) ∧
       (∀ p, p ≠ (q, l) → Tab.find? p t.prbs = Tab.find? p s.prbs) ∧
       Sets s t [⟨F.LN_LANE_STAT_ERRS, q, l, min (s.fget F.LN_LANE_STAT_ERRS q l + if b = k then 0 else 1) 0xFFFF⟩]))

/-- On R382 to R385: SDI capture: commands, locks, received frames, their bands, repeats.
The model's reading or choice where the spec leaves it open: log entry 52. -/
def Obligations.SdiCapture : Prop :=
  ∀ (s : State) (req q l errs : Nat) (val : W32), q = 14 ∨ q = 15 → l < 4 →
    let x := s.sdiCap q l
    let d := x.desc
    let mode := s.fget F.LN_CFG_MODE q 0
    let locked := s.flag F.LN_LANE_STAT_LOCK q l
    let on := s.fget F.LN_SDI_STAT_EN q 0
    let rep := s.fget F.LN_SDI_STAT_REPEAT q 0
    let bit (v : Nat) : Nat := v / 2 ^ l % 2 * 2 ^ l
    let others (t : State) : Prop := ∀ k, k ≠ (q, l) → Tab.getD t.sdi k {} = Tab.getD s.sdi k {}
    let lock (up : Bool) (t : State) : Prop :=
      Sets s t ([⟨F.LN_LANE_STAT_ERRS, q, l, min (s.fget F.LN_LANE_STAT_ERRS q l + errs) 0xFFFF⟩] ++
        if locked = up then [] else [⟨F.LN_LANE_STAT_LOCK, q, l, if up then 1 else 0⟩]) ∧
      Posts s t (if locked = up then [] else [⟨Src.quad q, 0x1300, [.u 1 l, .u 1 (if up then 1 else 0)]⟩])
    let refused (v : State) (st : Nat) (t : State) : Prop :=
      t = Around v t ∧ Sets v t [⟨F.LN_SDI_STAT_STATUS, q, 0, st⟩, ⟨F.LN_SDI_STAT_REFUSED, q, 0, 1⟩] ∧
      Posts v t [⟨Src.quad q, 0x1303, [.u 1 l, .u 1 st]⟩]
    let runs := mode = 4 ∧ locked = true ∧ x.on = true
    let token (x : SdiCap) (b buf : Nat) (again : Bool) : Msg := ⟨Src.quad q, sdToken d, BitVec.ofNat 64
      (x.f % 2 ^ 32 + b * 2 ^ 32 + 2 ^ 44 + (if b + 1 = sdBands d then 2 ^ 45 else 0) + buf * 2 ^ 46) |||
      (if again then 0x10000000000000#64 else 0)⟩
    (bitsOf val 5 4 = l → bitsOf val 1 0 = 1 →
      (x.on = true → Completes (exec (.sdiCaptureEnable req q val) s) (refused s 4)) ∧
      (∀ b v, x.on = false →
        s.readRange (Src.quad q) (bitsOf (s.pair .LN_SDI_ADDR_LO .LN_SDI_ADDR_HI q 0) 47 5 * 32) 32 = (.ok b, v) →
        (sdiDescOk l (bytesBv 256 b) = false → Completes (exec (.sdiCaptureEnable req q val) s) (refused v 2)) ∧
        (sdiDescOk l (bytesBv 256 b) = true → Completes (exec (.sdiCaptureEnable req q val) s) fun t =>
          t = { v with sdi := t.sdi, regs := t.regs } ∧ others t ∧ t.sdiCap q l = { on := true, desc := bytesBv 256 b } ∧
          Sets v t [⟨F.LN_SDI_STAT_EN, q, 0, on - bit on + 2 ^ l⟩, ⟨F.LN_SDI_STAT_STATUS, q, 0, 0⟩])) ∧
      (∀ r v, x.on = false →
        s.readRange (Src.quad q) (bitsOf (s.pair .LN_SDI_ADDR_LO .LN_SDI_ADDR_HI q 0) 47 5 * 32) 32 = (r, v) →
        (∀ b, r ≠ .ok b) → Completes (exec (.sdiCaptureEnable req q val) s) (refused v 9))) ∧
    (bitsOf val 1 0 ≠ 1 → exec (.sdiCaptureEnable req q val) s = .next s) ∧
    (bitsOf val 1 0 ≠ 2 → exec (.sdiCaptureDisable req q val) s = .next s) ∧
    (mode ≠ 4 → exec (.sdiLockAcquired q l errs) s = .next s ∧ exec (.sdiLockLoss q l errs) s = .next s) ∧
    (¬ runs → ∀ samples, exec (.sdiBandClose q l samples) s = .next s) ∧
    (bitsOf val 5 4 = l → bitsOf val 1 0 = 2 →
      (x.on = false → Completes (exec (.sdiCaptureDisable req q val) s) (refused s 4)) ∧
      (x.on = true → Completes (exec (.sdiCaptureDisable req q val) s) fun t =>
        t = { s with sdi := t.sdi, regs := t.regs } ∧ others t ∧ t.sdiCap q l = {} ∧
        Sets s t [⟨F.LN_SDI_STAT_EN, q, 0, on - bit on⟩, ⟨F.LN_SDI_STAT_REPEAT, q, 0, rep - bit rep⟩,
          ⟨F.LN_SDI_STAT_STATUS, q, 0, 0⟩])) ∧
    (mode = 4 → s.flag F.LN_LANE_CTRL_RX_SLEEP q l = false → Completes (exec (.sdiLockAcquired q l errs) s) fun t =>
      t = Around s t ∧ lock true t) ∧
    (mode = 4 → locked = true → Completes (exec (.sdiLockLoss q l errs) s) fun t =>
      t = { Around s t with sdi := t.sdi } ∧ others t ∧ lock false t ∧
      t.sdiCap q l = if x.on then { x with inFrame := false, lost := true } else x) ∧
    (∀ w h : Nat, (¬ runs → exec (.sdiFrameStart q l w h) s = .next s) ∧
      (runs → (w, h) = (sdW d, sdH d) → Completes (exec (.sdiFrameStart q l w h) s) fun t =>
        t = { s with sdi := t.sdi, regs := t.regs } ∧ others t ∧ Sets s t [⟨F.LN_SDI_STAT_REPEAT, q, 0, rep - bit rep⟩] ∧
        t.sdiCap q l = { x with
          f := (x.f + 1) % 2 ^ 32, buf := some x.nextBuf, inFrame := true, lost := false, start := s.now, sigs := []
          t := some s.nowNs, lastStart := some s.nowNs, period := x.lastStart.map fun p => s.nowNs - p }) ∧
      (runs → (w, h) ≠ (sdW d, sdH d) → Completes (exec (.sdiFrameStart q l w h) s) fun t =>
        t = { Around s t with sdi := t.sdi } ∧ others t ∧ t.sdiCap q l = { x with inFrame := false, lost := true } ∧
        Sets s t [] ∧ Posts s t [⟨Src.quad q, 0x1302, [.u 1 l, .u 2 w, .u 2 h]⟩])) ∧
    (∀ (samples : List (BitVec 10)) buf, runs → x.inFrame = true → x.buf = some buf → x.sigs.length < sdBands d →
      (samples.length ≠ 2 * sdW d * sdBandLines d x.sigs.length → exec (.sdiBandClose q l samples) s = .next s) ∧
      (samples.length = 2 * sdW d * sdBandLines d x.sigs.length → s.twinHolds = false →
        Completes (exec (.sdiBandClose q l samples) s) fun t =>
          t = { Around s t with sdi := t.sdi, mem := t.mem, tally := t.tally, freeCtr := t.freeCtr } ∧ others t ∧
          OnlyRegs s t [] ∧ Sends s t [token x x.sigs.length buf false] ∧
          ∃ c, t.sdiCap q l = { x with
            sigs := x.sigs ++ [c]
            complete := if x.sigs.length + 1 = sdBands d then some (buf, x.sigs ++ [c]) else x.complete }) ∧
      (samples.length = 2 * sdW d * sdBandLines d x.sigs.length → s.twinHolds = true →
        Completes (exec (.sdiBandClose q l samples) s) fun t =>
          t = { Around s t with sdi := t.sdi, mem := t.mem, tally := t.tally, freeCtr := t.freeCtr, twin := t.twin, lanes := t.lanes } ∧
          others t ∧ OnlyRegs s t [] ∧ (t.sdiCap q l).sigs.length = x.sigs.length + 1)) ∧
    (∀ samples, runs → x.inFrame = false ∨ x.buf = none ∨ sdBands d ≤ x.sigs.length →
      exec (.sdiBandClose q l samples) s = .next s) ∧
    (s.flag F.LN_LANE_CTRL_RX_SLEEP q l = true → exec (.sdiLockAcquired q l errs) s = .next s) ∧
    (locked = false → exec (.sdiLockLoss q l errs) s = .next s) ∧
    (x.complete = none ∨ x.t = none ∨ x.period = none ∨ x.on = false ∨ x.lost = false → exec (.sdiRepeat q l) s = .next s) ∧
    (∀ buf sigs p at_, x.complete = some (buf, sigs) → x.t = some at_ → x.period = some p →
      (s.nowNs < at_ + p → exec (.sdiRepeat q l) s = .next s) ∧
      (x.on = true → x.lost = true → at_ + p ≤ s.nowNs → s.twinHolds = false → Completes (exec (.sdiRepeat q l) s) fun t =>
        let f := (x.f + 1) % 2 ^ 32
        t = { Around s t with sdi := t.sdi, tally := t.tally } ∧ others t ∧
        Sends s t ((List.range sigs.length).map fun b => token { x with f := f } b buf true) ∧
        Sets s t [⟨F.LN_SDI_STAT_REPEAT, q, 0, rep - bit rep + 2 ^ l⟩] ∧
        Posts s t [⟨Src.quad q, 0x1301, [.u 1 l, .u 4 f, .u 1 buf]⟩] ∧
        t.sdiCap q l = { x with
          f := f, t := some (at_ + p), start := packTime (BitVec.ofNat 64 ((at_ + p) / 1000000000)) ((at_ + p) % 1000000000) }) ∧
      (x.on = true → x.lost = true → at_ + p ≤ s.nowNs → s.twinHolds = true → Completes (exec (.sdiRepeat q l) s) fun t =>
        let f := (x.f + 1) % 2 ^ 32
        t = { Around s t with sdi := t.sdi, tally := t.tally, twin := t.twin, lanes := t.lanes } ∧ others t ∧
        Sets s t [⟨F.LN_SDI_STAT_REPEAT, q, 0, rep - bit rep + 2 ^ l⟩] ∧
        Posts s t [⟨Src.quad q, 0x1301, [.u 1 l, .u 4 f, .u 1 buf]⟩] ∧ (t.sdiCap q l).f = f))

/-! ### Check-value units (chapter 15) and counters (chapter 18) -/

/-- On R396 to R400: enable and disable of a check-value unit, the start of a block, and the four ways in which one ends.
The model's reading or choice where the spec leaves it open: log entry 53. -/
def Obligations.CheckValueUnits : Prop :=
  ∀ (s : State) (req n : Nat) (val : W32), n < 32 →
    let x := s.chkUnit n
    let en := s.flag F.CHK_CFG_EN n 0
    let inst := s.fget F.CHK_INST_INST n 0
    let refused := s.chkInstOk (bitsOf val 31 28) inst = false ∨ bitsOf val 23 22 = 3 ∨
      (bitsOf val 23 22 = 2 ∧ s.fget F.CHK_TBL_LO_TBL n 0 % 8 ≠ 0)
    let fields : List FieldSet := [⟨F.CHK_CFG_POINT, n, 0, bitsOf val 31 28⟩, ⟨F.CHK_CFG_CMP, n, 0, bitsOf val 23 22⟩,
      ⟨F.CHK_CFG_FOLD, n, 0, bitsOf val 21 20⟩, ⟨F.CHK_CFG_POLY, n, 0, bitsOf val 19 18⟩, ⟨F.CHK_CFG_LOG2, n, 0, bitsOf val 12 8⟩]
    let others (t : State) : Prop := ∀ m, m ≠ n → t.chkUnit m = s.chkUnit m
    let alive := leBytes 4 ((s.fget F.CHK_ALIVE_ALIVE n 0 + x.b) % 2 ^ 32)
    let phase := s.fget F.CHK_PHASE_PHASE 0 0
    let sort := s.fget F.CHK_CFG_FOLD n 0
    let fold (blk : ChkBlock) : List Byte :=
      if sort = 0 then [] else if sort = 1 ∨ (sort = 3 ∧ phase = 1) then alive else leBytes 8 blk.ident.toNat
    (val.getLsbD 0 = true →
      (en = true → exec (.chkEnable req n val) s = .next s) ∧
      (en = false → refused → Completes (exec (.chkEnable req n val) s) fun t =>
        t = { s with regs := t.regs } ∧ Sets s t [⟨F.CHK_STAT_BAD, n, 0, 1⟩]) ∧
      (en = false → ¬ refused → Completes (exec (.chkEnable req n val) s) fun t =>
        t = { s with regs := t.regs, chk := t.chk } ∧ others t ∧
        t.chkUnit n = { skip := s.chkInBlock (bitsOf val 31 28) inst } ∧
        Sets s t (fields ++ [⟨F.CHK_CFG_EN, n, 0, 1⟩, ⟨F.CHK_STAT_MISCNT, n, 0, 0⟩, ⟨F.CHK_BLOCKS_BLOCKS, n, 0, 0⟩]))) ∧
    (val.getLsbD 0 = false →
      (en = false → Completes (exec (.chkDisable req n val) s) fun t => t = { s with regs := t.regs } ∧ Sets s t fields) ∧
      (en = true → Completes (exec (.chkDisable req n val) s) fun t =>
        t = { s with regs := t.regs, chk := t.chk } ∧ others t ∧ t.chkUnit n = {} ∧ Sets s t [⟨F.CHK_CFG_EN, n, 0, 0⟩])) ∧
    (x.feed = [] ∨ x.cur ≠ none → exec (.chkBlockStart n) s = .next s) ∧
    (∀ blk rest, x.feed = blk :: rest → x.cur = none →
      let starts (v : State) (e : ChkExpect) (t : State) : Prop :=
        t = { v with chk := t.chk } ∧ others t ∧ t.chkUnit n = { x with feed := rest, cur := some (blk, fold blk, e) }
      let cmp := s.fget F.CHK_CFG_CMP n 0
      let entry := bitsOf (s.pair .CHK_TBL_LO .CHK_TBL_HI n 0) 47 0 + 8 * (x.b % 2 ^ min 16 (s.fget F.CHK_CFG_LOG2 n 0))
      (cmp = 0 → Completes (exec (.chkBlockStart n) s) (starts s .none)) ∧
      (cmp = 1 → Completes (exec (.chkBlockStart n) s) (starts s (.value (s.pair .CHK_EXP_LO .CHK_EXP_HI n 0)))) ∧
      (∀ b v, cmp = 2 → s.readRange (Src.chk n) entry 8 = (.ok b, v) →
        Completes (exec (.chkBlockStart n) s) (starts v (.value (BitVec.ofNat 64 (leNat b))))) ∧
      (∀ a v, cmp = 2 → s.readRange (Src.chk n) entry 8 = (.poison a, v) ∨ s.readRange (Src.chk n) entry 8 = (.addrErr a, v) →
        Completes (exec (.chkBlockStart n) s) (starts v (.poisoned entry)))) ∧
    (x.cur = none → exec (.chkBlockEnd n) s = .next s) ∧
    (∀ blk pre e, x.cur = some (blk, pre, e) →
      let poly := s.fget F.CHK_CFG_POLY n 0
      let c := crcSel poly (pre ++ blk.bytes)
      let bits := if poly = 2 then 16 else if poly = 3 then 64 else 32
      let ends (t : State) : Prop :=
        t = { Around s t with chk := t.chk } ∧ others t ∧ t.chkUnit n = { x with cur := none, b := (x.b + 1) % 2 ^ 32 }
      let counts : List FieldSet := [⟨F.CHK_LAST_LO_CRC, n, 0, c.toNat % 2 ^ 32⟩, ⟨F.CHK_LAST_HI_CRC, n, 0, c.toNat / 2 ^ 32⟩,
        ⟨F.CHK_BLOCKS_BLOCKS, n, 0, s.fget F.CHK_BLOCKS_BLOCKS n 0 + 1⟩]
      (blk.incomplete = true → Completes (exec (.chkBlockEnd n) s) fun t => ends t ∧
        Sets s t [⟨F.CHK_STAT_INCOMP, n, 0, 1⟩] ∧ Posts s t [⟨Src.chk n, 0x1401, [.u 1 n, .u 4 x.b]⟩]) ∧
      (∀ a, blk.incomplete = false → e = .poisoned a → Completes (exec (.chkBlockEnd n) s) fun t => ends t ∧
        Sets s t [⟨F.CHK_STAT_TPOISON, n, 0, 1⟩] ∧ Posts s t [⟨Src.chk n, 0x1402, [.u 1 n, .u 4 x.b, .u 6 a]⟩]) ∧
      (blk.incomplete = false → e = .none ∨ (∃ w : W64, e = .value w ∧ c.toNat = w.toNat % 2 ^ bits) →
        Completes (exec (.chkBlockEnd n) s) fun t => ends t ∧ Sets s t counts ∧ Posts s t []) ∧
      (∀ w : W64, blk.incomplete = false → e = .value w → c.toNat ≠ w.toNat % 2 ^ bits →
        Completes (exec (.chkBlockEnd n) s) fun t => ends t ∧
          Sets s t (counts ++
            (if s.flag F.CHK_STAT_MISMATCH n 0 then [] else [⟨F.CHK_MISBLK_BLOCK, n, 0, x.b % 2 ^ 32⟩]) ++
            [⟨F.CHK_STAT_MISMATCH, n, 0, 1⟩, ⟨F.CHK_STAT_MISCNT, n, 0, min (s.fget F.CHK_STAT_MISCNT n 0 + 1) 0xFFFF⟩]) ∧
          Posts s t [⟨Src.chk n, 0x1400, [.u 1 n, .u 4 x.b, .u 8 c.toNat]⟩]))

/-- On R452 to R460: a counter takes what it counts, wraps are posted, snapshots are written or skipped, instructions are tagged.
The model's reading or choice where the spec leaves it open: log entry 54. -/
def Obligations.PerformanceCounters : Prop :=
  ∀ (s : State) (req set i rk : Nat) (val : W32), rk < 104 →
    let c := s.counter set i
    let tlog := s.fget F.PMU_TAG_TLOG rk 0
    let otherTags (t : State) : Prop := ∀ m, m ≠ rk → Tab.find? m t.tags = Tab.find? m s.tags
    (∀ ev insts n pc, Tab.find? (set, i) s.pmu = some c → s.flag F.PMU_CTRL_FREEZE 255 0 = false →
      let takes := c.en = true ∧ c.event = ev ∧ pmuTakes set ev c.inst insts = true
      (takes → (s.pmuAdd set ev insts n pc).counter set i = { c with
        count := (c.count + n) % 2 ^ 48, ovf := c.ovf || decide (2 ^ 48 ≤ c.count + n)
        wraps := if 2 ^ 48 ≤ c.count + n ∧ c.int = true then c.wraps ++ [pc] else c.wraps }) ∧
      (¬ takes → (s.pmuAdd set ev insts n pc).counter set i = c)) ∧
    (∀ ev insts n pc, s.flag F.PMU_CTRL_FREEZE 255 0 = true → s.pmuAdd set ev insts n pc = s) ∧
    (c.wraps = [] → exec (.counterOverflow set i) s = .next s) ∧
    (∀ pc rest, c.wraps = pc :: rest → Completes (exec (.counterOverflow set i) s) fun t =>
      t = Around s t ∧ Sets s t [] ∧
      Posts s t [⟨Src.pmu, 0x1600, [.u 1 set, .u 1 i, .u 4 (c.count % 2 ^ 32), .u 2 (if set < 128 then pc else 0)]⟩] ∧
      (set ≠ 255 → t.counter set i = { c with wraps := rest })) ∧
    (s.fget F.PMU_DUMP_CFG_PERIOD 255 0 = 0 → ∀ busy, exec (.pmuSnapshot busy) s = .next s) ∧
    (s.fget F.PMU_DUMP_CFG_PERIOD 255 0 ≠ 0 →
      (Completes (exec (.pmuSnapshot true) s) fun t =>
        t = { Around s t with snaps := s.snaps + 1 } ∧
        Sets s t [⟨F.PMU_DUMP_CNT_SKIPPED, 255, 0, min (s.fget F.PMU_DUMP_CNT_SKIPPED 255 0 + 1) 0xFFFF⟩] ∧
        Posts s t [⟨Src.pmu, 0x1601, [.u 4 (s.snaps % 2 ^ 32)]⟩]) ∧
      Completes (exec (.pmuSnapshot false) s) fun t =>
        let a := bitsOf (s.pair .PMU_DUMP_BASE_LO .PMU_DUMP_BASE_HI 255 0) 47 5 * 32 +
          9792 * (s.snaps % 2 ^ min 8 (s.fget F.PMU_DUMP_CFG_LOG2 255 0))
        t = { Around s t with snaps := s.snaps + 1, mem := t.mem } ∧ OnlyRegs s t [.PMU_DUMP_CNT] ∧ MemOut s t a 9792 ∧
        t.fget F.PMU_DUMP_CNT_DONE 255 0 = (s.fget F.PMU_DUMP_CNT_DONE 255 0 + 1) % 65536) ∧
    (let lg := bitsOf val 28 24
     let lg' := if 8 ≤ lg ∧ lg ≤ 24 then lg else tlog
     Completes (exec (.tagEnable req rk val) s) fun t =>
       t = { s with regs := t.regs, tags := t.tags } ∧ otherTags t ∧
       Sets s t [⟨F.PMU_TAG_TLOG, rk, 0, lg'⟩, ⟨F.PMU_TAG_EN, rk, 0, bitsOf val 31 31⟩] ∧
       Tab.find? rk t.tags = if val.getLsbD 31 = false then none
         else if s.flag F.PMU_TAG_EN rk 0 then Tab.find? rk s.tags
         else some { lfsr := BitVec.ofNat 24 (rk + 1), left := 2 ^ (lg' - 1) + (rk + 1) % 2 ^ lg' }) ∧
    (∀ full, (Tab.find? rk s.tags).bind TagUnit.cur = none → exec (.tagRecord rk full) s = .next s) ∧
    (∀ u d, Tab.find? rk s.tags = some u → u.cur = some d →
      let next (t : State) : Prop := otherTags t ∧
        Tab.find? rk t.tags = some { u with cur := none, left := 2 ^ (tlog - 1) + u.lfsr.toNat % 2 ^ tlog }
      (∀ full, (s.rake rk).devLoad ≠ none → (s.rake rk).pc = d.1 → exec (.tagRecord rk full) s = .next s) ∧
      ((s.rake rk).devLoad = none ∨ (s.rake rk).pc ≠ d.1 →
        (Completes (exec (.tagRecord rk true) s) fun t => t = Around s t ∧ next t ∧
          let lost := min (s.fget F.PMU_TAG_CNT_LOST 255 0 + 1) 0xFFFF
          Sets s t [⟨F.PMU_TAG_CNT_LOST, 255, 0, lost⟩] ∧ Posts s t [⟨Src.pmu, 0x1602, [.u 1 rk, .u 2 lost]⟩]) ∧
        Completes (exec (.tagRecord rk false) s) fun t =>
          let a := bitsOf (s.pair .PMU_TAG_BASE_LO .PMU_TAG_BASE_HI 255 0) 47 5 * 32 +
            32 * (s.tagged % 2 ^ min 20 (s.fget F.PMU_TAG_RING_LOG2 255 0))
          t = { Around s t with tagged := s.tagged + 1, mem := t.mem, freeCtr := s.freeCtr + 1 } ∧ next t ∧
          OnlyRegs s t [.PMU_TAG_CNT] ∧ MemOut s t a 32 ∧
          t.fget F.PMU_TAG_CNT_WRITTEN 255 0 = (s.fget F.PMU_TAG_CNT_WRITTEN 255 0 + 1) % 65536))

/-! ### Twin unit (chapter 16) -/

/-- On R404 to R412, R419 to R423, R428, R429: enable, heartbeats, roles, the link, takeover, planned switch and watchdog; and what
becomes of a message that arrives damaged, that is a copy, or that is another row's.
The model's readings and choices where the spec leaves it open: log entries 40, 41, 43, 73 and 78. -/
def Obligations.TwinRoles : Prop :=
  ∀ (s : State) (req ns : Nat) (val : W32) (words : List W64),
    let x := s.twin
    let code := x.st.code
    let ctrl : List FieldSet := [⟨F.TWN_CTRL_AUTO, 0, 0, bitsOf val 1 1⟩, ⟨F.TWN_CTRL_EN, 0, 0, bitsOf val 0 0⟩]
    let clear : List FieldSet := [⟨F.TWN_SYNC_LO_SYNC, 0, 0, 0⟩, ⟨F.TWN_SYNC_HI_SYNC, 0, 0, 0⟩]
    let changed (st cause : Nat) : List Ev := [⟨Src.twin, 0x1500, [.u 1 code, .u 1 st, .u 1 cause]⟩]
    let link (up : Nat) : Ev := ⟨Src.twin, 0x1503, [.u 1 up]⟩
    let keeps (y : Twin) (t : State) : Prop := t = { s with twin := y }
    let only (y : Twin) (l : List FieldSet) (e : List Ev) (t : State) : Prop :=
      t = { Around s t with twin := t.twin, lanes := t.lanes } ∧ t.twin = { y with fi := t.twin.fi } ∧ ControlLanes s t ∧
      Sets s t l ∧ Posts s t e
    let freed (y : Twin) (t : State) : Prop :=
      t.twin = { y with bands := bandsAfter s (freedBands s), peerBands := [], fi := t.twin.fi } ∧
      Sends s t (tokensAfter (freedBands s))
    let enters := TwinEnters s
    let takes (y : Twin) (cause : Nat) : State → Prop := TwinTakes s y cause [] []
    (∀ m ∈ [(Instr.heartbeat words, 0x01), (.inSig words, 0x02), (.outSig words, 0x03), (.repairReq words, 0x04),
        (.repairData words, 0x05), (.repairNak words, 0x06), (.syncOpen words, 0x07), (.syncState words, 0x08),
        (.syncSeg words, 0x09), (.syncCommit words, 0x0A), (.syncAbort words, 0x0B), (.roleTake words, 0x0C),
        (.roleYield words, 0x0C), (.switchReq words, 0x0C), (.switchAck words, 0x0C)],
      (x.st = .solo → exec m.1 s = .next s) ∧
      (x.st ≠ .solo → twinParse words = none → Completes (exec m.1 s) fun t => t = { s with regs := t.regs } ∧
        Sets s t [⟨F.TWN_ERR_CRCERR, 0, 0, min (s.fget F.TWN_ERR_CRCERR 0 0 + 1) 0xFFFF⟩]) ∧
      (∀ type seq pl, twinParse words = some (type, seq, pl) → type ≠ m.2 → exec m.1 s = .next s) ∧
      (∀ seq pl y, twinParse words = some (m.2, seq, pl) → twinIsBulk m.2 = false → x.seen = some y →
        (seq - y).toNat = 0 ∨ 2 ^ 31 ≤ (seq - y).toNat → exec m.1 s = .next s)) ∧
    (val.getLsbD 0 = true → exec (.twinDisable req val) s = .next s ∧
      (s.flag F.TWN_CTRL_EN 0 0 = true → Completes (exec (.twinEnable req val) s) fun t =>
        t = { s with regs := t.regs } ∧ Sets s t ctrl) ∧
      (s.flag F.TWN_CTRL_EN 0 0 = false →
        (s.sluiceReady = false → Completes (exec (.twinEnable req val) s) fun t =>
          t = { s with regs := t.regs } ∧ Sets s t [⟨F.TWN_STAT_DENIED, 0, 0, 1⟩]) ∧
        (∀ u, s.sluiceReady = true → s.submit ⟨Src.twin, .twin, [(52, 2000), (53, 2000)]⟩ = (false, u) →
          Completes (exec (.twinEnable req val) s) fun t =>
            t = { u with regs := t.regs } ∧ Sets u t [⟨F.TWN_STAT_DENIED, 0, 0, 1⟩]) ∧
        (∀ u, s.sluiceReady = true → x.st ≠ .pairing → s.submit ⟨Src.twin, .twin, [(52, 2000), (53, 2000)]⟩ = (true, u) →
          Completes (exec (.twinEnable req val) s) fun t =>
            t = { Around u t with twin := t.twin, ledger := t.ledger, pgms := t.pgms, tally := t.tally } ∧
            t.pgms = (unmarked s).pgms ∧
            t.twin = { roleTwin { x with peer := none, current := false, peerActive := false, seen := none } .pairing with
              trans := none, bands := bandsAfter s (freedBands s), fi := t.twin.fi } ∧
            Sends s t (tokensAfter (freedBands s)) ∧
            Sets u t (ctrl ++ [⟨F.TWN_ERR_MISMATCH, 0, 0, 0⟩]) ∧ (t.ledger.holding .twin).next = none))) ∧
    (val.getLsbD 0 = false → exec (.twinEnable req val) s = .next s ∧
      (x.st = .solo → Completes (exec (.twinDisable req val) s) fun t => t = { s with regs := t.regs } ∧ Sets s t ctrl) ∧
      (x.st ≠ .solo → Completes (exec (.twinDisable req val) s) fun t =>
        t = { Around s t with twin := t.twin, ledger := t.ledger, pgms := t.pgms, tally := t.tally } ∧ Sets s t ctrl ∧
        t.pgms = (unmarked s).pgms ∧ freed { roleTwin x .solo with
          link := false, current := false, peerActive := false, peer := none, seen := none, trans := none } t ∧
        t.ledger.holding .twin = {} ∧ (∀ h, h ≠ .twin → t.ledger.holding h = s.ledger.holding h) ∧
        Posts s t (syncEnds s ++ changed 0 8 ++ if x.link then [link 0] else []))) ∧
    (x.st = .solo ∨ x.silent = true → exec .heartbeatSend s = .next s) ∧
    (x.st ≠ .solo → x.silent = false → Completes (exec .heartbeatSend s) fun t =>
      t = { s with lanes := t.lanes, twin := { x with
        ctlSeq := x.ctlSeq + 1, beats := x.beats + 1
        out := x.out ++ [.msg false (twinMessage 0x01 x.ctlSeq [BitVec.ofNat 64 (x.beats.toNat + code * 2 ^ 32 +
          (if s.primary then 2 ^ 35 else 0) + (if s.warmReady then 2 ^ 36 else 0)), Config.uid, s.twinSync]),
          .pulse (x.st == .active)] } } ∧ ControlLanes s t) ∧
    (∀ seq pl, Hears s 0x01 words seq pl →
      let w := pl.getD 0 0
      let p : Peer := { count := w.extractLsb' 0 32, st := bitsOf w 34 32, primary := w.getLsbD 35, warm := w.getLsbD 36,
                        uid := pl.getD 1 0, sync := pl.getD 2 0 }
      let y : Twin := { x with seen := some seq, peer := some p, current := true, peerActive := p.st == 2 }
      let hears := exec (.heartbeat words) s
      let drops : Bool := match x.peer with
        | some q => q.st != p.st
        | none => false
      let stays (t : State) : Prop :=
        t = { Around s t with twin := t.twin, pgms := t.pgms } ∧ t.pgms = (if drops then unmarked s else s).pgms ∧
        t.twin = { y with trans := if drops then none else x.trans, fi := t.twin.fi } ∧ Sets s t [] ∧
        Posts s t (if drops then syncEnds s else [])
      (x.link = false ∨ x.st = .standby ∨ x.st = .isolated → Completes hears stays) ∧
      (x.link = true → x.st = .pairing →
        (p.st = 2 → Completes hears (enters y .standby [] [] (changed 3 0))) ∧
        (p.st = 1 ∨ p.st = 3 → s.wins p = true → Completes hears (enters y .active [] [] (changed 2 0))) ∧
        (p.st = 1 ∨ p.st = 3 → s.wins p = false → Completes hears (enters y .standby [] [] (changed 3 0))) ∧
        (p.st ∉ [1, 2, 3] → Completes hears stays)) ∧
      (x.link = true → x.st = .active →
        (p.st ≠ 2 ∨ s.wins p = true → Completes hears stays) ∧
        (p.st = 2 → s.wins p = false → Completes hears (enters y .standby clear []
          (changed 3 5 ++ [⟨Src.twin, 0x1506, [.u 8 p.uid.toNat]⟩]))))) ∧
    (x.st = .solo ∨ ns < 1000 ∨ 10000 < ns → exec (.hbPulse ns) s = .next s) ∧
    (x.st ≠ .solo → 1000 ≤ ns → ns ≤ 10000 →
      let y : Twin := { x with current := true, peerActive := decide (ns < 4000) }
      (4000 ≤ ns ∨ x.st = .standby ∨ x.st = .isolated → Completes (exec (.hbPulse ns) s) (keeps y)) ∧
      (ns < 4000 → x.st = .pairing → Completes (exec (.hbPulse ns) s) (enters y .standby [] [] (changed 3 0))) ∧
      (ns < 4000 → x.st = .active → Completes (exec (.hbPulse ns) s) (enters y .standby clear [] (changed 3 4 ++
        match x.peer with
        | some p => if s.wins p then [] else [⟨Src.twin, 0x1506, [.u 8 p.uid.toNat]⟩]
        | none => [])))) ∧
    (x.st = .solo ∨ x.current = false → exec .heartbeatLost s = .next s) ∧
    (x.current = true → x.st = .standby ∨ x.st = .isolated → x.peerActive = true →
      Completes (exec .heartbeatLost s) (takes { x with current := false } 1)) ∧
    (x.current = true → x.st ≠ .solo → (x.st ≠ .standby ∧ x.st ≠ .isolated) ∨ x.peerActive = false →
      Completes (exec .heartbeatLost s) fun t =>
        t = { s with twin := t.twin, tally := t.tally } ∧ freed { x with current := false } t) ∧
    (x.st = .pairing → x.current = false → Completes (exec .pairingTimeout s) (enters x .active [] [] (changed 2 0))) ∧
    (x.st ≠ .pairing ∨ x.current = true → exec .pairingTimeout s = .next s) ∧
    (∀ p, x.peer = some p → x.st = .standby → x.current = true → x.link = true → p.st = 3 → s.wins p = true →
      Completes (exec .standbyContention s) (takes x 5)) ∧
    (x.st ≠ .standby ∨ x.current = false ∨ x.link = false ∨ (∀ p, x.peer = some p → p.st ≠ 3 ∨ s.wins p = false) →
      exec .standbyContention s = .next s) ∧
    (x.st = .solo ∨ x.link = true ∨ s.lanesLocked = false → exec .sluiceLinkUp s = .next s) ∧
    (x.st ≠ .solo → x.link = false → s.lanesLocked = true →
      let y : Twin := { x with link := true }
      (x.st ≠ .isolated → Completes (exec .sluiceLinkUp s) (only y [] [link 1])) ∧
      (x.st = .isolated → Completes (exec .sluiceLinkUp s) (enters y .standby [] [link 1] (changed 3 7)))) ∧
    (x.link = false → exec .sluiceLinkDown s = .next s) ∧
    (x.link = true →
      let y : Twin := { x with link := false, seen := none }
      (x.st = .standby → x.current = true → Completes (exec .sluiceLinkDown s)
        (enters y .isolated (clear ++ [⟨F.TWN_STAT_ALARM, 0, 0, 1⟩]) [link 0] (changed 4 6))) ∧
      (x.st ≠ .standby ∨ x.current = false → Completes (exec .sluiceLinkDown s) fun t =>
        t = { Around s t with twin := t.twin, pgms := t.pgms, tally := t.tally } ∧ t.pgms = (unmarked s).pgms ∧
        freed { y with trans := none } t ∧ Sets s t [] ∧ Posts s t (link 0 :: syncEnds s))) ∧
    (x.st = .active → Completes (exec .unmute s) (keeps { x with muteUntil := false })) ∧
    (x.st ≠ .active → exec .unmute s = .next s) ∧
    (∀ seq pl, Hears s 0x0C words seq pl →
      let kind := bitsOf (words.getD 1 0) 3 0
      let y : Twin := { x with seen := some seq }
      let time := pl.getD 1 0
      (∀ m ∈ [(Instr.roleTake words, 1), (.roleYield words, 2), (.switchReq words, 3), (.switchAck words, 4)],
        kind ≠ m.2 → exec m.1 s = .next s) ∧
      (kind = 1 → x.st = .active → Completes (exec (.roleTake words) s) (enters y .standby clear [] (changed 3 4))) ∧
      (kind = 1 → x.st ≠ .active → Completes (exec (.roleTake words) s) (keeps y)) ∧
      (kind = 2 → x.st = .standby → Completes (exec (.roleYield words) s) (takes y 3)) ∧
      (kind = 2 → x.st ≠ .standby → Completes (exec (.roleYield words) s) (keeps y)) ∧
      (kind = 3 → x.link = true → x.st = .active ∨ s.warmReady = true → Completes (exec (.switchReq words) s) fun t =>
        t = { s with twin := { sentTwin y 0x0C [4, time] with switchAt := some time }, lanes := t.lanes } ∧ ControlLanes s t) ∧
      (kind = 3 → x.link = false ∨ (x.st ≠ .active ∧ s.warmReady = false) → Completes (exec (.switchReq words) s) (keeps y)) ∧
      (kind = 4 → x.asked = true → Completes (exec (.switchAck words) s) (keeps { y with switchAt := some time })) ∧
      (kind = 4 → x.asked = false → Completes (exec (.switchAck words) s) (keeps y))) ∧
    (x.switchAt = none → exec .plannedSwitch s = .next s) ∧
    (∀ time, x.switchAt = some time →
      let done : List Ev := if x.asked then [⟨Src.twin, 0x1507, [.u 1 1]⟩] else []
      (s.nowNs < s.unpackTime time → exec .plannedSwitch s = .next s) ∧
      (s.unpackTime time ≤ s.nowNs →
        (x.st = .active → Completes (exec .plannedSwitch s) (enters x .standby [] [] (changed 3 3 ++ done))) ∧
        (x.st = .standby → Completes (exec .plannedSwitch s) (enters x .active [] [] (changed 2 3 ++ done))) ∧
        (x.st ≠ .active → x.st ≠ .standby → Completes (exec .plannedSwitch s) (keeps
          { x with switchAt := none, asked := false })))) ∧
    (let due := s.primary = true ∧ s.warmReady = true ∧ s.fget F.TWN_CFG_HOLDOFF 0 0 ≠ 0 ∧ x.asked = false
     let at_ := s.nowNs / 1000000000 * 1000000000 + (s.nowNs % 1000000000 + 1000000)
     (due → Completes (exec .revertHoldoff s)
       (only { sentTwin x 0x0C [3, packTime (BitVec.ofNat 64 (at_ / 1000000000)) (at_ % 1000000000)]
         with asked := true, switchAt := none } [] [⟨Src.twin, 0x1507, [.u 1 0]⟩])) ∧
     (¬ due → exec .revertHoldoff s = .next s)) ∧
    (x.asked = true → x.switchAt = none → Completes (exec .revertTimeout s)
      (only { x with asked := false } [] [⟨Src.twin, 0x1507, [.u 1 2]⟩])) ∧
    (x.asked = false ∨ x.switchAt ≠ none → exec .revertTimeout s = .next s) ∧
    Completes (exec (.wdogKick req val) s) (fun t =>
      t = { s with regs := t.regs, twin := { x with silent := x.silent && !val.getLsbD 31 } } ∧
      Sets s t [⟨F.TWN_WDOG_PERIOD, 0, 0, bitsOf val 15 0⟩]) ∧
    (s.fget F.TWN_WDOG_PERIOD 0 0 = 0 → exec .wdogExpiry s = .next s) ∧
    (s.fget F.TWN_WDOG_PERIOD 0 0 ≠ 0 →
      let wdog : List Ev := [⟨Src.twin, 0x1508, [.u 1 code]⟩]
      (x.st ≠ .active ∨ x.current = false → Completes (exec .wdogExpiry s) (only x [] wdog)) ∧
      (x.st = .active → x.current = true → Completes (exec .wdogExpiry s) (enters
        { (if x.link then sentTwin x 0x0C [2, 0] else x) with silent := true } .standby clear [] (changed 3 3 ++ wdog))))

/-- On R413 to R417, R424 to R427: held bands agree, are repaired, or leave as they stand; rows are compared; a state copy is opened,
sent, received, committed and aborted. A staged word that reads as poison is not copied (log entry 95).
The model's readings and choices where the spec leaves it open: log entries 42, 44, 73 and 78. -/
def Obligations.TwinBandsAndCopies : Prop :=
  ∀ (s : State) (req : Nat) (val : W32) (words : List W64),
    let x := s.twin
    let keeps (y : Twin) (t : State) : Prop := t = { s with twin := y }
    let tells (y : Twin) (t : State) : Prop := t = { s with twin := y, lanes := t.lanes } ∧ ControlLanes s t
    let event (b : HeldBand) (r : Nat) : List Ev := [⟨Src.twin, 0x1504, [.u 2 b.id, .u 2 b.band, .u 1 r]⟩]
    let bands (y : Twin) (l : List HeldBand) (e : List Ev) (t : State) : Prop :=
      t = { Around s t with twin := t.twin, tally := t.tally, lanes := t.lanes } ∧ ControlLanes s t ∧
      t.twin = { y with bands := bandsAfter s l, fi := t.twin.fi } ∧ Sends s t (tokensAfter l) ∧ Sets s t [] ∧ Posts s t e
    let frees (y : Twin) (d : Nat) (e : List Ev) : State → Prop := bands y (x.bands.modify d fun b => b.release s.nowNs) e
    let ended (y : Twin) (mask : W64) (num installed result : Nat) (t : State) : Prop :=
      t = { Around s t with twin := t.twin, pgms := t.pgms, lanes := t.lanes } ∧ ControlLanes s t ∧
      t.twin = { y with trans := none, fi := t.twin.fi } ∧
      t.pgms = (s.clearSyncMarks mask).pgms ∧ Sets s t [] ∧
      Posts s t [⟨Src.twin, 0x1505, [.u 2 num, .u 1 installed, .u 1 result]⟩]
    (∀ seq pl, Hears s 0x02 words seq pl →
      let p := bidOf (pl.getD 0 0) (pl.getD 1 0)
      let y := heardTwin x 0x02 seq
      (s.twinHolds = false → Completes (exec (.inSig words) s) (keeps y)) ∧
      (s.twinHolds = true → s.heldFor p = none → (∃ b ∈ x.bands, s.sameBand b p = true) →
        Completes (exec (.inSig words) s) (keeps y)) ∧
      (s.twinHolds = true → (∀ b ∈ x.bands, s.sameBand b p = false) →
        Completes (exec (.inSig words) s) (keeps { y with peerBands := x.peerBands ++ [p] })) ∧
      (∀ d b, s.twinHolds = true → s.heldFor p = some (d, b) →
        let same := b.crc = p.crc ∧ b.complete = p.complete
        let mine := (b.complete = true ∧ p.complete = false) ∨ (b.complete = p.complete ∧ x.st = .active)
        (same ∨ mine → Completes (exec (.inSig words) s) (frees y d [])) ∧
        (¬ same → ¬ mine → Completes (exec (.inSig words) s) (bands (sentTwin y 0x04 (bidWords b false))
          (x.bands.modify d fun b => { b with repair := some (p.crc, p.complete) }) [])))) ∧
    (∀ b : HeldBand, (s.twinHolds = false → s.twinBand b = s.sendToken b.src b.dest b.value) ∧
      (s.twinHolds = true → (∀ p ∈ x.peerBands, s.sameBand b p = false) →
        bands (sentTwin x 0x02 (bidWords b true)) (x.bands ++ [b]) [] (s.twinBand b))) ∧
    ((∀ b ∈ x.bands, b.released ≠ none) → exec .bandHoldTimeout s = .next s) ∧
    (∀ d b, x.bands.findIdx? (fun b => b.released.isNone) = some d → x.bands[d]? = some b →
      Completes (exec .bandHoldTimeout s) (frees x d (event b 2))) ∧
    (∀ seq pl, Hears s 0x06 words seq pl →
      let held := s.heldFor (bidOf (pl.getD 0 0) (pl.getD 1 0))
      let y := heardTwin x 0x06 seq
      (held = none → Completes (exec (.repairNak words) s) (keeps y)) ∧
      (∀ d b, held = some (d, b) → b.repair = none → Completes (exec (.repairNak words) s) (keeps y)) ∧
      (∀ d b c, held = some (d, b) → b.repair = some c → Completes (exec (.repairNak words) s) (frees y d (event b 1)))) ∧
    (∀ seq pl, Hears s 0x04 words seq pl →
      let y := heardTwin x 0x04 seq
      let found := x.bands.find? fun b => s.sameBand b (bidOf (pl.getD 0 0) (pl.getD 1 0)) &&
        (b.released.map fun r => decide (s.nowNs ≤ r + s.rwait)).getD true
      (found = none → Completes (exec (.repairReq words) s) (tells (sentTwin y 0x06 [pl.getD 0 0, pl.getD 1 0]))) ∧
      (∀ b, found = some b → Completes (exec (.repairReq words) s) fun t =>
        let k := (b.size + 4095) / 4096
        t = { Around s t with twin := t.twin, freeCtr := t.freeCtr, lanes := t.lanes } ∧ OnlyRegs s t [] ∧
        (∀ q, q ≠ 8 → q ≠ 9 → ∀ l, t.laneTx q l = s.laneTx q l) ∧ t.laneTx 8 0 = s.laneTx 8 0 ∧ t.laneTx 9 0 = s.laneTx 9 0 ∧
        x.out <+: t.twin.out ∧ t.twin.out.length = x.out.length + k ∧ t.twin = { y with
          bulkSeq := x.bulkSeq + BitVec.ofNat 32 k, bulkTurn := x.bulkTurn + k, out := t.twin.out, fi := t.twin.fi })) ∧
    (∀ seq pl, Hears s 0x05 words seq pl →
      let held := s.heldFor (bidOf (pl.getD 0 0) (pl.getD 1 0))
      let off := bitsOf (pl.getD 2 0) 31 0
      let n := bitsOf (pl.getD 2 0) 47 32
      (held = none → Completes (exec (.repairData words) s) (keeps x)) ∧
      (∀ d b, held = some (d, b) → b.repair = none → Completes (exec (.repairData words) s) (keeps x)) ∧
      (∀ d b c done, held = some (d, b) → b.repair = some (c, done) → Completes (exec (.repairData words) s) fun t =>
        let got := Tab.set b.got off n
        let all := b.size ≤ (got.map fun g => g.2).sum
        let b' : HeldBand := if all then { b with
            got := got, crc := c, complete := done, released := some s.nowNs, repair := none
            value := (b.value &&& ~~~0x100000000000#64) ||| if done then 0x100000000000#64 else 0 }
          else { b with got := got }
        let l := x.bands.modify d fun _ => b'
        t = { Around s t with twin := t.twin, tally := t.tally, mem := t.mem } ∧ OnlyRegs s t [] ∧
        (∀ a, a < 2 ^ 48 → (∀ r ∈ b.lines, a < r.1 / 32 * 32 ∨ (r.1 + r.2 + 31) / 32 * 32 ≤ a) →
          memGet a t.mem = memGet a s.mem) ∧
        t.twin = { x with bands := bandsAfter s l, fi := t.twin.fi } ∧ Sends s t (tokensAfter l))) ∧
    (let differs (own : RowSig) (y : Twin) (code : Nat) (t : State) : Prop :=
       t = { Around s t with twin := t.twin } ∧ OnlyRegs s t [.TWN_ERR, .TWN_STAT, .TWN_SYNC_LO, .TWN_SYNC_HI] ∧
       t.fget F.TWN_ERR_MISMATCH 0 0 = min (s.fget F.TWN_ERR_MISMATCH 0 0 + 1) 0xFFFF ∧
       (t.flag F.TWN_STAT_ALARM 0 0 = true ↔ s.flag F.TWN_STAT_ALARM 0 0 = true ∨ code = 2 ∨ code = 4) ∧
       t.twinSync = s.twinSync &&& ~~~(BitVec.ofNat 64 (2 ^ own.pgm)) ∧
       t.twin = { y with
         rows := y.rows.filter (fun r => r.pgm != own.pgm), peerRows := y.peerRows.filter (fun r => r.pgm != own.pgm)
         lastFi := Tab.erase own.pgm y.lastFi, fi := t.twin.fi } ∧
       Posts s t [⟨Src.twin, 0x1502, [.u 1 own.pgm, .u 4 own.rec_.toNat, .u 1 code]⟩]
     (∀ seq pl, Hears s 0x03 words seq pl →
       let w := pl.getD 0 0
       let peer : RowSig := ⟨bitsOf w 5 0, (pl.getD 1 0).extractLsb' 0 32, w.extractLsb' 32 32, bitsOf w 15 8⟩
       let y := heardTwin x 0x03 seq
       (s.compares peer.pgm = false → Completes (exec (.outSig words) s) (keeps y)) ∧
       (s.compares peer.pgm = true → (∀ r ∈ x.rows, r.same peer = false) →
         Completes (exec (.outSig words) s) (keeps { y with peerRows := x.peerRows ++ [peer] })) ∧
       (∀ own, s.compares peer.pgm = true → x.rows.find? (fun r => r.same peer) = some own →
         let z : Twin := { y with
           rows := x.rows.filter (fun r => r != own), peerRows := x.peerRows.filter (fun r => r != peer)
           lastFi := Tab.set x.lastFi own.pgm (peer.fi, own.fi) }
         let last := Tab.getD x.lastFi own.pgm (peer.fi, own.fi)
         let code := if last.1 ≠ peer.fi then (if last.2 ≠ own.fi then 2 else 1) else if last.2 ≠ own.fi then 3 else 4
         (own.crc = peer.crc → Completes (exec (.outSig words) s) (keeps z)) ∧
         (own.crc ≠ peer.crc → code ≠ 1 → Completes (exec (.outSig words) s) (differs own z code)) ∧
         (own.crc ≠ peer.crc → code = 1 → Completes (exec (.outSig words) s) (TwinTakes s z 2
           [⟨F.TWN_ERR_MISMATCH, 0, 0, min (s.fget F.TWN_ERR_MISMATCH 0 0 + 1) 0xFFFF⟩]
           [⟨Src.twin, 0x1502, [.u 1 own.pgm, .u 4 own.rec_.toNat, .u 1 1]⟩])))) ∧
     (x.rows = [] → exec .outSigTimeout s = .next s) ∧
     (∀ own rest, x.rows = own :: rest →
       let code := if (Tab.getD x.lastFi own.pgm (own.fi, own.fi)).2 ≠ own.fi then 3 else 4
       (s.compares own.pgm = false → exec .outSigTimeout s = .next s) ∧
       (s.compares own.pgm = true → Completes (exec .outSigTimeout s) (differs own { x with rows := rest } code)))) ∧
    (let started (v : State) (l : SyncList) (mask : W64) (t : State) : Prop :=
       let ks := (maskPgms mask).filter fun k => (s.pgm k).st == .active && (s.pgm k).lastT.isSome
       (ks ≠ [] → t = { v with twin := t.twin, pgms := t.pgms, lanes := t.lanes } ∧ ControlLanes v t ∧
         t.twin.bulkSeq = x.bulkSeq ∧ t.twin.out.length = x.out.length + 1) ∧
       (ks = [] → t = { Around v t with twin := t.twin, freeCtr := t.freeCtr, lanes := t.lanes } ∧ OnlyRegs v t []) ∧
       t.twin = { v.twin with
         nextTrans := (x.nextTrans + 1) % 65536, ctlSeq := x.ctlSeq + 1, out := t.twin.out
         bulkSeq := t.twin.bulkSeq, bulkTurn := t.twin.bulkTurn, fi := t.twin.fi
         trans := some { num := x.nextTrans, active := true, mask := BitVec.ofNat 64 ((ks.map fun k => 2 ^ k).sum)
                         segs := l.segs, todo := ks, segsSent := ks.isEmpty } } ∧
       x.out <+: t.twin.out ∧ (∃ words, t.twin.out[x.out.length]? = some (.msg false words)) ∧
       ∀ k p, Tab.find? k s.pgms = some p → Tab.find? k t.pgms = some (if k ∈ ks then { p with
         syncT := p.lastT.map fun e => e.add (p.lastCfg.frame.times l.lead) } else p)
     let error (v : State) : State := v.fset F.TWN_STAT_CMDERR 0 0 1
     (bitsOf val 3 0 ≠ 1 → exec (.twnSync req val) s = .next s) ∧
     (bitsOf val 3 0 = 1 →
       (s.maySync = false → exec (.twnSync req val) s = .next (error s)) ∧
       (∀ l v, s.maySync = true → s.readSyncList = (some l, v) → Completes (exec (.twnSync req val) s) (started v l l.mask)) ∧
       (∀ v, s.maySync = true → s.readSyncList = (none, v) → Completes (exec (.twnSync req val) s) fun t =>
         t = Around v t ∧ Sets v t [⟨F.TWN_STAT_CMDERR, 0, 0, 1⟩] ∧
         Posts v t [⟨Src.twin, 0x1505, [.u 2 x.nextTrans, .u 1 0, .u 1 4]⟩])) ∧
     (s.flag F.TWN_CTRL_AUTO 0 0 = false ∨ s.maySync = false ∨ x.peer = none ∨ s.readSyncList.1.isNone = true →
       exec .autoSync s = .next s) ∧
     (∀ p l v, s.flag F.TWN_CTRL_AUTO 0 0 = true → s.maySync = true → x.peer = some p → s.readSyncList = (some l, v) →
       let mask := l.mask &&& BitVec.ofNat 64 ((s.activePgms.map fun k => 2 ^ k).sum) &&& ~~~p.sync
       (mask = 0 → exec .autoSync s = .next s) ∧ (mask ≠ 0 → Completes (exec .autoSync s) (started v l mask)))) ∧
    (bitsOf val 3 0 ≠ 2 ∨ x.trans = none → exec (.twnAbort req val) s = .next s) ∧
    (x.trans = none → exec .syncCommitSend s = .next s ∧ exec .syncCommitTimeout s = .next s ∧
      ∀ m ∈ [(Instr.syncState words, 0x08), (.syncSeg words, 0x09), (.syncCommit words, 0x0A), (.syncAbort words, 0x0B)],
        ∀ seq pl, Hears s m.2 words seq pl → Completes (exec m.1 s) (keeps (heardTwin x m.2 seq))) ∧
    (∀ y, x.trans = some y →
      let met (z : SyncTrans) : Bool := match z.commit with
        | some (states, bytes) => decide (z.records.length = states ∧ (z.got.map fun g => g.2.2).sum = bytes)
        | none => false
      let installed (w : Twin) (t : State) : Prop :=
        ∃ ks : List Nat, t = { Around s t with twin := t.twin, pgms := t.pgms, mem := t.mem } ∧
          OnlyRegs s t [.TWN_SYNC_LO, .TWN_SYNC_HI, .PAN_PGM_ROW, .PAN_PGM_BUCKET, .PAN_PGM_STATE] ∧
          t.twin = { w with trans := none, fi := t.twin.fi } ∧ (∀ k ∈ ks, ∃ b, (k, b) ∈ y.records ∨ y.mask.getLsbD k = true) ∧
          t.twinSync = s.twinSync ||| BitVec.ofNat 64 ((ks.map fun k => 2 ^ k).sum) ∧
          (y.segs = [] → t.mem = s.mem ∧ Posts s t [⟨Src.twin, 0x1505, [.u 2 y.num, .u 1 ks.length, .u 1 0]⟩])
      (y.active = true →
        (bitsOf val 3 0 = 2 → Completes (exec (.twnAbort req val) s)
          (ended (sentTwin x 0x0B [BitVec.ofNat 64 y.num]) y.mask y.num 0 1)) ∧
        (y.todo = [] → y.segsSent = true → Completes (exec .syncCommitSend s) (tells { sentTwin x 0x0A
          [BitVec.ofNat 64 (y.num + y.records.length * 2 ^ 16), BitVec.ofNat 64 ((y.segs.map fun g => g.2).sum)] with
          trans := none }))) ∧
      (y.active = false → exec (.twnAbort req val) s = .next s) ∧
      (y.active = false ∨ y.todo ≠ [] ∨ y.segsSent = false → exec .syncCommitSend s = .next s) ∧
      (y.active = false → y.commit ≠ none → Completes (exec .syncCommitTimeout s) (ended x y.mask y.num 0 2)) ∧
      (y.active = true ∨ y.commit = none → exec .syncCommitTimeout s = .next s) ∧
      (∀ m ∈ [(Instr.syncState words, 0x08), (.syncSeg words, 0x09), (.syncCommit words, 0x0A), (.syncAbort words, 0x0B)],
        ∀ seq pl, Hears s m.2 words seq pl → y.active = true ∨ y.num ≠ bitsOf (pl.getD 0 0) 15 0 →
          Completes (exec m.1 s) (keeps (heardTwin x m.2 seq))) ∧
      (∀ seq pl, Hears s 0x0B words seq pl → y.active = false → y.num = bitsOf (pl.getD 0 0) 15 0 →
        Completes (exec (.syncAbort words) s) (ended (heardTwin x 0x0B seq) y.mask y.num 0 1)) ∧
      (∀ seq pl, Hears s 0x08 words seq pl → y.active = false → y.num = bitsOf (pl.getD 0 0) 15 0 →
        let k := bitsOf (pl.getD 0 0) 21 16
        let z : SyncTrans := { y with records := Tab.set y.records k (wordBytes (pl.drop 1)) }
        (y.mask.getLsbD k = false → Completes (exec (.syncState words) s) (keeps x)) ∧
        (y.mask.getLsbD k = true → ¬ met z → Completes (exec (.syncState words) s) (keeps { x with trans := some z })) ∧
        (y.mask.getLsbD k = true → met z → Completes (exec (.syncState words) s) (installed x))) ∧
      (∀ seq pl, Hears s 0x09 words seq pl → y.active = false → y.num = bitsOf (pl.getD 0 0) 15 0 →
        let i := bitsOf (pl.getD 0 0) 23 16
        let off := bitsOf (pl.getD 1 0) 31 0
        let n := bitsOf (pl.getD 1 0) 47 32
        let z : SyncTrans := { y with got := y.got ++ [(i, off, n)] }
        let inside := i < y.segs.length ∧ off + n ≤ (y.segs.getD i (0, 0)).2
        (¬ inside → Completes (exec (.syncSeg words) s) (keeps x)) ∧
        (inside → ¬ met z → Completes (exec (.syncSeg words) s) fun t =>
          t = { Around s t with twin := t.twin, mem := t.mem } ∧ OnlyRegs s t [] ∧ MemOut s t (s.stageAddr y.segs i + off) n ∧
          t.twin = { x with trans := some z, fi := t.twin.fi }) ∧
        (inside → met z → Completes (exec (.syncSeg words) s) (installed x))) ∧
      (∀ seq pl, Hears s 0x0A words seq pl → y.active = false → y.num = bitsOf (pl.getD 0 0) 15 0 →
        let z : SyncTrans := { y with commit := some (bitsOf (pl.getD 0 0) 23 16, (pl.getD 1 0).toNat) }
        (¬ met z → Completes (exec (.syncCommit words) s) (keeps { heardTwin x 0x0A seq with trans := some z })) ∧
        (met z → Completes (exec (.syncCommit words) s) (installed (heardTwin x 0x0A seq))))) ∧
    (∀ seq pl, Hears s 0x07 words seq pl →
      let y := heardTwin x 0x07 seq
      (x.st ≠ .standby → Completes (exec (.syncOpen words) s) (keeps y)) ∧
      (x.st = .standby → Completes (exec (.syncOpen words) s) fun t =>
        let mask := pl.getD 1 0
        t = { Around s t with twin := t.twin, pgms := t.pgms } ∧ OnlyRegs s t [.TWN_SYNC_LO, .TWN_SYNC_HI] ∧
        t.twinSync = s.twinSync &&& ~~~mask ∧
        (∃ segs, t.twin = { y with
          rows := x.rows.filter (fun r => !mask.getLsbD r.pgm), peerRows := x.peerRows.filter (fun r => !mask.getLsbD r.pgm)
          lastFi := t.twin.lastFi, fi := t.twin.fi
          trans := some { num := bitsOf (pl.getD 0 0) 15 0, active := false, mask := mask, segs := segs } }) ∧
        ∀ k p, k < 64 → Tab.find? k (unmarked s).pgms = some p → Tab.find? k t.pgms = some (
          if mask.getLsbD k then { p with
            syncHold := true
            syncT := some (Frac.ofNat (s.unpackTime (pl.getD (2 + ((List.range k).filter fun i => mask.getLsbD i).length) 0))) }
          else p)))

/-! ### Security (chapter 17) -/

/-- On R433 to R439: the trial of images at boot: the headers and the order they are tried in, a signature, a payload, the load of
SP0 once its bank is ON (log entry 90), and the host's image; an image that fails gives way to the next one.
The model's readings and choices where the spec leaves it open: log entries 16 and 59. -/
def Obligations.ImageTrials : Prop :=
  ∀ (s : State) (req rk : Nat) (val : W32) (a b payload : List Byte),
    let x := s.sec
    let mode := s.fget F.SEC_BOOT_STAT_MODE 0 0
    let state := s.fget F.SEC_BOOT_STAT_STATE 0 0
    let res (img r : Nat) : List FieldSet :=
      [⟨if img = 0 then F.SEC_BOOT_STAT_RES_A else F.SEC_BOOT_STAT_RES_B, 0, 0, r⟩]
    let stat (n : Nat) : List FieldSet := [⟨F.SEC_BOOT_STAT_STATE, 0, 0, n⟩]
    let fails (v : State) (y : Sec) (l : List FieldSet) (t : State) : Prop :=
      t = { Around v t with sec := { y with bankLock := false, trial := none, order := [] } } ∧
      Sets v t (l ++ stat (if mode = 0 then 4 else 1)) ∧
      Posts v t [⟨Src.security, 0x0301, [.u 1 (t.fget F.SEC_BOOT_STAT_RES_A 0 0), .u 1 (t.fget F.SEC_BOOT_STAT_RES_B 0 0)]⟩]
    let hostFails (v : State) (t : State) : Prop :=
      t = { v with sec := { x with bankLock := false, trial := none }, regs := t.regs } ∧ Sets v t (stat 1)
    let later (v : State) (img r : Nat) (t : State) : Prop :=
      (img = 2 → hostFails v t) ∧ (img < 2 → x.order = [] → fails v x (res img r) t) ∧
      ∀ j, img < 2 → j < 2 → j ≠ img → x.order = [j] →
        let k := Tab.getD x.headers j []
        (s.headerResult k = 0 →
          t = { v with sec := { x with trial := some ⟨j, k, .signature⟩, order := [] }, regs := t.regs } ∧
          Sets v t (res img r)) ∧
        (s.headerResult k ≠ 0 → fails v x (res img r ++ res j (s.headerResult k)) t)
    let closed := state ≠ 0 ∨ mode = 1 ∨ x.trial ≠ none ∨ s.fget F.SEC_BOOT_STAT_RES_A 0 0 ≠ 0
    (∀ sfdp, closed → exec (.headersRead sfdp a b) s = .next s) ∧
    (¬ closed →
      Completes (exec (.headersRead false a b) s) (fails s x (res 0 7 ++ res 1 7)) ∧
      (let bFirst := if headerOk a = headerOk b then hdrSeq a < hdrSeq b else headerOk b = true
       let y : Sec := { x with bankLock := true, headers := [(0, a), (1, b)] }
       let tries (i j : Nat) (h k : List Byte) : Prop :=
         (s.headerResult h = 0 → Completes (exec (.headersRead true a b) s) fun t =>
           t = { s with sec := { y with trial := some ⟨i, h, .signature⟩, order := [j] } }) ∧
         (s.headerResult h ≠ 0 → s.headerResult k = 0 → Completes (exec (.headersRead true a b) s) fun t =>
           t = { s with sec := { y with trial := some ⟨j, k, .signature⟩, order := [] }, regs := t.regs } ∧
           Sets s t (res i (s.headerResult h))) ∧
         (s.headerResult h ≠ 0 → s.headerResult k ≠ 0 → Completes (exec (.headersRead true a b) s)
           (fails s y (res i (s.headerResult h) ++ res j (s.headerResult k))))
       (bFirst → tries 1 0 b a) ∧ (¬ bFirst → tries 0 1 a b))) ∧
    (x.trial = none → exec .signatureVerified s = .next s) ∧
    (∀ h img, x.trial = some ⟨img, h, .signature⟩ →
      (signatureOk h = true → Completes (exec .signatureVerified s) fun t =>
        t = { s with sec := { x with trial := some ⟨img, h, .payload⟩ } }) ∧
      (signatureOk h = false → Completes (exec .signatureVerified s) (later s img 5))) ∧
    (∀ h img st, x.trial = some ⟨img, h, st⟩ →
      (st ≠ .signature → exec .signatureVerified s = .next s) ∧
      (st ≠ .payload ∨ (img ≠ 2 ∧ payload.length ≠ hdrPlen h) → exec (.payloadStaged payload) s = .next s)) ∧
    (x.trial = none → exec (.payloadStaged payload) s = .next s) ∧
    (∀ h img v, x.trial = some ⟨img, h, .payload⟩ → img = 2 ∨ (img < 2 ∧ payload.length = hdrPlen h) →
      let w := if img = 2 then s else (s.writeRange Src.security 0x001000000000 (h ++ payload)).2
      (∃ a, w.readRange Src.security 0x001000000400 (hdrPlen h) = (.poison a, v) ∨
        w.readRange Src.security 0x001000000400 (hdrPlen h) = (.addrErr a, v)) →
      Completes (exec (.payloadStaged payload) s) (later v img 7)) ∧
    (∀ h img c v, x.trial = some ⟨img, h, .payload⟩ → img = 2 ∨ (img < 2 ∧ payload.length = hdrPlen h) →
      let w := if img = 2 then s else (s.writeRange Src.security 0x001000000000 (h ++ payload)).2
      w.readRange Src.security 0x001000000400 (hdrPlen h) = (.ok c, v) →
      (∀ n, sha384 c = hdrInt h 0x040 → s.rakeOf 0 = some n → Completes (exec (.payloadStaged payload) s) fun t =>
        t = { v with sec := { x with trial := some ⟨img, h, .loading⟩ }, rakes := t.rakes } ∧
        t.rake n = { ({} : Rake) with st := .loading, pos := some 0, loadFrom := some 0x001000000400 } ∧
        ∀ m, m ≠ n → t.rake m = s.rake m) ∧
      (sha384 c ≠ hdrInt h 0x040 → Completes (exec (.payloadStaged payload) s) (later v img 6))) ∧
    (∀ h img, x.trial = some ⟨img, h, .loading⟩ → rk < 104 → (s.rake rk).st = .loading → (s.rake rk).pos = some 0 →
      (s.rake rk).loadFrom = some 0x001000000400 → s.imageReadable 0x001000000400 = true → s.bank (16 + rk) = .on →
      s.mgr.cmd = none → (s.slot 0).st = .free → Completes (exec (.imageLoadComplete rk) s) fun t =>
        t = { Around s t with
          rakes := t.rakes, mem := t.mem, tally := t.tally, sec := { x with bankLock := false, trial := none } } ∧
        (∀ n, n ≠ rk → t.rake n = s.rake n) ∧ t.rake rk = { ({} : Rake) with st := .idle, pos := some 0 } ∧
        OnlyRegs s t [.SEC_BOOT_STAT, .TLY_CTRL, .TLY_STAT] ∧ t.flag F.TLY_CTRL_DISPATCH 0 0 = true ∧
        t.fget F.SEC_BOOT_STAT_STATE 0 0 = 3 ∧ t.fget F.SEC_BOOT_STAT_IMG 0 0 = img % 4 ∧
        (img = 0 → t.fget F.SEC_BOOT_STAT_RES_A 0 0 = 1) ∧ (img = 1 → t.fget F.SEC_BOOT_STAT_RES_B 0 0 = 1) ∧
        ∀ n, n ≠ 0 → t.slot n = s.slot n) ∧
    (let may := state = 1 ∧ (mode = 3 → s.flag F.SEC_STAT_PRES 0 0 = true)
     (val.getLsbD 0 = false → exec (.bootGo req val) s = .next s) ∧
     (val.getLsbD 0 = true →
       (¬ may → Completes (exec (.bootGo req val) s) fun t =>
         t = { s with regs := t.regs } ∧ Sets s t [⟨F.SEC_BOOT_STAT_GOREF, 0, 0, 1⟩]) ∧
       (∀ a v, may → s.readRange Src.security 0x001000000000 1024 = (.poison a, v) ∨
           s.readRange Src.security 0x001000000000 1024 = (.addrErr a, v) →
         Completes (exec (.bootGo req val) s) (hostFails v)) ∧
       (∀ h v, may → s.readRange Src.security 0x001000000000 1024 = (.ok h, v) →
         (s.headerResult h = 0 → Completes (exec (.bootGo req val) s) fun t =>
           t = { v with sec := { x with bankLock := true, trial := some ⟨2, h, .signature⟩ }, regs := t.regs } ∧
           Sets v t (stat 2)) ∧
         (s.headerResult h ≠ 0 → Completes (exec (.bootGo req val) s) (hostFails v)))))

/-- On R440 to R446: presence, service commands and fuses, the key store, the tamper loop.
The model's readings and choices where the spec leaves it open: log entries 60 and 61. -/
def Obligations.FusesKeysAndTamper : Prop :=
  ∀ (s : State) (req : Nat) (val : W32) (words : Option Nat),
    let x := s.sec
    let f := x.fuses
    (Completes (exec .presenceTrue s) fun t => t = { s with regs := t.regs } ∧ Sets s t [⟨F.SEC_STAT_PRES, 0, 0, 1⟩]) ∧
    (Completes (exec .presenceEnd s) fun t => t = { s with regs := t.regs } ∧ Sets s t [⟨F.SEC_STAT_PRES, 0, 0, 0⟩]) ∧
    (let pres := s.flag F.SEC_STAT_PRES 0 0
     let svc : List (Nat × Instr) := [(1, .provisionRootKey req val words), (2, .revokeRootKey req val words),
       (3, .programFuse req val words), (4, .twinRoleChange req val words)]
     (∀ p ∈ svc, (val.getLsbD 0 = false ∨ match s.svcRead with | (.ok b, _) => (svcRec b).op ≠ p.1 | _ => True) → exec p.2 s = .next s) ∧
     ∀ b v, s.svcRead = (.ok b, v) → val.getLsbD 0 = true →
       let r := svcRec b
       let done (st : Nat) : List FieldSet :=
         (if st = 31 then [⟨F.SEC_STAT_PRES, 0, 0, 0⟩] else []) ++ [⟨F.SEC_SVC_STAT_STATUS, 0, 0, st⟩]
       let ev (st : Nat) : List Ev := [⟨Src.security, 0x0303, [.u 1 r.op, .u 1 r.arg, .u 1 st]⟩]
       let ends (st : Nat) (t : State) : Prop := t = Around v t ∧ Sets v t (done st) ∧ Posts v t (ev st)
       let blows (st : Nat) (t : State) : Prop :=
         t = { Around v t with sec := { x with fuses := t.sec.fuses } } ∧ Sets v t (done st) ∧ Posts v t (ev st)
       let slotOnly (k : Nat) (y : FuseSlot) (t : State) : Prop := t.sec.fuses.slot k = y ∧
         (∀ j, j ≠ k → t.sec.fuses.slot j = f.slot j) ∧ t.sec.fuses.svn = f.svn ∧ t.sec.fuses.pref = f.pref
       let runs := pres = true ∧ r.ok = true ∧ s.svcWrongState r = false
       (∀ p ∈ svc, r.op = p.1 →
         (pres = false → Completes (exec p.2 s) (ends 30)) ∧
         (pres = true → r.ok = false → Completes (exec p.2 s) (ends 2)) ∧
         (pres = true → r.ok = true → s.svcWrongState r = true → Completes (exec p.2 s) (ends 4))) ∧
       (r.op = 1 → runs →
         (words = none ∨ (∃ k, words = some k ∧ 13 ≤ k) → Completes (exec (.provisionRootKey req val words) s) fun t =>
           blows 0 t ∧ slotOnly r.arg { hash := r.hash, valid := true } t) ∧
         (∀ k, words = some k → k < 13 → Completes (exec (.provisionRootKey req val words) s) fun t =>
           blows 31 t ∧ slotOnly r.arg { hash := BitVec.ofNat 384 (r.hash.toNat % 2 ^ (32 * k)) } t)) ∧
       (r.op = 2 → runs →
         (words ≠ some 0 → Completes (exec (.revokeRootKey req val words) s) fun t =>
           blows 0 t ∧ slotOnly r.arg { f.slot r.arg with revoked := true } t) ∧
         (words = some 0 → Completes (exec (.revokeRootKey req val words) s) (ends 31))) ∧
       (r.op = 3 → runs →
         (r.arg = 0 → words = none → Completes (exec (.programFuse req val words) s) fun t =>
           blows 0 t ∧ t.sec.fuses = { f with svn := max f.svn r.value }) ∧
         (∀ k, r.arg = 0 → words = some k →
           let top := min r.value (32 * (f.svn / 32 + k))
           Completes (exec (.programFuse req val words) s) fun t =>
             blows (if top < r.value then 31 else 0) t ∧ t.sec.fuses = { f with svn := max f.svn top }) ∧
         (r.arg = 1 → words = some 0 → Completes (exec (.programFuse req val words) s) (ends 31)) ∧
         (r.arg = 1 → words ≠ some 0 → Completes (exec (.programFuse req val words) s) fun t =>
           blows 0 t ∧ t.sec.fuses = { f with pref := true })) ∧
       (r.op = 4 → runs → words = some 0 → Completes (exec (.twinRoleChange req val words) s) (ends 31)) ∧
       (r.op = 4 → runs → words ≠ some 0 →
         (r.arg = 1 ∨ r.arg = 2 → Completes (exec (.twinRoleChange req val words) s) fun t =>
           t = Around v t ∧ Posts v t (ev 0) ∧
           Sets v t ([⟨F.TWN_STAT_PREF, 0, 0, if r.arg = 1 then 1 else 0⟩] ++ done 0)) ∧
         (r.arg = 3 → Completes (exec (.twinRoleChange req val words) s) fun t =>
           let ns := s.nowNs % 1000000000 + 1000000
           let time := packTime (BitVec.ofNat 64 (s.nowNs / 1000000000 + ns / 1000000000)) (ns % 1000000000)
           t = { Around v t with twin := t.twin, lanes := t.lanes } ∧ ControlLanes v t ∧
           t.twin = { sentTwin s.twin 0x0C [3, time] with asked := true, switchAt := none, fi := t.twin.fi } ∧
           Sets v t (done 0) ∧ Posts v t ([⟨Src.twin, 0x1507, [.u 1 0]⟩] ++ ev 0)))) ∧
    (let slot := bitsOf val 13 8
     let klen := bitsOf val 3 2
     let saltLen := bitsOf val 7 4
     let clears (t : State) : Prop := (∀ i, i < 16 → t.reg .SEC_KEY_BUF 0 (req * 16 + i) = 0) ∧
       ∀ r i k, r ∉ [Reg.EVT_STAT, .SEC_KEY_STAT] → (r = .SEC_KEY_BUF → k / 16 ≠ req) → t.reg r i k = s.reg r i k
     let ends (op st : Nat) (t : State) : Prop := clears t ∧ t.fget F.SEC_KEY_STAT_STATUS 0 0 = st ∧
       Posts s t [⟨Src.security, 0x0305, [.u 1 slot, .u 1 op, .u 1 st]⟩]
     let bad := (klen ≠ 1 ∧ klen ≠ 2) ∨ 14 < saltLen
     let holds (k : Option KeySlot) (t : State) : Prop :=
       t = { Around s t with sec := { x with keys := t.sec.keys } } ∧ Tab.find? slot t.sec.keys = k ∧
       ∀ j, j ≠ slot → Tab.find? j t.sec.keys = Tab.find? j x.keys
     (bitsOf val 1 0 = 1 →
       (bad → Completes (exec (.keyLoad req val) s) fun t => t = Around s t ∧ ends 1 2 t) ∧
       (¬ bad → s.flag F.SEC_STAT_LOOP 0 0 = true → Completes (exec (.keyLoad req val) s) fun t => t = Around s t ∧ ends 1 32 t) ∧
       (¬ bad → s.flag F.SEC_STAT_LOOP 0 0 = false → Completes (exec (.keyLoad req val) s) fun t => ends 1 0 t ∧
         holds (some { key := BitVec.ofNat 256 (s.keyWords req 0 (if klen = 1 then 4 else 8)), klen := klen,
                       salt := BitVec.ofNat 112 (s.keyWords req 8 4 % 256 ^ saltLen), saltLen := saltLen }) t)) ∧
     (bitsOf val 1 0 = 2 → Completes (exec (.keyErase req val) s) fun t => ends 2 0 t ∧ holds none t) ∧
     (bitsOf val 1 0 ≠ 1 → exec (.keyLoad req val) s = .next s) ∧ (bitsOf val 1 0 ≠ 2 → exec (.keyErase req val) s = .next s)) ∧
    (s.flag F.SEC_STAT_LOOP 0 0 = true → exec .tamperLoopOpen s = .next s) ∧
    (s.flag F.SEC_STAT_LOOP 0 0 = false → Completes (exec .tamperLoopOpen s) fun t =>
      t.sec.keys = [] ∧ (∀ i k, t.reg .SEC_KEY_BUF i k = 0) ∧ t.flag F.SEC_STAT_LOOP 0 0 = true ∧
      t.flag F.SEC_STAT_TAMPER 0 0 = true ∧ t.debugOpen = false ∧ t.sec.fuses = x.fuses ∧
      ∀ n, (t.tsh n) = if s.resets.mainGood then { s.tsh n with ctxs := [] } else s.tsh n) ∧
    (s.flag F.SEC_STAT_LOOP 0 0 = false → HaltsGoOn s →
      let main := s.resets.mainGood
      let relock : List Ev := if s.debugOpen then [⟨Src.security, 0x0304, [.u 1 0]⟩] else []
      Completes (exec .tamperLoopOpen s) fun t =>
        t = { Around s t with
          sec := { x with keys := [], tamperPost := if main then x.tamperPost else some x.keys.length }
          net := { s.net with tsh := t.net.tsh }
          rakes := t.rakes } ∧
        (∀ n, t.rake n = if s.debugOpen then resumed s n else s.rake n) ∧
        (∀ i k, t.reg .SEC_KEY_BUF i k = 0) ∧
        (∀ r i k, r ∉ [Reg.EVT_STAT, .SEC_STAT, .SEC_KEY_BUF] → t.reg r i k = s.reg r i k) ∧
        t.flag F.SEC_STAT_LOOP 0 0 = true ∧ t.flag F.SEC_STAT_TAMPER 0 0 = true ∧ t.debugOpen = false ∧
        (∀ n, (t.tsh n) = if main then { s.tsh n with ctxs := [] } else s.tsh n) ∧
        Posts s t (relock ++ if main then [⟨Src.security, 0x0302, [.u 1 x.keys.length]⟩] else [])) ∧
    (Completes (exec .tamperLoopClosed s) fun t => t = { s with regs := t.regs } ∧ Sets s t [⟨F.SEC_STAT_LOOP, 0, 0, 0⟩])

/-- On R448, R449: the JTAG port and debug access.
The model's readings and choices where the spec leaves it open: log entries 16, 58, 61 and 65. -/
def Obligations.DebugAndBoundaryScan : Prop :=
  ∀ (s : State) (req addr : Nat) (val data : W32) (pins levels : List Bool) (qx qy r sg : BitVec 384),
    let x := s.sec
    let tap (ir dr : Nat) (b : List Bool) (t : State) : Prop := t = { s with sec := { x with tap := ⟨ir, dr, b⟩ } }
    let number (l : List Bool) : Nat := l.foldr (fun b n => 2 * n + if b then 1 else 0) 0
    let keep := x.tap.boundary
    let nonce := x.nonce.getD (Config.freeValue 256 s.freeCtr)
    let quiet := HaltsGoOn s
    let locks (y : Sec) (l : List FieldSet) (t : State) : Prop :=
      t = { Around s t with sec := y, rakes := t.rakes } ∧ (∀ n, t.rake n = resumed s n) ∧
      Sets s t (l ++ [⟨F.SEC_STAT_DBG, 0, 0, 0⟩]) ∧
      Posts s t [⟨Src.security, 0x0304, [.u 1 0]⟩]
    Completes (exec .idcode s) (tap 0x01 0x06496BE7 keep) ∧
    Completes (exec (.samplePreload pins levels) s) (tap 0x02 (number pins) levels) ∧
    Completes (exec (.extest pins levels) s) (tap 0x03 (number pins) levels) ∧
    Completes (exec .bypass s) (tap 0xFF 0 keep) ∧
    (3 ≤ x.failed → Completes (exec .dbgChal s) (tap 0x20 0 keep)) ∧
    (x.failed < 3 → Completes (exec .dbgChal s) fun t =>
      t = { s with
        sec := { x with nonce := some nonce, tap := ⟨0x20, nonce.toNat + Config.uid.toNat * 2 ^ 256, keep⟩ }
        freeCtr := if x.nonce = none then s.freeCtr + 1 else s.freeCtr }) ∧
    (let key := (x.fuses.usable.any fun i => (x.fuses.slot i).hash == keyHash qx qy) = true
     let proves : Bool := match x.nonce with
       | some n => ecdsaOk qx qy r sg (sha384 (challenge n))
       | none => false
     let ok := s.flag F.SEC_STAT_PRES 0 0 = true ∧ key ∧ proves = true
     let y : Sec := { x with nonce := none, tap := ⟨0x21, 0, keep⟩ }
     (¬ ok → Completes (exec (.dbgResp qx qy r sg) s) fun t => t = { s with sec := { y with failed := x.failed + 1 } }) ∧
     (ok → Completes (exec (.dbgResp qx qy r sg) s) fun t =>
       t = { Around s t with sec := { y with keys := [] }, net := { s.net with tsh := t.net.tsh } } ∧ t.debugOpen = true ∧
       (∀ i k, t.reg .SEC_KEY_BUF i k = 0) ∧
       (∀ r i k, r ∉ [Reg.EVT_STAT, .SEC_STAT, .SEC_KEY_BUF] → t.reg r i k = s.reg r i k) ∧
       (∀ n, (t.tsh n) = if s.resets.mainGood then { s.tsh n with ctxs := [] } else s.tsh n) ∧
       Posts s t (if s.debugOpen then [] else [⟨Src.security, 0x0304, [.u 1 1]⟩]))) ∧
    (Completes (exec (.dbgLock false) s) (tap 0x22 0 keep)) ∧
    (s.debugOpen = false → Completes (exec (.dbgLock true) s) (tap 0x22 0 keep)) ∧
    (Completes (exec (.dbgLock true) s) fun t => t.debugOpen = false ∧ t.sec = { x with tap := ⟨0x22, 0, keep⟩ }) ∧
    (val.getLsbD 27 = true → Completes (exec (.debugRelock req val) s) fun t => t.debugOpen = false ∧ t.sec = x) ∧
    (s.debugOpen = true → quiet → Completes (exec (.dbgLock true) s) (locks { x with tap := ⟨0x22, 0, keep⟩ } [])) ∧
    (val.getLsbD 27 = false → exec (.debugRelock req val) s = .next s) ∧
    (val.getLsbD 27 = true →
      let cleared : List FieldSet := if val.getLsbD 31 = true ∧ s.flag F.SEC_STAT_LOOP 0 0 = false then
        [⟨F.SEC_STAT_TAMPER, 0, 0, 0⟩] else []
      (s.debugOpen = false → Completes (exec (.debugRelock req val) s) fun t =>
        t = { s with regs := t.regs } ∧ Sets s t cleared) ∧
      (s.debugOpen = true → quiet → Completes (exec (.debugRelock req val) s) (locks x cleared))) ∧
    (addr < 2 ^ 48 →
      (s.debugOpen = false → ∀ w, Completes (exec (.dbgAp addr w data) s) (tap 0xFF 0 keep)) ∧
      (∀ b v, s.debugOpen = true → inRegs addr = false → s.readRange Src.security addr 4 = (.ok b, v) →
        Completes (exec (.dbgAp addr false data) s) fun t =>
          let d : W32 := BitVec.ofNat 32 (leNat b)
          t = { v with
            answers := Tab.set s.answers Src.security (.data 4 (BitVec.ofNat 256 (leNat b)))
            sec := { x with tap := ⟨0x23, addr + d.toNat * 2 ^ 48, keep⟩ } }) ∧
      (∀ v, s.debugOpen = true → inRegs addr = false → s.writeRange Src.security addr (leBytes 4 data.toNat) = (.ok, v) →
        Completes (exec (.dbgAp addr true data) s) fun t =>
          t = { v with
            answers := Tab.set s.answers Src.security .written
            sec := { x with tap := ⟨0x23, addr + data.toNat * 2 ^ 48 + 2 ^ 80, keep⟩ } }) ∧
      (∀ err v, s.debugOpen = true → inRegs addr = false →
        (∃ a, (err = .poison ∧ s.readRange Src.security addr 4 = (.poison a, v)) ∨
          (err = .addrErr ∧ s.readRange Src.security addr 4 = (.addrErr a, v))) →
        Completes (exec (.dbgAp addr false data) s) fun t =>
          t = { v with
            answers := Tab.set s.answers Src.security err
            freeCtr := v.freeCtr + 1
            sec := { x with tap := ⟨0x23, addr + (Config.freeValue 32 v.freeCtr).toNat * 2 ^ 48, keep⟩ } }) ∧
      (∀ err v, s.debugOpen = true → inRegs addr = false →
        (∃ a, (err = .writePoison ∧ s.writeRange Src.security addr (leBytes 4 data.toNat) = (.poison a, v)) ∨
          (err = .addrErr ∧ s.writeRange Src.security addr (leBytes 4 data.toNat) = (.addrErr a, v))) →
        Completes (exec (.dbgAp addr true data) s) fun t =>
          t = { v with
            answers := Tab.set s.answers Src.security err
            sec := { x with tap := ⟨0x23, addr + data.toNat * 2 ^ 48 + 2 ^ 80, keep⟩ } }) ∧
      (s.debugOpen = true → inRegs addr = true →
        (Completes (exec (.dbgAp addr false data) s) fun t =>
          let (d, v) := s.accessRead Src.security addr 4
          t = { v with
            answers := Tab.set v.answers Src.security (.data 4 (d.zeroExtend 256))
            sec := { v.sec with tap := ⟨0x23, addr + d.toNat * 2 ^ 48, v.sec.tap.boundary⟩ } }) ∧
        Completes (exec (.dbgAp addr true data) s) fun t =>
          let v := s.accessWrite Src.security addr 4 data
          t = { v with
            answers := Tab.set v.answers Src.security .written
            sec := { v.sec with tap := ⟨0x23, addr + data.toNat * 2 ^ 48 + 2 ^ 80, v.sec.tap.boundary⟩ } })) ∧
    (2 ^ 48 ≤ addr → ∀ w, exec (.dbgAp addr w data) s = .fault (.outsideAddressSpace addr))

/-! ### Clocks, resets, power (chapter 20) -/

/-- On R476 to R484, R486, R491: the reference and holdover, feeds, the resets and their causes, temperature. That a loss in
holdover sets LOSS and posts nothing is the model's reading (log entry 55).
The model's readings and choices where the spec leaves it open: log entries 57 and 77. -/
def Obligations.ClocksAndResets : Prop :=
  ∀ (s : State) (req : Nat) (val : W32),
    let hold := s.flag F.CLK_STAT_HOLD 0 0
    let valid := s.flag F.CLK_STAT_VALIDREF 0 0
    let regsOnly (t : State) : Prop := t = { s with regs := t.regs }
    let clock (l : List FieldSet) (ev : List Ev) (t : State) : Prop := t = Around s t ∧ Sets s t l ∧ Posts s t ev
    let cause (b : Nat) (t : State) : Prop := t.reg .CLK_RST_CAUSE 0 0 = s.reg .CLK_RST_CAUSE 0 0 ||| BitVec.ofNat 32 (2 ^ b)
    let resets (b : Nat) (t : State) : Prop :=
      ResetButFor s t [.CLK_RST_CAUSE] ∧ cause b t ∧ t.time = s.time ∧ t.events = [] ∧ t.power = {} ∧ t.banks = [] ∧
      t.sec.tamperPost = s.sec.tamperPost ∧ t.resets = { s.resets with device := true }
    (∀ why count,
      let c := min count 255
      let seen : List FieldSet := [⟨F.CLK_STAT_VALIDREF, 0, 0, 0⟩, ⟨F.CLK_STAT_REFOK, 0, 0, 0⟩, ⟨F.CLK_MON_COUNT, 0, 0, c⟩,
        ⟨F.CLK_STAT_LOSS, 0, 0, 1⟩]
      (hold = false → Completes (exec (.refclkLost why count) s)
        (clock (seen ++ [⟨F.CLK_STAT_HOLD, 0, 0, 1⟩]) [⟨Src.clocks, 0x0100, [.u 1 why, .u 1 c]⟩])) ∧
      (hold = true → valid = true → Completes (exec (.refclkLost why count) s) (clock seen [])) ∧
      (hold = true → valid = false → exec (.refclkLost why count) s = .next s) ∧
      (valid = true → Completes (exec (.refclkValid count) s) fun t => regsOnly t ∧ Sets s t [⟨F.CLK_MON_COUNT, 0, 0, c⟩]) ∧
      (valid = false → Completes (exec (.refclkValid count) s)
        (clock [⟨F.CLK_MON_COUNT, 0, 0, c⟩, ⟨F.CLK_STAT_VALIDREF, 0, 0, 1⟩]
          (if hold then [⟨Src.clocks, 0x0101, [.u 1 0]⟩] else [])))) ∧
    (let ok := s.flag F.CLK_STAT_REFOK 0 0
     (valid = true → ok = false → Completes (exec .refokSet s)
       (clock [⟨F.CLK_STAT_REFOK, 0, 0, 1⟩] (if hold then [⟨Src.clocks, 0x0101, [.u 1 1]⟩] else []))) ∧
     (valid = false ∨ ok = true → exec .refokSet s = .next s) ∧
     ∀ loss,
      let refused (reason : Nat) : State → Prop :=
        clock [⟨F.CLK_STAT_REFUSED, 0, 0, 1⟩] [⟨Src.clocks, 0x0103, [.u 1 reason]⟩]
      (val.getLsbD 0 = false → exec (.refclkReturn req val loss) s = .next s) ∧
      (val.getLsbD 0 = true →
        (ok = false → Completes (exec (.refclkReturn req val loss) s) (refused 0)) ∧
        (ok = true → hold = false → Completes (exec (.refclkReturn req val loss) s) (refused 1)) ∧
        (ok = true → hold = true → loss = true → Completes (exec (.refclkReturn req val loss) s) (refused 2)) ∧
        (ok = true → hold = true → loss = false → Completes (exec (.refclkReturn req val loss) s)
          (clock [⟨F.CLK_STAT_HOLD, 0, 0, 0⟩] [⟨Src.clocks, 0x0102, []⟩])))) ∧
    (let good (f : Nat) : Bool := (s.reg .PWR_FEED 0 0).getLsbD f
     let goods := s.fget F.PWR_FEED_GOOD 0 0
     (∀ (f : Nat) (above : Bool), f < 6 →
      let other := if f % 2 = 0 then f + 1 else f - 1
      let lost (t : State) : Prop := t.reg .PWR_FEED 0 0 =
        (s.reg .PWR_FEED 0 0 &&& ~~~BitVec.ofNat 32 (2 ^ f)) ||| BitVec.ofNat 32 (2 ^ (16 + f))
      let only (t : State) : Prop := lost t ∧ ∀ r i k, r ∉ [Reg.PWR_FEED, .EVT_STAT] → t.reg r i k = s.reg r i k
      (good f = false → exec (.feedLost f above) s = .next s) ∧
      (good f = true → good other = true → Completes (exec (.feedLost f above) s) fun t => t = Around s t ∧ only t ∧
        Posts s t [⟨Src.power, 0x0202, [.u 1 f, .u 1 0, .u 1 (if above then 1 else 0)]⟩]) ∧
      (good f = true → good other = false → s.resets.mainGood = false → Completes (exec (.feedLost f above) s) fun t =>
        regsOnly t ∧ only t) ∧
      (good f = true → good other = false → s.resets.mainGood = true → Completes (exec (.feedLost f above) s) fun t =>
        ResetButFor s t [.PWR_FEED] ∧ lost t ∧ t.time = s.time ∧ t.events = [] ∧ t.sec.tamperPost = s.sec.tamperPost ∧
        t.resets = { s.resets with device := true, mainGood := false } ∧ t.power.targets = [] ∧ t.dom 0 = .on ∧
        (∀ d, 1 ≤ d → d < 148 → t.dom d = .off) ∧ ∀ i, i < 146 → t.bank i = .off)) ∧
     (∀ f, f < 7 →
      let ev : List Ev := if f < 6 then [⟨Src.power, 0x0202, [.u 1 f, .u 1 1, .u 1 0]⟩] else []
      let groups := ∀ g, g < 3 → good (2 * g) = true ∨ good (2 * g + 1) = true ∨ f / 2 = g
      (good f = true → exec (.feedGood f) s = .next s) ∧
      (good f = false → s.resets.mainGood = true ∨ ¬ groups → Completes (exec (.feedGood f) s)
        (clock [⟨F.PWR_FEED_GOOD, 0, 0, goods + 2 ^ f⟩] ev)) ∧
      (good f = false → s.resets.mainGood = false → groups → Completes (exec (.feedGood f) s) fun t =>
        t = { Around s t with resets := { s.resets with mainGood := true } } ∧ cause 1 t ∧
        t.fget F.PWR_FEED_GOOD 0 0 = goods + 2 ^ f ∧
        (∀ r i k, r ∉ [Reg.PWR_FEED, .CLK_RST_CAUSE, .EVT_STAT] → t.reg r i k = s.reg r i k) ∧ Posts s t ev)) ∧
     (∀ v : Bool,
      (s.resets.alwaysOn = true → Completes (exec (.alwaysOnResetRelease v) s) fun t =>
        t = { s with regs := t.regs, resets := { s.resets with alwaysOn := false } } ∧
        Sets s t [⟨F.CLK_STAT_LOCK, 0, 0, 1⟩, ⟨F.CLK_STAT_VALIDREF, 0, 0, if v then 1 else 0⟩,
          ⟨F.CLK_STAT_HOLD, 0, 0, if v then 0 else 1⟩, ⟨F.PWR_FEED_GOOD, 0, 0, goods ||| 64⟩,
          ⟨F.TWN_STAT_PREF, 0, 0, if s.sec.fuses.pref then 1 else 0⟩]) ∧
      (s.resets.alwaysOn = false → exec (.alwaysOnResetRelease v) s = .next s))) ∧
    (Completes (exec .vstbyLost s) fun t => t = { ({} : State) with
      pending := s.pending, freeCtr := s.freeCtr, answers := s.answers, mem := s.mem
      resets := { device := true, alwaysOn := true, mainGood := false, tripped := false }, sec := { fuses := s.sec.fuses }
      host := { out := s.host.out }, headOut := s.headOut, lanes := sentLanes s.lanes, net := { out := s.net.out }
      audio := { sent := s.audio.sent }, twin := { out := s.twin.out } }) ∧
    Completes (exec .sysRst s) (resets 2) ∧
    (s.flag F.CLK_RST_CFG_PERST_DEV 0 0 = true → Completes (exec .perst s) (resets 3)) ∧
    (s.flag F.CLK_RST_CFG_PERST_DEV 0 0 = false →
      (Completes (exec .perst s) fun t => cause 3 t ∧ DropsDma s t (fun c => (List.range s.numVf).any fun v =>
          (s.reg .HST_VF_DMA 0 (v + 1)).getLsbD c) ∧
        t.host = { out := s.host.out } ∧ ∀ r i k, r.desc.win = 0 → t.reg r i k = r.desc.reset) ∧
      ((∀ v c, 1 ≤ v → v ≤ s.numVf → c < 32 → (s.reg .HST_VF_DMA 0 v).getLsbD c = true → s.flag F.DMA_CFG_EN c 0 = false) →
      Completes (exec .perst s) fun t =>
        let goes (x : (Nat × Reg × Nat) × W32) : Bool :=
          x.1.2.1.desc.win == 0 || (List.range (s.numVf + 1)).any fun f => x.1.1 == Src.fn f
        t = { Around s t with
          host := { out := s.host.out }
          latches := s.latches.filter fun x => !goes x
          helds := s.helds.filter fun x => !goes x } ∧ cause 3 t ∧
        (∀ r i k, r ∉ [Reg.CLK_RST_CAUSE, .EVT_STAT] → t.reg r i k = if r.desc.win = 0 then r.desc.reset else s.reg r i k) ∧
        Posts s t ((List.range s.numVf).map (fun v => ⟨Src.host, 0x0023, [.u 1 (v + 1)]⟩) ++
          if s.fget F.HST_STAT_SPEED 0 0 = 0 then [] else [⟨Src.host, 0x0020, [.u 1 0, .u 1 0, .u 1 0]⟩]))) ∧
    (let go := val.getLsbD 0 = true ∧ bitsOf val 31 16 = 0x7E5D
     (go → Completes (exec (.softwareReset req val) s) (resets 4)) ∧ (¬ go → exec (.softwareReset req val) s = .next s)) ∧
    (Completes (exec .pllFault s) fun t =>
      ResetButFor s t [.CLK_RST_CAUSE, .CLK_STAT] ∧ cause 5 t ∧ t.time = { s.time with valid := false } ∧ t.events = [] ∧
      t.power = {} ∧ t.banks = [] ∧ t.sec.tamperPost = s.sec.tamperPost ∧ t.resets = { s.resets with device := true } ∧
      t.reg .CLK_STAT 0 0 = s.reg .CLK_STAT 0 0 &&& ~~~8#32) ∧
    (Completes (exec .thermalTrip s) fun t =>
      ResetButFor s t [.CLK_RST_CAUSE] ∧ cause 6 t ∧ t.time = s.time ∧ t.events = [] ∧ t.power = {} ∧ t.banks = [] ∧
      t.sec.tamperPost = s.sec.tamperPost ∧ t.resets = { s.resets with device := true, tripped := true }) ∧
    (∀ temp : BitVec 8,
      let warn := s.flag F.PWR_TEMP_WARN 0 0
      let shows : List FieldSet := [⟨F.PWR_TEMP_TEMP, 0, 0, temp.toNat⟩]
      (100 ≤ temp.toInt → warn = false → Completes (exec (.temperatureReading temp) s)
        (clock (shows ++ [⟨F.PWR_TEMP_WARN, 0, 0, 1⟩]) [⟨Src.power, 0x0203, [.u 1 1, .i 4 temp.toInt]⟩])) ∧
      (temp.toInt < 95 → warn = true → Completes (exec (.temperatureReading temp) s)
        (clock (shows ++ [⟨F.PWR_TEMP_WARN, 0, 0, 0⟩]) [⟨Src.power, 0x0203, [.u 1 0, .i 4 temp.toInt]⟩])) ∧
      (¬ (100 ≤ temp.toInt ∧ warn = false) → ¬ (temp.toInt < 95 ∧ warn = true) →
        Completes (exec (.temperatureReading temp) s) fun t => regsOnly t ∧ Sets s t shows)) ∧
    (∀ bootSel : BitVec 2,
      let may := s.resets.device = true ∧ s.resets.alwaysOn = false ∧ s.resets.mainGood = true ∧
        (s.resets.tripped = true → ((s.reg .PWR_TEMP 0 0).extractLsb' 0 8).toInt < 95)
      (may → Completes (exec (.deviceResetRelease bootSel) s) fun t =>
        ResetButFor s t [.CLK_STAT, .SEC_BOOT_STAT, .EVT_STAT] ∧ t.time = s.time ∧ t.power = {} ∧ t.banks = [] ∧
        t.sec.tamperPost = none ∧ t.resets = { s.resets with device := false, tripped := false } ∧
        t.reg .CLK_STAT 0 0 = s.reg .CLK_STAT 0 0 ||| 8 ∧
        t.fget F.SEC_BOOT_STAT_MODE 0 0 = bootSel.toNat ∧
        t.fget F.SEC_BOOT_STAT_STATE 0 0 = (if bootSel = 1 then 1 else 0) ∧
        Posts { ({} : State) with time := s.time } t
          ([⟨Src.clocks, 0x0104, [.u 1 (s.fget F.CLK_RST_CAUSE_CAUSE 0 0), .u 1 (if hold then 1 else 0)]⟩] ++
            match s.sec.tamperPost with
            | some n => [⟨Src.security, 0x0302, [.u 1 n]⟩]
            | none => [])) ∧
      (¬ may → exec (.deviceResetRelease bootSel) s = .next s))

/-- On R487 to R490, R131, R134, R138: a power request is checked against the unit that it names; a transition goes through HOLD,
retention, FILL or WAKE, and posts domain-change when it completes; a rake that comes back is mapped at once while a position is
lost, and a descriptor with beats outstanding at a domain that goes is lost. The refusal of RET to a domain that is OFF is the model's
choice (log entry 56). -/
def Obligations.PowerDomains : Prop :=
  ∀ (s : State) (req : Nat) (val : W32),
    let d := bitsOf val 7 0
    let x : DomState := if bitsOf val 9 8 = 0 then .off else if bitsOf val 9 8 = 1 then .ret else .on
    let allowed := x = .on ∨ (x = .ret ∧ (2 ≤ d ∧ d < 18 ∨ 122 ≤ d)) ∨ (x = .off ∧ 2 ≤ d ∧ d < 146)
    let refused (reason : Nat) (t : State) : Prop := t = Around s t ∧
      Sets s t [⟨F.PWR_STAT_REFUSED, 0, 0, 1⟩, ⟨F.PWR_STAT_REASON, 0, 0, reason⟩, ⟨F.PWR_STAT_DOMAIN, 0, 0, d⟩] ∧
      Posts s t [⟨Src.power, 0x0201, [.u 1 d, .u 1 (bitsOf val 9 8), .u 1 reason]⟩]
    let moves (y : DomState) (b : Option BankState) (t : State) : Prop :=
      t = { s with power := t.power, banks := t.banks, rakes := t.rakes } ∧
      (∀ e, t.dom e = if e = d then y else s.dom e) ∧
      (∀ e, Tab.find? e t.power.targets = if e = d then some x else Tab.find? e s.power.targets) ∧
      (∀ i, t.bank i = match b with | some y => if 2 ≤ d ∧ d < 146 ∧ i = d - 2 then y else s.bank i | none => s.bank i) ∧
      ∀ n, n < 104 → t.rake n = if s.dom d = .on ∧ d = n + 18 then { ({} : Rake) with st := .off } else s.rake n
    (∀ n, (n < 16 → (s.domIdle (2 + n) = true ↔ ∀ i, i < 4 → (s.pgm (4 * n + i)).st = .idle)) ∧
      (n < 104 → (s.domIdle (18 + n) = true ↔ (s.rake n).st = .spare)) ∧
      (n < 4 → (s.domIdle (122 + n) = true ↔ ∀ c, c < 8 → (s.slu n c).st = .closed)) ∧
      (n < 8 → (s.domIdle (126 + n) = true ↔ ∀ q, q < 8 → bitsOf (s.cmpOut n q).cur.out 1 0 = 0 ∧
        ∀ p, (s.cmpOut n q).pend = some p → bitsOf p.out 1 0 = 0)) ∧
      (n < 4 → (s.domIdle (134 + n) = true ↔ (s.head n).st = .off)) ∧
      (n < 8 → (s.domIdle (138 + n) = true ↔ s.fget F.ETH_CFG_MODE n 0 = 0 ∧ ∀ q ∈ (s.tsh n).queues, q.2.st = .closed)) ∧
      (n < 2 → (s.domIdle (146 + n) = true ↔ s.ledger.used 52 = 0 ∧ ∀ c, c < 16 → (s.mc c).st ≠ .init))) ∧
    (147 < d ∨ bitsOf val 9 8 = 3 → Completes (exec (.powerRequest req val) s) (refused 2)) ∧
    (d < 148 → bitsOf val 9 8 ≠ 3 →
      let still := Tab.find? d s.power.targets = none
      (¬ still → Completes (exec (.powerRequest req val) s) fun t =>
        t = { s with regs := t.regs } ∧ Sets s t [⟨F.PWR_STAT_DROPPED, 0, 0, 1⟩]) ∧
      (still → s.dom d = x → exec (.powerRequest req val) s = .next s) ∧
      (still → s.dom d ≠ x → ¬ allowed ∨ (s.dom d = .off ∧ x = .ret) → Completes (exec (.powerRequest req val) s) (refused 2)) ∧
      (still → s.dom d = .on → x ≠ .on → allowed →
        (s.domIdle d = true → Completes (exec (.powerRequest req val) s) (moves .hold none)) ∧
        (s.domIdle d = false → Completes (exec (.powerRequest req val) s) (refused (if 146 ≤ d then 3 else 1)))) ∧
      (still → s.dom d = .ret → x = .on → Completes (exec (.powerRequest req val) s) (moves .wake (some .wake))) ∧
      (still → s.dom d = .ret → x = .off → allowed → Completes (exec (.powerRequest req val) s) (moves .ret none)) ∧
      (still → s.dom d = .off → x = .on → Completes (exec (.powerRequest req val) s) (moves .fill (some .fill)))) ∧
    (∀ e, e < 148 →
      let ends (y : DomState) (t : State) : Prop :=
        (∀ c, t.dom c = if c = e then y else s.dom c) ∧
        (∀ c, Tab.find? c t.power.targets = if c = e then none else Tab.find? c s.power.targets) ∧
        Posts s t [⟨Src.power, 0x0200, [.u 1 e, .u 1 (if y = .off then 0 else if y = .ret then 3 else 2)]⟩]
      let banked (b : BankState) (t : State) : Prop := ∀ i, t.bank i = if i = e - 2 then b else s.bank i
      let quiet := ∀ c r, c < 32 → (s.dc c).run = some r → (s.dc c).paused = true ∨ r.status ≠ none ∨ r.touches e = false
      (Tab.find? e s.power.targets = none → exec (.powerTransitionDone e) s = .next s) ∧
      (∀ y b, Tab.find? e s.power.targets = some y → 2 ≤ e → e < 146 → (y = .off ∧ b = .off) ∨ (y = .ret ∧ b = .ret) →
        (s.dom e = .hold ∧ quiet) ∨ (s.dom e = .ret ∧ y = .off) → Completes (exec (.powerTransitionDone e) s) fun t =>
          t = { Around s t with power := t.power, banks := t.banks } ∧ ends y t ∧ banked b t ∧ Sets s t []) ∧
      (∀ first, first = (if e = 146 then 0 else 8) → 146 ≤ e → s.ledger.used 52 = 0 →
        let stack (a b : McState) (t : State) : Prop :=
          t = { Around s t with power := t.power, mcs := t.mcs } ∧ Sets s t [] ∧
          ∀ n, t.mc n = if first ≤ n ∧ n < first + 8 ∧ (s.mc n).st = a then { s.mc n with st := b } else s.mc n
        (s.dom e = .hold → Tab.find? e s.power.targets = some .ret → quiet →
          Completes (exec (.powerTransitionDone e) s) fun t => ends .ret t ∧ stack .run .sref t) ∧
        (s.dom e = .wake → Tab.find? e s.power.targets = some .on →
          Completes (exec (.powerTransitionDone e) s) fun t => ends .on t ∧ stack .sref .run t)) ∧
      (s.dom e = .wake → Tab.find? e s.power.targets = some .on → 2 ≤ e → e < 146 → s.bank (e - 2) = .wake →
        ∀ i ∈ [Instr.powerTransitionDone e, .bankWakeComplete (e - 2)], Completes (exec i s) fun t =>
          t = { Around s t with power := t.power, banks := t.banks } ∧ ends .on t ∧ banked .on t ∧ Sets s t []) ∧
      (s.dom e = .fill → Tab.find? e s.power.targets = some .on → 2 ≤ e → e < 146 → s.bank (e - 2) = .fill →
        Memory.wf s.mem → (18 ≤ e → e < 122 → ∀ p, p < 96 → Tab.find? p s.mgr.lost = none) →
        ∀ i ∈ [Instr.powerTransitionDone e, .bankFillComplete (e - 2)], Completes (exec i s) fun t =>
          t = { Around s t with
            power := t.power, banks := t.banks, mem := t.mem, rakes := t.rakes, pgms := t.pgms, slus := t.slus
            cmps := t.cmps, heads := t.heads, net := { s.net with tsh := t.net.tsh } } ∧
          ends .on t ∧ banked .on t ∧
          (∀ a, a % 32 = 0 → a < 2 ^ 48 → readCode t.mem a =
            if bankBase (e - 2) ≤ a ∧ a < bankBase (e - 2) + bankSize (e - 2) then poisonWord else readCode s.mem a) ∧
          (∀ k : RegKey, k.reg ≠ .EVT_STAT →
            t.reg k.reg k.inst k.sub = if k.inDom e then k.reg.desc.reset else s.reg k.reg k.inst k.sub) ∧
          (∀ n, t.pgm n = if n / 4 + 2 = e ∧ e < 18 then {} else s.pgm n) ∧
          (∀ n, n < 104 → t.rake n = if n + 18 = e then {} else s.rake n) ∧
          (∀ n c, n < 4 → t.slu n c = if n + 122 = e then {} else s.slu n c) ∧
          (∀ n q, n < 8 → t.cmpOut n q = if n + 126 = e then {} else s.cmpOut n q) ∧
          (∀ n, n < 4 → t.head n = if n + 134 = e then {} else s.head n) ∧
          ∀ n, n < 8 → t.tsh n = if n + 138 = e then {} else s.tsh n) ∧
      (∀ p, s.dom e = .fill → Tab.find? e s.power.targets = some .on → 18 ≤ e → e < 122 → s.bank (e - 2) = .fill →
        p < 96 → Tab.find? p s.mgr.lost ≠ none → (∀ q, q < p → Tab.find? q s.mgr.lost = none) →
        ∀ i ∈ [Instr.powerTransitionDone e, .bankFillComplete (e - 2)], Completes (exec i s) fun t =>
          t.dom e = .on ∧ Tab.find? e t.power.targets = none ∧ t.bank (e - 2) = .on ∧ Tab.find? p t.mgr.lost = none ∧
          t.rake (e - 18) = { ({} : Rake) with st := .loading, pos := some p, loadFrom := some (s.imageAddr p) }) ∧
      (∀ y c r, c < 32 → s.dom e = .hold → Tab.find? e s.power.targets = some y → 2 ≤ e → e < 146 → y = .off ∨ y = .ret →
        (s.dc c).run = some r → (s.dc c).paused = false → r.status = none → r.touches e = true →
        Completes (exec (.powerTransitionDone e) s) fun t =>
          t.dom e = y ∧ (t.dc c).run = none ∧ (t.dc c).done = r.done))

/-! ### The block as a whole -/

/-- A step takes the command at the front of the queue and runs it on the state with the queue's rest. With an empty queue the
part idles: the model's choice (log entry 2). -/
def Obligations.StepRunsQueueFront : Prop :=
  (∀ (c : Instr) (rest : List Instr) (s : State), s.pending = c :: rest → step s = exec c { s with pending := rest }) ∧
  ∀ s : State, s.pending = [] → step s = .next s

/-- Which commands complete: every command of the table that names units that the part has, in every state; and it leaves the
other commands that wait as they are. One that names a unit that the part has not, or an address outside the address space, stops
by name and has no effect.
The model's readings and choices where the spec leaves it open: log entries 3 and 5. -/
def Obligations.PresentCommandsComplete : Prop :=
  ∀ (i : Instr) (s : State),
    (present i = true → Completes (exec i s) fun t => t.pending = s.pending) ∧
    (present i = false → (∃ what, exec i s = .refused (.noSuchUnit what)) ∨ ∃ a, exec i s = .fault (.outsideAddressSpace a))

/-- Encoding and decoding of the Glidel instructions (R57 to R59, tables ISA-4 to ISA-12): every well-formed instruction has a
word, and that word decodes to it on its rake; so no two instructions share a word.
The model's reading or choice where the spec leaves it open: log entry 19. -/
def Obligations.GlidelDecodeOfEncode : Prop :=
  ∀ (i : Instr) (rk : Nat), i.wf = true → glidelRake i = some rk →
    ∃ w, encodeGlidel i = some w ∧ decodeGlidel rk w = some i

/-- Memory keeps its canonical form at every step, from every state that has it: two memories that read alike are one list.
The model's reading or choice where the spec leaves it open: log entry 4. -/
def Obligations.MemoryStaysCanonical : Prop :=
  ∀ s t : State, Memory.wf s.mem → step s = .next t → Memory.wf t.mem

/-- The part right after reset: units, banks, controllers and programmes as the spec leaves them, and registers at the reset
values of their tables. What HBM and the banks read as before they are written, the poison pattern, is the model's choice for HBM
(log entry 4).
The model's readings and choices where the spec leaves it open: log entries 57, 58 and 65. -/
def Obligations.ResetState : Prop :=
  let s := State.reset
  s.pending = [] ∧ Memory.wf s.mem ∧ (∀ a, a < 2 ^ 43 → readCode s.mem (32 * a) = poisonWord) ∧
  (∀ i, s.bank i = .fill) ∧ (∀ d, s.dom d = .on) ∧ (∀ n, (s.mc n).st = .off) ∧
  (∀ n, n < 96 → (s.rake n).st = .empty ∧ (s.rake n).pos = some n) ∧ (∀ n, 96 ≤ n → n < 104 → (s.rake n).st = .spare) ∧
  (∀ n, (s.slot n).st = .free) ∧ (∀ k, (s.pgm k).st = .idle) ∧ (∀ n c, (s.slu n c).st = .closed) ∧
  (∀ n, (s.head n).st = .off) ∧ (∀ n, s.evSource n = {}) ∧ s.twin.st = .solo ∧
  (∀ r i k, s.reg r i k = r.desc.reset) ∧ s.reg .CLK_RST_CFG 0 0 = 1 ∧ s.reg .CLK_RST_CAUSE 0 0 = 1 ∧
  s.reg .PWR_DOM_STATE 0 0 = 2 ∧ s.fget F.HRW_PERIOD_SECONDS 0 0 = 3600 ∧ s.time.valid = false
end

