-- ==== Sys2Proof/Laws/Bits.lean ====
section
/-! SUPPORT. The laws of bit fields: a field read after a field write. -/

namespace Sys2Proof.Laws

open Sys2Proof.Machine

theorem testBit_mask (k lo i : Nat) :
    Nat.testBit ((2 ^ k - 1) * 2 ^ lo) i = (decide (lo ≤ i) && decide (i < lo + k)) := by
  rw [Nat.testBit_mul_two_pow, Nat.testBit_two_pow_sub_one]
  by_cases h : lo ≤ i
  · simp [h]; omega
  · simp [h]

/-- The bits of a word with a field replaced. -/
theorem getLsbD_setBits (w : W32) (hi lo v i : Nat) (hi32 : i < 32) (hlo : lo ≤ hi) :
    (setBits w hi lo v).getLsbD i =
      if lo ≤ i ∧ i ≤ hi then v.testBit (i - lo) else w.getLsbD i := by
  have e : hi - lo + 1 = hi + 1 - lo := by omega
  simp only [setBits, BitVec.getLsbD_or, BitVec.getLsbD_and, BitVec.getLsbD_not, BitVec.getLsbD_ofNat, testBit_mask,
    Nat.testBit_mul_two_pow, Nat.testBit_mod_two_pow, hi32, decide_true, Bool.true_and]
  by_cases h1 : lo ≤ i
  · by_cases h2 : i ≤ hi
    · have h3 : i < lo + (hi - lo + 1) := by omega
      have h4 : i - lo < hi - lo + 1 := by omega
      simp [h1, h2, h3, h4]
    · have h3 : ¬ i < lo + (hi - lo + 1) := by omega
      have h4 : ¬ i - lo < hi - lo + 1 := by omega
      simp [h1, h2, h3, h4]
  · simp [h1]

theorem bitsOf_eq {n : Nat} (w : BitVec n) (hi lo : Nat) :
    bitsOf w hi lo = (w.extractLsb' lo (hi - lo + 1)).toNat := by
  simp [bitsOf, BitVec.extractLsb'_toNat, Nat.shiftRight_eq_div_pow]

theorem testBit_bitsOf {n : Nat} (w : BitVec n) (hi lo i : Nat) :
    (bitsOf w hi lo).testBit i = (decide (i < hi - lo + 1) && w.getLsbD (lo + i)) := by
  rw [bitsOf_eq, BitVec.testBit_toNat, BitVec.getLsbD_extractLsb']

/-- A field of a word in which it was just replaced. -/
theorem bitsOf_setBits_same (w : W32) (hi lo v : Nat) (h32 : hi < 32) (hlo : lo ≤ hi) :
    bitsOf (setBits w hi lo v) hi lo = v % 2 ^ (hi - lo + 1) := by
  apply Nat.eq_of_testBit_eq
  intro i
  rw [testBit_bitsOf, Nat.testBit_mod_two_pow]
  by_cases h : i < hi - lo + 1
  · have h1 : lo + i < 32 := by omega
    rw [getLsbD_setBits w hi lo v (lo + i) h1 hlo]
    have h2 : lo ≤ lo + i ∧ lo + i ≤ hi := by omega
    simp [h, h2]
  · simp [h]

/-- A field of a word in which another field was replaced. -/
theorem bitsOf_setBits_ne (w : W32) (hi lo v h l : Nat) (h32 : h < 32) (hlo : lo ≤ hi) (hl : l ≤ h)
    (hd : h < lo ∨ hi < l) : bitsOf (setBits w hi lo v) h l = bitsOf w h l := by
  apply Nat.eq_of_testBit_eq
  intro i
  rw [testBit_bitsOf, testBit_bitsOf]
  by_cases hh : i < h - l + 1
  · have h1 : l + i < 32 := by omega
    rw [getLsbD_setBits w hi lo v (l + i) h1 hlo]
    have h2 : ¬ (lo ≤ l + i ∧ l + i ≤ hi) := by omega
    simp [hh, h2]
  · simp [hh]

theorem bitsOf_lt {n : Nat} (w : BitVec n) (hi lo : Nat) : bitsOf w hi lo < 2 ^ (hi - lo + 1) := by
  unfold bitsOf; exact Nat.mod_lt _ (Nat.two_pow_pos _)

end Sys2Proof.Laws
end

