-- ==== Sys2Proof/Laws/Ecc.lean ====
section
/-! SUPPORT. The code of the protected word (R113 to R120): GF(16) is distributive and associative where the code needs it, so the
syndrome of an encoded word is 0 and the word decodes to its data; the poison pattern decodes to poison. -/

namespace Sys2Proof.Laws

open Sys2Proof.Machine

/-! ### GF(16) -/

theorem gfMul_xor_left : ∀ a b c : BitVec 4, gfMul (a ^^^ b) c = gfMul a c ^^^ gfMul b c := by decide +kernel

theorem gfMul_8_xor : ∀ b c : BitVec 4, gfMul 0x8#4 (b ^^^ c) = gfMul 0x8#4 b ^^^ gfMul 0x8#4 c := by decide +kernel

theorem gfMul_8_mul : ∀ b c : BitVec 4, gfMul 0x8#4 (gfMul b c) = gfMul (gfMul 0x8#4 b) c := by decide +kernel

/-! ### Sums over the data symbols -/

theorem symSum_congr {f g : BitVec 4 → BitVec 4 → BitVec 4} (h : ∀ a b, f a b = g a b) (d : BitVec 128) (n : Nat)
    (l : List (BitVec 4 × BitVec 4)) : symSum f d n l = symSum g d n l := by
  have : f = g := funext fun a => funext fun b => h a b
  rw [this]

/-- A sum of coefficients sums apart. -/
theorem symSum_xor (f g : BitVec 4 → BitVec 4 → BitVec 4) (d : BitVec 128) (n : Nat) (l : List (BitVec 4 × BitVec 4)) :
    symSum (fun a b => f a b ^^^ g a b) d n l = symSum f d n l ^^^ symSum g d n l := by
  induction l generalizing n with
  | nil => simp [symSum]
  | cons x t ih =>
    simp only [symSum, gfMul_xor_left, ih]
    ac_rfl

/-- The factor 8 of the coefficients comes out. -/
theorem symSum_mul (f : BitVec 4 → BitVec 4 → BitVec 4) (d : BitVec 128) (n : Nat)
    (l : List (BitVec 4 × BitVec 4)) : symSum (fun a b => gfMul 0x8#4 (f a b)) d n l = gfMul 0x8#4 (symSum f d n l) := by
  induction l generalizing n with
  | nil => simp only [symSum]; decide
  | cons x t ih => simp only [symSum, gfMul_8_xor, gfMul_8_mul, ih]

/-! ### Check symbols -/

/-- Bits of the right part of two side by side. -/
theorem extract_right {m n : Nat} (a : BitVec m) (b : BitVec n) (k w : Nat) (h : k + w ≤ n) :
    (a ++ b).extractLsb' k w = b.extractLsb' k w := by
  apply BitVec.eq_of_getLsbD_eq; intro i hi
  simp only [BitVec.getLsbD_extractLsb', BitVec.getLsbD_append, hi, show k + i < n by omega, if_true]

/-- Bits of the left part of two side by side. -/
theorem extract_left {m n : Nat} (a : BitVec m) (b : BitVec n) (k w : Nat) (h : n ≤ k) :
    (a ++ b).extractLsb' k w = a.extractLsb' (k - n) w := by
  apply BitVec.eq_of_getLsbD_eq; intro i hi
  simp only [BitVec.getLsbD_extractLsb', BitVec.getLsbD_append, hi, show ¬ k + i < n by omega, if_false,
    show k + i - n = k - n + i by omega]

theorem extract_all {n : Nat} (b : BitVec n) : b.extractLsb' 0 n = b := by
  apply BitVec.eq_of_getLsbD_eq; intro i hi
  simp [hi]

/-- The symbols of four symbols side by side. -/
theorem chkSym_append (c0 c1 c2 c3 : BitVec 4) : chkSym (c3 ++ c2 ++ c1 ++ c0) 0 = c0 ∧ chkSym (c3 ++ c2 ++ c1 ++ c0) 1 = c1 ∧
    chkSym (c3 ++ c2 ++ c1 ++ c0) 2 = c2 ∧ chkSym (c3 ++ c2 ++ c1 ++ c0) 3 = c3 :=
  ⟨(extract_right (c3 ++ c2 ++ c1) c0 0 4 (by decide)).trans (extract_all c0),
   (extract_left (c3 ++ c2 ++ c1) c0 4 4 (by decide)).trans
    ((extract_right (c3 ++ c2) c1 0 4 (by decide)).trans (extract_all c1)),
   (extract_left (c3 ++ c2 ++ c1) c0 8 4 (by decide)).trans
    ((extract_left (c3 ++ c2) c1 4 4 (by decide)).trans ((extract_right c3 c2 0 4 (by decide)).trans (extract_all c2))),
   (extract_left (c3 ++ c2 ++ c1) c0 12 4 (by decide)).trans
    ((extract_left (c3 ++ c2) c1 8 4 (by decide)).trans ((extract_left c3 c2 4 4 (by decide)).trans (extract_all c3)))⟩

/-- The syndrome of a half with its own check bits is 0 (R116, R117). -/
theorem syndrome_checkBits (d : BitVec 128) : syndrome d (checkBits d) = 0 := by
  obtain ⟨h0, h1, h2, h3⟩ := chkSym_append (symSum (genNibble 0) d 0 symPair) (symSum (genNibble 1) d 0 symPair)
    (symSum (genNibble 2) d 0 symPair) (symSum (genNibble 3) d 0 symPair)
  have e0 : symSum (genNibble 0) d 0 symPair =
      symSum (fun _ _ => 0x1#4) d 0 symPair ^^^ symSum (fun a _ => a) d 0 symPair ^^^ symSum (fun _ b => b) d 0 symPair := by
    rw [← symSum_xor, ← symSum_xor]; rfl
  have e1 : symSum (genNibble 1) d 0 symPair = symSum quadric d 0 symPair ^^^ symSum (fun a _ => a) d 0 symPair ^^^
      gfMul 0x8#4 (symSum (fun _ b => b) d 0 symPair) := by
    rw [← symSum_mul, ← symSum_xor, ← symSum_xor]; rfl
  have e2 : symSum (genNibble 2) d 0 symPair = symSum (fun a _ => a) d 0 symPair := rfl
  have e3 : symSum (genNibble 3) d 0 symPair = symSum (fun _ b => b) d 0 symPair := rfl
  have g (j : Nat) (c : BitVec 4) (h : chkSym (symSum (genNibble 3) d 0 symPair ++ symSum (genNibble 2) d 0 symPair ++
      symSum (genNibble 1) d 0 symPair ++ symSum (genNibble 0) d 0 symPair) j = c) : chkSym (checkBits d) j = c := h
  unfold syndrome
  simp only [g 0 _ h0, g 1 _ h1, g 2 _ h2, g 3 _ h3, e0, e1, e2, e3]
  generalize symSum (fun _ _ => 0x1#4) d 0 symPair = p
  generalize symSum (fun a _ => a) d 0 symPair = q
  generalize gfMul 0x8#4 (symSum (fun _ b => b) d 0 symPair) = u
  generalize symSum (fun _ b => b) d 0 symPair = r
  generalize symSum quadric d 0 symPair = v
  have a0 : p ^^^ q ^^^ r ^^^ q ^^^ r ^^^ p = 0#4 := by
    rw [show p ^^^ q ^^^ r ^^^ q ^^^ r ^^^ p = (p ^^^ p) ^^^ (q ^^^ q) ^^^ (r ^^^ r) by ac_rfl]; simp
  have a3 : v ^^^ q ^^^ u ^^^ q ^^^ u ^^^ v = 0#4 := by
    rw [show v ^^^ q ^^^ u ^^^ q ^^^ u ^^^ v = (v ^^^ v) ^^^ (q ^^^ q) ^^^ (u ^^^ u) by ac_rfl]; simp
  rw [a0, a3]; simp

/-! ### Code words -/

@[simp] theorem cwData_encodeWord (d : W256) : cwData (encodeWord d) = d :=
  (extract_right (checkBits (d.extractLsb' 128 128) ++ checkBits (d.extractLsb' 0 128)) d 0 256 (by decide)).trans
    (extract_all d)

/-- A half of an encoded word: its data, and their check bits (R113). -/
theorem cwHalf_encodeWord (d : W256) : cwHalf (encodeWord d) 0 = d.extractLsb' 0 128 ∧
    cwHalf (encodeWord d) 1 = d.extractLsb' 128 128 :=
  ⟨extract_right (checkBits (d.extractLsb' 128 128) ++ checkBits (d.extractLsb' 0 128)) d 0 128 (by decide),
   extract_right (checkBits (d.extractLsb' 128 128) ++ checkBits (d.extractLsb' 0 128)) d 128 128 (by decide)⟩

theorem cwCheck_encodeWord (d : W256) : cwCheck (encodeWord d) 0 = checkBits (d.extractLsb' 0 128) ∧
    cwCheck (encodeWord d) 1 = checkBits (d.extractLsb' 128 128) :=
  ⟨(extract_left (checkBits (d.extractLsb' 128 128) ++ checkBits (d.extractLsb' 0 128)) d 256 16 (by decide)).trans
    ((extract_right (checkBits (d.extractLsb' 128 128)) (checkBits (d.extractLsb' 0 128)) 0 16 (by decide)).trans (extract_all _)),
   (extract_left (checkBits (d.extractLsb' 128 128) ++ checkBits (d.extractLsb' 0 128)) d 272 16 (by decide)).trans
    ((extract_left (checkBits (d.extractLsb' 128 128)) (checkBits (d.extractLsb' 0 128)) 16 16 (by decide)).trans (extract_all _))⟩

/-- An encoded word decodes to its data (R119). -/
@[simp] theorem decodeWord_encodeWord (d : W256) : decodeWord (encodeWord d) = .clean d := by
  unfold decodeWord
  rw [(cwHalf_encodeWord d).1, (cwHalf_encodeWord d).2, (cwCheck_encodeWord d).1, (cwCheck_encodeWord d).2]
  simp [decodeHalf, syndrome_checkBits]

/-- The poison pattern decodes to poison (R120). -/
@[simp] theorem decodeWord_poisonWord : decodeWord poisonWord = .poisoned := by decide

end Sys2Proof.Laws
end

