-- ==== Sys2Proof/Laws/State.lean ====
section
/-! SUPPORT. The plain updates of the state, field by field: each leaves every field but its own as it was. -/

namespace Sys2Proof.Laws

open Sys2Proof.Machine

@[simp] theorem setReg_pending (s : State) (r : Reg) (inst sub : Nat) (v : W32) : (s.setReg r inst sub v).pending = s.pending := rfl
@[simp] theorem setReg_freeCtr (s : State) (r : Reg) (inst sub : Nat) (v : W32) : (s.setReg r inst sub v).freeCtr = s.freeCtr := rfl
@[simp] theorem setReg_answers (s : State) (r : Reg) (inst sub : Nat) (v : W32) : (s.setReg r inst sub v).answers = s.answers := rfl
@[simp] theorem setReg_latches (s : State) (r : Reg) (inst sub : Nat) (v : W32) : (s.setReg r inst sub v).latches = s.latches := rfl
@[simp] theorem setReg_helds (s : State) (r : Reg) (inst sub : Nat) (v : W32) : (s.setReg r inst sub v).helds = s.helds := rfl
@[simp] theorem setReg_mem (s : State) (r : Reg) (inst sub : Nat) (v : W32) : (s.setReg r inst sub v).mem = s.mem := rfl
@[simp] theorem setReg_events (s : State) (r : Reg) (inst sub : Nat) (v : W32) : (s.setReg r inst sub v).events = s.events := rfl
@[simp] theorem setReg_ledger (s : State) (r : Reg) (inst sub : Nat) (v : W32) : (s.setReg r inst sub v).ledger = s.ledger := rfl
@[simp] theorem setReg_rakes (s : State) (r : Reg) (inst sub : Nat) (v : W32) : (s.setReg r inst sub v).rakes = s.rakes := rfl
@[simp] theorem setReg_mgr (s : State) (r : Reg) (inst sub : Nat) (v : W32) : (s.setReg r inst sub v).mgr = s.mgr := rfl
@[simp] theorem setReg_tally (s : State) (r : Reg) (inst sub : Nat) (v : W32) : (s.setReg r inst sub v).tally = s.tally := rfl
@[simp] theorem setReg_queues (s : State) (r : Reg) (inst sub : Nat) (v : W32) : (s.setReg r inst sub v).queues = s.queues := rfl
@[simp] theorem setReg_mcs (s : State) (r : Reg) (inst sub : Nat) (v : W32) : (s.setReg r inst sub v).mcs = s.mcs := rfl
@[simp] theorem setReg_banks (s : State) (r : Reg) (inst sub : Nat) (v : W32) : (s.setReg r inst sub v).banks = s.banks := rfl
@[simp] theorem setReg_harrow (s : State) (r : Reg) (inst sub : Nat) (v : W32) : (s.setReg r inst sub v).harrow = s.harrow := rfl
@[simp] theorem setReg_time (s : State) (r : Reg) (inst sub : Nat) (v : W32) : (s.setReg r inst sub v).time = s.time := rfl
@[simp] theorem setReg_dma (s : State) (r : Reg) (inst sub : Nat) (v : W32) : (s.setReg r inst sub v).dma = s.dma := rfl
@[simp] theorem setReg_releases (s : State) (r : Reg) (inst sub : Nat) (v : W32) : (s.setReg r inst sub v).releases = s.releases := rfl
@[simp] theorem setReg_host (s : State) (r : Reg) (inst sub : Nat) (v : W32) : (s.setReg r inst sub v).host = s.host := rfl
@[simp] theorem setReg_power (s : State) (r : Reg) (inst sub : Nat) (v : W32) : (s.setReg r inst sub v).power = s.power := rfl
@[simp] theorem setReg_resets (s : State) (r : Reg) (inst sub : Nat) (v : W32) : (s.setReg r inst sub v).resets = s.resets := rfl
@[simp] theorem setReg_sec (s : State) (r : Reg) (inst sub : Nat) (v : W32) : (s.setReg r inst sub v).sec = s.sec := rfl
@[simp] theorem setReg_chk (s : State) (r : Reg) (inst sub : Nat) (v : W32) : (s.setReg r inst sub v).chk = s.chk := rfl
@[simp] theorem setReg_pgms (s : State) (r : Reg) (inst sub : Nat) (v : W32) : (s.setReg r inst sub v).pgms = s.pgms := rfl
@[simp] theorem setReg_cmps (s : State) (r : Reg) (inst sub : Nat) (v : W32) : (s.setReg r inst sub v).cmps = s.cmps := rfl
@[simp] theorem setReg_colours (s : State) (r : Reg) (inst sub : Nat) (v : W32) : (s.setReg r inst sub v).colours = s.colours := rfl
@[simp] theorem setReg_heads (s : State) (r : Reg) (inst sub : Nat) (v : W32) : (s.setReg r inst sub v).heads = s.heads := rfl
@[simp] theorem setReg_headOut (s : State) (r : Reg) (inst sub : Nat) (v : W32) : (s.setReg r inst sub v).headOut = s.headOut := rfl
@[simp] theorem setReg_slus (s : State) (r : Reg) (inst sub : Nat) (v : W32) : (s.setReg r inst sub v).slus = s.slus := rfl
@[simp] theorem setReg_net (s : State) (r : Reg) (inst sub : Nat) (v : W32) : (s.setReg r inst sub v).net = s.net := rfl
@[simp] theorem setReg_audio (s : State) (r : Reg) (inst sub : Nat) (v : W32) : (s.setReg r inst sub v).audio = s.audio := rfl
@[simp] theorem setReg_lanes (s : State) (r : Reg) (inst sub : Nat) (v : W32) : (s.setReg r inst sub v).lanes = s.lanes := rfl
@[simp] theorem setReg_sdi (s : State) (r : Reg) (inst sub : Nat) (v : W32) : (s.setReg r inst sub v).sdi = s.sdi := rfl
@[simp] theorem setReg_prbs (s : State) (r : Reg) (inst sub : Nat) (v : W32) : (s.setReg r inst sub v).prbs = s.prbs := rfl
@[simp] theorem setReg_twin (s : State) (r : Reg) (inst sub : Nat) (v : W32) : (s.setReg r inst sub v).twin = s.twin := rfl
@[simp] theorem setReg_pmu (s : State) (r : Reg) (inst sub : Nat) (v : W32) : (s.setReg r inst sub v).pmu = s.pmu := rfl
@[simp] theorem setReg_tags (s : State) (r : Reg) (inst sub : Nat) (v : W32) : (s.setReg r inst sub v).tags = s.tags := rfl
@[simp] theorem setReg_snaps (s : State) (r : Reg) (inst sub : Nat) (v : W32) : (s.setReg r inst sub v).snaps = s.snaps := rfl
@[simp] theorem setReg_tagged (s : State) (r : Reg) (inst sub : Nat) (v : W32) : (s.setReg r inst sub v).tagged = s.tagged := rfl

@[simp] theorem fset_pending (s : State) (f : Fld) (inst sub v : Nat) : (s.fset f inst sub v).pending = s.pending := rfl
@[simp] theorem fset_freeCtr (s : State) (f : Fld) (inst sub v : Nat) : (s.fset f inst sub v).freeCtr = s.freeCtr := rfl
@[simp] theorem fset_answers (s : State) (f : Fld) (inst sub v : Nat) : (s.fset f inst sub v).answers = s.answers := rfl
@[simp] theorem fset_latches (s : State) (f : Fld) (inst sub v : Nat) : (s.fset f inst sub v).latches = s.latches := rfl
@[simp] theorem fset_helds (s : State) (f : Fld) (inst sub v : Nat) : (s.fset f inst sub v).helds = s.helds := rfl
@[simp] theorem fset_mem (s : State) (f : Fld) (inst sub v : Nat) : (s.fset f inst sub v).mem = s.mem := rfl
@[simp] theorem fset_events (s : State) (f : Fld) (inst sub v : Nat) : (s.fset f inst sub v).events = s.events := rfl
@[simp] theorem fset_ledger (s : State) (f : Fld) (inst sub v : Nat) : (s.fset f inst sub v).ledger = s.ledger := rfl
@[simp] theorem fset_rakes (s : State) (f : Fld) (inst sub v : Nat) : (s.fset f inst sub v).rakes = s.rakes := rfl
@[simp] theorem fset_mgr (s : State) (f : Fld) (inst sub v : Nat) : (s.fset f inst sub v).mgr = s.mgr := rfl
@[simp] theorem fset_tally (s : State) (f : Fld) (inst sub v : Nat) : (s.fset f inst sub v).tally = s.tally := rfl
@[simp] theorem fset_queues (s : State) (f : Fld) (inst sub v : Nat) : (s.fset f inst sub v).queues = s.queues := rfl
@[simp] theorem fset_mcs (s : State) (f : Fld) (inst sub v : Nat) : (s.fset f inst sub v).mcs = s.mcs := rfl
@[simp] theorem fset_banks (s : State) (f : Fld) (inst sub v : Nat) : (s.fset f inst sub v).banks = s.banks := rfl
@[simp] theorem fset_harrow (s : State) (f : Fld) (inst sub v : Nat) : (s.fset f inst sub v).harrow = s.harrow := rfl
@[simp] theorem fset_time (s : State) (f : Fld) (inst sub v : Nat) : (s.fset f inst sub v).time = s.time := rfl
@[simp] theorem fset_dma (s : State) (f : Fld) (inst sub v : Nat) : (s.fset f inst sub v).dma = s.dma := rfl
@[simp] theorem fset_releases (s : State) (f : Fld) (inst sub v : Nat) : (s.fset f inst sub v).releases = s.releases := rfl
@[simp] theorem fset_host (s : State) (f : Fld) (inst sub v : Nat) : (s.fset f inst sub v).host = s.host := rfl
@[simp] theorem fset_power (s : State) (f : Fld) (inst sub v : Nat) : (s.fset f inst sub v).power = s.power := rfl
@[simp] theorem fset_resets (s : State) (f : Fld) (inst sub v : Nat) : (s.fset f inst sub v).resets = s.resets := rfl
@[simp] theorem fset_sec (s : State) (f : Fld) (inst sub v : Nat) : (s.fset f inst sub v).sec = s.sec := rfl
@[simp] theorem fset_chk (s : State) (f : Fld) (inst sub v : Nat) : (s.fset f inst sub v).chk = s.chk := rfl
@[simp] theorem fset_pgms (s : State) (f : Fld) (inst sub v : Nat) : (s.fset f inst sub v).pgms = s.pgms := rfl
@[simp] theorem fset_cmps (s : State) (f : Fld) (inst sub v : Nat) : (s.fset f inst sub v).cmps = s.cmps := rfl
@[simp] theorem fset_colours (s : State) (f : Fld) (inst sub v : Nat) : (s.fset f inst sub v).colours = s.colours := rfl
@[simp] theorem fset_heads (s : State) (f : Fld) (inst sub v : Nat) : (s.fset f inst sub v).heads = s.heads := rfl
@[simp] theorem fset_headOut (s : State) (f : Fld) (inst sub v : Nat) : (s.fset f inst sub v).headOut = s.headOut := rfl
@[simp] theorem fset_slus (s : State) (f : Fld) (inst sub v : Nat) : (s.fset f inst sub v).slus = s.slus := rfl
@[simp] theorem fset_net (s : State) (f : Fld) (inst sub v : Nat) : (s.fset f inst sub v).net = s.net := rfl
@[simp] theorem fset_audio (s : State) (f : Fld) (inst sub v : Nat) : (s.fset f inst sub v).audio = s.audio := rfl
@[simp] theorem fset_lanes (s : State) (f : Fld) (inst sub v : Nat) : (s.fset f inst sub v).lanes = s.lanes := rfl
@[simp] theorem fset_sdi (s : State) (f : Fld) (inst sub v : Nat) : (s.fset f inst sub v).sdi = s.sdi := rfl
@[simp] theorem fset_prbs (s : State) (f : Fld) (inst sub v : Nat) : (s.fset f inst sub v).prbs = s.prbs := rfl
@[simp] theorem fset_twin (s : State) (f : Fld) (inst sub v : Nat) : (s.fset f inst sub v).twin = s.twin := rfl
@[simp] theorem fset_pmu (s : State) (f : Fld) (inst sub v : Nat) : (s.fset f inst sub v).pmu = s.pmu := rfl
@[simp] theorem fset_tags (s : State) (f : Fld) (inst sub v : Nat) : (s.fset f inst sub v).tags = s.tags := rfl
@[simp] theorem fset_snaps (s : State) (f : Fld) (inst sub v : Nat) : (s.fset f inst sub v).snaps = s.snaps := rfl
@[simp] theorem fset_tagged (s : State) (f : Fld) (inst sub v : Nat) : (s.fset f inst sub v).tagged = s.tagged := rfl

@[simp] theorem setPair_pending (s : State) (lo hi : Reg) (inst sub : Nat) (v : W64) : (s.setPair lo hi inst sub v).pending = s.pending := rfl
@[simp] theorem setPair_freeCtr (s : State) (lo hi : Reg) (inst sub : Nat) (v : W64) : (s.setPair lo hi inst sub v).freeCtr = s.freeCtr := rfl
@[simp] theorem setPair_answers (s : State) (lo hi : Reg) (inst sub : Nat) (v : W64) : (s.setPair lo hi inst sub v).answers = s.answers := rfl
@[simp] theorem setPair_latches (s : State) (lo hi : Reg) (inst sub : Nat) (v : W64) : (s.setPair lo hi inst sub v).latches = s.latches := rfl
@[simp] theorem setPair_helds (s : State) (lo hi : Reg) (inst sub : Nat) (v : W64) : (s.setPair lo hi inst sub v).helds = s.helds := rfl
@[simp] theorem setPair_mem (s : State) (lo hi : Reg) (inst sub : Nat) (v : W64) : (s.setPair lo hi inst sub v).mem = s.mem := rfl
@[simp] theorem setPair_events (s : State) (lo hi : Reg) (inst sub : Nat) (v : W64) : (s.setPair lo hi inst sub v).events = s.events := rfl
@[simp] theorem setPair_ledger (s : State) (lo hi : Reg) (inst sub : Nat) (v : W64) : (s.setPair lo hi inst sub v).ledger = s.ledger := rfl
@[simp] theorem setPair_rakes (s : State) (lo hi : Reg) (inst sub : Nat) (v : W64) : (s.setPair lo hi inst sub v).rakes = s.rakes := rfl
@[simp] theorem setPair_mgr (s : State) (lo hi : Reg) (inst sub : Nat) (v : W64) : (s.setPair lo hi inst sub v).mgr = s.mgr := rfl
@[simp] theorem setPair_tally (s : State) (lo hi : Reg) (inst sub : Nat) (v : W64) : (s.setPair lo hi inst sub v).tally = s.tally := rfl
@[simp] theorem setPair_queues (s : State) (lo hi : Reg) (inst sub : Nat) (v : W64) : (s.setPair lo hi inst sub v).queues = s.queues := rfl
@[simp] theorem setPair_mcs (s : State) (lo hi : Reg) (inst sub : Nat) (v : W64) : (s.setPair lo hi inst sub v).mcs = s.mcs := rfl
@[simp] theorem setPair_banks (s : State) (lo hi : Reg) (inst sub : Nat) (v : W64) : (s.setPair lo hi inst sub v).banks = s.banks := rfl
@[simp] theorem setPair_harrow (s : State) (lo hi : Reg) (inst sub : Nat) (v : W64) : (s.setPair lo hi inst sub v).harrow = s.harrow := rfl
@[simp] theorem setPair_time (s : State) (lo hi : Reg) (inst sub : Nat) (v : W64) : (s.setPair lo hi inst sub v).time = s.time := rfl
@[simp] theorem setPair_dma (s : State) (lo hi : Reg) (inst sub : Nat) (v : W64) : (s.setPair lo hi inst sub v).dma = s.dma := rfl
@[simp] theorem setPair_releases (s : State) (lo hi : Reg) (inst sub : Nat) (v : W64) : (s.setPair lo hi inst sub v).releases = s.releases := rfl
@[simp] theorem setPair_host (s : State) (lo hi : Reg) (inst sub : Nat) (v : W64) : (s.setPair lo hi inst sub v).host = s.host := rfl
@[simp] theorem setPair_power (s : State) (lo hi : Reg) (inst sub : Nat) (v : W64) : (s.setPair lo hi inst sub v).power = s.power := rfl
@[simp] theorem setPair_resets (s : State) (lo hi : Reg) (inst sub : Nat) (v : W64) : (s.setPair lo hi inst sub v).resets = s.resets := rfl
@[simp] theorem setPair_sec (s : State) (lo hi : Reg) (inst sub : Nat) (v : W64) : (s.setPair lo hi inst sub v).sec = s.sec := rfl
@[simp] theorem setPair_chk (s : State) (lo hi : Reg) (inst sub : Nat) (v : W64) : (s.setPair lo hi inst sub v).chk = s.chk := rfl
@[simp] theorem setPair_pgms (s : State) (lo hi : Reg) (inst sub : Nat) (v : W64) : (s.setPair lo hi inst sub v).pgms = s.pgms := rfl
@[simp] theorem setPair_cmps (s : State) (lo hi : Reg) (inst sub : Nat) (v : W64) : (s.setPair lo hi inst sub v).cmps = s.cmps := rfl
@[simp] theorem setPair_colours (s : State) (lo hi : Reg) (inst sub : Nat) (v : W64) : (s.setPair lo hi inst sub v).colours = s.colours := rfl
@[simp] theorem setPair_heads (s : State) (lo hi : Reg) (inst sub : Nat) (v : W64) : (s.setPair lo hi inst sub v).heads = s.heads := rfl
@[simp] theorem setPair_headOut (s : State) (lo hi : Reg) (inst sub : Nat) (v : W64) : (s.setPair lo hi inst sub v).headOut = s.headOut := rfl
@[simp] theorem setPair_slus (s : State) (lo hi : Reg) (inst sub : Nat) (v : W64) : (s.setPair lo hi inst sub v).slus = s.slus := rfl
@[simp] theorem setPair_net (s : State) (lo hi : Reg) (inst sub : Nat) (v : W64) : (s.setPair lo hi inst sub v).net = s.net := rfl
@[simp] theorem setPair_audio (s : State) (lo hi : Reg) (inst sub : Nat) (v : W64) : (s.setPair lo hi inst sub v).audio = s.audio := rfl
@[simp] theorem setPair_lanes (s : State) (lo hi : Reg) (inst sub : Nat) (v : W64) : (s.setPair lo hi inst sub v).lanes = s.lanes := rfl
@[simp] theorem setPair_sdi (s : State) (lo hi : Reg) (inst sub : Nat) (v : W64) : (s.setPair lo hi inst sub v).sdi = s.sdi := rfl
@[simp] theorem setPair_prbs (s : State) (lo hi : Reg) (inst sub : Nat) (v : W64) : (s.setPair lo hi inst sub v).prbs = s.prbs := rfl
@[simp] theorem setPair_twin (s : State) (lo hi : Reg) (inst sub : Nat) (v : W64) : (s.setPair lo hi inst sub v).twin = s.twin := rfl
@[simp] theorem setPair_pmu (s : State) (lo hi : Reg) (inst sub : Nat) (v : W64) : (s.setPair lo hi inst sub v).pmu = s.pmu := rfl
@[simp] theorem setPair_tags (s : State) (lo hi : Reg) (inst sub : Nat) (v : W64) : (s.setPair lo hi inst sub v).tags = s.tags := rfl
@[simp] theorem setPair_snaps (s : State) (lo hi : Reg) (inst sub : Nat) (v : W64) : (s.setPair lo hi inst sub v).snaps = s.snaps := rfl
@[simp] theorem setPair_tagged (s : State) (lo hi : Reg) (inst sub : Nat) (v : W64) : (s.setPair lo hi inst sub v).tagged = s.tagged := rfl

@[simp] theorem wrReg_pending (s : State) (r : Reg) (inst sub : Nat) (val : W32) : (s.wrReg r inst sub val).pending = s.pending := rfl
@[simp] theorem wrReg_freeCtr (s : State) (r : Reg) (inst sub : Nat) (val : W32) : (s.wrReg r inst sub val).freeCtr = s.freeCtr := rfl
@[simp] theorem wrReg_answers (s : State) (r : Reg) (inst sub : Nat) (val : W32) : (s.wrReg r inst sub val).answers = s.answers := rfl
@[simp] theorem wrReg_latches (s : State) (r : Reg) (inst sub : Nat) (val : W32) : (s.wrReg r inst sub val).latches = s.latches := rfl
@[simp] theorem wrReg_helds (s : State) (r : Reg) (inst sub : Nat) (val : W32) : (s.wrReg r inst sub val).helds = s.helds := rfl
@[simp] theorem wrReg_mem (s : State) (r : Reg) (inst sub : Nat) (val : W32) : (s.wrReg r inst sub val).mem = s.mem := rfl
@[simp] theorem wrReg_events (s : State) (r : Reg) (inst sub : Nat) (val : W32) : (s.wrReg r inst sub val).events = s.events := rfl
@[simp] theorem wrReg_ledger (s : State) (r : Reg) (inst sub : Nat) (val : W32) : (s.wrReg r inst sub val).ledger = s.ledger := rfl
@[simp] theorem wrReg_rakes (s : State) (r : Reg) (inst sub : Nat) (val : W32) : (s.wrReg r inst sub val).rakes = s.rakes := rfl
@[simp] theorem wrReg_mgr (s : State) (r : Reg) (inst sub : Nat) (val : W32) : (s.wrReg r inst sub val).mgr = s.mgr := rfl
@[simp] theorem wrReg_tally (s : State) (r : Reg) (inst sub : Nat) (val : W32) : (s.wrReg r inst sub val).tally = s.tally := rfl
@[simp] theorem wrReg_queues (s : State) (r : Reg) (inst sub : Nat) (val : W32) : (s.wrReg r inst sub val).queues = s.queues := rfl
@[simp] theorem wrReg_mcs (s : State) (r : Reg) (inst sub : Nat) (val : W32) : (s.wrReg r inst sub val).mcs = s.mcs := rfl
@[simp] theorem wrReg_banks (s : State) (r : Reg) (inst sub : Nat) (val : W32) : (s.wrReg r inst sub val).banks = s.banks := rfl
@[simp] theorem wrReg_harrow (s : State) (r : Reg) (inst sub : Nat) (val : W32) : (s.wrReg r inst sub val).harrow = s.harrow := rfl
@[simp] theorem wrReg_time (s : State) (r : Reg) (inst sub : Nat) (val : W32) : (s.wrReg r inst sub val).time = s.time := rfl
@[simp] theorem wrReg_dma (s : State) (r : Reg) (inst sub : Nat) (val : W32) : (s.wrReg r inst sub val).dma = s.dma := rfl
@[simp] theorem wrReg_releases (s : State) (r : Reg) (inst sub : Nat) (val : W32) : (s.wrReg r inst sub val).releases = s.releases := rfl
@[simp] theorem wrReg_host (s : State) (r : Reg) (inst sub : Nat) (val : W32) : (s.wrReg r inst sub val).host = s.host := rfl
@[simp] theorem wrReg_power (s : State) (r : Reg) (inst sub : Nat) (val : W32) : (s.wrReg r inst sub val).power = s.power := rfl
@[simp] theorem wrReg_resets (s : State) (r : Reg) (inst sub : Nat) (val : W32) : (s.wrReg r inst sub val).resets = s.resets := rfl
@[simp] theorem wrReg_sec (s : State) (r : Reg) (inst sub : Nat) (val : W32) : (s.wrReg r inst sub val).sec = s.sec := rfl
@[simp] theorem wrReg_chk (s : State) (r : Reg) (inst sub : Nat) (val : W32) : (s.wrReg r inst sub val).chk = s.chk := rfl
@[simp] theorem wrReg_pgms (s : State) (r : Reg) (inst sub : Nat) (val : W32) : (s.wrReg r inst sub val).pgms = s.pgms := rfl
@[simp] theorem wrReg_cmps (s : State) (r : Reg) (inst sub : Nat) (val : W32) : (s.wrReg r inst sub val).cmps = s.cmps := rfl
@[simp] theorem wrReg_colours (s : State) (r : Reg) (inst sub : Nat) (val : W32) : (s.wrReg r inst sub val).colours = s.colours := rfl
@[simp] theorem wrReg_heads (s : State) (r : Reg) (inst sub : Nat) (val : W32) : (s.wrReg r inst sub val).heads = s.heads := rfl
@[simp] theorem wrReg_headOut (s : State) (r : Reg) (inst sub : Nat) (val : W32) : (s.wrReg r inst sub val).headOut = s.headOut := rfl
@[simp] theorem wrReg_slus (s : State) (r : Reg) (inst sub : Nat) (val : W32) : (s.wrReg r inst sub val).slus = s.slus := rfl
@[simp] theorem wrReg_net (s : State) (r : Reg) (inst sub : Nat) (val : W32) : (s.wrReg r inst sub val).net = s.net := rfl
@[simp] theorem wrReg_audio (s : State) (r : Reg) (inst sub : Nat) (val : W32) : (s.wrReg r inst sub val).audio = s.audio := rfl
@[simp] theorem wrReg_lanes (s : State) (r : Reg) (inst sub : Nat) (val : W32) : (s.wrReg r inst sub val).lanes = s.lanes := rfl
@[simp] theorem wrReg_sdi (s : State) (r : Reg) (inst sub : Nat) (val : W32) : (s.wrReg r inst sub val).sdi = s.sdi := rfl
@[simp] theorem wrReg_prbs (s : State) (r : Reg) (inst sub : Nat) (val : W32) : (s.wrReg r inst sub val).prbs = s.prbs := rfl
@[simp] theorem wrReg_twin (s : State) (r : Reg) (inst sub : Nat) (val : W32) : (s.wrReg r inst sub val).twin = s.twin := rfl
@[simp] theorem wrReg_pmu (s : State) (r : Reg) (inst sub : Nat) (val : W32) : (s.wrReg r inst sub val).pmu = s.pmu := rfl
@[simp] theorem wrReg_tags (s : State) (r : Reg) (inst sub : Nat) (val : W32) : (s.wrReg r inst sub val).tags = s.tags := rfl
@[simp] theorem wrReg_snaps (s : State) (r : Reg) (inst sub : Nat) (val : W32) : (s.wrReg r inst sub val).snaps = s.snaps := rfl
@[simp] theorem wrReg_tagged (s : State) (r : Reg) (inst sub : Nat) (val : W32) : (s.wrReg r inst sub val).tagged = s.tagged := rfl

@[simp] theorem drawn_pending (s : State) : (s.drawn).pending = s.pending := rfl
@[simp] theorem drawn_answers (s : State) : (s.drawn).answers = s.answers := rfl
@[simp] theorem drawn_regs (s : State) : (s.drawn).regs = s.regs := rfl
@[simp] theorem drawn_latches (s : State) : (s.drawn).latches = s.latches := rfl
@[simp] theorem drawn_helds (s : State) : (s.drawn).helds = s.helds := rfl
@[simp] theorem drawn_mem (s : State) : (s.drawn).mem = s.mem := rfl
@[simp] theorem drawn_events (s : State) : (s.drawn).events = s.events := rfl
@[simp] theorem drawn_ledger (s : State) : (s.drawn).ledger = s.ledger := rfl
@[simp] theorem drawn_rakes (s : State) : (s.drawn).rakes = s.rakes := rfl
@[simp] theorem drawn_mgr (s : State) : (s.drawn).mgr = s.mgr := rfl
@[simp] theorem drawn_tally (s : State) : (s.drawn).tally = s.tally := rfl
@[simp] theorem drawn_queues (s : State) : (s.drawn).queues = s.queues := rfl
@[simp] theorem drawn_mcs (s : State) : (s.drawn).mcs = s.mcs := rfl
@[simp] theorem drawn_banks (s : State) : (s.drawn).banks = s.banks := rfl
@[simp] theorem drawn_harrow (s : State) : (s.drawn).harrow = s.harrow := rfl
@[simp] theorem drawn_time (s : State) : (s.drawn).time = s.time := rfl
@[simp] theorem drawn_dma (s : State) : (s.drawn).dma = s.dma := rfl
@[simp] theorem drawn_releases (s : State) : (s.drawn).releases = s.releases := rfl
@[simp] theorem drawn_host (s : State) : (s.drawn).host = s.host := rfl
@[simp] theorem drawn_power (s : State) : (s.drawn).power = s.power := rfl
@[simp] theorem drawn_resets (s : State) : (s.drawn).resets = s.resets := rfl
@[simp] theorem drawn_sec (s : State) : (s.drawn).sec = s.sec := rfl
@[simp] theorem drawn_chk (s : State) : (s.drawn).chk = s.chk := rfl
@[simp] theorem drawn_pgms (s : State) : (s.drawn).pgms = s.pgms := rfl
@[simp] theorem drawn_cmps (s : State) : (s.drawn).cmps = s.cmps := rfl
@[simp] theorem drawn_colours (s : State) : (s.drawn).colours = s.colours := rfl
@[simp] theorem drawn_heads (s : State) : (s.drawn).heads = s.heads := rfl
@[simp] theorem drawn_headOut (s : State) : (s.drawn).headOut = s.headOut := rfl
@[simp] theorem drawn_slus (s : State) : (s.drawn).slus = s.slus := rfl
@[simp] theorem drawn_net (s : State) : (s.drawn).net = s.net := rfl
@[simp] theorem drawn_audio (s : State) : (s.drawn).audio = s.audio := rfl
@[simp] theorem drawn_lanes (s : State) : (s.drawn).lanes = s.lanes := rfl
@[simp] theorem drawn_sdi (s : State) : (s.drawn).sdi = s.sdi := rfl
@[simp] theorem drawn_prbs (s : State) : (s.drawn).prbs = s.prbs := rfl
@[simp] theorem drawn_twin (s : State) : (s.drawn).twin = s.twin := rfl
@[simp] theorem drawn_pmu (s : State) : (s.drawn).pmu = s.pmu := rfl
@[simp] theorem drawn_tags (s : State) : (s.drawn).tags = s.tags := rfl
@[simp] theorem drawn_snaps (s : State) : (s.drawn).snaps = s.snaps := rfl
@[simp] theorem drawn_tagged (s : State) : (s.drawn).tagged = s.tagged := rfl

@[simp] theorem answer_pending (s : State) (req : Nat) (a : Answer) : (s.answer req a).pending = s.pending := rfl
@[simp] theorem answer_freeCtr (s : State) (req : Nat) (a : Answer) : (s.answer req a).freeCtr = s.freeCtr := rfl
@[simp] theorem answer_regs (s : State) (req : Nat) (a : Answer) : (s.answer req a).regs = s.regs := rfl
@[simp] theorem answer_latches (s : State) (req : Nat) (a : Answer) : (s.answer req a).latches = s.latches := rfl
@[simp] theorem answer_helds (s : State) (req : Nat) (a : Answer) : (s.answer req a).helds = s.helds := rfl
@[simp] theorem answer_mem (s : State) (req : Nat) (a : Answer) : (s.answer req a).mem = s.mem := rfl
@[simp] theorem answer_events (s : State) (req : Nat) (a : Answer) : (s.answer req a).events = s.events := rfl
@[simp] theorem answer_ledger (s : State) (req : Nat) (a : Answer) : (s.answer req a).ledger = s.ledger := rfl
@[simp] theorem answer_rakes (s : State) (req : Nat) (a : Answer) : (s.answer req a).rakes = s.rakes := rfl
@[simp] theorem answer_mgr (s : State) (req : Nat) (a : Answer) : (s.answer req a).mgr = s.mgr := rfl
@[simp] theorem answer_tally (s : State) (req : Nat) (a : Answer) : (s.answer req a).tally = s.tally := rfl
@[simp] theorem answer_queues (s : State) (req : Nat) (a : Answer) : (s.answer req a).queues = s.queues := rfl
@[simp] theorem answer_mcs (s : State) (req : Nat) (a : Answer) : (s.answer req a).mcs = s.mcs := rfl
@[simp] theorem answer_banks (s : State) (req : Nat) (a : Answer) : (s.answer req a).banks = s.banks := rfl
@[simp] theorem answer_harrow (s : State) (req : Nat) (a : Answer) : (s.answer req a).harrow = s.harrow := rfl
@[simp] theorem answer_time (s : State) (req : Nat) (a : Answer) : (s.answer req a).time = s.time := rfl
@[simp] theorem answer_dma (s : State) (req : Nat) (a : Answer) : (s.answer req a).dma = s.dma := rfl
@[simp] theorem answer_releases (s : State) (req : Nat) (a : Answer) : (s.answer req a).releases = s.releases := rfl
@[simp] theorem answer_host (s : State) (req : Nat) (a : Answer) : (s.answer req a).host = s.host := rfl
@[simp] theorem answer_power (s : State) (req : Nat) (a : Answer) : (s.answer req a).power = s.power := rfl
@[simp] theorem answer_resets (s : State) (req : Nat) (a : Answer) : (s.answer req a).resets = s.resets := rfl
@[simp] theorem answer_sec (s : State) (req : Nat) (a : Answer) : (s.answer req a).sec = s.sec := rfl
@[simp] theorem answer_chk (s : State) (req : Nat) (a : Answer) : (s.answer req a).chk = s.chk := rfl
@[simp] theorem answer_pgms (s : State) (req : Nat) (a : Answer) : (s.answer req a).pgms = s.pgms := rfl
@[simp] theorem answer_cmps (s : State) (req : Nat) (a : Answer) : (s.answer req a).cmps = s.cmps := rfl
@[simp] theorem answer_colours (s : State) (req : Nat) (a : Answer) : (s.answer req a).colours = s.colours := rfl
@[simp] theorem answer_heads (s : State) (req : Nat) (a : Answer) : (s.answer req a).heads = s.heads := rfl
@[simp] theorem answer_headOut (s : State) (req : Nat) (a : Answer) : (s.answer req a).headOut = s.headOut := rfl
@[simp] theorem answer_slus (s : State) (req : Nat) (a : Answer) : (s.answer req a).slus = s.slus := rfl
@[simp] theorem answer_net (s : State) (req : Nat) (a : Answer) : (s.answer req a).net = s.net := rfl
@[simp] theorem answer_audio (s : State) (req : Nat) (a : Answer) : (s.answer req a).audio = s.audio := rfl
@[simp] theorem answer_lanes (s : State) (req : Nat) (a : Answer) : (s.answer req a).lanes = s.lanes := rfl
@[simp] theorem answer_sdi (s : State) (req : Nat) (a : Answer) : (s.answer req a).sdi = s.sdi := rfl
@[simp] theorem answer_prbs (s : State) (req : Nat) (a : Answer) : (s.answer req a).prbs = s.prbs := rfl
@[simp] theorem answer_twin (s : State) (req : Nat) (a : Answer) : (s.answer req a).twin = s.twin := rfl
@[simp] theorem answer_pmu (s : State) (req : Nat) (a : Answer) : (s.answer req a).pmu = s.pmu := rfl
@[simp] theorem answer_tags (s : State) (req : Nat) (a : Answer) : (s.answer req a).tags = s.tags := rfl
@[simp] theorem answer_snaps (s : State) (req : Nat) (a : Answer) : (s.answer req a).snaps = s.snaps := rfl
@[simp] theorem answer_tagged (s : State) (req : Nat) (a : Answer) : (s.answer req a).tagged = s.tagged := rfl

@[simp] theorem sendToken_pending (s : State) (src : Nat) (dest value : W64) : (s.sendToken src dest value).pending = s.pending := rfl
@[simp] theorem sendToken_freeCtr (s : State) (src : Nat) (dest value : W64) : (s.sendToken src dest value).freeCtr = s.freeCtr := rfl
@[simp] theorem sendToken_answers (s : State) (src : Nat) (dest value : W64) : (s.sendToken src dest value).answers = s.answers := rfl
@[simp] theorem sendToken_regs (s : State) (src : Nat) (dest value : W64) : (s.sendToken src dest value).regs = s.regs := rfl
@[simp] theorem sendToken_latches (s : State) (src : Nat) (dest value : W64) : (s.sendToken src dest value).latches = s.latches := rfl
@[simp] theorem sendToken_helds (s : State) (src : Nat) (dest value : W64) : (s.sendToken src dest value).helds = s.helds := rfl
@[simp] theorem sendToken_mem (s : State) (src : Nat) (dest value : W64) : (s.sendToken src dest value).mem = s.mem := rfl
@[simp] theorem sendToken_events (s : State) (src : Nat) (dest value : W64) : (s.sendToken src dest value).events = s.events := rfl
@[simp] theorem sendToken_ledger (s : State) (src : Nat) (dest value : W64) : (s.sendToken src dest value).ledger = s.ledger := rfl
@[simp] theorem sendToken_rakes (s : State) (src : Nat) (dest value : W64) : (s.sendToken src dest value).rakes = s.rakes := rfl
@[simp] theorem sendToken_mgr (s : State) (src : Nat) (dest value : W64) : (s.sendToken src dest value).mgr = s.mgr := rfl
@[simp] theorem sendToken_queues (s : State) (src : Nat) (dest value : W64) : (s.sendToken src dest value).queues = s.queues := rfl
@[simp] theorem sendToken_mcs (s : State) (src : Nat) (dest value : W64) : (s.sendToken src dest value).mcs = s.mcs := rfl
@[simp] theorem sendToken_banks (s : State) (src : Nat) (dest value : W64) : (s.sendToken src dest value).banks = s.banks := rfl
@[simp] theorem sendToken_harrow (s : State) (src : Nat) (dest value : W64) : (s.sendToken src dest value).harrow = s.harrow := rfl
@[simp] theorem sendToken_time (s : State) (src : Nat) (dest value : W64) : (s.sendToken src dest value).time = s.time := rfl
@[simp] theorem sendToken_dma (s : State) (src : Nat) (dest value : W64) : (s.sendToken src dest value).dma = s.dma := rfl
@[simp] theorem sendToken_releases (s : State) (src : Nat) (dest value : W64) : (s.sendToken src dest value).releases = s.releases := rfl
@[simp] theorem sendToken_host (s : State) (src : Nat) (dest value : W64) : (s.sendToken src dest value).host = s.host := rfl
@[simp] theorem sendToken_power (s : State) (src : Nat) (dest value : W64) : (s.sendToken src dest value).power = s.power := rfl
@[simp] theorem sendToken_resets (s : State) (src : Nat) (dest value : W64) : (s.sendToken src dest value).resets = s.resets := rfl
@[simp] theorem sendToken_sec (s : State) (src : Nat) (dest value : W64) : (s.sendToken src dest value).sec = s.sec := rfl
@[simp] theorem sendToken_chk (s : State) (src : Nat) (dest value : W64) : (s.sendToken src dest value).chk = s.chk := rfl
@[simp] theorem sendToken_pgms (s : State) (src : Nat) (dest value : W64) : (s.sendToken src dest value).pgms = s.pgms := rfl
@[simp] theorem sendToken_cmps (s : State) (src : Nat) (dest value : W64) : (s.sendToken src dest value).cmps = s.cmps := rfl
@[simp] theorem sendToken_colours (s : State) (src : Nat) (dest value : W64) : (s.sendToken src dest value).colours = s.colours := rfl
@[simp] theorem sendToken_heads (s : State) (src : Nat) (dest value : W64) : (s.sendToken src dest value).heads = s.heads := rfl
@[simp] theorem sendToken_headOut (s : State) (src : Nat) (dest value : W64) : (s.sendToken src dest value).headOut = s.headOut := rfl
@[simp] theorem sendToken_slus (s : State) (src : Nat) (dest value : W64) : (s.sendToken src dest value).slus = s.slus := rfl
@[simp] theorem sendToken_net (s : State) (src : Nat) (dest value : W64) : (s.sendToken src dest value).net = s.net := rfl
@[simp] theorem sendToken_audio (s : State) (src : Nat) (dest value : W64) : (s.sendToken src dest value).audio = s.audio := rfl
@[simp] theorem sendToken_lanes (s : State) (src : Nat) (dest value : W64) : (s.sendToken src dest value).lanes = s.lanes := rfl
@[simp] theorem sendToken_sdi (s : State) (src : Nat) (dest value : W64) : (s.sendToken src dest value).sdi = s.sdi := rfl
@[simp] theorem sendToken_prbs (s : State) (src : Nat) (dest value : W64) : (s.sendToken src dest value).prbs = s.prbs := rfl
@[simp] theorem sendToken_twin (s : State) (src : Nat) (dest value : W64) : (s.sendToken src dest value).twin = s.twin := rfl
@[simp] theorem sendToken_pmu (s : State) (src : Nat) (dest value : W64) : (s.sendToken src dest value).pmu = s.pmu := rfl
@[simp] theorem sendToken_tags (s : State) (src : Nat) (dest value : W64) : (s.sendToken src dest value).tags = s.tags := rfl
@[simp] theorem sendToken_snaps (s : State) (src : Nat) (dest value : W64) : (s.sendToken src dest value).snaps = s.snaps := rfl
@[simp] theorem sendToken_tagged (s : State) (src : Nat) (dest value : W64) : (s.sendToken src dest value).tagged = s.tagged := rfl

@[simp] theorem setLedger_pending (s : State) (l : Ledger) : (s.setLedger l).pending = s.pending := rfl
@[simp] theorem setLedger_freeCtr (s : State) (l : Ledger) : (s.setLedger l).freeCtr = s.freeCtr := rfl
@[simp] theorem setLedger_answers (s : State) (l : Ledger) : (s.setLedger l).answers = s.answers := rfl
@[simp] theorem setLedger_regs (s : State) (l : Ledger) : (s.setLedger l).regs = s.regs := rfl
@[simp] theorem setLedger_latches (s : State) (l : Ledger) : (s.setLedger l).latches = s.latches := rfl
@[simp] theorem setLedger_helds (s : State) (l : Ledger) : (s.setLedger l).helds = s.helds := rfl
@[simp] theorem setLedger_mem (s : State) (l : Ledger) : (s.setLedger l).mem = s.mem := rfl
@[simp] theorem setLedger_events (s : State) (l : Ledger) : (s.setLedger l).events = s.events := rfl
@[simp] theorem setLedger_rakes (s : State) (l : Ledger) : (s.setLedger l).rakes = s.rakes := rfl
@[simp] theorem setLedger_mgr (s : State) (l : Ledger) : (s.setLedger l).mgr = s.mgr := rfl
@[simp] theorem setLedger_tally (s : State) (l : Ledger) : (s.setLedger l).tally = s.tally := rfl
@[simp] theorem setLedger_queues (s : State) (l : Ledger) : (s.setLedger l).queues = s.queues := rfl
@[simp] theorem setLedger_mcs (s : State) (l : Ledger) : (s.setLedger l).mcs = s.mcs := rfl
@[simp] theorem setLedger_banks (s : State) (l : Ledger) : (s.setLedger l).banks = s.banks := rfl
@[simp] theorem setLedger_harrow (s : State) (l : Ledger) : (s.setLedger l).harrow = s.harrow := rfl
@[simp] theorem setLedger_time (s : State) (l : Ledger) : (s.setLedger l).time = s.time := rfl
@[simp] theorem setLedger_dma (s : State) (l : Ledger) : (s.setLedger l).dma = s.dma := rfl
@[simp] theorem setLedger_releases (s : State) (l : Ledger) : (s.setLedger l).releases = s.releases := rfl
@[simp] theorem setLedger_host (s : State) (l : Ledger) : (s.setLedger l).host = s.host := rfl
@[simp] theorem setLedger_power (s : State) (l : Ledger) : (s.setLedger l).power = s.power := rfl
@[simp] theorem setLedger_resets (s : State) (l : Ledger) : (s.setLedger l).resets = s.resets := rfl
@[simp] theorem setLedger_sec (s : State) (l : Ledger) : (s.setLedger l).sec = s.sec := rfl
@[simp] theorem setLedger_chk (s : State) (l : Ledger) : (s.setLedger l).chk = s.chk := rfl
@[simp] theorem setLedger_pgms (s : State) (l : Ledger) : (s.setLedger l).pgms = s.pgms := rfl
@[simp] theorem setLedger_cmps (s : State) (l : Ledger) : (s.setLedger l).cmps = s.cmps := rfl
@[simp] theorem setLedger_colours (s : State) (l : Ledger) : (s.setLedger l).colours = s.colours := rfl
@[simp] theorem setLedger_heads (s : State) (l : Ledger) : (s.setLedger l).heads = s.heads := rfl
@[simp] theorem setLedger_headOut (s : State) (l : Ledger) : (s.setLedger l).headOut = s.headOut := rfl
@[simp] theorem setLedger_slus (s : State) (l : Ledger) : (s.setLedger l).slus = s.slus := rfl
@[simp] theorem setLedger_net (s : State) (l : Ledger) : (s.setLedger l).net = s.net := rfl
@[simp] theorem setLedger_audio (s : State) (l : Ledger) : (s.setLedger l).audio = s.audio := rfl
@[simp] theorem setLedger_lanes (s : State) (l : Ledger) : (s.setLedger l).lanes = s.lanes := rfl
@[simp] theorem setLedger_sdi (s : State) (l : Ledger) : (s.setLedger l).sdi = s.sdi := rfl
@[simp] theorem setLedger_prbs (s : State) (l : Ledger) : (s.setLedger l).prbs = s.prbs := rfl
@[simp] theorem setLedger_twin (s : State) (l : Ledger) : (s.setLedger l).twin = s.twin := rfl
@[simp] theorem setLedger_pmu (s : State) (l : Ledger) : (s.setLedger l).pmu = s.pmu := rfl
@[simp] theorem setLedger_tags (s : State) (l : Ledger) : (s.setLedger l).tags = s.tags := rfl
@[simp] theorem setLedger_snaps (s : State) (l : Ledger) : (s.setLedger l).snaps = s.snaps := rfl
@[simp] theorem setLedger_tagged (s : State) (l : Ledger) : (s.setLedger l).tagged = s.tagged := rfl

@[simp] theorem setQueue_pending (s : State) (win inst q : Nat) (l : List W256) : (s.setQueue win inst q l).pending = s.pending := rfl
@[simp] theorem setQueue_freeCtr (s : State) (win inst q : Nat) (l : List W256) : (s.setQueue win inst q l).freeCtr = s.freeCtr := rfl
@[simp] theorem setQueue_answers (s : State) (win inst q : Nat) (l : List W256) : (s.setQueue win inst q l).answers = s.answers := rfl
@[simp] theorem setQueue_regs (s : State) (win inst q : Nat) (l : List W256) : (s.setQueue win inst q l).regs = s.regs := rfl
@[simp] theorem setQueue_latches (s : State) (win inst q : Nat) (l : List W256) : (s.setQueue win inst q l).latches = s.latches := rfl
@[simp] theorem setQueue_helds (s : State) (win inst q : Nat) (l : List W256) : (s.setQueue win inst q l).helds = s.helds := rfl
@[simp] theorem setQueue_mem (s : State) (win inst q : Nat) (l : List W256) : (s.setQueue win inst q l).mem = s.mem := rfl
@[simp] theorem setQueue_events (s : State) (win inst q : Nat) (l : List W256) : (s.setQueue win inst q l).events = s.events := rfl
@[simp] theorem setQueue_ledger (s : State) (win inst q : Nat) (l : List W256) : (s.setQueue win inst q l).ledger = s.ledger := rfl
@[simp] theorem setQueue_rakes (s : State) (win inst q : Nat) (l : List W256) : (s.setQueue win inst q l).rakes = s.rakes := rfl
@[simp] theorem setQueue_mgr (s : State) (win inst q : Nat) (l : List W256) : (s.setQueue win inst q l).mgr = s.mgr := rfl
@[simp] theorem setQueue_tally (s : State) (win inst q : Nat) (l : List W256) : (s.setQueue win inst q l).tally = s.tally := rfl
@[simp] theorem setQueue_mcs (s : State) (win inst q : Nat) (l : List W256) : (s.setQueue win inst q l).mcs = s.mcs := rfl
@[simp] theorem setQueue_banks (s : State) (win inst q : Nat) (l : List W256) : (s.setQueue win inst q l).banks = s.banks := rfl
@[simp] theorem setQueue_harrow (s : State) (win inst q : Nat) (l : List W256) : (s.setQueue win inst q l).harrow = s.harrow := rfl
@[simp] theorem setQueue_time (s : State) (win inst q : Nat) (l : List W256) : (s.setQueue win inst q l).time = s.time := rfl
@[simp] theorem setQueue_dma (s : State) (win inst q : Nat) (l : List W256) : (s.setQueue win inst q l).dma = s.dma := rfl
@[simp] theorem setQueue_releases (s : State) (win inst q : Nat) (l : List W256) : (s.setQueue win inst q l).releases = s.releases := rfl
@[simp] theorem setQueue_host (s : State) (win inst q : Nat) (l : List W256) : (s.setQueue win inst q l).host = s.host := rfl
@[simp] theorem setQueue_power (s : State) (win inst q : Nat) (l : List W256) : (s.setQueue win inst q l).power = s.power := rfl
@[simp] theorem setQueue_resets (s : State) (win inst q : Nat) (l : List W256) : (s.setQueue win inst q l).resets = s.resets := rfl
@[simp] theorem setQueue_sec (s : State) (win inst q : Nat) (l : List W256) : (s.setQueue win inst q l).sec = s.sec := rfl
@[simp] theorem setQueue_chk (s : State) (win inst q : Nat) (l : List W256) : (s.setQueue win inst q l).chk = s.chk := rfl
@[simp] theorem setQueue_pgms (s : State) (win inst q : Nat) (l : List W256) : (s.setQueue win inst q l).pgms = s.pgms := rfl
@[simp] theorem setQueue_cmps (s : State) (win inst q : Nat) (l : List W256) : (s.setQueue win inst q l).cmps = s.cmps := rfl
@[simp] theorem setQueue_colours (s : State) (win inst q : Nat) (l : List W256) : (s.setQueue win inst q l).colours = s.colours := rfl
@[simp] theorem setQueue_heads (s : State) (win inst q : Nat) (l : List W256) : (s.setQueue win inst q l).heads = s.heads := rfl
@[simp] theorem setQueue_headOut (s : State) (win inst q : Nat) (l : List W256) : (s.setQueue win inst q l).headOut = s.headOut := rfl
@[simp] theorem setQueue_slus (s : State) (win inst q : Nat) (l : List W256) : (s.setQueue win inst q l).slus = s.slus := rfl
@[simp] theorem setQueue_net (s : State) (win inst q : Nat) (l : List W256) : (s.setQueue win inst q l).net = s.net := rfl
@[simp] theorem setQueue_audio (s : State) (win inst q : Nat) (l : List W256) : (s.setQueue win inst q l).audio = s.audio := rfl
@[simp] theorem setQueue_lanes (s : State) (win inst q : Nat) (l : List W256) : (s.setQueue win inst q l).lanes = s.lanes := rfl
@[simp] theorem setQueue_sdi (s : State) (win inst q : Nat) (l : List W256) : (s.setQueue win inst q l).sdi = s.sdi := rfl
@[simp] theorem setQueue_prbs (s : State) (win inst q : Nat) (l : List W256) : (s.setQueue win inst q l).prbs = s.prbs := rfl
@[simp] theorem setQueue_twin (s : State) (win inst q : Nat) (l : List W256) : (s.setQueue win inst q l).twin = s.twin := rfl
@[simp] theorem setQueue_pmu (s : State) (win inst q : Nat) (l : List W256) : (s.setQueue win inst q l).pmu = s.pmu := rfl
@[simp] theorem setQueue_tags (s : State) (win inst q : Nat) (l : List W256) : (s.setQueue win inst q l).tags = s.tags := rfl
@[simp] theorem setQueue_snaps (s : State) (win inst q : Nat) (l : List W256) : (s.setQueue win inst q l).snaps = s.snaps := rfl
@[simp] theorem setQueue_tagged (s : State) (win inst q : Nat) (l : List W256) : (s.setQueue win inst q l).tagged = s.tagged := rfl

@[simp] theorem setRake_pending (s : State) (n : Nat) (r : Rake) : (s.setRake n r).pending = s.pending := rfl
@[simp] theorem setRake_freeCtr (s : State) (n : Nat) (r : Rake) : (s.setRake n r).freeCtr = s.freeCtr := rfl
@[simp] theorem setRake_answers (s : State) (n : Nat) (r : Rake) : (s.setRake n r).answers = s.answers := rfl
@[simp] theorem setRake_regs (s : State) (n : Nat) (r : Rake) : (s.setRake n r).regs = s.regs := rfl
@[simp] theorem setRake_latches (s : State) (n : Nat) (r : Rake) : (s.setRake n r).latches = s.latches := rfl
@[simp] theorem setRake_helds (s : State) (n : Nat) (r : Rake) : (s.setRake n r).helds = s.helds := rfl
@[simp] theorem setRake_mem (s : State) (n : Nat) (r : Rake) : (s.setRake n r).mem = s.mem := rfl
@[simp] theorem setRake_events (s : State) (n : Nat) (r : Rake) : (s.setRake n r).events = s.events := rfl
@[simp] theorem setRake_ledger (s : State) (n : Nat) (r : Rake) : (s.setRake n r).ledger = s.ledger := rfl
@[simp] theorem setRake_mgr (s : State) (n : Nat) (r : Rake) : (s.setRake n r).mgr = s.mgr := rfl
@[simp] theorem setRake_tally (s : State) (n : Nat) (r : Rake) : (s.setRake n r).tally = s.tally := rfl
@[simp] theorem setRake_queues (s : State) (n : Nat) (r : Rake) : (s.setRake n r).queues = s.queues := rfl
@[simp] theorem setRake_mcs (s : State) (n : Nat) (r : Rake) : (s.setRake n r).mcs = s.mcs := rfl
@[simp] theorem setRake_banks (s : State) (n : Nat) (r : Rake) : (s.setRake n r).banks = s.banks := rfl
@[simp] theorem setRake_harrow (s : State) (n : Nat) (r : Rake) : (s.setRake n r).harrow = s.harrow := rfl
@[simp] theorem setRake_time (s : State) (n : Nat) (r : Rake) : (s.setRake n r).time = s.time := rfl
@[simp] theorem setRake_dma (s : State) (n : Nat) (r : Rake) : (s.setRake n r).dma = s.dma := rfl
@[simp] theorem setRake_releases (s : State) (n : Nat) (r : Rake) : (s.setRake n r).releases = s.releases := rfl
@[simp] theorem setRake_host (s : State) (n : Nat) (r : Rake) : (s.setRake n r).host = s.host := rfl
@[simp] theorem setRake_power (s : State) (n : Nat) (r : Rake) : (s.setRake n r).power = s.power := rfl
@[simp] theorem setRake_resets (s : State) (n : Nat) (r : Rake) : (s.setRake n r).resets = s.resets := rfl
@[simp] theorem setRake_sec (s : State) (n : Nat) (r : Rake) : (s.setRake n r).sec = s.sec := rfl
@[simp] theorem setRake_chk (s : State) (n : Nat) (r : Rake) : (s.setRake n r).chk = s.chk := rfl
@[simp] theorem setRake_pgms (s : State) (n : Nat) (r : Rake) : (s.setRake n r).pgms = s.pgms := rfl
@[simp] theorem setRake_cmps (s : State) (n : Nat) (r : Rake) : (s.setRake n r).cmps = s.cmps := rfl
@[simp] theorem setRake_colours (s : State) (n : Nat) (r : Rake) : (s.setRake n r).colours = s.colours := rfl
@[simp] theorem setRake_heads (s : State) (n : Nat) (r : Rake) : (s.setRake n r).heads = s.heads := rfl
@[simp] theorem setRake_headOut (s : State) (n : Nat) (r : Rake) : (s.setRake n r).headOut = s.headOut := rfl
@[simp] theorem setRake_slus (s : State) (n : Nat) (r : Rake) : (s.setRake n r).slus = s.slus := rfl
@[simp] theorem setRake_net (s : State) (n : Nat) (r : Rake) : (s.setRake n r).net = s.net := rfl
@[simp] theorem setRake_audio (s : State) (n : Nat) (r : Rake) : (s.setRake n r).audio = s.audio := rfl
@[simp] theorem setRake_lanes (s : State) (n : Nat) (r : Rake) : (s.setRake n r).lanes = s.lanes := rfl
@[simp] theorem setRake_sdi (s : State) (n : Nat) (r : Rake) : (s.setRake n r).sdi = s.sdi := rfl
@[simp] theorem setRake_prbs (s : State) (n : Nat) (r : Rake) : (s.setRake n r).prbs = s.prbs := rfl
@[simp] theorem setRake_twin (s : State) (n : Nat) (r : Rake) : (s.setRake n r).twin = s.twin := rfl
@[simp] theorem setRake_pmu (s : State) (n : Nat) (r : Rake) : (s.setRake n r).pmu = s.pmu := rfl
@[simp] theorem setRake_tags (s : State) (n : Nat) (r : Rake) : (s.setRake n r).tags = s.tags := rfl
@[simp] theorem setRake_snaps (s : State) (n : Nat) (r : Rake) : (s.setRake n r).snaps = s.snaps := rfl
@[simp] theorem setRake_tagged (s : State) (n : Nat) (r : Rake) : (s.setRake n r).tagged = s.tagged := rfl

@[simp] theorem setSlot_pending (s : State) (n : Nat) (x : Slot) : (s.setSlot n x).pending = s.pending := rfl
@[simp] theorem setSlot_freeCtr (s : State) (n : Nat) (x : Slot) : (s.setSlot n x).freeCtr = s.freeCtr := rfl
@[simp] theorem setSlot_answers (s : State) (n : Nat) (x : Slot) : (s.setSlot n x).answers = s.answers := rfl
@[simp] theorem setSlot_regs (s : State) (n : Nat) (x : Slot) : (s.setSlot n x).regs = s.regs := rfl
@[simp] theorem setSlot_latches (s : State) (n : Nat) (x : Slot) : (s.setSlot n x).latches = s.latches := rfl
@[simp] theorem setSlot_helds (s : State) (n : Nat) (x : Slot) : (s.setSlot n x).helds = s.helds := rfl
@[simp] theorem setSlot_mem (s : State) (n : Nat) (x : Slot) : (s.setSlot n x).mem = s.mem := rfl
@[simp] theorem setSlot_events (s : State) (n : Nat) (x : Slot) : (s.setSlot n x).events = s.events := rfl
@[simp] theorem setSlot_ledger (s : State) (n : Nat) (x : Slot) : (s.setSlot n x).ledger = s.ledger := rfl
@[simp] theorem setSlot_rakes (s : State) (n : Nat) (x : Slot) : (s.setSlot n x).rakes = s.rakes := rfl
@[simp] theorem setSlot_mgr (s : State) (n : Nat) (x : Slot) : (s.setSlot n x).mgr = s.mgr := rfl
@[simp] theorem setSlot_queues (s : State) (n : Nat) (x : Slot) : (s.setSlot n x).queues = s.queues := rfl
@[simp] theorem setSlot_mcs (s : State) (n : Nat) (x : Slot) : (s.setSlot n x).mcs = s.mcs := rfl
@[simp] theorem setSlot_banks (s : State) (n : Nat) (x : Slot) : (s.setSlot n x).banks = s.banks := rfl
@[simp] theorem setSlot_harrow (s : State) (n : Nat) (x : Slot) : (s.setSlot n x).harrow = s.harrow := rfl
@[simp] theorem setSlot_time (s : State) (n : Nat) (x : Slot) : (s.setSlot n x).time = s.time := rfl
@[simp] theorem setSlot_dma (s : State) (n : Nat) (x : Slot) : (s.setSlot n x).dma = s.dma := rfl
@[simp] theorem setSlot_releases (s : State) (n : Nat) (x : Slot) : (s.setSlot n x).releases = s.releases := rfl
@[simp] theorem setSlot_host (s : State) (n : Nat) (x : Slot) : (s.setSlot n x).host = s.host := rfl
@[simp] theorem setSlot_power (s : State) (n : Nat) (x : Slot) : (s.setSlot n x).power = s.power := rfl
@[simp] theorem setSlot_resets (s : State) (n : Nat) (x : Slot) : (s.setSlot n x).resets = s.resets := rfl
@[simp] theorem setSlot_sec (s : State) (n : Nat) (x : Slot) : (s.setSlot n x).sec = s.sec := rfl
@[simp] theorem setSlot_chk (s : State) (n : Nat) (x : Slot) : (s.setSlot n x).chk = s.chk := rfl
@[simp] theorem setSlot_pgms (s : State) (n : Nat) (x : Slot) : (s.setSlot n x).pgms = s.pgms := rfl
@[simp] theorem setSlot_cmps (s : State) (n : Nat) (x : Slot) : (s.setSlot n x).cmps = s.cmps := rfl
@[simp] theorem setSlot_colours (s : State) (n : Nat) (x : Slot) : (s.setSlot n x).colours = s.colours := rfl
@[simp] theorem setSlot_heads (s : State) (n : Nat) (x : Slot) : (s.setSlot n x).heads = s.heads := rfl
@[simp] theorem setSlot_headOut (s : State) (n : Nat) (x : Slot) : (s.setSlot n x).headOut = s.headOut := rfl
@[simp] theorem setSlot_slus (s : State) (n : Nat) (x : Slot) : (s.setSlot n x).slus = s.slus := rfl
@[simp] theorem setSlot_net (s : State) (n : Nat) (x : Slot) : (s.setSlot n x).net = s.net := rfl
@[simp] theorem setSlot_audio (s : State) (n : Nat) (x : Slot) : (s.setSlot n x).audio = s.audio := rfl
@[simp] theorem setSlot_lanes (s : State) (n : Nat) (x : Slot) : (s.setSlot n x).lanes = s.lanes := rfl
@[simp] theorem setSlot_sdi (s : State) (n : Nat) (x : Slot) : (s.setSlot n x).sdi = s.sdi := rfl
@[simp] theorem setSlot_prbs (s : State) (n : Nat) (x : Slot) : (s.setSlot n x).prbs = s.prbs := rfl
@[simp] theorem setSlot_twin (s : State) (n : Nat) (x : Slot) : (s.setSlot n x).twin = s.twin := rfl
@[simp] theorem setSlot_pmu (s : State) (n : Nat) (x : Slot) : (s.setSlot n x).pmu = s.pmu := rfl
@[simp] theorem setSlot_tags (s : State) (n : Nat) (x : Slot) : (s.setSlot n x).tags = s.tags := rfl
@[simp] theorem setSlot_snaps (s : State) (n : Nat) (x : Slot) : (s.setSlot n x).snaps = s.snaps := rfl
@[simp] theorem setSlot_tagged (s : State) (n : Nat) (x : Slot) : (s.setSlot n x).tagged = s.tagged := rfl

@[simp] theorem setFlow_pending (s : State) (f : Nat) (x : Flow) : (s.setFlow f x).pending = s.pending := rfl
@[simp] theorem setFlow_freeCtr (s : State) (f : Nat) (x : Flow) : (s.setFlow f x).freeCtr = s.freeCtr := rfl
@[simp] theorem setFlow_answers (s : State) (f : Nat) (x : Flow) : (s.setFlow f x).answers = s.answers := rfl
@[simp] theorem setFlow_regs (s : State) (f : Nat) (x : Flow) : (s.setFlow f x).regs = s.regs := rfl
@[simp] theorem setFlow_latches (s : State) (f : Nat) (x : Flow) : (s.setFlow f x).latches = s.latches := rfl
@[simp] theorem setFlow_helds (s : State) (f : Nat) (x : Flow) : (s.setFlow f x).helds = s.helds := rfl
@[simp] theorem setFlow_mem (s : State) (f : Nat) (x : Flow) : (s.setFlow f x).mem = s.mem := rfl
@[simp] theorem setFlow_events (s : State) (f : Nat) (x : Flow) : (s.setFlow f x).events = s.events := rfl
@[simp] theorem setFlow_ledger (s : State) (f : Nat) (x : Flow) : (s.setFlow f x).ledger = s.ledger := rfl
@[simp] theorem setFlow_rakes (s : State) (f : Nat) (x : Flow) : (s.setFlow f x).rakes = s.rakes := rfl
@[simp] theorem setFlow_mgr (s : State) (f : Nat) (x : Flow) : (s.setFlow f x).mgr = s.mgr := rfl
@[simp] theorem setFlow_queues (s : State) (f : Nat) (x : Flow) : (s.setFlow f x).queues = s.queues := rfl
@[simp] theorem setFlow_mcs (s : State) (f : Nat) (x : Flow) : (s.setFlow f x).mcs = s.mcs := rfl
@[simp] theorem setFlow_banks (s : State) (f : Nat) (x : Flow) : (s.setFlow f x).banks = s.banks := rfl
@[simp] theorem setFlow_harrow (s : State) (f : Nat) (x : Flow) : (s.setFlow f x).harrow = s.harrow := rfl
@[simp] theorem setFlow_time (s : State) (f : Nat) (x : Flow) : (s.setFlow f x).time = s.time := rfl
@[simp] theorem setFlow_dma (s : State) (f : Nat) (x : Flow) : (s.setFlow f x).dma = s.dma := rfl
@[simp] theorem setFlow_releases (s : State) (f : Nat) (x : Flow) : (s.setFlow f x).releases = s.releases := rfl
@[simp] theorem setFlow_host (s : State) (f : Nat) (x : Flow) : (s.setFlow f x).host = s.host := rfl
@[simp] theorem setFlow_power (s : State) (f : Nat) (x : Flow) : (s.setFlow f x).power = s.power := rfl
@[simp] theorem setFlow_resets (s : State) (f : Nat) (x : Flow) : (s.setFlow f x).resets = s.resets := rfl
@[simp] theorem setFlow_sec (s : State) (f : Nat) (x : Flow) : (s.setFlow f x).sec = s.sec := rfl
@[simp] theorem setFlow_chk (s : State) (f : Nat) (x : Flow) : (s.setFlow f x).chk = s.chk := rfl
@[simp] theorem setFlow_pgms (s : State) (f : Nat) (x : Flow) : (s.setFlow f x).pgms = s.pgms := rfl
@[simp] theorem setFlow_cmps (s : State) (f : Nat) (x : Flow) : (s.setFlow f x).cmps = s.cmps := rfl
@[simp] theorem setFlow_colours (s : State) (f : Nat) (x : Flow) : (s.setFlow f x).colours = s.colours := rfl
@[simp] theorem setFlow_heads (s : State) (f : Nat) (x : Flow) : (s.setFlow f x).heads = s.heads := rfl
@[simp] theorem setFlow_headOut (s : State) (f : Nat) (x : Flow) : (s.setFlow f x).headOut = s.headOut := rfl
@[simp] theorem setFlow_slus (s : State) (f : Nat) (x : Flow) : (s.setFlow f x).slus = s.slus := rfl
@[simp] theorem setFlow_net (s : State) (f : Nat) (x : Flow) : (s.setFlow f x).net = s.net := rfl
@[simp] theorem setFlow_audio (s : State) (f : Nat) (x : Flow) : (s.setFlow f x).audio = s.audio := rfl
@[simp] theorem setFlow_lanes (s : State) (f : Nat) (x : Flow) : (s.setFlow f x).lanes = s.lanes := rfl
@[simp] theorem setFlow_sdi (s : State) (f : Nat) (x : Flow) : (s.setFlow f x).sdi = s.sdi := rfl
@[simp] theorem setFlow_prbs (s : State) (f : Nat) (x : Flow) : (s.setFlow f x).prbs = s.prbs := rfl
@[simp] theorem setFlow_twin (s : State) (f : Nat) (x : Flow) : (s.setFlow f x).twin = s.twin := rfl
@[simp] theorem setFlow_pmu (s : State) (f : Nat) (x : Flow) : (s.setFlow f x).pmu = s.pmu := rfl
@[simp] theorem setFlow_tags (s : State) (f : Nat) (x : Flow) : (s.setFlow f x).tags = s.tags := rfl
@[simp] theorem setFlow_snaps (s : State) (f : Nat) (x : Flow) : (s.setFlow f x).snaps = s.snaps := rfl
@[simp] theorem setFlow_tagged (s : State) (f : Nat) (x : Flow) : (s.setFlow f x).tagged = s.tagged := rfl

@[simp] theorem setReady_pending (s : State) (lvl : Nat) (l : List Nat) : (s.setReady lvl l).pending = s.pending := rfl
@[simp] theorem setReady_freeCtr (s : State) (lvl : Nat) (l : List Nat) : (s.setReady lvl l).freeCtr = s.freeCtr := rfl
@[simp] theorem setReady_answers (s : State) (lvl : Nat) (l : List Nat) : (s.setReady lvl l).answers = s.answers := rfl
@[simp] theorem setReady_regs (s : State) (lvl : Nat) (l : List Nat) : (s.setReady lvl l).regs = s.regs := rfl
@[simp] theorem setReady_latches (s : State) (lvl : Nat) (l : List Nat) : (s.setReady lvl l).latches = s.latches := rfl
@[simp] theorem setReady_helds (s : State) (lvl : Nat) (l : List Nat) : (s.setReady lvl l).helds = s.helds := rfl
@[simp] theorem setReady_mem (s : State) (lvl : Nat) (l : List Nat) : (s.setReady lvl l).mem = s.mem := rfl
@[simp] theorem setReady_events (s : State) (lvl : Nat) (l : List Nat) : (s.setReady lvl l).events = s.events := rfl
@[simp] theorem setReady_ledger (s : State) (lvl : Nat) (l : List Nat) : (s.setReady lvl l).ledger = s.ledger := rfl
@[simp] theorem setReady_rakes (s : State) (lvl : Nat) (l : List Nat) : (s.setReady lvl l).rakes = s.rakes := rfl
@[simp] theorem setReady_mgr (s : State) (lvl : Nat) (l : List Nat) : (s.setReady lvl l).mgr = s.mgr := rfl
@[simp] theorem setReady_queues (s : State) (lvl : Nat) (l : List Nat) : (s.setReady lvl l).queues = s.queues := rfl
@[simp] theorem setReady_mcs (s : State) (lvl : Nat) (l : List Nat) : (s.setReady lvl l).mcs = s.mcs := rfl
@[simp] theorem setReady_banks (s : State) (lvl : Nat) (l : List Nat) : (s.setReady lvl l).banks = s.banks := rfl
@[simp] theorem setReady_harrow (s : State) (lvl : Nat) (l : List Nat) : (s.setReady lvl l).harrow = s.harrow := rfl
@[simp] theorem setReady_time (s : State) (lvl : Nat) (l : List Nat) : (s.setReady lvl l).time = s.time := rfl
@[simp] theorem setReady_dma (s : State) (lvl : Nat) (l : List Nat) : (s.setReady lvl l).dma = s.dma := rfl
@[simp] theorem setReady_releases (s : State) (lvl : Nat) (l : List Nat) : (s.setReady lvl l).releases = s.releases := rfl
@[simp] theorem setReady_host (s : State) (lvl : Nat) (l : List Nat) : (s.setReady lvl l).host = s.host := rfl
@[simp] theorem setReady_power (s : State) (lvl : Nat) (l : List Nat) : (s.setReady lvl l).power = s.power := rfl
@[simp] theorem setReady_resets (s : State) (lvl : Nat) (l : List Nat) : (s.setReady lvl l).resets = s.resets := rfl
@[simp] theorem setReady_sec (s : State) (lvl : Nat) (l : List Nat) : (s.setReady lvl l).sec = s.sec := rfl
@[simp] theorem setReady_chk (s : State) (lvl : Nat) (l : List Nat) : (s.setReady lvl l).chk = s.chk := rfl
@[simp] theorem setReady_pgms (s : State) (lvl : Nat) (l : List Nat) : (s.setReady lvl l).pgms = s.pgms := rfl
@[simp] theorem setReady_cmps (s : State) (lvl : Nat) (l : List Nat) : (s.setReady lvl l).cmps = s.cmps := rfl
@[simp] theorem setReady_colours (s : State) (lvl : Nat) (l : List Nat) : (s.setReady lvl l).colours = s.colours := rfl
@[simp] theorem setReady_heads (s : State) (lvl : Nat) (l : List Nat) : (s.setReady lvl l).heads = s.heads := rfl
@[simp] theorem setReady_headOut (s : State) (lvl : Nat) (l : List Nat) : (s.setReady lvl l).headOut = s.headOut := rfl
@[simp] theorem setReady_slus (s : State) (lvl : Nat) (l : List Nat) : (s.setReady lvl l).slus = s.slus := rfl
@[simp] theorem setReady_net (s : State) (lvl : Nat) (l : List Nat) : (s.setReady lvl l).net = s.net := rfl
@[simp] theorem setReady_audio (s : State) (lvl : Nat) (l : List Nat) : (s.setReady lvl l).audio = s.audio := rfl
@[simp] theorem setReady_lanes (s : State) (lvl : Nat) (l : List Nat) : (s.setReady lvl l).lanes = s.lanes := rfl
@[simp] theorem setReady_sdi (s : State) (lvl : Nat) (l : List Nat) : (s.setReady lvl l).sdi = s.sdi := rfl
@[simp] theorem setReady_prbs (s : State) (lvl : Nat) (l : List Nat) : (s.setReady lvl l).prbs = s.prbs := rfl
@[simp] theorem setReady_twin (s : State) (lvl : Nat) (l : List Nat) : (s.setReady lvl l).twin = s.twin := rfl
@[simp] theorem setReady_pmu (s : State) (lvl : Nat) (l : List Nat) : (s.setReady lvl l).pmu = s.pmu := rfl
@[simp] theorem setReady_tags (s : State) (lvl : Nat) (l : List Nat) : (s.setReady lvl l).tags = s.tags := rfl
@[simp] theorem setReady_snaps (s : State) (lvl : Nat) (l : List Nat) : (s.setReady lvl l).snaps = s.snaps := rfl
@[simp] theorem setReady_tagged (s : State) (lvl : Nat) (l : List Nat) : (s.setReady lvl l).tagged = s.tagged := rfl

@[simp] theorem setDelay_pending (s : State) (l : Nat) (x : List Delayed) : (s.setDelay l x).pending = s.pending := rfl
@[simp] theorem setDelay_freeCtr (s : State) (l : Nat) (x : List Delayed) : (s.setDelay l x).freeCtr = s.freeCtr := rfl
@[simp] theorem setDelay_answers (s : State) (l : Nat) (x : List Delayed) : (s.setDelay l x).answers = s.answers := rfl
@[simp] theorem setDelay_regs (s : State) (l : Nat) (x : List Delayed) : (s.setDelay l x).regs = s.regs := rfl
@[simp] theorem setDelay_latches (s : State) (l : Nat) (x : List Delayed) : (s.setDelay l x).latches = s.latches := rfl
@[simp] theorem setDelay_helds (s : State) (l : Nat) (x : List Delayed) : (s.setDelay l x).helds = s.helds := rfl
@[simp] theorem setDelay_mem (s : State) (l : Nat) (x : List Delayed) : (s.setDelay l x).mem = s.mem := rfl
@[simp] theorem setDelay_events (s : State) (l : Nat) (x : List Delayed) : (s.setDelay l x).events = s.events := rfl
@[simp] theorem setDelay_ledger (s : State) (l : Nat) (x : List Delayed) : (s.setDelay l x).ledger = s.ledger := rfl
@[simp] theorem setDelay_rakes (s : State) (l : Nat) (x : List Delayed) : (s.setDelay l x).rakes = s.rakes := rfl
@[simp] theorem setDelay_mgr (s : State) (l : Nat) (x : List Delayed) : (s.setDelay l x).mgr = s.mgr := rfl
@[simp] theorem setDelay_queues (s : State) (l : Nat) (x : List Delayed) : (s.setDelay l x).queues = s.queues := rfl
@[simp] theorem setDelay_mcs (s : State) (l : Nat) (x : List Delayed) : (s.setDelay l x).mcs = s.mcs := rfl
@[simp] theorem setDelay_banks (s : State) (l : Nat) (x : List Delayed) : (s.setDelay l x).banks = s.banks := rfl
@[simp] theorem setDelay_harrow (s : State) (l : Nat) (x : List Delayed) : (s.setDelay l x).harrow = s.harrow := rfl
@[simp] theorem setDelay_time (s : State) (l : Nat) (x : List Delayed) : (s.setDelay l x).time = s.time := rfl
@[simp] theorem setDelay_dma (s : State) (l : Nat) (x : List Delayed) : (s.setDelay l x).dma = s.dma := rfl
@[simp] theorem setDelay_releases (s : State) (l : Nat) (x : List Delayed) : (s.setDelay l x).releases = s.releases := rfl
@[simp] theorem setDelay_host (s : State) (l : Nat) (x : List Delayed) : (s.setDelay l x).host = s.host := rfl
@[simp] theorem setDelay_power (s : State) (l : Nat) (x : List Delayed) : (s.setDelay l x).power = s.power := rfl
@[simp] theorem setDelay_resets (s : State) (l : Nat) (x : List Delayed) : (s.setDelay l x).resets = s.resets := rfl
@[simp] theorem setDelay_sec (s : State) (l : Nat) (x : List Delayed) : (s.setDelay l x).sec = s.sec := rfl
@[simp] theorem setDelay_chk (s : State) (l : Nat) (x : List Delayed) : (s.setDelay l x).chk = s.chk := rfl
@[simp] theorem setDelay_pgms (s : State) (l : Nat) (x : List Delayed) : (s.setDelay l x).pgms = s.pgms := rfl
@[simp] theorem setDelay_cmps (s : State) (l : Nat) (x : List Delayed) : (s.setDelay l x).cmps = s.cmps := rfl
@[simp] theorem setDelay_colours (s : State) (l : Nat) (x : List Delayed) : (s.setDelay l x).colours = s.colours := rfl
@[simp] theorem setDelay_heads (s : State) (l : Nat) (x : List Delayed) : (s.setDelay l x).heads = s.heads := rfl
@[simp] theorem setDelay_headOut (s : State) (l : Nat) (x : List Delayed) : (s.setDelay l x).headOut = s.headOut := rfl
@[simp] theorem setDelay_slus (s : State) (l : Nat) (x : List Delayed) : (s.setDelay l x).slus = s.slus := rfl
@[simp] theorem setDelay_net (s : State) (l : Nat) (x : List Delayed) : (s.setDelay l x).net = s.net := rfl
@[simp] theorem setDelay_audio (s : State) (l : Nat) (x : List Delayed) : (s.setDelay l x).audio = s.audio := rfl
@[simp] theorem setDelay_lanes (s : State) (l : Nat) (x : List Delayed) : (s.setDelay l x).lanes = s.lanes := rfl
@[simp] theorem setDelay_sdi (s : State) (l : Nat) (x : List Delayed) : (s.setDelay l x).sdi = s.sdi := rfl
@[simp] theorem setDelay_prbs (s : State) (l : Nat) (x : List Delayed) : (s.setDelay l x).prbs = s.prbs := rfl
@[simp] theorem setDelay_twin (s : State) (l : Nat) (x : List Delayed) : (s.setDelay l x).twin = s.twin := rfl
@[simp] theorem setDelay_pmu (s : State) (l : Nat) (x : List Delayed) : (s.setDelay l x).pmu = s.pmu := rfl
@[simp] theorem setDelay_tags (s : State) (l : Nat) (x : List Delayed) : (s.setDelay l x).tags = s.tags := rfl
@[simp] theorem setDelay_snaps (s : State) (l : Nat) (x : List Delayed) : (s.setDelay l x).snaps = s.snaps := rfl
@[simp] theorem setDelay_tagged (s : State) (l : Nat) (x : List Delayed) : (s.setDelay l x).tagged = s.tagged := rfl

@[simp] theorem dropTimeout_pending (s : State) (n gen : Nat) : (s.dropTimeout n gen).pending = s.pending := rfl
@[simp] theorem dropTimeout_freeCtr (s : State) (n gen : Nat) : (s.dropTimeout n gen).freeCtr = s.freeCtr := rfl
@[simp] theorem dropTimeout_answers (s : State) (n gen : Nat) : (s.dropTimeout n gen).answers = s.answers := rfl
@[simp] theorem dropTimeout_regs (s : State) (n gen : Nat) : (s.dropTimeout n gen).regs = s.regs := rfl
@[simp] theorem dropTimeout_latches (s : State) (n gen : Nat) : (s.dropTimeout n gen).latches = s.latches := rfl
@[simp] theorem dropTimeout_helds (s : State) (n gen : Nat) : (s.dropTimeout n gen).helds = s.helds := rfl
@[simp] theorem dropTimeout_mem (s : State) (n gen : Nat) : (s.dropTimeout n gen).mem = s.mem := rfl
@[simp] theorem dropTimeout_events (s : State) (n gen : Nat) : (s.dropTimeout n gen).events = s.events := rfl
@[simp] theorem dropTimeout_ledger (s : State) (n gen : Nat) : (s.dropTimeout n gen).ledger = s.ledger := rfl
@[simp] theorem dropTimeout_rakes (s : State) (n gen : Nat) : (s.dropTimeout n gen).rakes = s.rakes := rfl
@[simp] theorem dropTimeout_mgr (s : State) (n gen : Nat) : (s.dropTimeout n gen).mgr = s.mgr := rfl
@[simp] theorem dropTimeout_queues (s : State) (n gen : Nat) : (s.dropTimeout n gen).queues = s.queues := rfl
@[simp] theorem dropTimeout_mcs (s : State) (n gen : Nat) : (s.dropTimeout n gen).mcs = s.mcs := rfl
@[simp] theorem dropTimeout_banks (s : State) (n gen : Nat) : (s.dropTimeout n gen).banks = s.banks := rfl
@[simp] theorem dropTimeout_harrow (s : State) (n gen : Nat) : (s.dropTimeout n gen).harrow = s.harrow := rfl
@[simp] theorem dropTimeout_time (s : State) (n gen : Nat) : (s.dropTimeout n gen).time = s.time := rfl
@[simp] theorem dropTimeout_dma (s : State) (n gen : Nat) : (s.dropTimeout n gen).dma = s.dma := rfl
@[simp] theorem dropTimeout_releases (s : State) (n gen : Nat) : (s.dropTimeout n gen).releases = s.releases := rfl
@[simp] theorem dropTimeout_host (s : State) (n gen : Nat) : (s.dropTimeout n gen).host = s.host := rfl
@[simp] theorem dropTimeout_power (s : State) (n gen : Nat) : (s.dropTimeout n gen).power = s.power := rfl
@[simp] theorem dropTimeout_resets (s : State) (n gen : Nat) : (s.dropTimeout n gen).resets = s.resets := rfl
@[simp] theorem dropTimeout_sec (s : State) (n gen : Nat) : (s.dropTimeout n gen).sec = s.sec := rfl
@[simp] theorem dropTimeout_chk (s : State) (n gen : Nat) : (s.dropTimeout n gen).chk = s.chk := rfl
@[simp] theorem dropTimeout_pgms (s : State) (n gen : Nat) : (s.dropTimeout n gen).pgms = s.pgms := rfl
@[simp] theorem dropTimeout_cmps (s : State) (n gen : Nat) : (s.dropTimeout n gen).cmps = s.cmps := rfl
@[simp] theorem dropTimeout_colours (s : State) (n gen : Nat) : (s.dropTimeout n gen).colours = s.colours := rfl
@[simp] theorem dropTimeout_heads (s : State) (n gen : Nat) : (s.dropTimeout n gen).heads = s.heads := rfl
@[simp] theorem dropTimeout_headOut (s : State) (n gen : Nat) : (s.dropTimeout n gen).headOut = s.headOut := rfl
@[simp] theorem dropTimeout_slus (s : State) (n gen : Nat) : (s.dropTimeout n gen).slus = s.slus := rfl
@[simp] theorem dropTimeout_net (s : State) (n gen : Nat) : (s.dropTimeout n gen).net = s.net := rfl
@[simp] theorem dropTimeout_audio (s : State) (n gen : Nat) : (s.dropTimeout n gen).audio = s.audio := rfl
@[simp] theorem dropTimeout_lanes (s : State) (n gen : Nat) : (s.dropTimeout n gen).lanes = s.lanes := rfl
@[simp] theorem dropTimeout_sdi (s : State) (n gen : Nat) : (s.dropTimeout n gen).sdi = s.sdi := rfl
@[simp] theorem dropTimeout_prbs (s : State) (n gen : Nat) : (s.dropTimeout n gen).prbs = s.prbs := rfl
@[simp] theorem dropTimeout_twin (s : State) (n gen : Nat) : (s.dropTimeout n gen).twin = s.twin := rfl
@[simp] theorem dropTimeout_pmu (s : State) (n gen : Nat) : (s.dropTimeout n gen).pmu = s.pmu := rfl
@[simp] theorem dropTimeout_tags (s : State) (n gen : Nat) : (s.dropTimeout n gen).tags = s.tags := rfl
@[simp] theorem dropTimeout_snaps (s : State) (n gen : Nat) : (s.dropTimeout n gen).snaps = s.snaps := rfl
@[simp] theorem dropTimeout_tagged (s : State) (n gen : Nat) : (s.dropTimeout n gen).tagged = s.tagged := rfl

@[simp] theorem toTxQueue_pending (s : State) (port q flow : Nat) (v : W64) : (s.toTxQueue port q flow v).pending = s.pending := rfl
@[simp] theorem toTxQueue_freeCtr (s : State) (port q flow : Nat) (v : W64) : (s.toTxQueue port q flow v).freeCtr = s.freeCtr := rfl
@[simp] theorem toTxQueue_answers (s : State) (port q flow : Nat) (v : W64) : (s.toTxQueue port q flow v).answers = s.answers := rfl
@[simp] theorem toTxQueue_regs (s : State) (port q flow : Nat) (v : W64) : (s.toTxQueue port q flow v).regs = s.regs := rfl
@[simp] theorem toTxQueue_latches (s : State) (port q flow : Nat) (v : W64) : (s.toTxQueue port q flow v).latches = s.latches := rfl
@[simp] theorem toTxQueue_helds (s : State) (port q flow : Nat) (v : W64) : (s.toTxQueue port q flow v).helds = s.helds := rfl
@[simp] theorem toTxQueue_mem (s : State) (port q flow : Nat) (v : W64) : (s.toTxQueue port q flow v).mem = s.mem := rfl
@[simp] theorem toTxQueue_events (s : State) (port q flow : Nat) (v : W64) : (s.toTxQueue port q flow v).events = s.events := rfl
@[simp] theorem toTxQueue_ledger (s : State) (port q flow : Nat) (v : W64) : (s.toTxQueue port q flow v).ledger = s.ledger := rfl
@[simp] theorem toTxQueue_rakes (s : State) (port q flow : Nat) (v : W64) : (s.toTxQueue port q flow v).rakes = s.rakes := rfl
@[simp] theorem toTxQueue_mgr (s : State) (port q flow : Nat) (v : W64) : (s.toTxQueue port q flow v).mgr = s.mgr := rfl
@[simp] theorem toTxQueue_tally (s : State) (port q flow : Nat) (v : W64) : (s.toTxQueue port q flow v).tally = s.tally := rfl
@[simp] theorem toTxQueue_queues (s : State) (port q flow : Nat) (v : W64) : (s.toTxQueue port q flow v).queues = s.queues := rfl
@[simp] theorem toTxQueue_mcs (s : State) (port q flow : Nat) (v : W64) : (s.toTxQueue port q flow v).mcs = s.mcs := rfl
@[simp] theorem toTxQueue_banks (s : State) (port q flow : Nat) (v : W64) : (s.toTxQueue port q flow v).banks = s.banks := rfl
@[simp] theorem toTxQueue_harrow (s : State) (port q flow : Nat) (v : W64) : (s.toTxQueue port q flow v).harrow = s.harrow := rfl
@[simp] theorem toTxQueue_time (s : State) (port q flow : Nat) (v : W64) : (s.toTxQueue port q flow v).time = s.time := rfl
@[simp] theorem toTxQueue_dma (s : State) (port q flow : Nat) (v : W64) : (s.toTxQueue port q flow v).dma = s.dma := rfl
@[simp] theorem toTxQueue_host (s : State) (port q flow : Nat) (v : W64) : (s.toTxQueue port q flow v).host = s.host := rfl
@[simp] theorem toTxQueue_power (s : State) (port q flow : Nat) (v : W64) : (s.toTxQueue port q flow v).power = s.power := rfl
@[simp] theorem toTxQueue_resets (s : State) (port q flow : Nat) (v : W64) : (s.toTxQueue port q flow v).resets = s.resets := rfl
@[simp] theorem toTxQueue_sec (s : State) (port q flow : Nat) (v : W64) : (s.toTxQueue port q flow v).sec = s.sec := rfl
@[simp] theorem toTxQueue_chk (s : State) (port q flow : Nat) (v : W64) : (s.toTxQueue port q flow v).chk = s.chk := rfl
@[simp] theorem toTxQueue_pgms (s : State) (port q flow : Nat) (v : W64) : (s.toTxQueue port q flow v).pgms = s.pgms := rfl
@[simp] theorem toTxQueue_cmps (s : State) (port q flow : Nat) (v : W64) : (s.toTxQueue port q flow v).cmps = s.cmps := rfl
@[simp] theorem toTxQueue_colours (s : State) (port q flow : Nat) (v : W64) : (s.toTxQueue port q flow v).colours = s.colours := rfl
@[simp] theorem toTxQueue_heads (s : State) (port q flow : Nat) (v : W64) : (s.toTxQueue port q flow v).heads = s.heads := rfl
@[simp] theorem toTxQueue_headOut (s : State) (port q flow : Nat) (v : W64) : (s.toTxQueue port q flow v).headOut = s.headOut := rfl
@[simp] theorem toTxQueue_slus (s : State) (port q flow : Nat) (v : W64) : (s.toTxQueue port q flow v).slus = s.slus := rfl
@[simp] theorem toTxQueue_net (s : State) (port q flow : Nat) (v : W64) : (s.toTxQueue port q flow v).net = s.net := rfl
@[simp] theorem toTxQueue_audio (s : State) (port q flow : Nat) (v : W64) : (s.toTxQueue port q flow v).audio = s.audio := rfl
@[simp] theorem toTxQueue_lanes (s : State) (port q flow : Nat) (v : W64) : (s.toTxQueue port q flow v).lanes = s.lanes := rfl
@[simp] theorem toTxQueue_sdi (s : State) (port q flow : Nat) (v : W64) : (s.toTxQueue port q flow v).sdi = s.sdi := rfl
@[simp] theorem toTxQueue_prbs (s : State) (port q flow : Nat) (v : W64) : (s.toTxQueue port q flow v).prbs = s.prbs := rfl
@[simp] theorem toTxQueue_twin (s : State) (port q flow : Nat) (v : W64) : (s.toTxQueue port q flow v).twin = s.twin := rfl
@[simp] theorem toTxQueue_pmu (s : State) (port q flow : Nat) (v : W64) : (s.toTxQueue port q flow v).pmu = s.pmu := rfl
@[simp] theorem toTxQueue_tags (s : State) (port q flow : Nat) (v : W64) : (s.toTxQueue port q flow v).tags = s.tags := rfl
@[simp] theorem toTxQueue_snaps (s : State) (port q flow : Nat) (v : W64) : (s.toTxQueue port q flow v).snaps = s.snaps := rfl
@[simp] theorem toTxQueue_tagged (s : State) (port q flow : Nat) (v : W64) : (s.toTxQueue port q flow v).tagged = s.tagged := rfl

@[simp] theorem setMc_pending (s : State) (n : Nat) (m : Mc) : (s.setMc n m).pending = s.pending := rfl
@[simp] theorem setMc_freeCtr (s : State) (n : Nat) (m : Mc) : (s.setMc n m).freeCtr = s.freeCtr := rfl
@[simp] theorem setMc_answers (s : State) (n : Nat) (m : Mc) : (s.setMc n m).answers = s.answers := rfl
@[simp] theorem setMc_regs (s : State) (n : Nat) (m : Mc) : (s.setMc n m).regs = s.regs := rfl
@[simp] theorem setMc_latches (s : State) (n : Nat) (m : Mc) : (s.setMc n m).latches = s.latches := rfl
@[simp] theorem setMc_helds (s : State) (n : Nat) (m : Mc) : (s.setMc n m).helds = s.helds := rfl
@[simp] theorem setMc_mem (s : State) (n : Nat) (m : Mc) : (s.setMc n m).mem = s.mem := rfl
@[simp] theorem setMc_events (s : State) (n : Nat) (m : Mc) : (s.setMc n m).events = s.events := rfl
@[simp] theorem setMc_ledger (s : State) (n : Nat) (m : Mc) : (s.setMc n m).ledger = s.ledger := rfl
@[simp] theorem setMc_rakes (s : State) (n : Nat) (m : Mc) : (s.setMc n m).rakes = s.rakes := rfl
@[simp] theorem setMc_mgr (s : State) (n : Nat) (m : Mc) : (s.setMc n m).mgr = s.mgr := rfl
@[simp] theorem setMc_tally (s : State) (n : Nat) (m : Mc) : (s.setMc n m).tally = s.tally := rfl
@[simp] theorem setMc_queues (s : State) (n : Nat) (m : Mc) : (s.setMc n m).queues = s.queues := rfl
@[simp] theorem setMc_banks (s : State) (n : Nat) (m : Mc) : (s.setMc n m).banks = s.banks := rfl
@[simp] theorem setMc_harrow (s : State) (n : Nat) (m : Mc) : (s.setMc n m).harrow = s.harrow := rfl
@[simp] theorem setMc_time (s : State) (n : Nat) (m : Mc) : (s.setMc n m).time = s.time := rfl
@[simp] theorem setMc_dma (s : State) (n : Nat) (m : Mc) : (s.setMc n m).dma = s.dma := rfl
@[simp] theorem setMc_releases (s : State) (n : Nat) (m : Mc) : (s.setMc n m).releases = s.releases := rfl
@[simp] theorem setMc_host (s : State) (n : Nat) (m : Mc) : (s.setMc n m).host = s.host := rfl
@[simp] theorem setMc_power (s : State) (n : Nat) (m : Mc) : (s.setMc n m).power = s.power := rfl
@[simp] theorem setMc_resets (s : State) (n : Nat) (m : Mc) : (s.setMc n m).resets = s.resets := rfl
@[simp] theorem setMc_sec (s : State) (n : Nat) (m : Mc) : (s.setMc n m).sec = s.sec := rfl
@[simp] theorem setMc_chk (s : State) (n : Nat) (m : Mc) : (s.setMc n m).chk = s.chk := rfl
@[simp] theorem setMc_pgms (s : State) (n : Nat) (m : Mc) : (s.setMc n m).pgms = s.pgms := rfl
@[simp] theorem setMc_cmps (s : State) (n : Nat) (m : Mc) : (s.setMc n m).cmps = s.cmps := rfl
@[simp] theorem setMc_colours (s : State) (n : Nat) (m : Mc) : (s.setMc n m).colours = s.colours := rfl
@[simp] theorem setMc_heads (s : State) (n : Nat) (m : Mc) : (s.setMc n m).heads = s.heads := rfl
@[simp] theorem setMc_headOut (s : State) (n : Nat) (m : Mc) : (s.setMc n m).headOut = s.headOut := rfl
@[simp] theorem setMc_slus (s : State) (n : Nat) (m : Mc) : (s.setMc n m).slus = s.slus := rfl
@[simp] theorem setMc_net (s : State) (n : Nat) (m : Mc) : (s.setMc n m).net = s.net := rfl
@[simp] theorem setMc_audio (s : State) (n : Nat) (m : Mc) : (s.setMc n m).audio = s.audio := rfl
@[simp] theorem setMc_lanes (s : State) (n : Nat) (m : Mc) : (s.setMc n m).lanes = s.lanes := rfl
@[simp] theorem setMc_sdi (s : State) (n : Nat) (m : Mc) : (s.setMc n m).sdi = s.sdi := rfl
@[simp] theorem setMc_prbs (s : State) (n : Nat) (m : Mc) : (s.setMc n m).prbs = s.prbs := rfl
@[simp] theorem setMc_twin (s : State) (n : Nat) (m : Mc) : (s.setMc n m).twin = s.twin := rfl
@[simp] theorem setMc_pmu (s : State) (n : Nat) (m : Mc) : (s.setMc n m).pmu = s.pmu := rfl
@[simp] theorem setMc_tags (s : State) (n : Nat) (m : Mc) : (s.setMc n m).tags = s.tags := rfl
@[simp] theorem setMc_snaps (s : State) (n : Nat) (m : Mc) : (s.setMc n m).snaps = s.snaps := rfl
@[simp] theorem setMc_tagged (s : State) (n : Nat) (m : Mc) : (s.setMc n m).tagged = s.tagged := rfl

@[simp] theorem setDc_pending (s : State) (n : Nat) (c : DmaChan) : (s.setDc n c).pending = s.pending := rfl
@[simp] theorem setDc_freeCtr (s : State) (n : Nat) (c : DmaChan) : (s.setDc n c).freeCtr = s.freeCtr := rfl
@[simp] theorem setDc_answers (s : State) (n : Nat) (c : DmaChan) : (s.setDc n c).answers = s.answers := rfl
@[simp] theorem setDc_regs (s : State) (n : Nat) (c : DmaChan) : (s.setDc n c).regs = s.regs := rfl
@[simp] theorem setDc_latches (s : State) (n : Nat) (c : DmaChan) : (s.setDc n c).latches = s.latches := rfl
@[simp] theorem setDc_helds (s : State) (n : Nat) (c : DmaChan) : (s.setDc n c).helds = s.helds := rfl
@[simp] theorem setDc_mem (s : State) (n : Nat) (c : DmaChan) : (s.setDc n c).mem = s.mem := rfl
@[simp] theorem setDc_events (s : State) (n : Nat) (c : DmaChan) : (s.setDc n c).events = s.events := rfl
@[simp] theorem setDc_ledger (s : State) (n : Nat) (c : DmaChan) : (s.setDc n c).ledger = s.ledger := rfl
@[simp] theorem setDc_rakes (s : State) (n : Nat) (c : DmaChan) : (s.setDc n c).rakes = s.rakes := rfl
@[simp] theorem setDc_mgr (s : State) (n : Nat) (c : DmaChan) : (s.setDc n c).mgr = s.mgr := rfl
@[simp] theorem setDc_tally (s : State) (n : Nat) (c : DmaChan) : (s.setDc n c).tally = s.tally := rfl
@[simp] theorem setDc_queues (s : State) (n : Nat) (c : DmaChan) : (s.setDc n c).queues = s.queues := rfl
@[simp] theorem setDc_mcs (s : State) (n : Nat) (c : DmaChan) : (s.setDc n c).mcs = s.mcs := rfl
@[simp] theorem setDc_banks (s : State) (n : Nat) (c : DmaChan) : (s.setDc n c).banks = s.banks := rfl
@[simp] theorem setDc_harrow (s : State) (n : Nat) (c : DmaChan) : (s.setDc n c).harrow = s.harrow := rfl
@[simp] theorem setDc_time (s : State) (n : Nat) (c : DmaChan) : (s.setDc n c).time = s.time := rfl
@[simp] theorem setDc_releases (s : State) (n : Nat) (c : DmaChan) : (s.setDc n c).releases = s.releases := rfl
@[simp] theorem setDc_host (s : State) (n : Nat) (c : DmaChan) : (s.setDc n c).host = s.host := rfl
@[simp] theorem setDc_power (s : State) (n : Nat) (c : DmaChan) : (s.setDc n c).power = s.power := rfl
@[simp] theorem setDc_resets (s : State) (n : Nat) (c : DmaChan) : (s.setDc n c).resets = s.resets := rfl
@[simp] theorem setDc_sec (s : State) (n : Nat) (c : DmaChan) : (s.setDc n c).sec = s.sec := rfl
@[simp] theorem setDc_chk (s : State) (n : Nat) (c : DmaChan) : (s.setDc n c).chk = s.chk := rfl
@[simp] theorem setDc_pgms (s : State) (n : Nat) (c : DmaChan) : (s.setDc n c).pgms = s.pgms := rfl
@[simp] theorem setDc_cmps (s : State) (n : Nat) (c : DmaChan) : (s.setDc n c).cmps = s.cmps := rfl
@[simp] theorem setDc_colours (s : State) (n : Nat) (c : DmaChan) : (s.setDc n c).colours = s.colours := rfl
@[simp] theorem setDc_heads (s : State) (n : Nat) (c : DmaChan) : (s.setDc n c).heads = s.heads := rfl
@[simp] theorem setDc_headOut (s : State) (n : Nat) (c : DmaChan) : (s.setDc n c).headOut = s.headOut := rfl
@[simp] theorem setDc_slus (s : State) (n : Nat) (c : DmaChan) : (s.setDc n c).slus = s.slus := rfl
@[simp] theorem setDc_net (s : State) (n : Nat) (c : DmaChan) : (s.setDc n c).net = s.net := rfl
@[simp] theorem setDc_audio (s : State) (n : Nat) (c : DmaChan) : (s.setDc n c).audio = s.audio := rfl
@[simp] theorem setDc_lanes (s : State) (n : Nat) (c : DmaChan) : (s.setDc n c).lanes = s.lanes := rfl
@[simp] theorem setDc_sdi (s : State) (n : Nat) (c : DmaChan) : (s.setDc n c).sdi = s.sdi := rfl
@[simp] theorem setDc_prbs (s : State) (n : Nat) (c : DmaChan) : (s.setDc n c).prbs = s.prbs := rfl
@[simp] theorem setDc_twin (s : State) (n : Nat) (c : DmaChan) : (s.setDc n c).twin = s.twin := rfl
@[simp] theorem setDc_pmu (s : State) (n : Nat) (c : DmaChan) : (s.setDc n c).pmu = s.pmu := rfl
@[simp] theorem setDc_tags (s : State) (n : Nat) (c : DmaChan) : (s.setDc n c).tags = s.tags := rfl
@[simp] theorem setDc_snaps (s : State) (n : Nat) (c : DmaChan) : (s.setDc n c).snaps = s.snaps := rfl
@[simp] theorem setDc_tagged (s : State) (n : Nat) (c : DmaChan) : (s.setDc n c).tagged = s.tagged := rfl

@[simp] theorem setTime_pending (s : State) (t : TimeBase) : (s.setTime t).pending = s.pending := rfl
@[simp] theorem setTime_freeCtr (s : State) (t : TimeBase) : (s.setTime t).freeCtr = s.freeCtr := rfl
@[simp] theorem setTime_answers (s : State) (t : TimeBase) : (s.setTime t).answers = s.answers := rfl
@[simp] theorem setTime_regs (s : State) (t : TimeBase) : (s.setTime t).regs = s.regs := rfl
@[simp] theorem setTime_latches (s : State) (t : TimeBase) : (s.setTime t).latches = s.latches := rfl
@[simp] theorem setTime_helds (s : State) (t : TimeBase) : (s.setTime t).helds = s.helds := rfl
@[simp] theorem setTime_mem (s : State) (t : TimeBase) : (s.setTime t).mem = s.mem := rfl
@[simp] theorem setTime_events (s : State) (t : TimeBase) : (s.setTime t).events = s.events := rfl
@[simp] theorem setTime_ledger (s : State) (t : TimeBase) : (s.setTime t).ledger = s.ledger := rfl
@[simp] theorem setTime_rakes (s : State) (t : TimeBase) : (s.setTime t).rakes = s.rakes := rfl
@[simp] theorem setTime_mgr (s : State) (t : TimeBase) : (s.setTime t).mgr = s.mgr := rfl
@[simp] theorem setTime_tally (s : State) (t : TimeBase) : (s.setTime t).tally = s.tally := rfl
@[simp] theorem setTime_queues (s : State) (t : TimeBase) : (s.setTime t).queues = s.queues := rfl
@[simp] theorem setTime_mcs (s : State) (t : TimeBase) : (s.setTime t).mcs = s.mcs := rfl
@[simp] theorem setTime_banks (s : State) (t : TimeBase) : (s.setTime t).banks = s.banks := rfl
@[simp] theorem setTime_harrow (s : State) (t : TimeBase) : (s.setTime t).harrow = s.harrow := rfl
@[simp] theorem setTime_dma (s : State) (t : TimeBase) : (s.setTime t).dma = s.dma := rfl
@[simp] theorem setTime_releases (s : State) (t : TimeBase) : (s.setTime t).releases = s.releases := rfl
@[simp] theorem setTime_host (s : State) (t : TimeBase) : (s.setTime t).host = s.host := rfl
@[simp] theorem setTime_power (s : State) (t : TimeBase) : (s.setTime t).power = s.power := rfl
@[simp] theorem setTime_resets (s : State) (t : TimeBase) : (s.setTime t).resets = s.resets := rfl
@[simp] theorem setTime_sec (s : State) (t : TimeBase) : (s.setTime t).sec = s.sec := rfl
@[simp] theorem setTime_chk (s : State) (t : TimeBase) : (s.setTime t).chk = s.chk := rfl
@[simp] theorem setTime_pgms (s : State) (t : TimeBase) : (s.setTime t).pgms = s.pgms := rfl
@[simp] theorem setTime_cmps (s : State) (t : TimeBase) : (s.setTime t).cmps = s.cmps := rfl
@[simp] theorem setTime_colours (s : State) (t : TimeBase) : (s.setTime t).colours = s.colours := rfl
@[simp] theorem setTime_heads (s : State) (t : TimeBase) : (s.setTime t).heads = s.heads := rfl
@[simp] theorem setTime_headOut (s : State) (t : TimeBase) : (s.setTime t).headOut = s.headOut := rfl
@[simp] theorem setTime_slus (s : State) (t : TimeBase) : (s.setTime t).slus = s.slus := rfl
@[simp] theorem setTime_net (s : State) (t : TimeBase) : (s.setTime t).net = s.net := rfl
@[simp] theorem setTime_audio (s : State) (t : TimeBase) : (s.setTime t).audio = s.audio := rfl
@[simp] theorem setTime_lanes (s : State) (t : TimeBase) : (s.setTime t).lanes = s.lanes := rfl
@[simp] theorem setTime_sdi (s : State) (t : TimeBase) : (s.setTime t).sdi = s.sdi := rfl
@[simp] theorem setTime_prbs (s : State) (t : TimeBase) : (s.setTime t).prbs = s.prbs := rfl
@[simp] theorem setTime_twin (s : State) (t : TimeBase) : (s.setTime t).twin = s.twin := rfl
@[simp] theorem setTime_pmu (s : State) (t : TimeBase) : (s.setTime t).pmu = s.pmu := rfl
@[simp] theorem setTime_tags (s : State) (t : TimeBase) : (s.setTime t).tags = s.tags := rfl
@[simp] theorem setTime_snaps (s : State) (t : TimeBase) : (s.setTime t).snaps = s.snaps := rfl
@[simp] theorem setTime_tagged (s : State) (t : TimeBase) : (s.setTime t).tagged = s.tagged := rfl

@[simp] theorem setTout_pending (s : State) (n : Nat) (x : Tout) : (s.setTout n x).pending = s.pending := rfl
@[simp] theorem setTout_freeCtr (s : State) (n : Nat) (x : Tout) : (s.setTout n x).freeCtr = s.freeCtr := rfl
@[simp] theorem setTout_answers (s : State) (n : Nat) (x : Tout) : (s.setTout n x).answers = s.answers := rfl
@[simp] theorem setTout_regs (s : State) (n : Nat) (x : Tout) : (s.setTout n x).regs = s.regs := rfl
@[simp] theorem setTout_latches (s : State) (n : Nat) (x : Tout) : (s.setTout n x).latches = s.latches := rfl
@[simp] theorem setTout_helds (s : State) (n : Nat) (x : Tout) : (s.setTout n x).helds = s.helds := rfl
@[simp] theorem setTout_mem (s : State) (n : Nat) (x : Tout) : (s.setTout n x).mem = s.mem := rfl
@[simp] theorem setTout_events (s : State) (n : Nat) (x : Tout) : (s.setTout n x).events = s.events := rfl
@[simp] theorem setTout_ledger (s : State) (n : Nat) (x : Tout) : (s.setTout n x).ledger = s.ledger := rfl
@[simp] theorem setTout_rakes (s : State) (n : Nat) (x : Tout) : (s.setTout n x).rakes = s.rakes := rfl
@[simp] theorem setTout_mgr (s : State) (n : Nat) (x : Tout) : (s.setTout n x).mgr = s.mgr := rfl
@[simp] theorem setTout_tally (s : State) (n : Nat) (x : Tout) : (s.setTout n x).tally = s.tally := rfl
@[simp] theorem setTout_queues (s : State) (n : Nat) (x : Tout) : (s.setTout n x).queues = s.queues := rfl
@[simp] theorem setTout_mcs (s : State) (n : Nat) (x : Tout) : (s.setTout n x).mcs = s.mcs := rfl
@[simp] theorem setTout_banks (s : State) (n : Nat) (x : Tout) : (s.setTout n x).banks = s.banks := rfl
@[simp] theorem setTout_harrow (s : State) (n : Nat) (x : Tout) : (s.setTout n x).harrow = s.harrow := rfl
@[simp] theorem setTout_dma (s : State) (n : Nat) (x : Tout) : (s.setTout n x).dma = s.dma := rfl
@[simp] theorem setTout_releases (s : State) (n : Nat) (x : Tout) : (s.setTout n x).releases = s.releases := rfl
@[simp] theorem setTout_host (s : State) (n : Nat) (x : Tout) : (s.setTout n x).host = s.host := rfl
@[simp] theorem setTout_power (s : State) (n : Nat) (x : Tout) : (s.setTout n x).power = s.power := rfl
@[simp] theorem setTout_resets (s : State) (n : Nat) (x : Tout) : (s.setTout n x).resets = s.resets := rfl
@[simp] theorem setTout_sec (s : State) (n : Nat) (x : Tout) : (s.setTout n x).sec = s.sec := rfl
@[simp] theorem setTout_chk (s : State) (n : Nat) (x : Tout) : (s.setTout n x).chk = s.chk := rfl
@[simp] theorem setTout_pgms (s : State) (n : Nat) (x : Tout) : (s.setTout n x).pgms = s.pgms := rfl
@[simp] theorem setTout_cmps (s : State) (n : Nat) (x : Tout) : (s.setTout n x).cmps = s.cmps := rfl
@[simp] theorem setTout_colours (s : State) (n : Nat) (x : Tout) : (s.setTout n x).colours = s.colours := rfl
@[simp] theorem setTout_heads (s : State) (n : Nat) (x : Tout) : (s.setTout n x).heads = s.heads := rfl
@[simp] theorem setTout_headOut (s : State) (n : Nat) (x : Tout) : (s.setTout n x).headOut = s.headOut := rfl
@[simp] theorem setTout_slus (s : State) (n : Nat) (x : Tout) : (s.setTout n x).slus = s.slus := rfl
@[simp] theorem setTout_net (s : State) (n : Nat) (x : Tout) : (s.setTout n x).net = s.net := rfl
@[simp] theorem setTout_audio (s : State) (n : Nat) (x : Tout) : (s.setTout n x).audio = s.audio := rfl
@[simp] theorem setTout_lanes (s : State) (n : Nat) (x : Tout) : (s.setTout n x).lanes = s.lanes := rfl
@[simp] theorem setTout_sdi (s : State) (n : Nat) (x : Tout) : (s.setTout n x).sdi = s.sdi := rfl
@[simp] theorem setTout_prbs (s : State) (n : Nat) (x : Tout) : (s.setTout n x).prbs = s.prbs := rfl
@[simp] theorem setTout_twin (s : State) (n : Nat) (x : Tout) : (s.setTout n x).twin = s.twin := rfl
@[simp] theorem setTout_pmu (s : State) (n : Nat) (x : Tout) : (s.setTout n x).pmu = s.pmu := rfl
@[simp] theorem setTout_tags (s : State) (n : Nat) (x : Tout) : (s.setTout n x).tags = s.tags := rfl
@[simp] theorem setTout_snaps (s : State) (n : Nat) (x : Tout) : (s.setTout n x).snaps = s.snaps := rfl
@[simp] theorem setTout_tagged (s : State) (n : Nat) (x : Tout) : (s.setTout n x).tagged = s.tagged := rfl

@[simp] theorem setHostFn_pending (s : State) (fn : Nat) (x : HostFn) : (s.setHostFn fn x).pending = s.pending := rfl
@[simp] theorem setHostFn_freeCtr (s : State) (fn : Nat) (x : HostFn) : (s.setHostFn fn x).freeCtr = s.freeCtr := rfl
@[simp] theorem setHostFn_answers (s : State) (fn : Nat) (x : HostFn) : (s.setHostFn fn x).answers = s.answers := rfl
@[simp] theorem setHostFn_regs (s : State) (fn : Nat) (x : HostFn) : (s.setHostFn fn x).regs = s.regs := rfl
@[simp] theorem setHostFn_latches (s : State) (fn : Nat) (x : HostFn) : (s.setHostFn fn x).latches = s.latches := rfl
@[simp] theorem setHostFn_helds (s : State) (fn : Nat) (x : HostFn) : (s.setHostFn fn x).helds = s.helds := rfl
@[simp] theorem setHostFn_mem (s : State) (fn : Nat) (x : HostFn) : (s.setHostFn fn x).mem = s.mem := rfl
@[simp] theorem setHostFn_events (s : State) (fn : Nat) (x : HostFn) : (s.setHostFn fn x).events = s.events := rfl
@[simp] theorem setHostFn_ledger (s : State) (fn : Nat) (x : HostFn) : (s.setHostFn fn x).ledger = s.ledger := rfl
@[simp] theorem setHostFn_rakes (s : State) (fn : Nat) (x : HostFn) : (s.setHostFn fn x).rakes = s.rakes := rfl
@[simp] theorem setHostFn_mgr (s : State) (fn : Nat) (x : HostFn) : (s.setHostFn fn x).mgr = s.mgr := rfl
@[simp] theorem setHostFn_tally (s : State) (fn : Nat) (x : HostFn) : (s.setHostFn fn x).tally = s.tally := rfl
@[simp] theorem setHostFn_queues (s : State) (fn : Nat) (x : HostFn) : (s.setHostFn fn x).queues = s.queues := rfl
@[simp] theorem setHostFn_mcs (s : State) (fn : Nat) (x : HostFn) : (s.setHostFn fn x).mcs = s.mcs := rfl
@[simp] theorem setHostFn_banks (s : State) (fn : Nat) (x : HostFn) : (s.setHostFn fn x).banks = s.banks := rfl
@[simp] theorem setHostFn_harrow (s : State) (fn : Nat) (x : HostFn) : (s.setHostFn fn x).harrow = s.harrow := rfl
@[simp] theorem setHostFn_time (s : State) (fn : Nat) (x : HostFn) : (s.setHostFn fn x).time = s.time := rfl
@[simp] theorem setHostFn_dma (s : State) (fn : Nat) (x : HostFn) : (s.setHostFn fn x).dma = s.dma := rfl
@[simp] theorem setHostFn_releases (s : State) (fn : Nat) (x : HostFn) : (s.setHostFn fn x).releases = s.releases := rfl
@[simp] theorem setHostFn_power (s : State) (fn : Nat) (x : HostFn) : (s.setHostFn fn x).power = s.power := rfl
@[simp] theorem setHostFn_resets (s : State) (fn : Nat) (x : HostFn) : (s.setHostFn fn x).resets = s.resets := rfl
@[simp] theorem setHostFn_sec (s : State) (fn : Nat) (x : HostFn) : (s.setHostFn fn x).sec = s.sec := rfl
@[simp] theorem setHostFn_chk (s : State) (fn : Nat) (x : HostFn) : (s.setHostFn fn x).chk = s.chk := rfl
@[simp] theorem setHostFn_pgms (s : State) (fn : Nat) (x : HostFn) : (s.setHostFn fn x).pgms = s.pgms := rfl
@[simp] theorem setHostFn_cmps (s : State) (fn : Nat) (x : HostFn) : (s.setHostFn fn x).cmps = s.cmps := rfl
@[simp] theorem setHostFn_colours (s : State) (fn : Nat) (x : HostFn) : (s.setHostFn fn x).colours = s.colours := rfl
@[simp] theorem setHostFn_heads (s : State) (fn : Nat) (x : HostFn) : (s.setHostFn fn x).heads = s.heads := rfl
@[simp] theorem setHostFn_headOut (s : State) (fn : Nat) (x : HostFn) : (s.setHostFn fn x).headOut = s.headOut := rfl
@[simp] theorem setHostFn_slus (s : State) (fn : Nat) (x : HostFn) : (s.setHostFn fn x).slus = s.slus := rfl
@[simp] theorem setHostFn_net (s : State) (fn : Nat) (x : HostFn) : (s.setHostFn fn x).net = s.net := rfl
@[simp] theorem setHostFn_audio (s : State) (fn : Nat) (x : HostFn) : (s.setHostFn fn x).audio = s.audio := rfl
@[simp] theorem setHostFn_lanes (s : State) (fn : Nat) (x : HostFn) : (s.setHostFn fn x).lanes = s.lanes := rfl
@[simp] theorem setHostFn_sdi (s : State) (fn : Nat) (x : HostFn) : (s.setHostFn fn x).sdi = s.sdi := rfl
@[simp] theorem setHostFn_prbs (s : State) (fn : Nat) (x : HostFn) : (s.setHostFn fn x).prbs = s.prbs := rfl
@[simp] theorem setHostFn_twin (s : State) (fn : Nat) (x : HostFn) : (s.setHostFn fn x).twin = s.twin := rfl
@[simp] theorem setHostFn_pmu (s : State) (fn : Nat) (x : HostFn) : (s.setHostFn fn x).pmu = s.pmu := rfl
@[simp] theorem setHostFn_tags (s : State) (fn : Nat) (x : HostFn) : (s.setHostFn fn x).tags = s.tags := rfl
@[simp] theorem setHostFn_snaps (s : State) (fn : Nat) (x : HostFn) : (s.setHostFn fn x).snaps = s.snaps := rfl
@[simp] theorem setHostFn_tagged (s : State) (fn : Nat) (x : HostFn) : (s.setHostFn fn x).tagged = s.tagged := rfl

@[simp] theorem setRing_pending (s : State) (sub : Nat) (x : Ring) : (s.setRing sub x).pending = s.pending := rfl
@[simp] theorem setRing_freeCtr (s : State) (sub : Nat) (x : Ring) : (s.setRing sub x).freeCtr = s.freeCtr := rfl
@[simp] theorem setRing_answers (s : State) (sub : Nat) (x : Ring) : (s.setRing sub x).answers = s.answers := rfl
@[simp] theorem setRing_regs (s : State) (sub : Nat) (x : Ring) : (s.setRing sub x).regs = s.regs := rfl
@[simp] theorem setRing_latches (s : State) (sub : Nat) (x : Ring) : (s.setRing sub x).latches = s.latches := rfl
@[simp] theorem setRing_helds (s : State) (sub : Nat) (x : Ring) : (s.setRing sub x).helds = s.helds := rfl
@[simp] theorem setRing_mem (s : State) (sub : Nat) (x : Ring) : (s.setRing sub x).mem = s.mem := rfl
@[simp] theorem setRing_events (s : State) (sub : Nat) (x : Ring) : (s.setRing sub x).events = s.events := rfl
@[simp] theorem setRing_ledger (s : State) (sub : Nat) (x : Ring) : (s.setRing sub x).ledger = s.ledger := rfl
@[simp] theorem setRing_rakes (s : State) (sub : Nat) (x : Ring) : (s.setRing sub x).rakes = s.rakes := rfl
@[simp] theorem setRing_mgr (s : State) (sub : Nat) (x : Ring) : (s.setRing sub x).mgr = s.mgr := rfl
@[simp] theorem setRing_tally (s : State) (sub : Nat) (x : Ring) : (s.setRing sub x).tally = s.tally := rfl
@[simp] theorem setRing_queues (s : State) (sub : Nat) (x : Ring) : (s.setRing sub x).queues = s.queues := rfl
@[simp] theorem setRing_mcs (s : State) (sub : Nat) (x : Ring) : (s.setRing sub x).mcs = s.mcs := rfl
@[simp] theorem setRing_banks (s : State) (sub : Nat) (x : Ring) : (s.setRing sub x).banks = s.banks := rfl
@[simp] theorem setRing_harrow (s : State) (sub : Nat) (x : Ring) : (s.setRing sub x).harrow = s.harrow := rfl
@[simp] theorem setRing_time (s : State) (sub : Nat) (x : Ring) : (s.setRing sub x).time = s.time := rfl
@[simp] theorem setRing_dma (s : State) (sub : Nat) (x : Ring) : (s.setRing sub x).dma = s.dma := rfl
@[simp] theorem setRing_releases (s : State) (sub : Nat) (x : Ring) : (s.setRing sub x).releases = s.releases := rfl
@[simp] theorem setRing_power (s : State) (sub : Nat) (x : Ring) : (s.setRing sub x).power = s.power := rfl
@[simp] theorem setRing_resets (s : State) (sub : Nat) (x : Ring) : (s.setRing sub x).resets = s.resets := rfl
@[simp] theorem setRing_sec (s : State) (sub : Nat) (x : Ring) : (s.setRing sub x).sec = s.sec := rfl
@[simp] theorem setRing_chk (s : State) (sub : Nat) (x : Ring) : (s.setRing sub x).chk = s.chk := rfl
@[simp] theorem setRing_pgms (s : State) (sub : Nat) (x : Ring) : (s.setRing sub x).pgms = s.pgms := rfl
@[simp] theorem setRing_cmps (s : State) (sub : Nat) (x : Ring) : (s.setRing sub x).cmps = s.cmps := rfl
@[simp] theorem setRing_colours (s : State) (sub : Nat) (x : Ring) : (s.setRing sub x).colours = s.colours := rfl
@[simp] theorem setRing_heads (s : State) (sub : Nat) (x : Ring) : (s.setRing sub x).heads = s.heads := rfl
@[simp] theorem setRing_headOut (s : State) (sub : Nat) (x : Ring) : (s.setRing sub x).headOut = s.headOut := rfl
@[simp] theorem setRing_slus (s : State) (sub : Nat) (x : Ring) : (s.setRing sub x).slus = s.slus := rfl
@[simp] theorem setRing_net (s : State) (sub : Nat) (x : Ring) : (s.setRing sub x).net = s.net := rfl
@[simp] theorem setRing_audio (s : State) (sub : Nat) (x : Ring) : (s.setRing sub x).audio = s.audio := rfl
@[simp] theorem setRing_lanes (s : State) (sub : Nat) (x : Ring) : (s.setRing sub x).lanes = s.lanes := rfl
@[simp] theorem setRing_sdi (s : State) (sub : Nat) (x : Ring) : (s.setRing sub x).sdi = s.sdi := rfl
@[simp] theorem setRing_prbs (s : State) (sub : Nat) (x : Ring) : (s.setRing sub x).prbs = s.prbs := rfl
@[simp] theorem setRing_twin (s : State) (sub : Nat) (x : Ring) : (s.setRing sub x).twin = s.twin := rfl
@[simp] theorem setRing_pmu (s : State) (sub : Nat) (x : Ring) : (s.setRing sub x).pmu = s.pmu := rfl
@[simp] theorem setRing_tags (s : State) (sub : Nat) (x : Ring) : (s.setRing sub x).tags = s.tags := rfl
@[simp] theorem setRing_snaps (s : State) (sub : Nat) (x : Ring) : (s.setRing sub x).snaps = s.snaps := rfl
@[simp] theorem setRing_tagged (s : State) (sub : Nat) (x : Ring) : (s.setRing sub x).tagged = s.tagged := rfl

@[simp] theorem hostOut_pending (s : State) (o : HostOut) : (s.hostOut o).pending = s.pending := rfl
@[simp] theorem hostOut_freeCtr (s : State) (o : HostOut) : (s.hostOut o).freeCtr = s.freeCtr := rfl
@[simp] theorem hostOut_answers (s : State) (o : HostOut) : (s.hostOut o).answers = s.answers := rfl
@[simp] theorem hostOut_regs (s : State) (o : HostOut) : (s.hostOut o).regs = s.regs := rfl
@[simp] theorem hostOut_latches (s : State) (o : HostOut) : (s.hostOut o).latches = s.latches := rfl
@[simp] theorem hostOut_helds (s : State) (o : HostOut) : (s.hostOut o).helds = s.helds := rfl
@[simp] theorem hostOut_mem (s : State) (o : HostOut) : (s.hostOut o).mem = s.mem := rfl
@[simp] theorem hostOut_events (s : State) (o : HostOut) : (s.hostOut o).events = s.events := rfl
@[simp] theorem hostOut_ledger (s : State) (o : HostOut) : (s.hostOut o).ledger = s.ledger := rfl
@[simp] theorem hostOut_rakes (s : State) (o : HostOut) : (s.hostOut o).rakes = s.rakes := rfl
@[simp] theorem hostOut_mgr (s : State) (o : HostOut) : (s.hostOut o).mgr = s.mgr := rfl
@[simp] theorem hostOut_tally (s : State) (o : HostOut) : (s.hostOut o).tally = s.tally := rfl
@[simp] theorem hostOut_queues (s : State) (o : HostOut) : (s.hostOut o).queues = s.queues := rfl
@[simp] theorem hostOut_mcs (s : State) (o : HostOut) : (s.hostOut o).mcs = s.mcs := rfl
@[simp] theorem hostOut_banks (s : State) (o : HostOut) : (s.hostOut o).banks = s.banks := rfl
@[simp] theorem hostOut_harrow (s : State) (o : HostOut) : (s.hostOut o).harrow = s.harrow := rfl
@[simp] theorem hostOut_time (s : State) (o : HostOut) : (s.hostOut o).time = s.time := rfl
@[simp] theorem hostOut_dma (s : State) (o : HostOut) : (s.hostOut o).dma = s.dma := rfl
@[simp] theorem hostOut_releases (s : State) (o : HostOut) : (s.hostOut o).releases = s.releases := rfl
@[simp] theorem hostOut_power (s : State) (o : HostOut) : (s.hostOut o).power = s.power := rfl
@[simp] theorem hostOut_resets (s : State) (o : HostOut) : (s.hostOut o).resets = s.resets := rfl
@[simp] theorem hostOut_sec (s : State) (o : HostOut) : (s.hostOut o).sec = s.sec := rfl
@[simp] theorem hostOut_chk (s : State) (o : HostOut) : (s.hostOut o).chk = s.chk := rfl
@[simp] theorem hostOut_pgms (s : State) (o : HostOut) : (s.hostOut o).pgms = s.pgms := rfl
@[simp] theorem hostOut_cmps (s : State) (o : HostOut) : (s.hostOut o).cmps = s.cmps := rfl
@[simp] theorem hostOut_colours (s : State) (o : HostOut) : (s.hostOut o).colours = s.colours := rfl
@[simp] theorem hostOut_heads (s : State) (o : HostOut) : (s.hostOut o).heads = s.heads := rfl
@[simp] theorem hostOut_headOut (s : State) (o : HostOut) : (s.hostOut o).headOut = s.headOut := rfl
@[simp] theorem hostOut_slus (s : State) (o : HostOut) : (s.hostOut o).slus = s.slus := rfl
@[simp] theorem hostOut_net (s : State) (o : HostOut) : (s.hostOut o).net = s.net := rfl
@[simp] theorem hostOut_audio (s : State) (o : HostOut) : (s.hostOut o).audio = s.audio := rfl
@[simp] theorem hostOut_lanes (s : State) (o : HostOut) : (s.hostOut o).lanes = s.lanes := rfl
@[simp] theorem hostOut_sdi (s : State) (o : HostOut) : (s.hostOut o).sdi = s.sdi := rfl
@[simp] theorem hostOut_prbs (s : State) (o : HostOut) : (s.hostOut o).prbs = s.prbs := rfl
@[simp] theorem hostOut_twin (s : State) (o : HostOut) : (s.hostOut o).twin = s.twin := rfl
@[simp] theorem hostOut_pmu (s : State) (o : HostOut) : (s.hostOut o).pmu = s.pmu := rfl
@[simp] theorem hostOut_tags (s : State) (o : HostOut) : (s.hostOut o).tags = s.tags := rfl
@[simp] theorem hostOut_snaps (s : State) (o : HostOut) : (s.hostOut o).snaps = s.snaps := rfl
@[simp] theorem hostOut_tagged (s : State) (o : HostOut) : (s.hostOut o).tagged = s.tagged := rfl

@[simp] theorem setDom_pending (s : State) (d : Nat) (x : DomState) : (s.setDom d x).pending = s.pending := rfl
@[simp] theorem setDom_freeCtr (s : State) (d : Nat) (x : DomState) : (s.setDom d x).freeCtr = s.freeCtr := rfl
@[simp] theorem setDom_answers (s : State) (d : Nat) (x : DomState) : (s.setDom d x).answers = s.answers := rfl
@[simp] theorem setDom_regs (s : State) (d : Nat) (x : DomState) : (s.setDom d x).regs = s.regs := rfl
@[simp] theorem setDom_latches (s : State) (d : Nat) (x : DomState) : (s.setDom d x).latches = s.latches := rfl
@[simp] theorem setDom_helds (s : State) (d : Nat) (x : DomState) : (s.setDom d x).helds = s.helds := rfl
@[simp] theorem setDom_mem (s : State) (d : Nat) (x : DomState) : (s.setDom d x).mem = s.mem := rfl
@[simp] theorem setDom_events (s : State) (d : Nat) (x : DomState) : (s.setDom d x).events = s.events := rfl
@[simp] theorem setDom_ledger (s : State) (d : Nat) (x : DomState) : (s.setDom d x).ledger = s.ledger := rfl
@[simp] theorem setDom_rakes (s : State) (d : Nat) (x : DomState) : (s.setDom d x).rakes = s.rakes := rfl
@[simp] theorem setDom_mgr (s : State) (d : Nat) (x : DomState) : (s.setDom d x).mgr = s.mgr := rfl
@[simp] theorem setDom_tally (s : State) (d : Nat) (x : DomState) : (s.setDom d x).tally = s.tally := rfl
@[simp] theorem setDom_queues (s : State) (d : Nat) (x : DomState) : (s.setDom d x).queues = s.queues := rfl
@[simp] theorem setDom_mcs (s : State) (d : Nat) (x : DomState) : (s.setDom d x).mcs = s.mcs := rfl
@[simp] theorem setDom_banks (s : State) (d : Nat) (x : DomState) : (s.setDom d x).banks = s.banks := rfl
@[simp] theorem setDom_harrow (s : State) (d : Nat) (x : DomState) : (s.setDom d x).harrow = s.harrow := rfl
@[simp] theorem setDom_time (s : State) (d : Nat) (x : DomState) : (s.setDom d x).time = s.time := rfl
@[simp] theorem setDom_dma (s : State) (d : Nat) (x : DomState) : (s.setDom d x).dma = s.dma := rfl
@[simp] theorem setDom_releases (s : State) (d : Nat) (x : DomState) : (s.setDom d x).releases = s.releases := rfl
@[simp] theorem setDom_host (s : State) (d : Nat) (x : DomState) : (s.setDom d x).host = s.host := rfl
@[simp] theorem setDom_resets (s : State) (d : Nat) (x : DomState) : (s.setDom d x).resets = s.resets := rfl
@[simp] theorem setDom_sec (s : State) (d : Nat) (x : DomState) : (s.setDom d x).sec = s.sec := rfl
@[simp] theorem setDom_chk (s : State) (d : Nat) (x : DomState) : (s.setDom d x).chk = s.chk := rfl
@[simp] theorem setDom_pgms (s : State) (d : Nat) (x : DomState) : (s.setDom d x).pgms = s.pgms := rfl
@[simp] theorem setDom_cmps (s : State) (d : Nat) (x : DomState) : (s.setDom d x).cmps = s.cmps := rfl
@[simp] theorem setDom_colours (s : State) (d : Nat) (x : DomState) : (s.setDom d x).colours = s.colours := rfl
@[simp] theorem setDom_heads (s : State) (d : Nat) (x : DomState) : (s.setDom d x).heads = s.heads := rfl
@[simp] theorem setDom_headOut (s : State) (d : Nat) (x : DomState) : (s.setDom d x).headOut = s.headOut := rfl
@[simp] theorem setDom_slus (s : State) (d : Nat) (x : DomState) : (s.setDom d x).slus = s.slus := rfl
@[simp] theorem setDom_net (s : State) (d : Nat) (x : DomState) : (s.setDom d x).net = s.net := rfl
@[simp] theorem setDom_audio (s : State) (d : Nat) (x : DomState) : (s.setDom d x).audio = s.audio := rfl
@[simp] theorem setDom_lanes (s : State) (d : Nat) (x : DomState) : (s.setDom d x).lanes = s.lanes := rfl
@[simp] theorem setDom_sdi (s : State) (d : Nat) (x : DomState) : (s.setDom d x).sdi = s.sdi := rfl
@[simp] theorem setDom_prbs (s : State) (d : Nat) (x : DomState) : (s.setDom d x).prbs = s.prbs := rfl
@[simp] theorem setDom_twin (s : State) (d : Nat) (x : DomState) : (s.setDom d x).twin = s.twin := rfl
@[simp] theorem setDom_pmu (s : State) (d : Nat) (x : DomState) : (s.setDom d x).pmu = s.pmu := rfl
@[simp] theorem setDom_tags (s : State) (d : Nat) (x : DomState) : (s.setDom d x).tags = s.tags := rfl
@[simp] theorem setDom_snaps (s : State) (d : Nat) (x : DomState) : (s.setDom d x).snaps = s.snaps := rfl
@[simp] theorem setDom_tagged (s : State) (d : Nat) (x : DomState) : (s.setDom d x).tagged = s.tagged := rfl

@[simp] theorem setTarget_pending (s : State) (d : Nat) (x : DomState) : (s.setTarget d x).pending = s.pending := rfl
@[simp] theorem setTarget_freeCtr (s : State) (d : Nat) (x : DomState) : (s.setTarget d x).freeCtr = s.freeCtr := rfl
@[simp] theorem setTarget_answers (s : State) (d : Nat) (x : DomState) : (s.setTarget d x).answers = s.answers := rfl
@[simp] theorem setTarget_regs (s : State) (d : Nat) (x : DomState) : (s.setTarget d x).regs = s.regs := rfl
@[simp] theorem setTarget_latches (s : State) (d : Nat) (x : DomState) : (s.setTarget d x).latches = s.latches := rfl
@[simp] theorem setTarget_helds (s : State) (d : Nat) (x : DomState) : (s.setTarget d x).helds = s.helds := rfl
@[simp] theorem setTarget_mem (s : State) (d : Nat) (x : DomState) : (s.setTarget d x).mem = s.mem := rfl
@[simp] theorem setTarget_events (s : State) (d : Nat) (x : DomState) : (s.setTarget d x).events = s.events := rfl
@[simp] theorem setTarget_ledger (s : State) (d : Nat) (x : DomState) : (s.setTarget d x).ledger = s.ledger := rfl
@[simp] theorem setTarget_rakes (s : State) (d : Nat) (x : DomState) : (s.setTarget d x).rakes = s.rakes := rfl
@[simp] theorem setTarget_mgr (s : State) (d : Nat) (x : DomState) : (s.setTarget d x).mgr = s.mgr := rfl
@[simp] theorem setTarget_tally (s : State) (d : Nat) (x : DomState) : (s.setTarget d x).tally = s.tally := rfl
@[simp] theorem setTarget_queues (s : State) (d : Nat) (x : DomState) : (s.setTarget d x).queues = s.queues := rfl
@[simp] theorem setTarget_mcs (s : State) (d : Nat) (x : DomState) : (s.setTarget d x).mcs = s.mcs := rfl
@[simp] theorem setTarget_banks (s : State) (d : Nat) (x : DomState) : (s.setTarget d x).banks = s.banks := rfl
@[simp] theorem setTarget_harrow (s : State) (d : Nat) (x : DomState) : (s.setTarget d x).harrow = s.harrow := rfl
@[simp] theorem setTarget_time (s : State) (d : Nat) (x : DomState) : (s.setTarget d x).time = s.time := rfl
@[simp] theorem setTarget_dma (s : State) (d : Nat) (x : DomState) : (s.setTarget d x).dma = s.dma := rfl
@[simp] theorem setTarget_releases (s : State) (d : Nat) (x : DomState) : (s.setTarget d x).releases = s.releases := rfl
@[simp] theorem setTarget_host (s : State) (d : Nat) (x : DomState) : (s.setTarget d x).host = s.host := rfl
@[simp] theorem setTarget_resets (s : State) (d : Nat) (x : DomState) : (s.setTarget d x).resets = s.resets := rfl
@[simp] theorem setTarget_sec (s : State) (d : Nat) (x : DomState) : (s.setTarget d x).sec = s.sec := rfl
@[simp] theorem setTarget_chk (s : State) (d : Nat) (x : DomState) : (s.setTarget d x).chk = s.chk := rfl
@[simp] theorem setTarget_pgms (s : State) (d : Nat) (x : DomState) : (s.setTarget d x).pgms = s.pgms := rfl
@[simp] theorem setTarget_cmps (s : State) (d : Nat) (x : DomState) : (s.setTarget d x).cmps = s.cmps := rfl
@[simp] theorem setTarget_colours (s : State) (d : Nat) (x : DomState) : (s.setTarget d x).colours = s.colours := rfl
@[simp] theorem setTarget_heads (s : State) (d : Nat) (x : DomState) : (s.setTarget d x).heads = s.heads := rfl
@[simp] theorem setTarget_headOut (s : State) (d : Nat) (x : DomState) : (s.setTarget d x).headOut = s.headOut := rfl
@[simp] theorem setTarget_slus (s : State) (d : Nat) (x : DomState) : (s.setTarget d x).slus = s.slus := rfl
@[simp] theorem setTarget_net (s : State) (d : Nat) (x : DomState) : (s.setTarget d x).net = s.net := rfl
@[simp] theorem setTarget_audio (s : State) (d : Nat) (x : DomState) : (s.setTarget d x).audio = s.audio := rfl
@[simp] theorem setTarget_lanes (s : State) (d : Nat) (x : DomState) : (s.setTarget d x).lanes = s.lanes := rfl
@[simp] theorem setTarget_sdi (s : State) (d : Nat) (x : DomState) : (s.setTarget d x).sdi = s.sdi := rfl
@[simp] theorem setTarget_prbs (s : State) (d : Nat) (x : DomState) : (s.setTarget d x).prbs = s.prbs := rfl
@[simp] theorem setTarget_twin (s : State) (d : Nat) (x : DomState) : (s.setTarget d x).twin = s.twin := rfl
@[simp] theorem setTarget_pmu (s : State) (d : Nat) (x : DomState) : (s.setTarget d x).pmu = s.pmu := rfl
@[simp] theorem setTarget_tags (s : State) (d : Nat) (x : DomState) : (s.setTarget d x).tags = s.tags := rfl
@[simp] theorem setTarget_snaps (s : State) (d : Nat) (x : DomState) : (s.setTarget d x).snaps = s.snaps := rfl
@[simp] theorem setTarget_tagged (s : State) (d : Nat) (x : DomState) : (s.setTarget d x).tagged = s.tagged := rfl

@[simp] theorem setBank_pending (s : State) (i : Nat) (b : BankState) : (s.setBank i b).pending = s.pending := rfl
@[simp] theorem setBank_freeCtr (s : State) (i : Nat) (b : BankState) : (s.setBank i b).freeCtr = s.freeCtr := rfl
@[simp] theorem setBank_answers (s : State) (i : Nat) (b : BankState) : (s.setBank i b).answers = s.answers := rfl
@[simp] theorem setBank_regs (s : State) (i : Nat) (b : BankState) : (s.setBank i b).regs = s.regs := rfl
@[simp] theorem setBank_latches (s : State) (i : Nat) (b : BankState) : (s.setBank i b).latches = s.latches := rfl
@[simp] theorem setBank_helds (s : State) (i : Nat) (b : BankState) : (s.setBank i b).helds = s.helds := rfl
@[simp] theorem setBank_mem (s : State) (i : Nat) (b : BankState) : (s.setBank i b).mem = s.mem := rfl
@[simp] theorem setBank_events (s : State) (i : Nat) (b : BankState) : (s.setBank i b).events = s.events := rfl
@[simp] theorem setBank_ledger (s : State) (i : Nat) (b : BankState) : (s.setBank i b).ledger = s.ledger := rfl
@[simp] theorem setBank_rakes (s : State) (i : Nat) (b : BankState) : (s.setBank i b).rakes = s.rakes := rfl
@[simp] theorem setBank_mgr (s : State) (i : Nat) (b : BankState) : (s.setBank i b).mgr = s.mgr := rfl
@[simp] theorem setBank_tally (s : State) (i : Nat) (b : BankState) : (s.setBank i b).tally = s.tally := rfl
@[simp] theorem setBank_queues (s : State) (i : Nat) (b : BankState) : (s.setBank i b).queues = s.queues := rfl
@[simp] theorem setBank_mcs (s : State) (i : Nat) (b : BankState) : (s.setBank i b).mcs = s.mcs := rfl
@[simp] theorem setBank_harrow (s : State) (i : Nat) (b : BankState) : (s.setBank i b).harrow = s.harrow := rfl
@[simp] theorem setBank_time (s : State) (i : Nat) (b : BankState) : (s.setBank i b).time = s.time := rfl
@[simp] theorem setBank_dma (s : State) (i : Nat) (b : BankState) : (s.setBank i b).dma = s.dma := rfl
@[simp] theorem setBank_releases (s : State) (i : Nat) (b : BankState) : (s.setBank i b).releases = s.releases := rfl
@[simp] theorem setBank_host (s : State) (i : Nat) (b : BankState) : (s.setBank i b).host = s.host := rfl
@[simp] theorem setBank_power (s : State) (i : Nat) (b : BankState) : (s.setBank i b).power = s.power := rfl
@[simp] theorem setBank_resets (s : State) (i : Nat) (b : BankState) : (s.setBank i b).resets = s.resets := rfl
@[simp] theorem setBank_sec (s : State) (i : Nat) (b : BankState) : (s.setBank i b).sec = s.sec := rfl
@[simp] theorem setBank_chk (s : State) (i : Nat) (b : BankState) : (s.setBank i b).chk = s.chk := rfl
@[simp] theorem setBank_pgms (s : State) (i : Nat) (b : BankState) : (s.setBank i b).pgms = s.pgms := rfl
@[simp] theorem setBank_cmps (s : State) (i : Nat) (b : BankState) : (s.setBank i b).cmps = s.cmps := rfl
@[simp] theorem setBank_colours (s : State) (i : Nat) (b : BankState) : (s.setBank i b).colours = s.colours := rfl
@[simp] theorem setBank_heads (s : State) (i : Nat) (b : BankState) : (s.setBank i b).heads = s.heads := rfl
@[simp] theorem setBank_headOut (s : State) (i : Nat) (b : BankState) : (s.setBank i b).headOut = s.headOut := rfl
@[simp] theorem setBank_slus (s : State) (i : Nat) (b : BankState) : (s.setBank i b).slus = s.slus := rfl
@[simp] theorem setBank_net (s : State) (i : Nat) (b : BankState) : (s.setBank i b).net = s.net := rfl
@[simp] theorem setBank_audio (s : State) (i : Nat) (b : BankState) : (s.setBank i b).audio = s.audio := rfl
@[simp] theorem setBank_lanes (s : State) (i : Nat) (b : BankState) : (s.setBank i b).lanes = s.lanes := rfl
@[simp] theorem setBank_sdi (s : State) (i : Nat) (b : BankState) : (s.setBank i b).sdi = s.sdi := rfl
@[simp] theorem setBank_prbs (s : State) (i : Nat) (b : BankState) : (s.setBank i b).prbs = s.prbs := rfl
@[simp] theorem setBank_twin (s : State) (i : Nat) (b : BankState) : (s.setBank i b).twin = s.twin := rfl
@[simp] theorem setBank_pmu (s : State) (i : Nat) (b : BankState) : (s.setBank i b).pmu = s.pmu := rfl
@[simp] theorem setBank_tags (s : State) (i : Nat) (b : BankState) : (s.setBank i b).tags = s.tags := rfl
@[simp] theorem setBank_snaps (s : State) (i : Nat) (b : BankState) : (s.setBank i b).snaps = s.snaps := rfl
@[simp] theorem setBank_tagged (s : State) (i : Nat) (b : BankState) : (s.setBank i b).tagged = s.tagged := rfl

@[simp] theorem setSec_pending (s : State) (x : Sec) : (s.setSec x).pending = s.pending := rfl
@[simp] theorem setSec_freeCtr (s : State) (x : Sec) : (s.setSec x).freeCtr = s.freeCtr := rfl
@[simp] theorem setSec_answers (s : State) (x : Sec) : (s.setSec x).answers = s.answers := rfl
@[simp] theorem setSec_regs (s : State) (x : Sec) : (s.setSec x).regs = s.regs := rfl
@[simp] theorem setSec_latches (s : State) (x : Sec) : (s.setSec x).latches = s.latches := rfl
@[simp] theorem setSec_helds (s : State) (x : Sec) : (s.setSec x).helds = s.helds := rfl
@[simp] theorem setSec_mem (s : State) (x : Sec) : (s.setSec x).mem = s.mem := rfl
@[simp] theorem setSec_events (s : State) (x : Sec) : (s.setSec x).events = s.events := rfl
@[simp] theorem setSec_ledger (s : State) (x : Sec) : (s.setSec x).ledger = s.ledger := rfl
@[simp] theorem setSec_rakes (s : State) (x : Sec) : (s.setSec x).rakes = s.rakes := rfl
@[simp] theorem setSec_mgr (s : State) (x : Sec) : (s.setSec x).mgr = s.mgr := rfl
@[simp] theorem setSec_tally (s : State) (x : Sec) : (s.setSec x).tally = s.tally := rfl
@[simp] theorem setSec_queues (s : State) (x : Sec) : (s.setSec x).queues = s.queues := rfl
@[simp] theorem setSec_mcs (s : State) (x : Sec) : (s.setSec x).mcs = s.mcs := rfl
@[simp] theorem setSec_banks (s : State) (x : Sec) : (s.setSec x).banks = s.banks := rfl
@[simp] theorem setSec_harrow (s : State) (x : Sec) : (s.setSec x).harrow = s.harrow := rfl
@[simp] theorem setSec_time (s : State) (x : Sec) : (s.setSec x).time = s.time := rfl
@[simp] theorem setSec_dma (s : State) (x : Sec) : (s.setSec x).dma = s.dma := rfl
@[simp] theorem setSec_releases (s : State) (x : Sec) : (s.setSec x).releases = s.releases := rfl
@[simp] theorem setSec_host (s : State) (x : Sec) : (s.setSec x).host = s.host := rfl
@[simp] theorem setSec_power (s : State) (x : Sec) : (s.setSec x).power = s.power := rfl
@[simp] theorem setSec_resets (s : State) (x : Sec) : (s.setSec x).resets = s.resets := rfl
@[simp] theorem setSec_chk (s : State) (x : Sec) : (s.setSec x).chk = s.chk := rfl
@[simp] theorem setSec_pgms (s : State) (x : Sec) : (s.setSec x).pgms = s.pgms := rfl
@[simp] theorem setSec_cmps (s : State) (x : Sec) : (s.setSec x).cmps = s.cmps := rfl
@[simp] theorem setSec_colours (s : State) (x : Sec) : (s.setSec x).colours = s.colours := rfl
@[simp] theorem setSec_heads (s : State) (x : Sec) : (s.setSec x).heads = s.heads := rfl
@[simp] theorem setSec_headOut (s : State) (x : Sec) : (s.setSec x).headOut = s.headOut := rfl
@[simp] theorem setSec_slus (s : State) (x : Sec) : (s.setSec x).slus = s.slus := rfl
@[simp] theorem setSec_net (s : State) (x : Sec) : (s.setSec x).net = s.net := rfl
@[simp] theorem setSec_audio (s : State) (x : Sec) : (s.setSec x).audio = s.audio := rfl
@[simp] theorem setSec_lanes (s : State) (x : Sec) : (s.setSec x).lanes = s.lanes := rfl
@[simp] theorem setSec_sdi (s : State) (x : Sec) : (s.setSec x).sdi = s.sdi := rfl
@[simp] theorem setSec_prbs (s : State) (x : Sec) : (s.setSec x).prbs = s.prbs := rfl
@[simp] theorem setSec_twin (s : State) (x : Sec) : (s.setSec x).twin = s.twin := rfl
@[simp] theorem setSec_pmu (s : State) (x : Sec) : (s.setSec x).pmu = s.pmu := rfl
@[simp] theorem setSec_tags (s : State) (x : Sec) : (s.setSec x).tags = s.tags := rfl
@[simp] theorem setSec_snaps (s : State) (x : Sec) : (s.setSec x).snaps = s.snaps := rfl
@[simp] theorem setSec_tagged (s : State) (x : Sec) : (s.setSec x).tagged = s.tagged := rfl

@[simp] theorem setChk_pending (s : State) (n : Nat) (x : ChkUnit) : (s.setChk n x).pending = s.pending := rfl
@[simp] theorem setChk_freeCtr (s : State) (n : Nat) (x : ChkUnit) : (s.setChk n x).freeCtr = s.freeCtr := rfl
@[simp] theorem setChk_answers (s : State) (n : Nat) (x : ChkUnit) : (s.setChk n x).answers = s.answers := rfl
@[simp] theorem setChk_regs (s : State) (n : Nat) (x : ChkUnit) : (s.setChk n x).regs = s.regs := rfl
@[simp] theorem setChk_latches (s : State) (n : Nat) (x : ChkUnit) : (s.setChk n x).latches = s.latches := rfl
@[simp] theorem setChk_helds (s : State) (n : Nat) (x : ChkUnit) : (s.setChk n x).helds = s.helds := rfl
@[simp] theorem setChk_mem (s : State) (n : Nat) (x : ChkUnit) : (s.setChk n x).mem = s.mem := rfl
@[simp] theorem setChk_events (s : State) (n : Nat) (x : ChkUnit) : (s.setChk n x).events = s.events := rfl
@[simp] theorem setChk_ledger (s : State) (n : Nat) (x : ChkUnit) : (s.setChk n x).ledger = s.ledger := rfl
@[simp] theorem setChk_rakes (s : State) (n : Nat) (x : ChkUnit) : (s.setChk n x).rakes = s.rakes := rfl
@[simp] theorem setChk_mgr (s : State) (n : Nat) (x : ChkUnit) : (s.setChk n x).mgr = s.mgr := rfl
@[simp] theorem setChk_tally (s : State) (n : Nat) (x : ChkUnit) : (s.setChk n x).tally = s.tally := rfl
@[simp] theorem setChk_queues (s : State) (n : Nat) (x : ChkUnit) : (s.setChk n x).queues = s.queues := rfl
@[simp] theorem setChk_mcs (s : State) (n : Nat) (x : ChkUnit) : (s.setChk n x).mcs = s.mcs := rfl
@[simp] theorem setChk_banks (s : State) (n : Nat) (x : ChkUnit) : (s.setChk n x).banks = s.banks := rfl
@[simp] theorem setChk_harrow (s : State) (n : Nat) (x : ChkUnit) : (s.setChk n x).harrow = s.harrow := rfl
@[simp] theorem setChk_time (s : State) (n : Nat) (x : ChkUnit) : (s.setChk n x).time = s.time := rfl
@[simp] theorem setChk_dma (s : State) (n : Nat) (x : ChkUnit) : (s.setChk n x).dma = s.dma := rfl
@[simp] theorem setChk_releases (s : State) (n : Nat) (x : ChkUnit) : (s.setChk n x).releases = s.releases := rfl
@[simp] theorem setChk_host (s : State) (n : Nat) (x : ChkUnit) : (s.setChk n x).host = s.host := rfl
@[simp] theorem setChk_power (s : State) (n : Nat) (x : ChkUnit) : (s.setChk n x).power = s.power := rfl
@[simp] theorem setChk_resets (s : State) (n : Nat) (x : ChkUnit) : (s.setChk n x).resets = s.resets := rfl
@[simp] theorem setChk_sec (s : State) (n : Nat) (x : ChkUnit) : (s.setChk n x).sec = s.sec := rfl
@[simp] theorem setChk_pgms (s : State) (n : Nat) (x : ChkUnit) : (s.setChk n x).pgms = s.pgms := rfl
@[simp] theorem setChk_cmps (s : State) (n : Nat) (x : ChkUnit) : (s.setChk n x).cmps = s.cmps := rfl
@[simp] theorem setChk_colours (s : State) (n : Nat) (x : ChkUnit) : (s.setChk n x).colours = s.colours := rfl
@[simp] theorem setChk_heads (s : State) (n : Nat) (x : ChkUnit) : (s.setChk n x).heads = s.heads := rfl
@[simp] theorem setChk_headOut (s : State) (n : Nat) (x : ChkUnit) : (s.setChk n x).headOut = s.headOut := rfl
@[simp] theorem setChk_slus (s : State) (n : Nat) (x : ChkUnit) : (s.setChk n x).slus = s.slus := rfl
@[simp] theorem setChk_net (s : State) (n : Nat) (x : ChkUnit) : (s.setChk n x).net = s.net := rfl
@[simp] theorem setChk_audio (s : State) (n : Nat) (x : ChkUnit) : (s.setChk n x).audio = s.audio := rfl
@[simp] theorem setChk_lanes (s : State) (n : Nat) (x : ChkUnit) : (s.setChk n x).lanes = s.lanes := rfl
@[simp] theorem setChk_sdi (s : State) (n : Nat) (x : ChkUnit) : (s.setChk n x).sdi = s.sdi := rfl
@[simp] theorem setChk_prbs (s : State) (n : Nat) (x : ChkUnit) : (s.setChk n x).prbs = s.prbs := rfl
@[simp] theorem setChk_twin (s : State) (n : Nat) (x : ChkUnit) : (s.setChk n x).twin = s.twin := rfl
@[simp] theorem setChk_pmu (s : State) (n : Nat) (x : ChkUnit) : (s.setChk n x).pmu = s.pmu := rfl
@[simp] theorem setChk_tags (s : State) (n : Nat) (x : ChkUnit) : (s.setChk n x).tags = s.tags := rfl
@[simp] theorem setChk_snaps (s : State) (n : Nat) (x : ChkUnit) : (s.setChk n x).snaps = s.snaps := rfl
@[simp] theorem setChk_tagged (s : State) (n : Nat) (x : ChkUnit) : (s.setChk n x).tagged = s.tagged := rfl

@[simp] theorem setPgm_pending (s : State) (k : Nat) (p : Pgm) : (s.setPgm k p).pending = s.pending := rfl
@[simp] theorem setPgm_freeCtr (s : State) (k : Nat) (p : Pgm) : (s.setPgm k p).freeCtr = s.freeCtr := rfl
@[simp] theorem setPgm_answers (s : State) (k : Nat) (p : Pgm) : (s.setPgm k p).answers = s.answers := rfl
@[simp] theorem setPgm_regs (s : State) (k : Nat) (p : Pgm) : (s.setPgm k p).regs = s.regs := rfl
@[simp] theorem setPgm_latches (s : State) (k : Nat) (p : Pgm) : (s.setPgm k p).latches = s.latches := rfl
@[simp] theorem setPgm_helds (s : State) (k : Nat) (p : Pgm) : (s.setPgm k p).helds = s.helds := rfl
@[simp] theorem setPgm_mem (s : State) (k : Nat) (p : Pgm) : (s.setPgm k p).mem = s.mem := rfl
@[simp] theorem setPgm_events (s : State) (k : Nat) (p : Pgm) : (s.setPgm k p).events = s.events := rfl
@[simp] theorem setPgm_ledger (s : State) (k : Nat) (p : Pgm) : (s.setPgm k p).ledger = s.ledger := rfl
@[simp] theorem setPgm_rakes (s : State) (k : Nat) (p : Pgm) : (s.setPgm k p).rakes = s.rakes := rfl
@[simp] theorem setPgm_mgr (s : State) (k : Nat) (p : Pgm) : (s.setPgm k p).mgr = s.mgr := rfl
@[simp] theorem setPgm_tally (s : State) (k : Nat) (p : Pgm) : (s.setPgm k p).tally = s.tally := rfl
@[simp] theorem setPgm_queues (s : State) (k : Nat) (p : Pgm) : (s.setPgm k p).queues = s.queues := rfl
@[simp] theorem setPgm_mcs (s : State) (k : Nat) (p : Pgm) : (s.setPgm k p).mcs = s.mcs := rfl
@[simp] theorem setPgm_banks (s : State) (k : Nat) (p : Pgm) : (s.setPgm k p).banks = s.banks := rfl
@[simp] theorem setPgm_harrow (s : State) (k : Nat) (p : Pgm) : (s.setPgm k p).harrow = s.harrow := rfl
@[simp] theorem setPgm_time (s : State) (k : Nat) (p : Pgm) : (s.setPgm k p).time = s.time := rfl
@[simp] theorem setPgm_dma (s : State) (k : Nat) (p : Pgm) : (s.setPgm k p).dma = s.dma := rfl
@[simp] theorem setPgm_releases (s : State) (k : Nat) (p : Pgm) : (s.setPgm k p).releases = s.releases := rfl
@[simp] theorem setPgm_host (s : State) (k : Nat) (p : Pgm) : (s.setPgm k p).host = s.host := rfl
@[simp] theorem setPgm_power (s : State) (k : Nat) (p : Pgm) : (s.setPgm k p).power = s.power := rfl
@[simp] theorem setPgm_resets (s : State) (k : Nat) (p : Pgm) : (s.setPgm k p).resets = s.resets := rfl
@[simp] theorem setPgm_sec (s : State) (k : Nat) (p : Pgm) : (s.setPgm k p).sec = s.sec := rfl
@[simp] theorem setPgm_chk (s : State) (k : Nat) (p : Pgm) : (s.setPgm k p).chk = s.chk := rfl
@[simp] theorem setPgm_cmps (s : State) (k : Nat) (p : Pgm) : (s.setPgm k p).cmps = s.cmps := rfl
@[simp] theorem setPgm_colours (s : State) (k : Nat) (p : Pgm) : (s.setPgm k p).colours = s.colours := rfl
@[simp] theorem setPgm_heads (s : State) (k : Nat) (p : Pgm) : (s.setPgm k p).heads = s.heads := rfl
@[simp] theorem setPgm_headOut (s : State) (k : Nat) (p : Pgm) : (s.setPgm k p).headOut = s.headOut := rfl
@[simp] theorem setPgm_slus (s : State) (k : Nat) (p : Pgm) : (s.setPgm k p).slus = s.slus := rfl
@[simp] theorem setPgm_net (s : State) (k : Nat) (p : Pgm) : (s.setPgm k p).net = s.net := rfl
@[simp] theorem setPgm_audio (s : State) (k : Nat) (p : Pgm) : (s.setPgm k p).audio = s.audio := rfl
@[simp] theorem setPgm_lanes (s : State) (k : Nat) (p : Pgm) : (s.setPgm k p).lanes = s.lanes := rfl
@[simp] theorem setPgm_sdi (s : State) (k : Nat) (p : Pgm) : (s.setPgm k p).sdi = s.sdi := rfl
@[simp] theorem setPgm_prbs (s : State) (k : Nat) (p : Pgm) : (s.setPgm k p).prbs = s.prbs := rfl
@[simp] theorem setPgm_twin (s : State) (k : Nat) (p : Pgm) : (s.setPgm k p).twin = s.twin := rfl
@[simp] theorem setPgm_pmu (s : State) (k : Nat) (p : Pgm) : (s.setPgm k p).pmu = s.pmu := rfl
@[simp] theorem setPgm_tags (s : State) (k : Nat) (p : Pgm) : (s.setPgm k p).tags = s.tags := rfl
@[simp] theorem setPgm_snaps (s : State) (k : Nat) (p : Pgm) : (s.setPgm k p).snaps = s.snaps := rfl
@[simp] theorem setPgm_tagged (s : State) (k : Nat) (p : Pgm) : (s.setPgm k p).tagged = s.tagged := rfl

@[simp] theorem setSlu_pending (s : State) (n c : Nat) (x : SluCtx) : (s.setSlu n c x).pending = s.pending := rfl
@[simp] theorem setSlu_freeCtr (s : State) (n c : Nat) (x : SluCtx) : (s.setSlu n c x).freeCtr = s.freeCtr := rfl
@[simp] theorem setSlu_answers (s : State) (n c : Nat) (x : SluCtx) : (s.setSlu n c x).answers = s.answers := rfl
@[simp] theorem setSlu_regs (s : State) (n c : Nat) (x : SluCtx) : (s.setSlu n c x).regs = s.regs := rfl
@[simp] theorem setSlu_latches (s : State) (n c : Nat) (x : SluCtx) : (s.setSlu n c x).latches = s.latches := rfl
@[simp] theorem setSlu_helds (s : State) (n c : Nat) (x : SluCtx) : (s.setSlu n c x).helds = s.helds := rfl
@[simp] theorem setSlu_mem (s : State) (n c : Nat) (x : SluCtx) : (s.setSlu n c x).mem = s.mem := rfl
@[simp] theorem setSlu_events (s : State) (n c : Nat) (x : SluCtx) : (s.setSlu n c x).events = s.events := rfl
@[simp] theorem setSlu_ledger (s : State) (n c : Nat) (x : SluCtx) : (s.setSlu n c x).ledger = s.ledger := rfl
@[simp] theorem setSlu_rakes (s : State) (n c : Nat) (x : SluCtx) : (s.setSlu n c x).rakes = s.rakes := rfl
@[simp] theorem setSlu_mgr (s : State) (n c : Nat) (x : SluCtx) : (s.setSlu n c x).mgr = s.mgr := rfl
@[simp] theorem setSlu_tally (s : State) (n c : Nat) (x : SluCtx) : (s.setSlu n c x).tally = s.tally := rfl
@[simp] theorem setSlu_queues (s : State) (n c : Nat) (x : SluCtx) : (s.setSlu n c x).queues = s.queues := rfl
@[simp] theorem setSlu_mcs (s : State) (n c : Nat) (x : SluCtx) : (s.setSlu n c x).mcs = s.mcs := rfl
@[simp] theorem setSlu_banks (s : State) (n c : Nat) (x : SluCtx) : (s.setSlu n c x).banks = s.banks := rfl
@[simp] theorem setSlu_harrow (s : State) (n c : Nat) (x : SluCtx) : (s.setSlu n c x).harrow = s.harrow := rfl
@[simp] theorem setSlu_time (s : State) (n c : Nat) (x : SluCtx) : (s.setSlu n c x).time = s.time := rfl
@[simp] theorem setSlu_dma (s : State) (n c : Nat) (x : SluCtx) : (s.setSlu n c x).dma = s.dma := rfl
@[simp] theorem setSlu_releases (s : State) (n c : Nat) (x : SluCtx) : (s.setSlu n c x).releases = s.releases := rfl
@[simp] theorem setSlu_host (s : State) (n c : Nat) (x : SluCtx) : (s.setSlu n c x).host = s.host := rfl
@[simp] theorem setSlu_power (s : State) (n c : Nat) (x : SluCtx) : (s.setSlu n c x).power = s.power := rfl
@[simp] theorem setSlu_resets (s : State) (n c : Nat) (x : SluCtx) : (s.setSlu n c x).resets = s.resets := rfl
@[simp] theorem setSlu_sec (s : State) (n c : Nat) (x : SluCtx) : (s.setSlu n c x).sec = s.sec := rfl
@[simp] theorem setSlu_chk (s : State) (n c : Nat) (x : SluCtx) : (s.setSlu n c x).chk = s.chk := rfl
@[simp] theorem setSlu_pgms (s : State) (n c : Nat) (x : SluCtx) : (s.setSlu n c x).pgms = s.pgms := rfl
@[simp] theorem setSlu_cmps (s : State) (n c : Nat) (x : SluCtx) : (s.setSlu n c x).cmps = s.cmps := rfl
@[simp] theorem setSlu_colours (s : State) (n c : Nat) (x : SluCtx) : (s.setSlu n c x).colours = s.colours := rfl
@[simp] theorem setSlu_heads (s : State) (n c : Nat) (x : SluCtx) : (s.setSlu n c x).heads = s.heads := rfl
@[simp] theorem setSlu_headOut (s : State) (n c : Nat) (x : SluCtx) : (s.setSlu n c x).headOut = s.headOut := rfl
@[simp] theorem setSlu_net (s : State) (n c : Nat) (x : SluCtx) : (s.setSlu n c x).net = s.net := rfl
@[simp] theorem setSlu_audio (s : State) (n c : Nat) (x : SluCtx) : (s.setSlu n c x).audio = s.audio := rfl
@[simp] theorem setSlu_lanes (s : State) (n c : Nat) (x : SluCtx) : (s.setSlu n c x).lanes = s.lanes := rfl
@[simp] theorem setSlu_sdi (s : State) (n c : Nat) (x : SluCtx) : (s.setSlu n c x).sdi = s.sdi := rfl
@[simp] theorem setSlu_prbs (s : State) (n c : Nat) (x : SluCtx) : (s.setSlu n c x).prbs = s.prbs := rfl
@[simp] theorem setSlu_twin (s : State) (n c : Nat) (x : SluCtx) : (s.setSlu n c x).twin = s.twin := rfl
@[simp] theorem setSlu_pmu (s : State) (n c : Nat) (x : SluCtx) : (s.setSlu n c x).pmu = s.pmu := rfl
@[simp] theorem setSlu_tags (s : State) (n c : Nat) (x : SluCtx) : (s.setSlu n c x).tags = s.tags := rfl
@[simp] theorem setSlu_snaps (s : State) (n c : Nat) (x : SluCtx) : (s.setSlu n c x).snaps = s.snaps := rfl
@[simp] theorem setSlu_tagged (s : State) (n c : Nat) (x : SluCtx) : (s.setSlu n c x).tagged = s.tagged := rfl

@[simp] theorem setCmp_pending (s : State) (n q : Nat) (x : CmpOut) : (s.setCmp n q x).pending = s.pending := rfl
@[simp] theorem setCmp_freeCtr (s : State) (n q : Nat) (x : CmpOut) : (s.setCmp n q x).freeCtr = s.freeCtr := rfl
@[simp] theorem setCmp_answers (s : State) (n q : Nat) (x : CmpOut) : (s.setCmp n q x).answers = s.answers := rfl
@[simp] theorem setCmp_regs (s : State) (n q : Nat) (x : CmpOut) : (s.setCmp n q x).regs = s.regs := rfl
@[simp] theorem setCmp_latches (s : State) (n q : Nat) (x : CmpOut) : (s.setCmp n q x).latches = s.latches := rfl
@[simp] theorem setCmp_helds (s : State) (n q : Nat) (x : CmpOut) : (s.setCmp n q x).helds = s.helds := rfl
@[simp] theorem setCmp_mem (s : State) (n q : Nat) (x : CmpOut) : (s.setCmp n q x).mem = s.mem := rfl
@[simp] theorem setCmp_events (s : State) (n q : Nat) (x : CmpOut) : (s.setCmp n q x).events = s.events := rfl
@[simp] theorem setCmp_ledger (s : State) (n q : Nat) (x : CmpOut) : (s.setCmp n q x).ledger = s.ledger := rfl
@[simp] theorem setCmp_rakes (s : State) (n q : Nat) (x : CmpOut) : (s.setCmp n q x).rakes = s.rakes := rfl
@[simp] theorem setCmp_mgr (s : State) (n q : Nat) (x : CmpOut) : (s.setCmp n q x).mgr = s.mgr := rfl
@[simp] theorem setCmp_tally (s : State) (n q : Nat) (x : CmpOut) : (s.setCmp n q x).tally = s.tally := rfl
@[simp] theorem setCmp_queues (s : State) (n q : Nat) (x : CmpOut) : (s.setCmp n q x).queues = s.queues := rfl
@[simp] theorem setCmp_mcs (s : State) (n q : Nat) (x : CmpOut) : (s.setCmp n q x).mcs = s.mcs := rfl
@[simp] theorem setCmp_banks (s : State) (n q : Nat) (x : CmpOut) : (s.setCmp n q x).banks = s.banks := rfl
@[simp] theorem setCmp_harrow (s : State) (n q : Nat) (x : CmpOut) : (s.setCmp n q x).harrow = s.harrow := rfl
@[simp] theorem setCmp_time (s : State) (n q : Nat) (x : CmpOut) : (s.setCmp n q x).time = s.time := rfl
@[simp] theorem setCmp_dma (s : State) (n q : Nat) (x : CmpOut) : (s.setCmp n q x).dma = s.dma := rfl
@[simp] theorem setCmp_releases (s : State) (n q : Nat) (x : CmpOut) : (s.setCmp n q x).releases = s.releases := rfl
@[simp] theorem setCmp_host (s : State) (n q : Nat) (x : CmpOut) : (s.setCmp n q x).host = s.host := rfl
@[simp] theorem setCmp_power (s : State) (n q : Nat) (x : CmpOut) : (s.setCmp n q x).power = s.power := rfl
@[simp] theorem setCmp_resets (s : State) (n q : Nat) (x : CmpOut) : (s.setCmp n q x).resets = s.resets := rfl
@[simp] theorem setCmp_sec (s : State) (n q : Nat) (x : CmpOut) : (s.setCmp n q x).sec = s.sec := rfl
@[simp] theorem setCmp_chk (s : State) (n q : Nat) (x : CmpOut) : (s.setCmp n q x).chk = s.chk := rfl
@[simp] theorem setCmp_pgms (s : State) (n q : Nat) (x : CmpOut) : (s.setCmp n q x).pgms = s.pgms := rfl
@[simp] theorem setCmp_colours (s : State) (n q : Nat) (x : CmpOut) : (s.setCmp n q x).colours = s.colours := rfl
@[simp] theorem setCmp_heads (s : State) (n q : Nat) (x : CmpOut) : (s.setCmp n q x).heads = s.heads := rfl
@[simp] theorem setCmp_headOut (s : State) (n q : Nat) (x : CmpOut) : (s.setCmp n q x).headOut = s.headOut := rfl
@[simp] theorem setCmp_slus (s : State) (n q : Nat) (x : CmpOut) : (s.setCmp n q x).slus = s.slus := rfl
@[simp] theorem setCmp_net (s : State) (n q : Nat) (x : CmpOut) : (s.setCmp n q x).net = s.net := rfl
@[simp] theorem setCmp_audio (s : State) (n q : Nat) (x : CmpOut) : (s.setCmp n q x).audio = s.audio := rfl
@[simp] theorem setCmp_lanes (s : State) (n q : Nat) (x : CmpOut) : (s.setCmp n q x).lanes = s.lanes := rfl
@[simp] theorem setCmp_sdi (s : State) (n q : Nat) (x : CmpOut) : (s.setCmp n q x).sdi = s.sdi := rfl
@[simp] theorem setCmp_prbs (s : State) (n q : Nat) (x : CmpOut) : (s.setCmp n q x).prbs = s.prbs := rfl
@[simp] theorem setCmp_twin (s : State) (n q : Nat) (x : CmpOut) : (s.setCmp n q x).twin = s.twin := rfl
@[simp] theorem setCmp_pmu (s : State) (n q : Nat) (x : CmpOut) : (s.setCmp n q x).pmu = s.pmu := rfl
@[simp] theorem setCmp_tags (s : State) (n q : Nat) (x : CmpOut) : (s.setCmp n q x).tags = s.tags := rfl
@[simp] theorem setCmp_snaps (s : State) (n q : Nat) (x : CmpOut) : (s.setCmp n q x).snaps = s.snaps := rfl
@[simp] theorem setCmp_tagged (s : State) (n q : Nat) (x : CmpOut) : (s.setCmp n q x).tagged = s.tagged := rfl

@[simp] theorem setHead_pending (s : State) (n : Nat) (h : Head) : (s.setHead n h).pending = s.pending := rfl
@[simp] theorem setHead_freeCtr (s : State) (n : Nat) (h : Head) : (s.setHead n h).freeCtr = s.freeCtr := rfl
@[simp] theorem setHead_answers (s : State) (n : Nat) (h : Head) : (s.setHead n h).answers = s.answers := rfl
@[simp] theorem setHead_regs (s : State) (n : Nat) (h : Head) : (s.setHead n h).regs = s.regs := rfl
@[simp] theorem setHead_latches (s : State) (n : Nat) (h : Head) : (s.setHead n h).latches = s.latches := rfl
@[simp] theorem setHead_helds (s : State) (n : Nat) (h : Head) : (s.setHead n h).helds = s.helds := rfl
@[simp] theorem setHead_mem (s : State) (n : Nat) (h : Head) : (s.setHead n h).mem = s.mem := rfl
@[simp] theorem setHead_events (s : State) (n : Nat) (h : Head) : (s.setHead n h).events = s.events := rfl
@[simp] theorem setHead_ledger (s : State) (n : Nat) (h : Head) : (s.setHead n h).ledger = s.ledger := rfl
@[simp] theorem setHead_rakes (s : State) (n : Nat) (h : Head) : (s.setHead n h).rakes = s.rakes := rfl
@[simp] theorem setHead_mgr (s : State) (n : Nat) (h : Head) : (s.setHead n h).mgr = s.mgr := rfl
@[simp] theorem setHead_tally (s : State) (n : Nat) (h : Head) : (s.setHead n h).tally = s.tally := rfl
@[simp] theorem setHead_queues (s : State) (n : Nat) (h : Head) : (s.setHead n h).queues = s.queues := rfl
@[simp] theorem setHead_mcs (s : State) (n : Nat) (h : Head) : (s.setHead n h).mcs = s.mcs := rfl
@[simp] theorem setHead_banks (s : State) (n : Nat) (h : Head) : (s.setHead n h).banks = s.banks := rfl
@[simp] theorem setHead_harrow (s : State) (n : Nat) (h : Head) : (s.setHead n h).harrow = s.harrow := rfl
@[simp] theorem setHead_time (s : State) (n : Nat) (h : Head) : (s.setHead n h).time = s.time := rfl
@[simp] theorem setHead_dma (s : State) (n : Nat) (h : Head) : (s.setHead n h).dma = s.dma := rfl
@[simp] theorem setHead_releases (s : State) (n : Nat) (h : Head) : (s.setHead n h).releases = s.releases := rfl
@[simp] theorem setHead_host (s : State) (n : Nat) (h : Head) : (s.setHead n h).host = s.host := rfl
@[simp] theorem setHead_power (s : State) (n : Nat) (h : Head) : (s.setHead n h).power = s.power := rfl
@[simp] theorem setHead_resets (s : State) (n : Nat) (h : Head) : (s.setHead n h).resets = s.resets := rfl
@[simp] theorem setHead_sec (s : State) (n : Nat) (h : Head) : (s.setHead n h).sec = s.sec := rfl
@[simp] theorem setHead_chk (s : State) (n : Nat) (h : Head) : (s.setHead n h).chk = s.chk := rfl
@[simp] theorem setHead_pgms (s : State) (n : Nat) (h : Head) : (s.setHead n h).pgms = s.pgms := rfl
@[simp] theorem setHead_cmps (s : State) (n : Nat) (h : Head) : (s.setHead n h).cmps = s.cmps := rfl
@[simp] theorem setHead_colours (s : State) (n : Nat) (h : Head) : (s.setHead n h).colours = s.colours := rfl
@[simp] theorem setHead_headOut (s : State) (n : Nat) (h : Head) : (s.setHead n h).headOut = s.headOut := rfl
@[simp] theorem setHead_slus (s : State) (n : Nat) (h : Head) : (s.setHead n h).slus = s.slus := rfl
@[simp] theorem setHead_net (s : State) (n : Nat) (h : Head) : (s.setHead n h).net = s.net := rfl
@[simp] theorem setHead_audio (s : State) (n : Nat) (h : Head) : (s.setHead n h).audio = s.audio := rfl
@[simp] theorem setHead_lanes (s : State) (n : Nat) (h : Head) : (s.setHead n h).lanes = s.lanes := rfl
@[simp] theorem setHead_sdi (s : State) (n : Nat) (h : Head) : (s.setHead n h).sdi = s.sdi := rfl
@[simp] theorem setHead_prbs (s : State) (n : Nat) (h : Head) : (s.setHead n h).prbs = s.prbs := rfl
@[simp] theorem setHead_twin (s : State) (n : Nat) (h : Head) : (s.setHead n h).twin = s.twin := rfl
@[simp] theorem setHead_pmu (s : State) (n : Nat) (h : Head) : (s.setHead n h).pmu = s.pmu := rfl
@[simp] theorem setHead_tags (s : State) (n : Nat) (h : Head) : (s.setHead n h).tags = s.tags := rfl
@[simp] theorem setHead_snaps (s : State) (n : Nat) (h : Head) : (s.setHead n h).snaps = s.snaps := rfl
@[simp] theorem setHead_tagged (s : State) (n : Nat) (h : Head) : (s.setHead n h).tagged = s.tagged := rfl

@[simp] theorem setNet_pending (s : State) (x : Net) : (s.setNet x).pending = s.pending := rfl
@[simp] theorem setNet_freeCtr (s : State) (x : Net) : (s.setNet x).freeCtr = s.freeCtr := rfl
@[simp] theorem setNet_answers (s : State) (x : Net) : (s.setNet x).answers = s.answers := rfl
@[simp] theorem setNet_regs (s : State) (x : Net) : (s.setNet x).regs = s.regs := rfl
@[simp] theorem setNet_latches (s : State) (x : Net) : (s.setNet x).latches = s.latches := rfl
@[simp] theorem setNet_helds (s : State) (x : Net) : (s.setNet x).helds = s.helds := rfl
@[simp] theorem setNet_mem (s : State) (x : Net) : (s.setNet x).mem = s.mem := rfl
@[simp] theorem setNet_events (s : State) (x : Net) : (s.setNet x).events = s.events := rfl
@[simp] theorem setNet_ledger (s : State) (x : Net) : (s.setNet x).ledger = s.ledger := rfl
@[simp] theorem setNet_rakes (s : State) (x : Net) : (s.setNet x).rakes = s.rakes := rfl
@[simp] theorem setNet_mgr (s : State) (x : Net) : (s.setNet x).mgr = s.mgr := rfl
@[simp] theorem setNet_tally (s : State) (x : Net) : (s.setNet x).tally = s.tally := rfl
@[simp] theorem setNet_queues (s : State) (x : Net) : (s.setNet x).queues = s.queues := rfl
@[simp] theorem setNet_mcs (s : State) (x : Net) : (s.setNet x).mcs = s.mcs := rfl
@[simp] theorem setNet_banks (s : State) (x : Net) : (s.setNet x).banks = s.banks := rfl
@[simp] theorem setNet_harrow (s : State) (x : Net) : (s.setNet x).harrow = s.harrow := rfl
@[simp] theorem setNet_time (s : State) (x : Net) : (s.setNet x).time = s.time := rfl
@[simp] theorem setNet_dma (s : State) (x : Net) : (s.setNet x).dma = s.dma := rfl
@[simp] theorem setNet_releases (s : State) (x : Net) : (s.setNet x).releases = s.releases := rfl
@[simp] theorem setNet_host (s : State) (x : Net) : (s.setNet x).host = s.host := rfl
@[simp] theorem setNet_power (s : State) (x : Net) : (s.setNet x).power = s.power := rfl
@[simp] theorem setNet_resets (s : State) (x : Net) : (s.setNet x).resets = s.resets := rfl
@[simp] theorem setNet_sec (s : State) (x : Net) : (s.setNet x).sec = s.sec := rfl
@[simp] theorem setNet_chk (s : State) (x : Net) : (s.setNet x).chk = s.chk := rfl
@[simp] theorem setNet_pgms (s : State) (x : Net) : (s.setNet x).pgms = s.pgms := rfl
@[simp] theorem setNet_cmps (s : State) (x : Net) : (s.setNet x).cmps = s.cmps := rfl
@[simp] theorem setNet_colours (s : State) (x : Net) : (s.setNet x).colours = s.colours := rfl
@[simp] theorem setNet_heads (s : State) (x : Net) : (s.setNet x).heads = s.heads := rfl
@[simp] theorem setNet_headOut (s : State) (x : Net) : (s.setNet x).headOut = s.headOut := rfl
@[simp] theorem setNet_slus (s : State) (x : Net) : (s.setNet x).slus = s.slus := rfl
@[simp] theorem setNet_audio (s : State) (x : Net) : (s.setNet x).audio = s.audio := rfl
@[simp] theorem setNet_lanes (s : State) (x : Net) : (s.setNet x).lanes = s.lanes := rfl
@[simp] theorem setNet_sdi (s : State) (x : Net) : (s.setNet x).sdi = s.sdi := rfl
@[simp] theorem setNet_prbs (s : State) (x : Net) : (s.setNet x).prbs = s.prbs := rfl
@[simp] theorem setNet_twin (s : State) (x : Net) : (s.setNet x).twin = s.twin := rfl
@[simp] theorem setNet_pmu (s : State) (x : Net) : (s.setNet x).pmu = s.pmu := rfl
@[simp] theorem setNet_tags (s : State) (x : Net) : (s.setNet x).tags = s.tags := rfl
@[simp] theorem setNet_snaps (s : State) (x : Net) : (s.setNet x).snaps = s.snaps := rfl
@[simp] theorem setNet_tagged (s : State) (x : Net) : (s.setNet x).tagged = s.tagged := rfl

@[simp] theorem setRxFlow_pending (s : State) (k : Nat) (x : RxFlow) : (s.setRxFlow k x).pending = s.pending := rfl
@[simp] theorem setRxFlow_freeCtr (s : State) (k : Nat) (x : RxFlow) : (s.setRxFlow k x).freeCtr = s.freeCtr := rfl
@[simp] theorem setRxFlow_answers (s : State) (k : Nat) (x : RxFlow) : (s.setRxFlow k x).answers = s.answers := rfl
@[simp] theorem setRxFlow_regs (s : State) (k : Nat) (x : RxFlow) : (s.setRxFlow k x).regs = s.regs := rfl
@[simp] theorem setRxFlow_latches (s : State) (k : Nat) (x : RxFlow) : (s.setRxFlow k x).latches = s.latches := rfl
@[simp] theorem setRxFlow_helds (s : State) (k : Nat) (x : RxFlow) : (s.setRxFlow k x).helds = s.helds := rfl
@[simp] theorem setRxFlow_mem (s : State) (k : Nat) (x : RxFlow) : (s.setRxFlow k x).mem = s.mem := rfl
@[simp] theorem setRxFlow_events (s : State) (k : Nat) (x : RxFlow) : (s.setRxFlow k x).events = s.events := rfl
@[simp] theorem setRxFlow_ledger (s : State) (k : Nat) (x : RxFlow) : (s.setRxFlow k x).ledger = s.ledger := rfl
@[simp] theorem setRxFlow_rakes (s : State) (k : Nat) (x : RxFlow) : (s.setRxFlow k x).rakes = s.rakes := rfl
@[simp] theorem setRxFlow_mgr (s : State) (k : Nat) (x : RxFlow) : (s.setRxFlow k x).mgr = s.mgr := rfl
@[simp] theorem setRxFlow_tally (s : State) (k : Nat) (x : RxFlow) : (s.setRxFlow k x).tally = s.tally := rfl
@[simp] theorem setRxFlow_queues (s : State) (k : Nat) (x : RxFlow) : (s.setRxFlow k x).queues = s.queues := rfl
@[simp] theorem setRxFlow_mcs (s : State) (k : Nat) (x : RxFlow) : (s.setRxFlow k x).mcs = s.mcs := rfl
@[simp] theorem setRxFlow_banks (s : State) (k : Nat) (x : RxFlow) : (s.setRxFlow k x).banks = s.banks := rfl
@[simp] theorem setRxFlow_harrow (s : State) (k : Nat) (x : RxFlow) : (s.setRxFlow k x).harrow = s.harrow := rfl
@[simp] theorem setRxFlow_time (s : State) (k : Nat) (x : RxFlow) : (s.setRxFlow k x).time = s.time := rfl
@[simp] theorem setRxFlow_dma (s : State) (k : Nat) (x : RxFlow) : (s.setRxFlow k x).dma = s.dma := rfl
@[simp] theorem setRxFlow_releases (s : State) (k : Nat) (x : RxFlow) : (s.setRxFlow k x).releases = s.releases := rfl
@[simp] theorem setRxFlow_host (s : State) (k : Nat) (x : RxFlow) : (s.setRxFlow k x).host = s.host := rfl
@[simp] theorem setRxFlow_power (s : State) (k : Nat) (x : RxFlow) : (s.setRxFlow k x).power = s.power := rfl
@[simp] theorem setRxFlow_resets (s : State) (k : Nat) (x : RxFlow) : (s.setRxFlow k x).resets = s.resets := rfl
@[simp] theorem setRxFlow_sec (s : State) (k : Nat) (x : RxFlow) : (s.setRxFlow k x).sec = s.sec := rfl
@[simp] theorem setRxFlow_chk (s : State) (k : Nat) (x : RxFlow) : (s.setRxFlow k x).chk = s.chk := rfl
@[simp] theorem setRxFlow_pgms (s : State) (k : Nat) (x : RxFlow) : (s.setRxFlow k x).pgms = s.pgms := rfl
@[simp] theorem setRxFlow_cmps (s : State) (k : Nat) (x : RxFlow) : (s.setRxFlow k x).cmps = s.cmps := rfl
@[simp] theorem setRxFlow_colours (s : State) (k : Nat) (x : RxFlow) : (s.setRxFlow k x).colours = s.colours := rfl
@[simp] theorem setRxFlow_heads (s : State) (k : Nat) (x : RxFlow) : (s.setRxFlow k x).heads = s.heads := rfl
@[simp] theorem setRxFlow_headOut (s : State) (k : Nat) (x : RxFlow) : (s.setRxFlow k x).headOut = s.headOut := rfl
@[simp] theorem setRxFlow_slus (s : State) (k : Nat) (x : RxFlow) : (s.setRxFlow k x).slus = s.slus := rfl
@[simp] theorem setRxFlow_audio (s : State) (k : Nat) (x : RxFlow) : (s.setRxFlow k x).audio = s.audio := rfl
@[simp] theorem setRxFlow_lanes (s : State) (k : Nat) (x : RxFlow) : (s.setRxFlow k x).lanes = s.lanes := rfl
@[simp] theorem setRxFlow_sdi (s : State) (k : Nat) (x : RxFlow) : (s.setRxFlow k x).sdi = s.sdi := rfl
@[simp] theorem setRxFlow_prbs (s : State) (k : Nat) (x : RxFlow) : (s.setRxFlow k x).prbs = s.prbs := rfl
@[simp] theorem setRxFlow_twin (s : State) (k : Nat) (x : RxFlow) : (s.setRxFlow k x).twin = s.twin := rfl
@[simp] theorem setRxFlow_pmu (s : State) (k : Nat) (x : RxFlow) : (s.setRxFlow k x).pmu = s.pmu := rfl
@[simp] theorem setRxFlow_tags (s : State) (k : Nat) (x : RxFlow) : (s.setRxFlow k x).tags = s.tags := rfl
@[simp] theorem setRxFlow_snaps (s : State) (k : Nat) (x : RxFlow) : (s.setRxFlow k x).snaps = s.snaps := rfl
@[simp] theorem setRxFlow_tagged (s : State) (k : Nat) (x : RxFlow) : (s.setRxFlow k x).tagged = s.tagged := rfl

@[simp] theorem setTsh_pending (s : State) (port : Nat) (x : Tsh) : (s.setTsh port x).pending = s.pending := rfl
@[simp] theorem setTsh_freeCtr (s : State) (port : Nat) (x : Tsh) : (s.setTsh port x).freeCtr = s.freeCtr := rfl
@[simp] theorem setTsh_answers (s : State) (port : Nat) (x : Tsh) : (s.setTsh port x).answers = s.answers := rfl
@[simp] theorem setTsh_regs (s : State) (port : Nat) (x : Tsh) : (s.setTsh port x).regs = s.regs := rfl
@[simp] theorem setTsh_latches (s : State) (port : Nat) (x : Tsh) : (s.setTsh port x).latches = s.latches := rfl
@[simp] theorem setTsh_helds (s : State) (port : Nat) (x : Tsh) : (s.setTsh port x).helds = s.helds := rfl
@[simp] theorem setTsh_mem (s : State) (port : Nat) (x : Tsh) : (s.setTsh port x).mem = s.mem := rfl
@[simp] theorem setTsh_events (s : State) (port : Nat) (x : Tsh) : (s.setTsh port x).events = s.events := rfl
@[simp] theorem setTsh_ledger (s : State) (port : Nat) (x : Tsh) : (s.setTsh port x).ledger = s.ledger := rfl
@[simp] theorem setTsh_rakes (s : State) (port : Nat) (x : Tsh) : (s.setTsh port x).rakes = s.rakes := rfl
@[simp] theorem setTsh_mgr (s : State) (port : Nat) (x : Tsh) : (s.setTsh port x).mgr = s.mgr := rfl
@[simp] theorem setTsh_tally (s : State) (port : Nat) (x : Tsh) : (s.setTsh port x).tally = s.tally := rfl
@[simp] theorem setTsh_queues (s : State) (port : Nat) (x : Tsh) : (s.setTsh port x).queues = s.queues := rfl
@[simp] theorem setTsh_mcs (s : State) (port : Nat) (x : Tsh) : (s.setTsh port x).mcs = s.mcs := rfl
@[simp] theorem setTsh_banks (s : State) (port : Nat) (x : Tsh) : (s.setTsh port x).banks = s.banks := rfl
@[simp] theorem setTsh_harrow (s : State) (port : Nat) (x : Tsh) : (s.setTsh port x).harrow = s.harrow := rfl
@[simp] theorem setTsh_time (s : State) (port : Nat) (x : Tsh) : (s.setTsh port x).time = s.time := rfl
@[simp] theorem setTsh_dma (s : State) (port : Nat) (x : Tsh) : (s.setTsh port x).dma = s.dma := rfl
@[simp] theorem setTsh_releases (s : State) (port : Nat) (x : Tsh) : (s.setTsh port x).releases = s.releases := rfl
@[simp] theorem setTsh_host (s : State) (port : Nat) (x : Tsh) : (s.setTsh port x).host = s.host := rfl
@[simp] theorem setTsh_power (s : State) (port : Nat) (x : Tsh) : (s.setTsh port x).power = s.power := rfl
@[simp] theorem setTsh_resets (s : State) (port : Nat) (x : Tsh) : (s.setTsh port x).resets = s.resets := rfl
@[simp] theorem setTsh_sec (s : State) (port : Nat) (x : Tsh) : (s.setTsh port x).sec = s.sec := rfl
@[simp] theorem setTsh_chk (s : State) (port : Nat) (x : Tsh) : (s.setTsh port x).chk = s.chk := rfl
@[simp] theorem setTsh_pgms (s : State) (port : Nat) (x : Tsh) : (s.setTsh port x).pgms = s.pgms := rfl
@[simp] theorem setTsh_cmps (s : State) (port : Nat) (x : Tsh) : (s.setTsh port x).cmps = s.cmps := rfl
@[simp] theorem setTsh_colours (s : State) (port : Nat) (x : Tsh) : (s.setTsh port x).colours = s.colours := rfl
@[simp] theorem setTsh_heads (s : State) (port : Nat) (x : Tsh) : (s.setTsh port x).heads = s.heads := rfl
@[simp] theorem setTsh_headOut (s : State) (port : Nat) (x : Tsh) : (s.setTsh port x).headOut = s.headOut := rfl
@[simp] theorem setTsh_slus (s : State) (port : Nat) (x : Tsh) : (s.setTsh port x).slus = s.slus := rfl
@[simp] theorem setTsh_audio (s : State) (port : Nat) (x : Tsh) : (s.setTsh port x).audio = s.audio := rfl
@[simp] theorem setTsh_lanes (s : State) (port : Nat) (x : Tsh) : (s.setTsh port x).lanes = s.lanes := rfl
@[simp] theorem setTsh_sdi (s : State) (port : Nat) (x : Tsh) : (s.setTsh port x).sdi = s.sdi := rfl
@[simp] theorem setTsh_prbs (s : State) (port : Nat) (x : Tsh) : (s.setTsh port x).prbs = s.prbs := rfl
@[simp] theorem setTsh_twin (s : State) (port : Nat) (x : Tsh) : (s.setTsh port x).twin = s.twin := rfl
@[simp] theorem setTsh_pmu (s : State) (port : Nat) (x : Tsh) : (s.setTsh port x).pmu = s.pmu := rfl
@[simp] theorem setTsh_tags (s : State) (port : Nat) (x : Tsh) : (s.setTsh port x).tags = s.tags := rfl
@[simp] theorem setTsh_snaps (s : State) (port : Nat) (x : Tsh) : (s.setTsh port x).snaps = s.snaps := rfl
@[simp] theorem setTsh_tagged (s : State) (port : Nat) (x : Tsh) : (s.setTsh port x).tagged = s.tagged := rfl

@[simp] theorem setTxq_pending (s : State) (port q : Nat) (x : TxQueue) : (s.setTxq port q x).pending = s.pending := rfl
@[simp] theorem setTxq_freeCtr (s : State) (port q : Nat) (x : TxQueue) : (s.setTxq port q x).freeCtr = s.freeCtr := rfl
@[simp] theorem setTxq_answers (s : State) (port q : Nat) (x : TxQueue) : (s.setTxq port q x).answers = s.answers := rfl
@[simp] theorem setTxq_regs (s : State) (port q : Nat) (x : TxQueue) : (s.setTxq port q x).regs = s.regs := rfl
@[simp] theorem setTxq_latches (s : State) (port q : Nat) (x : TxQueue) : (s.setTxq port q x).latches = s.latches := rfl
@[simp] theorem setTxq_helds (s : State) (port q : Nat) (x : TxQueue) : (s.setTxq port q x).helds = s.helds := rfl
@[simp] theorem setTxq_mem (s : State) (port q : Nat) (x : TxQueue) : (s.setTxq port q x).mem = s.mem := rfl
@[simp] theorem setTxq_events (s : State) (port q : Nat) (x : TxQueue) : (s.setTxq port q x).events = s.events := rfl
@[simp] theorem setTxq_ledger (s : State) (port q : Nat) (x : TxQueue) : (s.setTxq port q x).ledger = s.ledger := rfl
@[simp] theorem setTxq_rakes (s : State) (port q : Nat) (x : TxQueue) : (s.setTxq port q x).rakes = s.rakes := rfl
@[simp] theorem setTxq_mgr (s : State) (port q : Nat) (x : TxQueue) : (s.setTxq port q x).mgr = s.mgr := rfl
@[simp] theorem setTxq_tally (s : State) (port q : Nat) (x : TxQueue) : (s.setTxq port q x).tally = s.tally := rfl
@[simp] theorem setTxq_queues (s : State) (port q : Nat) (x : TxQueue) : (s.setTxq port q x).queues = s.queues := rfl
@[simp] theorem setTxq_mcs (s : State) (port q : Nat) (x : TxQueue) : (s.setTxq port q x).mcs = s.mcs := rfl
@[simp] theorem setTxq_banks (s : State) (port q : Nat) (x : TxQueue) : (s.setTxq port q x).banks = s.banks := rfl
@[simp] theorem setTxq_harrow (s : State) (port q : Nat) (x : TxQueue) : (s.setTxq port q x).harrow = s.harrow := rfl
@[simp] theorem setTxq_time (s : State) (port q : Nat) (x : TxQueue) : (s.setTxq port q x).time = s.time := rfl
@[simp] theorem setTxq_dma (s : State) (port q : Nat) (x : TxQueue) : (s.setTxq port q x).dma = s.dma := rfl
@[simp] theorem setTxq_releases (s : State) (port q : Nat) (x : TxQueue) : (s.setTxq port q x).releases = s.releases := rfl
@[simp] theorem setTxq_host (s : State) (port q : Nat) (x : TxQueue) : (s.setTxq port q x).host = s.host := rfl
@[simp] theorem setTxq_power (s : State) (port q : Nat) (x : TxQueue) : (s.setTxq port q x).power = s.power := rfl
@[simp] theorem setTxq_resets (s : State) (port q : Nat) (x : TxQueue) : (s.setTxq port q x).resets = s.resets := rfl
@[simp] theorem setTxq_sec (s : State) (port q : Nat) (x : TxQueue) : (s.setTxq port q x).sec = s.sec := rfl
@[simp] theorem setTxq_chk (s : State) (port q : Nat) (x : TxQueue) : (s.setTxq port q x).chk = s.chk := rfl
@[simp] theorem setTxq_pgms (s : State) (port q : Nat) (x : TxQueue) : (s.setTxq port q x).pgms = s.pgms := rfl
@[simp] theorem setTxq_cmps (s : State) (port q : Nat) (x : TxQueue) : (s.setTxq port q x).cmps = s.cmps := rfl
@[simp] theorem setTxq_colours (s : State) (port q : Nat) (x : TxQueue) : (s.setTxq port q x).colours = s.colours := rfl
@[simp] theorem setTxq_heads (s : State) (port q : Nat) (x : TxQueue) : (s.setTxq port q x).heads = s.heads := rfl
@[simp] theorem setTxq_headOut (s : State) (port q : Nat) (x : TxQueue) : (s.setTxq port q x).headOut = s.headOut := rfl
@[simp] theorem setTxq_slus (s : State) (port q : Nat) (x : TxQueue) : (s.setTxq port q x).slus = s.slus := rfl
@[simp] theorem setTxq_audio (s : State) (port q : Nat) (x : TxQueue) : (s.setTxq port q x).audio = s.audio := rfl
@[simp] theorem setTxq_lanes (s : State) (port q : Nat) (x : TxQueue) : (s.setTxq port q x).lanes = s.lanes := rfl
@[simp] theorem setTxq_sdi (s : State) (port q : Nat) (x : TxQueue) : (s.setTxq port q x).sdi = s.sdi := rfl
@[simp] theorem setTxq_prbs (s : State) (port q : Nat) (x : TxQueue) : (s.setTxq port q x).prbs = s.prbs := rfl
@[simp] theorem setTxq_twin (s : State) (port q : Nat) (x : TxQueue) : (s.setTxq port q x).twin = s.twin := rfl
@[simp] theorem setTxq_pmu (s : State) (port q : Nat) (x : TxQueue) : (s.setTxq port q x).pmu = s.pmu := rfl
@[simp] theorem setTxq_tags (s : State) (port q : Nat) (x : TxQueue) : (s.setTxq port q x).tags = s.tags := rfl
@[simp] theorem setTxq_snaps (s : State) (port q : Nat) (x : TxQueue) : (s.setTxq port q x).snaps = s.snaps := rfl
@[simp] theorem setTxq_tagged (s : State) (port q : Nat) (x : TxQueue) : (s.setTxq port q x).tagged = s.tagged := rfl

@[simp] theorem setAudIn_pending (s : State) (n : Nat) (x : AudIn) : (s.setAudIn n x).pending = s.pending := rfl
@[simp] theorem setAudIn_freeCtr (s : State) (n : Nat) (x : AudIn) : (s.setAudIn n x).freeCtr = s.freeCtr := rfl
@[simp] theorem setAudIn_answers (s : State) (n : Nat) (x : AudIn) : (s.setAudIn n x).answers = s.answers := rfl
@[simp] theorem setAudIn_regs (s : State) (n : Nat) (x : AudIn) : (s.setAudIn n x).regs = s.regs := rfl
@[simp] theorem setAudIn_latches (s : State) (n : Nat) (x : AudIn) : (s.setAudIn n x).latches = s.latches := rfl
@[simp] theorem setAudIn_helds (s : State) (n : Nat) (x : AudIn) : (s.setAudIn n x).helds = s.helds := rfl
@[simp] theorem setAudIn_mem (s : State) (n : Nat) (x : AudIn) : (s.setAudIn n x).mem = s.mem := rfl
@[simp] theorem setAudIn_events (s : State) (n : Nat) (x : AudIn) : (s.setAudIn n x).events = s.events := rfl
@[simp] theorem setAudIn_ledger (s : State) (n : Nat) (x : AudIn) : (s.setAudIn n x).ledger = s.ledger := rfl
@[simp] theorem setAudIn_rakes (s : State) (n : Nat) (x : AudIn) : (s.setAudIn n x).rakes = s.rakes := rfl
@[simp] theorem setAudIn_mgr (s : State) (n : Nat) (x : AudIn) : (s.setAudIn n x).mgr = s.mgr := rfl
@[simp] theorem setAudIn_tally (s : State) (n : Nat) (x : AudIn) : (s.setAudIn n x).tally = s.tally := rfl
@[simp] theorem setAudIn_queues (s : State) (n : Nat) (x : AudIn) : (s.setAudIn n x).queues = s.queues := rfl
@[simp] theorem setAudIn_mcs (s : State) (n : Nat) (x : AudIn) : (s.setAudIn n x).mcs = s.mcs := rfl
@[simp] theorem setAudIn_banks (s : State) (n : Nat) (x : AudIn) : (s.setAudIn n x).banks = s.banks := rfl
@[simp] theorem setAudIn_harrow (s : State) (n : Nat) (x : AudIn) : (s.setAudIn n x).harrow = s.harrow := rfl
@[simp] theorem setAudIn_time (s : State) (n : Nat) (x : AudIn) : (s.setAudIn n x).time = s.time := rfl
@[simp] theorem setAudIn_dma (s : State) (n : Nat) (x : AudIn) : (s.setAudIn n x).dma = s.dma := rfl
@[simp] theorem setAudIn_releases (s : State) (n : Nat) (x : AudIn) : (s.setAudIn n x).releases = s.releases := rfl
@[simp] theorem setAudIn_host (s : State) (n : Nat) (x : AudIn) : (s.setAudIn n x).host = s.host := rfl
@[simp] theorem setAudIn_power (s : State) (n : Nat) (x : AudIn) : (s.setAudIn n x).power = s.power := rfl
@[simp] theorem setAudIn_resets (s : State) (n : Nat) (x : AudIn) : (s.setAudIn n x).resets = s.resets := rfl
@[simp] theorem setAudIn_sec (s : State) (n : Nat) (x : AudIn) : (s.setAudIn n x).sec = s.sec := rfl
@[simp] theorem setAudIn_chk (s : State) (n : Nat) (x : AudIn) : (s.setAudIn n x).chk = s.chk := rfl
@[simp] theorem setAudIn_pgms (s : State) (n : Nat) (x : AudIn) : (s.setAudIn n x).pgms = s.pgms := rfl
@[simp] theorem setAudIn_cmps (s : State) (n : Nat) (x : AudIn) : (s.setAudIn n x).cmps = s.cmps := rfl
@[simp] theorem setAudIn_colours (s : State) (n : Nat) (x : AudIn) : (s.setAudIn n x).colours = s.colours := rfl
@[simp] theorem setAudIn_heads (s : State) (n : Nat) (x : AudIn) : (s.setAudIn n x).heads = s.heads := rfl
@[simp] theorem setAudIn_headOut (s : State) (n : Nat) (x : AudIn) : (s.setAudIn n x).headOut = s.headOut := rfl
@[simp] theorem setAudIn_slus (s : State) (n : Nat) (x : AudIn) : (s.setAudIn n x).slus = s.slus := rfl
@[simp] theorem setAudIn_net (s : State) (n : Nat) (x : AudIn) : (s.setAudIn n x).net = s.net := rfl
@[simp] theorem setAudIn_lanes (s : State) (n : Nat) (x : AudIn) : (s.setAudIn n x).lanes = s.lanes := rfl
@[simp] theorem setAudIn_sdi (s : State) (n : Nat) (x : AudIn) : (s.setAudIn n x).sdi = s.sdi := rfl
@[simp] theorem setAudIn_prbs (s : State) (n : Nat) (x : AudIn) : (s.setAudIn n x).prbs = s.prbs := rfl
@[simp] theorem setAudIn_twin (s : State) (n : Nat) (x : AudIn) : (s.setAudIn n x).twin = s.twin := rfl
@[simp] theorem setAudIn_pmu (s : State) (n : Nat) (x : AudIn) : (s.setAudIn n x).pmu = s.pmu := rfl
@[simp] theorem setAudIn_tags (s : State) (n : Nat) (x : AudIn) : (s.setAudIn n x).tags = s.tags := rfl
@[simp] theorem setAudIn_snaps (s : State) (n : Nat) (x : AudIn) : (s.setAudIn n x).snaps = s.snaps := rfl
@[simp] theorem setAudIn_tagged (s : State) (n : Nat) (x : AudIn) : (s.setAudIn n x).tagged = s.tagged := rfl

@[simp] theorem setAudOut_pending (s : State) (n : Nat) (x : AudOut) : (s.setAudOut n x).pending = s.pending := rfl
@[simp] theorem setAudOut_freeCtr (s : State) (n : Nat) (x : AudOut) : (s.setAudOut n x).freeCtr = s.freeCtr := rfl
@[simp] theorem setAudOut_answers (s : State) (n : Nat) (x : AudOut) : (s.setAudOut n x).answers = s.answers := rfl
@[simp] theorem setAudOut_regs (s : State) (n : Nat) (x : AudOut) : (s.setAudOut n x).regs = s.regs := rfl
@[simp] theorem setAudOut_latches (s : State) (n : Nat) (x : AudOut) : (s.setAudOut n x).latches = s.latches := rfl
@[simp] theorem setAudOut_helds (s : State) (n : Nat) (x : AudOut) : (s.setAudOut n x).helds = s.helds := rfl
@[simp] theorem setAudOut_mem (s : State) (n : Nat) (x : AudOut) : (s.setAudOut n x).mem = s.mem := rfl
@[simp] theorem setAudOut_events (s : State) (n : Nat) (x : AudOut) : (s.setAudOut n x).events = s.events := rfl
@[simp] theorem setAudOut_ledger (s : State) (n : Nat) (x : AudOut) : (s.setAudOut n x).ledger = s.ledger := rfl
@[simp] theorem setAudOut_rakes (s : State) (n : Nat) (x : AudOut) : (s.setAudOut n x).rakes = s.rakes := rfl
@[simp] theorem setAudOut_mgr (s : State) (n : Nat) (x : AudOut) : (s.setAudOut n x).mgr = s.mgr := rfl
@[simp] theorem setAudOut_tally (s : State) (n : Nat) (x : AudOut) : (s.setAudOut n x).tally = s.tally := rfl
@[simp] theorem setAudOut_queues (s : State) (n : Nat) (x : AudOut) : (s.setAudOut n x).queues = s.queues := rfl
@[simp] theorem setAudOut_mcs (s : State) (n : Nat) (x : AudOut) : (s.setAudOut n x).mcs = s.mcs := rfl
@[simp] theorem setAudOut_banks (s : State) (n : Nat) (x : AudOut) : (s.setAudOut n x).banks = s.banks := rfl
@[simp] theorem setAudOut_harrow (s : State) (n : Nat) (x : AudOut) : (s.setAudOut n x).harrow = s.harrow := rfl
@[simp] theorem setAudOut_time (s : State) (n : Nat) (x : AudOut) : (s.setAudOut n x).time = s.time := rfl
@[simp] theorem setAudOut_dma (s : State) (n : Nat) (x : AudOut) : (s.setAudOut n x).dma = s.dma := rfl
@[simp] theorem setAudOut_releases (s : State) (n : Nat) (x : AudOut) : (s.setAudOut n x).releases = s.releases := rfl
@[simp] theorem setAudOut_host (s : State) (n : Nat) (x : AudOut) : (s.setAudOut n x).host = s.host := rfl
@[simp] theorem setAudOut_power (s : State) (n : Nat) (x : AudOut) : (s.setAudOut n x).power = s.power := rfl
@[simp] theorem setAudOut_resets (s : State) (n : Nat) (x : AudOut) : (s.setAudOut n x).resets = s.resets := rfl
@[simp] theorem setAudOut_sec (s : State) (n : Nat) (x : AudOut) : (s.setAudOut n x).sec = s.sec := rfl
@[simp] theorem setAudOut_chk (s : State) (n : Nat) (x : AudOut) : (s.setAudOut n x).chk = s.chk := rfl
@[simp] theorem setAudOut_pgms (s : State) (n : Nat) (x : AudOut) : (s.setAudOut n x).pgms = s.pgms := rfl
@[simp] theorem setAudOut_cmps (s : State) (n : Nat) (x : AudOut) : (s.setAudOut n x).cmps = s.cmps := rfl
@[simp] theorem setAudOut_colours (s : State) (n : Nat) (x : AudOut) : (s.setAudOut n x).colours = s.colours := rfl
@[simp] theorem setAudOut_heads (s : State) (n : Nat) (x : AudOut) : (s.setAudOut n x).heads = s.heads := rfl
@[simp] theorem setAudOut_headOut (s : State) (n : Nat) (x : AudOut) : (s.setAudOut n x).headOut = s.headOut := rfl
@[simp] theorem setAudOut_slus (s : State) (n : Nat) (x : AudOut) : (s.setAudOut n x).slus = s.slus := rfl
@[simp] theorem setAudOut_net (s : State) (n : Nat) (x : AudOut) : (s.setAudOut n x).net = s.net := rfl
@[simp] theorem setAudOut_lanes (s : State) (n : Nat) (x : AudOut) : (s.setAudOut n x).lanes = s.lanes := rfl
@[simp] theorem setAudOut_sdi (s : State) (n : Nat) (x : AudOut) : (s.setAudOut n x).sdi = s.sdi := rfl
@[simp] theorem setAudOut_prbs (s : State) (n : Nat) (x : AudOut) : (s.setAudOut n x).prbs = s.prbs := rfl
@[simp] theorem setAudOut_twin (s : State) (n : Nat) (x : AudOut) : (s.setAudOut n x).twin = s.twin := rfl
@[simp] theorem setAudOut_pmu (s : State) (n : Nat) (x : AudOut) : (s.setAudOut n x).pmu = s.pmu := rfl
@[simp] theorem setAudOut_tags (s : State) (n : Nat) (x : AudOut) : (s.setAudOut n x).tags = s.tags := rfl
@[simp] theorem setAudOut_snaps (s : State) (n : Nat) (x : AudOut) : (s.setAudOut n x).snaps = s.snaps := rfl
@[simp] theorem setAudOut_tagged (s : State) (n : Nat) (x : AudOut) : (s.setAudOut n x).tagged = s.tagged := rfl

@[simp] theorem setSdi_pending (s : State) (q l : Nat) (x : SdiCap) : (s.setSdi q l x).pending = s.pending := rfl
@[simp] theorem setSdi_freeCtr (s : State) (q l : Nat) (x : SdiCap) : (s.setSdi q l x).freeCtr = s.freeCtr := rfl
@[simp] theorem setSdi_answers (s : State) (q l : Nat) (x : SdiCap) : (s.setSdi q l x).answers = s.answers := rfl
@[simp] theorem setSdi_regs (s : State) (q l : Nat) (x : SdiCap) : (s.setSdi q l x).regs = s.regs := rfl
@[simp] theorem setSdi_latches (s : State) (q l : Nat) (x : SdiCap) : (s.setSdi q l x).latches = s.latches := rfl
@[simp] theorem setSdi_helds (s : State) (q l : Nat) (x : SdiCap) : (s.setSdi q l x).helds = s.helds := rfl
@[simp] theorem setSdi_mem (s : State) (q l : Nat) (x : SdiCap) : (s.setSdi q l x).mem = s.mem := rfl
@[simp] theorem setSdi_events (s : State) (q l : Nat) (x : SdiCap) : (s.setSdi q l x).events = s.events := rfl
@[simp] theorem setSdi_ledger (s : State) (q l : Nat) (x : SdiCap) : (s.setSdi q l x).ledger = s.ledger := rfl
@[simp] theorem setSdi_rakes (s : State) (q l : Nat) (x : SdiCap) : (s.setSdi q l x).rakes = s.rakes := rfl
@[simp] theorem setSdi_mgr (s : State) (q l : Nat) (x : SdiCap) : (s.setSdi q l x).mgr = s.mgr := rfl
@[simp] theorem setSdi_tally (s : State) (q l : Nat) (x : SdiCap) : (s.setSdi q l x).tally = s.tally := rfl
@[simp] theorem setSdi_queues (s : State) (q l : Nat) (x : SdiCap) : (s.setSdi q l x).queues = s.queues := rfl
@[simp] theorem setSdi_mcs (s : State) (q l : Nat) (x : SdiCap) : (s.setSdi q l x).mcs = s.mcs := rfl
@[simp] theorem setSdi_banks (s : State) (q l : Nat) (x : SdiCap) : (s.setSdi q l x).banks = s.banks := rfl
@[simp] theorem setSdi_harrow (s : State) (q l : Nat) (x : SdiCap) : (s.setSdi q l x).harrow = s.harrow := rfl
@[simp] theorem setSdi_time (s : State) (q l : Nat) (x : SdiCap) : (s.setSdi q l x).time = s.time := rfl
@[simp] theorem setSdi_dma (s : State) (q l : Nat) (x : SdiCap) : (s.setSdi q l x).dma = s.dma := rfl
@[simp] theorem setSdi_releases (s : State) (q l : Nat) (x : SdiCap) : (s.setSdi q l x).releases = s.releases := rfl
@[simp] theorem setSdi_host (s : State) (q l : Nat) (x : SdiCap) : (s.setSdi q l x).host = s.host := rfl
@[simp] theorem setSdi_power (s : State) (q l : Nat) (x : SdiCap) : (s.setSdi q l x).power = s.power := rfl
@[simp] theorem setSdi_resets (s : State) (q l : Nat) (x : SdiCap) : (s.setSdi q l x).resets = s.resets := rfl
@[simp] theorem setSdi_sec (s : State) (q l : Nat) (x : SdiCap) : (s.setSdi q l x).sec = s.sec := rfl
@[simp] theorem setSdi_chk (s : State) (q l : Nat) (x : SdiCap) : (s.setSdi q l x).chk = s.chk := rfl
@[simp] theorem setSdi_pgms (s : State) (q l : Nat) (x : SdiCap) : (s.setSdi q l x).pgms = s.pgms := rfl
@[simp] theorem setSdi_cmps (s : State) (q l : Nat) (x : SdiCap) : (s.setSdi q l x).cmps = s.cmps := rfl
@[simp] theorem setSdi_colours (s : State) (q l : Nat) (x : SdiCap) : (s.setSdi q l x).colours = s.colours := rfl
@[simp] theorem setSdi_heads (s : State) (q l : Nat) (x : SdiCap) : (s.setSdi q l x).heads = s.heads := rfl
@[simp] theorem setSdi_headOut (s : State) (q l : Nat) (x : SdiCap) : (s.setSdi q l x).headOut = s.headOut := rfl
@[simp] theorem setSdi_slus (s : State) (q l : Nat) (x : SdiCap) : (s.setSdi q l x).slus = s.slus := rfl
@[simp] theorem setSdi_net (s : State) (q l : Nat) (x : SdiCap) : (s.setSdi q l x).net = s.net := rfl
@[simp] theorem setSdi_audio (s : State) (q l : Nat) (x : SdiCap) : (s.setSdi q l x).audio = s.audio := rfl
@[simp] theorem setSdi_lanes (s : State) (q l : Nat) (x : SdiCap) : (s.setSdi q l x).lanes = s.lanes := rfl
@[simp] theorem setSdi_prbs (s : State) (q l : Nat) (x : SdiCap) : (s.setSdi q l x).prbs = s.prbs := rfl
@[simp] theorem setSdi_twin (s : State) (q l : Nat) (x : SdiCap) : (s.setSdi q l x).twin = s.twin := rfl
@[simp] theorem setSdi_pmu (s : State) (q l : Nat) (x : SdiCap) : (s.setSdi q l x).pmu = s.pmu := rfl
@[simp] theorem setSdi_tags (s : State) (q l : Nat) (x : SdiCap) : (s.setSdi q l x).tags = s.tags := rfl
@[simp] theorem setSdi_snaps (s : State) (q l : Nat) (x : SdiCap) : (s.setSdi q l x).snaps = s.snaps := rfl
@[simp] theorem setSdi_tagged (s : State) (q l : Nat) (x : SdiCap) : (s.setSdi q l x).tagged = s.tagged := rfl

@[simp] theorem setTwin_pending (s : State) (t : Twin) : (s.setTwin t).pending = s.pending := rfl
@[simp] theorem setTwin_freeCtr (s : State) (t : Twin) : (s.setTwin t).freeCtr = s.freeCtr := rfl
@[simp] theorem setTwin_answers (s : State) (t : Twin) : (s.setTwin t).answers = s.answers := rfl
@[simp] theorem setTwin_regs (s : State) (t : Twin) : (s.setTwin t).regs = s.regs := rfl
@[simp] theorem setTwin_latches (s : State) (t : Twin) : (s.setTwin t).latches = s.latches := rfl
@[simp] theorem setTwin_helds (s : State) (t : Twin) : (s.setTwin t).helds = s.helds := rfl
@[simp] theorem setTwin_mem (s : State) (t : Twin) : (s.setTwin t).mem = s.mem := rfl
@[simp] theorem setTwin_events (s : State) (t : Twin) : (s.setTwin t).events = s.events := rfl
@[simp] theorem setTwin_ledger (s : State) (t : Twin) : (s.setTwin t).ledger = s.ledger := rfl
@[simp] theorem setTwin_rakes (s : State) (t : Twin) : (s.setTwin t).rakes = s.rakes := rfl
@[simp] theorem setTwin_mgr (s : State) (t : Twin) : (s.setTwin t).mgr = s.mgr := rfl
@[simp] theorem setTwin_tally (s : State) (t : Twin) : (s.setTwin t).tally = s.tally := rfl
@[simp] theorem setTwin_queues (s : State) (t : Twin) : (s.setTwin t).queues = s.queues := rfl
@[simp] theorem setTwin_mcs (s : State) (t : Twin) : (s.setTwin t).mcs = s.mcs := rfl
@[simp] theorem setTwin_banks (s : State) (t : Twin) : (s.setTwin t).banks = s.banks := rfl
@[simp] theorem setTwin_harrow (s : State) (t : Twin) : (s.setTwin t).harrow = s.harrow := rfl
@[simp] theorem setTwin_time (s : State) (t : Twin) : (s.setTwin t).time = s.time := rfl
@[simp] theorem setTwin_dma (s : State) (t : Twin) : (s.setTwin t).dma = s.dma := rfl
@[simp] theorem setTwin_releases (s : State) (t : Twin) : (s.setTwin t).releases = s.releases := rfl
@[simp] theorem setTwin_host (s : State) (t : Twin) : (s.setTwin t).host = s.host := rfl
@[simp] theorem setTwin_power (s : State) (t : Twin) : (s.setTwin t).power = s.power := rfl
@[simp] theorem setTwin_resets (s : State) (t : Twin) : (s.setTwin t).resets = s.resets := rfl
@[simp] theorem setTwin_sec (s : State) (t : Twin) : (s.setTwin t).sec = s.sec := rfl
@[simp] theorem setTwin_chk (s : State) (t : Twin) : (s.setTwin t).chk = s.chk := rfl
@[simp] theorem setTwin_pgms (s : State) (t : Twin) : (s.setTwin t).pgms = s.pgms := rfl
@[simp] theorem setTwin_cmps (s : State) (t : Twin) : (s.setTwin t).cmps = s.cmps := rfl
@[simp] theorem setTwin_colours (s : State) (t : Twin) : (s.setTwin t).colours = s.colours := rfl
@[simp] theorem setTwin_heads (s : State) (t : Twin) : (s.setTwin t).heads = s.heads := rfl
@[simp] theorem setTwin_headOut (s : State) (t : Twin) : (s.setTwin t).headOut = s.headOut := rfl
@[simp] theorem setTwin_slus (s : State) (t : Twin) : (s.setTwin t).slus = s.slus := rfl
@[simp] theorem setTwin_net (s : State) (t : Twin) : (s.setTwin t).net = s.net := rfl
@[simp] theorem setTwin_audio (s : State) (t : Twin) : (s.setTwin t).audio = s.audio := rfl
@[simp] theorem setTwin_lanes (s : State) (t : Twin) : (s.setTwin t).lanes = s.lanes := rfl
@[simp] theorem setTwin_sdi (s : State) (t : Twin) : (s.setTwin t).sdi = s.sdi := rfl
@[simp] theorem setTwin_prbs (s : State) (t : Twin) : (s.setTwin t).prbs = s.prbs := rfl
@[simp] theorem setTwin_pmu (s : State) (t : Twin) : (s.setTwin t).pmu = s.pmu := rfl
@[simp] theorem setTwin_tags (s : State) (t : Twin) : (s.setTwin t).tags = s.tags := rfl
@[simp] theorem setTwin_snaps (s : State) (t : Twin) : (s.setTwin t).snaps = s.snaps := rfl
@[simp] theorem setTwin_tagged (s : State) (t : Twin) : (s.setTwin t).tagged = s.tagged := rfl

@[simp] theorem setCounter_pending (s : State) (set i : Nat) (c : PmuCounter) : (s.setCounter set i c).pending = s.pending := rfl
@[simp] theorem setCounter_freeCtr (s : State) (set i : Nat) (c : PmuCounter) : (s.setCounter set i c).freeCtr = s.freeCtr := rfl
@[simp] theorem setCounter_answers (s : State) (set i : Nat) (c : PmuCounter) : (s.setCounter set i c).answers = s.answers := rfl
@[simp] theorem setCounter_regs (s : State) (set i : Nat) (c : PmuCounter) : (s.setCounter set i c).regs = s.regs := rfl
@[simp] theorem setCounter_latches (s : State) (set i : Nat) (c : PmuCounter) : (s.setCounter set i c).latches = s.latches := rfl
@[simp] theorem setCounter_helds (s : State) (set i : Nat) (c : PmuCounter) : (s.setCounter set i c).helds = s.helds := rfl
@[simp] theorem setCounter_mem (s : State) (set i : Nat) (c : PmuCounter) : (s.setCounter set i c).mem = s.mem := rfl
@[simp] theorem setCounter_events (s : State) (set i : Nat) (c : PmuCounter) : (s.setCounter set i c).events = s.events := rfl
@[simp] theorem setCounter_ledger (s : State) (set i : Nat) (c : PmuCounter) : (s.setCounter set i c).ledger = s.ledger := rfl
@[simp] theorem setCounter_rakes (s : State) (set i : Nat) (c : PmuCounter) : (s.setCounter set i c).rakes = s.rakes := rfl
@[simp] theorem setCounter_mgr (s : State) (set i : Nat) (c : PmuCounter) : (s.setCounter set i c).mgr = s.mgr := rfl
@[simp] theorem setCounter_tally (s : State) (set i : Nat) (c : PmuCounter) : (s.setCounter set i c).tally = s.tally := rfl
@[simp] theorem setCounter_queues (s : State) (set i : Nat) (c : PmuCounter) : (s.setCounter set i c).queues = s.queues := rfl
@[simp] theorem setCounter_mcs (s : State) (set i : Nat) (c : PmuCounter) : (s.setCounter set i c).mcs = s.mcs := rfl
@[simp] theorem setCounter_banks (s : State) (set i : Nat) (c : PmuCounter) : (s.setCounter set i c).banks = s.banks := rfl
@[simp] theorem setCounter_harrow (s : State) (set i : Nat) (c : PmuCounter) : (s.setCounter set i c).harrow = s.harrow := rfl
@[simp] theorem setCounter_time (s : State) (set i : Nat) (c : PmuCounter) : (s.setCounter set i c).time = s.time := rfl
@[simp] theorem setCounter_dma (s : State) (set i : Nat) (c : PmuCounter) : (s.setCounter set i c).dma = s.dma := rfl
@[simp] theorem setCounter_releases (s : State) (set i : Nat) (c : PmuCounter) : (s.setCounter set i c).releases = s.releases := rfl
@[simp] theorem setCounter_host (s : State) (set i : Nat) (c : PmuCounter) : (s.setCounter set i c).host = s.host := rfl
@[simp] theorem setCounter_power (s : State) (set i : Nat) (c : PmuCounter) : (s.setCounter set i c).power = s.power := rfl
@[simp] theorem setCounter_resets (s : State) (set i : Nat) (c : PmuCounter) : (s.setCounter set i c).resets = s.resets := rfl
@[simp] theorem setCounter_sec (s : State) (set i : Nat) (c : PmuCounter) : (s.setCounter set i c).sec = s.sec := rfl
@[simp] theorem setCounter_chk (s : State) (set i : Nat) (c : PmuCounter) : (s.setCounter set i c).chk = s.chk := rfl
@[simp] theorem setCounter_pgms (s : State) (set i : Nat) (c : PmuCounter) : (s.setCounter set i c).pgms = s.pgms := rfl
@[simp] theorem setCounter_cmps (s : State) (set i : Nat) (c : PmuCounter) : (s.setCounter set i c).cmps = s.cmps := rfl
@[simp] theorem setCounter_colours (s : State) (set i : Nat) (c : PmuCounter) : (s.setCounter set i c).colours = s.colours := rfl
@[simp] theorem setCounter_heads (s : State) (set i : Nat) (c : PmuCounter) : (s.setCounter set i c).heads = s.heads := rfl
@[simp] theorem setCounter_headOut (s : State) (set i : Nat) (c : PmuCounter) : (s.setCounter set i c).headOut = s.headOut := rfl
@[simp] theorem setCounter_slus (s : State) (set i : Nat) (c : PmuCounter) : (s.setCounter set i c).slus = s.slus := rfl
@[simp] theorem setCounter_net (s : State) (set i : Nat) (c : PmuCounter) : (s.setCounter set i c).net = s.net := rfl
@[simp] theorem setCounter_audio (s : State) (set i : Nat) (c : PmuCounter) : (s.setCounter set i c).audio = s.audio := rfl
@[simp] theorem setCounter_lanes (s : State) (set i : Nat) (c : PmuCounter) : (s.setCounter set i c).lanes = s.lanes := rfl
@[simp] theorem setCounter_sdi (s : State) (set i : Nat) (c : PmuCounter) : (s.setCounter set i c).sdi = s.sdi := rfl
@[simp] theorem setCounter_prbs (s : State) (set i : Nat) (c : PmuCounter) : (s.setCounter set i c).prbs = s.prbs := rfl
@[simp] theorem setCounter_twin (s : State) (set i : Nat) (c : PmuCounter) : (s.setCounter set i c).twin = s.twin := rfl
@[simp] theorem setCounter_tags (s : State) (set i : Nat) (c : PmuCounter) : (s.setCounter set i c).tags = s.tags := rfl
@[simp] theorem setCounter_snaps (s : State) (set i : Nat) (c : PmuCounter) : (s.setCounter set i c).snaps = s.snaps := rfl
@[simp] theorem setCounter_tagged (s : State) (set i : Nat) (c : PmuCounter) : (s.setCounter set i c).tagged = s.tagged := rfl

@[simp] theorem setLatch_pending (s : State) (req : Nat) (r : Reg) (i : Nat) (v : W32) : (s.setLatch req r i v).pending = s.pending := rfl
@[simp] theorem setLatch_freeCtr (s : State) (req : Nat) (r : Reg) (i : Nat) (v : W32) : (s.setLatch req r i v).freeCtr = s.freeCtr := rfl
@[simp] theorem setLatch_answers (s : State) (req : Nat) (r : Reg) (i : Nat) (v : W32) : (s.setLatch req r i v).answers = s.answers := rfl
@[simp] theorem setLatch_regs (s : State) (req : Nat) (r : Reg) (i : Nat) (v : W32) : (s.setLatch req r i v).regs = s.regs := rfl
@[simp] theorem setLatch_helds (s : State) (req : Nat) (r : Reg) (i : Nat) (v : W32) : (s.setLatch req r i v).helds = s.helds := rfl
@[simp] theorem setLatch_mem (s : State) (req : Nat) (r : Reg) (i : Nat) (v : W32) : (s.setLatch req r i v).mem = s.mem := rfl
@[simp] theorem setLatch_events (s : State) (req : Nat) (r : Reg) (i : Nat) (v : W32) : (s.setLatch req r i v).events = s.events := rfl
@[simp] theorem setLatch_ledger (s : State) (req : Nat) (r : Reg) (i : Nat) (v : W32) : (s.setLatch req r i v).ledger = s.ledger := rfl
@[simp] theorem setLatch_rakes (s : State) (req : Nat) (r : Reg) (i : Nat) (v : W32) : (s.setLatch req r i v).rakes = s.rakes := rfl
@[simp] theorem setLatch_mgr (s : State) (req : Nat) (r : Reg) (i : Nat) (v : W32) : (s.setLatch req r i v).mgr = s.mgr := rfl
@[simp] theorem setLatch_tally (s : State) (req : Nat) (r : Reg) (i : Nat) (v : W32) : (s.setLatch req r i v).tally = s.tally := rfl
@[simp] theorem setLatch_queues (s : State) (req : Nat) (r : Reg) (i : Nat) (v : W32) : (s.setLatch req r i v).queues = s.queues := rfl
@[simp] theorem setLatch_mcs (s : State) (req : Nat) (r : Reg) (i : Nat) (v : W32) : (s.setLatch req r i v).mcs = s.mcs := rfl
@[simp] theorem setLatch_banks (s : State) (req : Nat) (r : Reg) (i : Nat) (v : W32) : (s.setLatch req r i v).banks = s.banks := rfl
@[simp] theorem setLatch_harrow (s : State) (req : Nat) (r : Reg) (i : Nat) (v : W32) : (s.setLatch req r i v).harrow = s.harrow := rfl
@[simp] theorem setLatch_time (s : State) (req : Nat) (r : Reg) (i : Nat) (v : W32) : (s.setLatch req r i v).time = s.time := rfl
@[simp] theorem setLatch_dma (s : State) (req : Nat) (r : Reg) (i : Nat) (v : W32) : (s.setLatch req r i v).dma = s.dma := rfl
@[simp] theorem setLatch_releases (s : State) (req : Nat) (r : Reg) (i : Nat) (v : W32) : (s.setLatch req r i v).releases = s.releases := rfl
@[simp] theorem setLatch_host (s : State) (req : Nat) (r : Reg) (i : Nat) (v : W32) : (s.setLatch req r i v).host = s.host := rfl
@[simp] theorem setLatch_power (s : State) (req : Nat) (r : Reg) (i : Nat) (v : W32) : (s.setLatch req r i v).power = s.power := rfl
@[simp] theorem setLatch_resets (s : State) (req : Nat) (r : Reg) (i : Nat) (v : W32) : (s.setLatch req r i v).resets = s.resets := rfl
@[simp] theorem setLatch_sec (s : State) (req : Nat) (r : Reg) (i : Nat) (v : W32) : (s.setLatch req r i v).sec = s.sec := rfl
@[simp] theorem setLatch_chk (s : State) (req : Nat) (r : Reg) (i : Nat) (v : W32) : (s.setLatch req r i v).chk = s.chk := rfl
@[simp] theorem setLatch_pgms (s : State) (req : Nat) (r : Reg) (i : Nat) (v : W32) : (s.setLatch req r i v).pgms = s.pgms := rfl
@[simp] theorem setLatch_cmps (s : State) (req : Nat) (r : Reg) (i : Nat) (v : W32) : (s.setLatch req r i v).cmps = s.cmps := rfl
@[simp] theorem setLatch_colours (s : State) (req : Nat) (r : Reg) (i : Nat) (v : W32) : (s.setLatch req r i v).colours = s.colours := rfl
@[simp] theorem setLatch_heads (s : State) (req : Nat) (r : Reg) (i : Nat) (v : W32) : (s.setLatch req r i v).heads = s.heads := rfl
@[simp] theorem setLatch_headOut (s : State) (req : Nat) (r : Reg) (i : Nat) (v : W32) : (s.setLatch req r i v).headOut = s.headOut := rfl
@[simp] theorem setLatch_slus (s : State) (req : Nat) (r : Reg) (i : Nat) (v : W32) : (s.setLatch req r i v).slus = s.slus := rfl
@[simp] theorem setLatch_net (s : State) (req : Nat) (r : Reg) (i : Nat) (v : W32) : (s.setLatch req r i v).net = s.net := rfl
@[simp] theorem setLatch_audio (s : State) (req : Nat) (r : Reg) (i : Nat) (v : W32) : (s.setLatch req r i v).audio = s.audio := rfl
@[simp] theorem setLatch_lanes (s : State) (req : Nat) (r : Reg) (i : Nat) (v : W32) : (s.setLatch req r i v).lanes = s.lanes := rfl
@[simp] theorem setLatch_sdi (s : State) (req : Nat) (r : Reg) (i : Nat) (v : W32) : (s.setLatch req r i v).sdi = s.sdi := rfl
@[simp] theorem setLatch_prbs (s : State) (req : Nat) (r : Reg) (i : Nat) (v : W32) : (s.setLatch req r i v).prbs = s.prbs := rfl
@[simp] theorem setLatch_twin (s : State) (req : Nat) (r : Reg) (i : Nat) (v : W32) : (s.setLatch req r i v).twin = s.twin := rfl
@[simp] theorem setLatch_pmu (s : State) (req : Nat) (r : Reg) (i : Nat) (v : W32) : (s.setLatch req r i v).pmu = s.pmu := rfl
@[simp] theorem setLatch_tags (s : State) (req : Nat) (r : Reg) (i : Nat) (v : W32) : (s.setLatch req r i v).tags = s.tags := rfl
@[simp] theorem setLatch_snaps (s : State) (req : Nat) (r : Reg) (i : Nat) (v : W32) : (s.setLatch req r i v).snaps = s.snaps := rfl
@[simp] theorem setLatch_tagged (s : State) (req : Nat) (r : Reg) (i : Nat) (v : W32) : (s.setLatch req r i v).tagged = s.tagged := rfl

/-- Two states with the same fields are the same. -/
theorem state_ext {s t : State}
    (h_pending : s.pending = t.pending)
    (h_freeCtr : s.freeCtr = t.freeCtr)
    (h_answers : s.answers = t.answers)
    (h_regs : s.regs = t.regs)
    (h_latches : s.latches = t.latches)
    (h_helds : s.helds = t.helds)
    (h_mem : s.mem = t.mem)
    (h_events : s.events = t.events)
    (h_ledger : s.ledger = t.ledger)
    (h_rakes : s.rakes = t.rakes)
    (h_mgr : s.mgr = t.mgr)
    (h_tally : s.tally = t.tally)
    (h_queues : s.queues = t.queues)
    (h_mcs : s.mcs = t.mcs)
    (h_banks : s.banks = t.banks)
    (h_harrow : s.harrow = t.harrow)
    (h_time : s.time = t.time)
    (h_dma : s.dma = t.dma)
    (h_releases : s.releases = t.releases)
    (h_host : s.host = t.host)
    (h_power : s.power = t.power)
    (h_resets : s.resets = t.resets)
    (h_sec : s.sec = t.sec)
    (h_chk : s.chk = t.chk)
    (h_pgms : s.pgms = t.pgms)
    (h_cmps : s.cmps = t.cmps)
    (h_colours : s.colours = t.colours)
    (h_heads : s.heads = t.heads)
    (h_headOut : s.headOut = t.headOut)
    (h_slus : s.slus = t.slus)
    (h_net : s.net = t.net)
    (h_audio : s.audio = t.audio)
    (h_lanes : s.lanes = t.lanes)
    (h_sdi : s.sdi = t.sdi)
    (h_prbs : s.prbs = t.prbs)
    (h_twin : s.twin = t.twin)
    (h_pmu : s.pmu = t.pmu)
    (h_tags : s.tags = t.tags)
    (h_snaps : s.snaps = t.snaps)
    (h_tagged : s.tagged = t.tagged) : s = t := by
  cases s; cases t; simp_all

end Sys2Proof.Laws
end

