-- ==== Sys2Proof/Laws/Tab.lean ====
section
/-! SUPPORT. The laws of sparse tables: a read after a write of the same key, and of another key. -/

namespace Sys2Proof.Laws

open Sys2Proof.Machine

variable {κ α : Type} [DecidableEq κ]

@[simp] theorem find_nil (k : κ) : Tab.find? k ([] : Tab κ α) = none := rfl

@[simp] theorem getD_nil (k : κ) (d : α) : Tab.getD ([] : Tab κ α) k d = d := rfl

theorem find_erase_ne {k j : κ} (h : k ≠ j) (t : Tab κ α) : Tab.find? k (Tab.erase j t) = Tab.find? k t := by
  induction t with
  | nil => rfl
  | cons x t ih =>
    obtain ⟨a, v⟩ := x
    by_cases ha : a = j
    · subst ha
      have : a ≠ k := fun e => h e.symm
      simp [Tab.erase, Tab.find?, ih, this]
    · simp [Tab.erase, Tab.find?, ih, ha]

@[simp] theorem find_erase_same (k : κ) (t : Tab κ α) : Tab.find? k (Tab.erase k t) = none := by
  induction t with
  | nil => rfl
  | cons x t ih =>
    obtain ⟨a, v⟩ := x
    by_cases ha : a = k
    · simp [Tab.erase, ha, ih]
    · simp [Tab.erase, Tab.find?, ha, ih]

@[simp] theorem find_set_same (t : Tab κ α) (k : κ) (v : α) : Tab.find? k (Tab.set t k v) = some v := by
  simp [Tab.set, Tab.find?]

theorem find_set_ne {k j : κ} (h : k ≠ j) (t : Tab κ α) (v : α) :
    Tab.find? k (Tab.set t j v) = Tab.find? k t := by
  have : j ≠ k := fun e => h e.symm
  simp [Tab.set, Tab.find?, this, find_erase_ne h]

@[simp] theorem getD_set_same (t : Tab κ α) (k : κ) (v d : α) : Tab.getD (Tab.set t k v) k d = v := by
  simp [Tab.getD]

theorem getD_set_ne {k j : κ} (h : k ≠ j) (t : Tab κ α) (v d : α) :
    Tab.getD (Tab.set t j v) k d = Tab.getD t k d := by
  simp [Tab.getD, find_set_ne h]

theorem getD_set (t : Tab κ α) (k j : κ) (v d : α) :
    Tab.getD (Tab.set t j v) k d = if k = j then v else Tab.getD t k d := by
  by_cases h : k = j
  · subst h; simp
  · simp [h, getD_set_ne h]

@[simp] theorem getD_erase_same (t : Tab κ α) (k : κ) (d : α) : Tab.getD (Tab.erase k t) k d = d := by
  simp [Tab.getD]

theorem getD_erase_ne {k j : κ} (h : k ≠ j) (t : Tab κ α) (d : α) :
    Tab.getD (Tab.erase j t) k d = Tab.getD t k d := by
  simp [Tab.getD, find_erase_ne h]

end Sys2Proof.Laws
end

