-- ==== Sys2Proof/Laws/Ops.lean ====
section
/-! SUPPORT. What the shared operations on registers, counters and events do, said once (R387 to R393, R416, R452). -/

namespace Sys2Proof.Laws

open Sys2Proof.Machine

/-! ### Registers -/

theorem reg_setReg (s : State) (r : Reg) (i k : Nat) (v : W32) (r' : Reg) (i' k' : Nat) :
    (s.setReg r i k v).reg r' i' k' = if r' = r ∧ i' = i ∧ k' = k then v else s.reg r' i' k' := by
  by_cases h : r' = r ∧ i' = i ∧ k' = k
  · obtain ⟨rfl, rfl, rfl⟩ := h; simp [State.reg, State.setReg]
  · have : (⟨r', i', k'⟩ : RegKey) ≠ ⟨r, i, k⟩ := by
      intro e; injection e with e1 e2 e3; exact h ⟨e1, e2, e3⟩
    simp [State.reg, State.setReg, getD_set_ne this, h]

theorem reg_fset (s : State) (f : Fld) (i k v : Nat) (r' : Reg) (i' k' : Nat) :
    (s.fset f i k v).reg r' i' k' =
      if r' = f.reg ∧ i' = i ∧ k' = k then setBits (s.reg r' i' k') f.hi f.lo v else s.reg r' i' k' := by
  unfold State.fset
  rw [reg_setReg]
  split
  · next h => obtain ⟨rfl, rfl, rfl⟩ := h; rfl
  · rfl

/-- A field read after it was set. -/
theorem fget_fset_same (s : State) (f : Fld) (i k v : Nat) (h : f.hi < 32) (hl : f.lo ≤ f.hi) :
    (s.fset f i k v).fget f i k = v % 2 ^ (f.hi - f.lo + 1) := by
  unfold State.fget
  rw [reg_fset]; simp [bitsOf_setBits_same _ _ _ _ h hl]

/-- A field read after a field of another register, or copy, was set. -/
theorem fget_fset_other (s : State) (f g : Fld) (i k v i' k' : Nat) (h : ¬ (g.reg = f.reg ∧ i' = i ∧ k' = k)) :
    (s.fset f i k v).fget g i' k' = s.fget g i' k' := by
  unfold State.fget
  rw [reg_fset, if_neg h]

/-- A field read after another field of its register was set. -/
theorem fget_fset_apart (s : State) (f g : Fld) (i k v : Nat) (h32 : g.hi < 32) (hl : f.lo ≤ f.hi) (hg : g.lo ≤ g.hi)
    (hd : g.hi < f.lo ∨ f.hi < g.lo) (i' k' : Nat) : (s.fset f i k v).fget g i' k' = s.fget g i' k' := by
  unfold State.fget
  rw [reg_fset]
  split
  · rw [bitsOf_setBits_ne _ _ _ _ _ _ h32 hl hg hd]
  · rfl

theorem reg_congr {s t : State} (h : t.regs = s.regs) (r : Reg) (i k : Nat) : t.reg r i k = s.reg r i k := by
  unfold State.reg; rw [h]

/-! ### Counting -/

theorem pmuAdd_eq (s : State) (set ev : Nat) (insts : List Nat) (n pc : Nat) :
    s.pmuAdd set ev insts n pc = { s with pmu := (s.pmuAdd set ev insts n pc).pmu } := by
  unfold State.pmuAdd; split <;> rfl

@[simp] theorem pmuAdd_pending (s : State) (set ev : Nat) (insts : List Nat) (n pc : Nat) : (s.pmuAdd set ev insts n pc).pending = s.pending := by rw [pmuAdd_eq]
@[simp] theorem pmuAdd_freeCtr (s : State) (set ev : Nat) (insts : List Nat) (n pc : Nat) : (s.pmuAdd set ev insts n pc).freeCtr = s.freeCtr := by rw [pmuAdd_eq]
@[simp] theorem pmuAdd_answers (s : State) (set ev : Nat) (insts : List Nat) (n pc : Nat) : (s.pmuAdd set ev insts n pc).answers = s.answers := by rw [pmuAdd_eq]
@[simp] theorem pmuAdd_regs (s : State) (set ev : Nat) (insts : List Nat) (n pc : Nat) : (s.pmuAdd set ev insts n pc).regs = s.regs := by rw [pmuAdd_eq]
@[simp] theorem pmuAdd_latches (s : State) (set ev : Nat) (insts : List Nat) (n pc : Nat) : (s.pmuAdd set ev insts n pc).latches = s.latches := by rw [pmuAdd_eq]
@[simp] theorem pmuAdd_helds (s : State) (set ev : Nat) (insts : List Nat) (n pc : Nat) : (s.pmuAdd set ev insts n pc).helds = s.helds := by rw [pmuAdd_eq]
@[simp] theorem pmuAdd_mem (s : State) (set ev : Nat) (insts : List Nat) (n pc : Nat) : (s.pmuAdd set ev insts n pc).mem = s.mem := by rw [pmuAdd_eq]
@[simp] theorem pmuAdd_events (s : State) (set ev : Nat) (insts : List Nat) (n pc : Nat) : (s.pmuAdd set ev insts n pc).events = s.events := by rw [pmuAdd_eq]
@[simp] theorem pmuAdd_ledger (s : State) (set ev : Nat) (insts : List Nat) (n pc : Nat) : (s.pmuAdd set ev insts n pc).ledger = s.ledger := by rw [pmuAdd_eq]
@[simp] theorem pmuAdd_rakes (s : State) (set ev : Nat) (insts : List Nat) (n pc : Nat) : (s.pmuAdd set ev insts n pc).rakes = s.rakes := by rw [pmuAdd_eq]
@[simp] theorem pmuAdd_mgr (s : State) (set ev : Nat) (insts : List Nat) (n pc : Nat) : (s.pmuAdd set ev insts n pc).mgr = s.mgr := by rw [pmuAdd_eq]
@[simp] theorem pmuAdd_tally (s : State) (set ev : Nat) (insts : List Nat) (n pc : Nat) : (s.pmuAdd set ev insts n pc).tally = s.tally := by rw [pmuAdd_eq]
@[simp] theorem pmuAdd_queues (s : State) (set ev : Nat) (insts : List Nat) (n pc : Nat) : (s.pmuAdd set ev insts n pc).queues = s.queues := by rw [pmuAdd_eq]
@[simp] theorem pmuAdd_mcs (s : State) (set ev : Nat) (insts : List Nat) (n pc : Nat) : (s.pmuAdd set ev insts n pc).mcs = s.mcs := by rw [pmuAdd_eq]
@[simp] theorem pmuAdd_banks (s : State) (set ev : Nat) (insts : List Nat) (n pc : Nat) : (s.pmuAdd set ev insts n pc).banks = s.banks := by rw [pmuAdd_eq]
@[simp] theorem pmuAdd_harrow (s : State) (set ev : Nat) (insts : List Nat) (n pc : Nat) : (s.pmuAdd set ev insts n pc).harrow = s.harrow := by rw [pmuAdd_eq]
@[simp] theorem pmuAdd_time (s : State) (set ev : Nat) (insts : List Nat) (n pc : Nat) : (s.pmuAdd set ev insts n pc).time = s.time := by rw [pmuAdd_eq]
@[simp] theorem pmuAdd_dma (s : State) (set ev : Nat) (insts : List Nat) (n pc : Nat) : (s.pmuAdd set ev insts n pc).dma = s.dma := by rw [pmuAdd_eq]
@[simp] theorem pmuAdd_releases (s : State) (set ev : Nat) (insts : List Nat) (n pc : Nat) : (s.pmuAdd set ev insts n pc).releases = s.releases := by rw [pmuAdd_eq]
@[simp] theorem pmuAdd_host (s : State) (set ev : Nat) (insts : List Nat) (n pc : Nat) : (s.pmuAdd set ev insts n pc).host = s.host := by rw [pmuAdd_eq]
@[simp] theorem pmuAdd_power (s : State) (set ev : Nat) (insts : List Nat) (n pc : Nat) : (s.pmuAdd set ev insts n pc).power = s.power := by rw [pmuAdd_eq]
@[simp] theorem pmuAdd_resets (s : State) (set ev : Nat) (insts : List Nat) (n pc : Nat) : (s.pmuAdd set ev insts n pc).resets = s.resets := by rw [pmuAdd_eq]
@[simp] theorem pmuAdd_sec (s : State) (set ev : Nat) (insts : List Nat) (n pc : Nat) : (s.pmuAdd set ev insts n pc).sec = s.sec := by rw [pmuAdd_eq]
@[simp] theorem pmuAdd_chk (s : State) (set ev : Nat) (insts : List Nat) (n pc : Nat) : (s.pmuAdd set ev insts n pc).chk = s.chk := by rw [pmuAdd_eq]
@[simp] theorem pmuAdd_pgms (s : State) (set ev : Nat) (insts : List Nat) (n pc : Nat) : (s.pmuAdd set ev insts n pc).pgms = s.pgms := by rw [pmuAdd_eq]
@[simp] theorem pmuAdd_cmps (s : State) (set ev : Nat) (insts : List Nat) (n pc : Nat) : (s.pmuAdd set ev insts n pc).cmps = s.cmps := by rw [pmuAdd_eq]
@[simp] theorem pmuAdd_colours (s : State) (set ev : Nat) (insts : List Nat) (n pc : Nat) : (s.pmuAdd set ev insts n pc).colours = s.colours := by rw [pmuAdd_eq]
@[simp] theorem pmuAdd_heads (s : State) (set ev : Nat) (insts : List Nat) (n pc : Nat) : (s.pmuAdd set ev insts n pc).heads = s.heads := by rw [pmuAdd_eq]
@[simp] theorem pmuAdd_headOut (s : State) (set ev : Nat) (insts : List Nat) (n pc : Nat) : (s.pmuAdd set ev insts n pc).headOut = s.headOut := by rw [pmuAdd_eq]
@[simp] theorem pmuAdd_slus (s : State) (set ev : Nat) (insts : List Nat) (n pc : Nat) : (s.pmuAdd set ev insts n pc).slus = s.slus := by rw [pmuAdd_eq]
@[simp] theorem pmuAdd_net (s : State) (set ev : Nat) (insts : List Nat) (n pc : Nat) : (s.pmuAdd set ev insts n pc).net = s.net := by rw [pmuAdd_eq]
@[simp] theorem pmuAdd_audio (s : State) (set ev : Nat) (insts : List Nat) (n pc : Nat) : (s.pmuAdd set ev insts n pc).audio = s.audio := by rw [pmuAdd_eq]
@[simp] theorem pmuAdd_lanes (s : State) (set ev : Nat) (insts : List Nat) (n pc : Nat) : (s.pmuAdd set ev insts n pc).lanes = s.lanes := by rw [pmuAdd_eq]
@[simp] theorem pmuAdd_sdi (s : State) (set ev : Nat) (insts : List Nat) (n pc : Nat) : (s.pmuAdd set ev insts n pc).sdi = s.sdi := by rw [pmuAdd_eq]
@[simp] theorem pmuAdd_prbs (s : State) (set ev : Nat) (insts : List Nat) (n pc : Nat) : (s.pmuAdd set ev insts n pc).prbs = s.prbs := by rw [pmuAdd_eq]
@[simp] theorem pmuAdd_twin (s : State) (set ev : Nat) (insts : List Nat) (n pc : Nat) : (s.pmuAdd set ev insts n pc).twin = s.twin := by rw [pmuAdd_eq]
@[simp] theorem pmuAdd_tags (s : State) (set ev : Nat) (insts : List Nat) (n pc : Nat) : (s.pmuAdd set ev insts n pc).tags = s.tags := by rw [pmuAdd_eq]
@[simp] theorem pmuAdd_snaps (s : State) (set ev : Nat) (insts : List Nat) (n pc : Nat) : (s.pmuAdd set ev insts n pc).snaps = s.snaps := by rw [pmuAdd_eq]
@[simp] theorem pmuAdd_tagged (s : State) (set ev : Nat) (insts : List Nat) (n pc : Nat) : (s.pmuAdd set ev insts n pc).tagged = s.tagged := by rw [pmuAdd_eq]

/-- Counting an event changes the counters alone: all else is read through it. -/
theorem countMc_eq (s : State) (u : MemUnit) (ev : Nat) : s.countMc u ev = { s with pmu := (s.countMc u ev).pmu } := by
  unfold State.countMc
  split
  · exact pmuAdd_eq _ _ _ _ _ _
  · rfl

@[simp] theorem countMc_pending (s : State) (u : MemUnit) (ev : Nat) : (s.countMc u ev).pending = s.pending := by rw [countMc_eq]
@[simp] theorem countMc_freeCtr (s : State) (u : MemUnit) (ev : Nat) : (s.countMc u ev).freeCtr = s.freeCtr := by rw [countMc_eq]
@[simp] theorem countMc_answers (s : State) (u : MemUnit) (ev : Nat) : (s.countMc u ev).answers = s.answers := by rw [countMc_eq]
@[simp] theorem countMc_regs (s : State) (u : MemUnit) (ev : Nat) : (s.countMc u ev).regs = s.regs := by rw [countMc_eq]
@[simp] theorem countMc_latches (s : State) (u : MemUnit) (ev : Nat) : (s.countMc u ev).latches = s.latches := by rw [countMc_eq]
@[simp] theorem countMc_helds (s : State) (u : MemUnit) (ev : Nat) : (s.countMc u ev).helds = s.helds := by rw [countMc_eq]
@[simp] theorem countMc_mem (s : State) (u : MemUnit) (ev : Nat) : (s.countMc u ev).mem = s.mem := by rw [countMc_eq]
@[simp] theorem countMc_events (s : State) (u : MemUnit) (ev : Nat) : (s.countMc u ev).events = s.events := by rw [countMc_eq]
@[simp] theorem countMc_ledger (s : State) (u : MemUnit) (ev : Nat) : (s.countMc u ev).ledger = s.ledger := by rw [countMc_eq]
@[simp] theorem countMc_rakes (s : State) (u : MemUnit) (ev : Nat) : (s.countMc u ev).rakes = s.rakes := by rw [countMc_eq]
@[simp] theorem countMc_mgr (s : State) (u : MemUnit) (ev : Nat) : (s.countMc u ev).mgr = s.mgr := by rw [countMc_eq]
@[simp] theorem countMc_tally (s : State) (u : MemUnit) (ev : Nat) : (s.countMc u ev).tally = s.tally := by rw [countMc_eq]
@[simp] theorem countMc_queues (s : State) (u : MemUnit) (ev : Nat) : (s.countMc u ev).queues = s.queues := by rw [countMc_eq]
@[simp] theorem countMc_mcs (s : State) (u : MemUnit) (ev : Nat) : (s.countMc u ev).mcs = s.mcs := by rw [countMc_eq]
@[simp] theorem countMc_banks (s : State) (u : MemUnit) (ev : Nat) : (s.countMc u ev).banks = s.banks := by rw [countMc_eq]
@[simp] theorem countMc_harrow (s : State) (u : MemUnit) (ev : Nat) : (s.countMc u ev).harrow = s.harrow := by rw [countMc_eq]
@[simp] theorem countMc_time (s : State) (u : MemUnit) (ev : Nat) : (s.countMc u ev).time = s.time := by rw [countMc_eq]
@[simp] theorem countMc_dma (s : State) (u : MemUnit) (ev : Nat) : (s.countMc u ev).dma = s.dma := by rw [countMc_eq]
@[simp] theorem countMc_releases (s : State) (u : MemUnit) (ev : Nat) : (s.countMc u ev).releases = s.releases := by rw [countMc_eq]
@[simp] theorem countMc_host (s : State) (u : MemUnit) (ev : Nat) : (s.countMc u ev).host = s.host := by rw [countMc_eq]
@[simp] theorem countMc_power (s : State) (u : MemUnit) (ev : Nat) : (s.countMc u ev).power = s.power := by rw [countMc_eq]
@[simp] theorem countMc_resets (s : State) (u : MemUnit) (ev : Nat) : (s.countMc u ev).resets = s.resets := by rw [countMc_eq]
@[simp] theorem countMc_sec (s : State) (u : MemUnit) (ev : Nat) : (s.countMc u ev).sec = s.sec := by rw [countMc_eq]
@[simp] theorem countMc_chk (s : State) (u : MemUnit) (ev : Nat) : (s.countMc u ev).chk = s.chk := by rw [countMc_eq]
@[simp] theorem countMc_pgms (s : State) (u : MemUnit) (ev : Nat) : (s.countMc u ev).pgms = s.pgms := by rw [countMc_eq]
@[simp] theorem countMc_cmps (s : State) (u : MemUnit) (ev : Nat) : (s.countMc u ev).cmps = s.cmps := by rw [countMc_eq]
@[simp] theorem countMc_colours (s : State) (u : MemUnit) (ev : Nat) : (s.countMc u ev).colours = s.colours := by rw [countMc_eq]
@[simp] theorem countMc_heads (s : State) (u : MemUnit) (ev : Nat) : (s.countMc u ev).heads = s.heads := by rw [countMc_eq]
@[simp] theorem countMc_headOut (s : State) (u : MemUnit) (ev : Nat) : (s.countMc u ev).headOut = s.headOut := by rw [countMc_eq]
@[simp] theorem countMc_slus (s : State) (u : MemUnit) (ev : Nat) : (s.countMc u ev).slus = s.slus := by rw [countMc_eq]
@[simp] theorem countMc_net (s : State) (u : MemUnit) (ev : Nat) : (s.countMc u ev).net = s.net := by rw [countMc_eq]
@[simp] theorem countMc_audio (s : State) (u : MemUnit) (ev : Nat) : (s.countMc u ev).audio = s.audio := by rw [countMc_eq]
@[simp] theorem countMc_lanes (s : State) (u : MemUnit) (ev : Nat) : (s.countMc u ev).lanes = s.lanes := by rw [countMc_eq]
@[simp] theorem countMc_sdi (s : State) (u : MemUnit) (ev : Nat) : (s.countMc u ev).sdi = s.sdi := by rw [countMc_eq]
@[simp] theorem countMc_prbs (s : State) (u : MemUnit) (ev : Nat) : (s.countMc u ev).prbs = s.prbs := by rw [countMc_eq]
@[simp] theorem countMc_twin (s : State) (u : MemUnit) (ev : Nat) : (s.countMc u ev).twin = s.twin := by rw [countMc_eq]
@[simp] theorem countMc_tags (s : State) (u : MemUnit) (ev : Nat) : (s.countMc u ev).tags = s.tags := by rw [countMc_eq]
@[simp] theorem countMc_snaps (s : State) (u : MemUnit) (ev : Nat) : (s.countMc u ev).snaps = s.snaps := by rw [countMc_eq]
@[simp] theorem countMc_tagged (s : State) (u : MemUnit) (ev : Nat) : (s.countMc u ev).tagged = s.tagged := by rw [countMc_eq]

/-! ### Events -/

theorem fiCount_eq (s : State) (ks : List Nat) :
    s.fiCount ks = { s with twin := { s.twin with fi := (s.fiCount ks).twin.fi } } := by
  unfold State.fiCount; split <;> rfl

theorem postRaw_eq (s : State) (src code : Nat) (fi : Bool) (payload : BitVec 112) :
    s.postRaw src code fi payload = { s with
      events := (s.postRaw src code fi payload).events
      regs := (s.postRaw src code fi payload).regs
      pmu := (s.postRaw src code fi payload).pmu } := by
  unfold State.postRaw
  simp only
  split
  · rw [pmuAdd_eq]
  · rw [pmuAdd_eq]; rfl

@[simp] theorem postRaw_pending (s : State) (src code : Nat) (fi : Bool) (payload : BitVec 112) : (s.postRaw src code fi payload).pending = s.pending := by rw [postRaw_eq]
@[simp] theorem postRaw_freeCtr (s : State) (src code : Nat) (fi : Bool) (payload : BitVec 112) : (s.postRaw src code fi payload).freeCtr = s.freeCtr := by rw [postRaw_eq]
@[simp] theorem postRaw_answers (s : State) (src code : Nat) (fi : Bool) (payload : BitVec 112) : (s.postRaw src code fi payload).answers = s.answers := by rw [postRaw_eq]
@[simp] theorem postRaw_latches (s : State) (src code : Nat) (fi : Bool) (payload : BitVec 112) : (s.postRaw src code fi payload).latches = s.latches := by rw [postRaw_eq]
@[simp] theorem postRaw_helds (s : State) (src code : Nat) (fi : Bool) (payload : BitVec 112) : (s.postRaw src code fi payload).helds = s.helds := by rw [postRaw_eq]
@[simp] theorem postRaw_mem (s : State) (src code : Nat) (fi : Bool) (payload : BitVec 112) : (s.postRaw src code fi payload).mem = s.mem := by rw [postRaw_eq]
@[simp] theorem postRaw_ledger (s : State) (src code : Nat) (fi : Bool) (payload : BitVec 112) : (s.postRaw src code fi payload).ledger = s.ledger := by rw [postRaw_eq]
@[simp] theorem postRaw_rakes (s : State) (src code : Nat) (fi : Bool) (payload : BitVec 112) : (s.postRaw src code fi payload).rakes = s.rakes := by rw [postRaw_eq]
@[simp] theorem postRaw_mgr (s : State) (src code : Nat) (fi : Bool) (payload : BitVec 112) : (s.postRaw src code fi payload).mgr = s.mgr := by rw [postRaw_eq]
@[simp] theorem postRaw_tally (s : State) (src code : Nat) (fi : Bool) (payload : BitVec 112) : (s.postRaw src code fi payload).tally = s.tally := by rw [postRaw_eq]
@[simp] theorem postRaw_queues (s : State) (src code : Nat) (fi : Bool) (payload : BitVec 112) : (s.postRaw src code fi payload).queues = s.queues := by rw [postRaw_eq]
@[simp] theorem postRaw_mcs (s : State) (src code : Nat) (fi : Bool) (payload : BitVec 112) : (s.postRaw src code fi payload).mcs = s.mcs := by rw [postRaw_eq]
@[simp] theorem postRaw_banks (s : State) (src code : Nat) (fi : Bool) (payload : BitVec 112) : (s.postRaw src code fi payload).banks = s.banks := by rw [postRaw_eq]
@[simp] theorem postRaw_harrow (s : State) (src code : Nat) (fi : Bool) (payload : BitVec 112) : (s.postRaw src code fi payload).harrow = s.harrow := by rw [postRaw_eq]
@[simp] theorem postRaw_time (s : State) (src code : Nat) (fi : Bool) (payload : BitVec 112) : (s.postRaw src code fi payload).time = s.time := by rw [postRaw_eq]
@[simp] theorem postRaw_dma (s : State) (src code : Nat) (fi : Bool) (payload : BitVec 112) : (s.postRaw src code fi payload).dma = s.dma := by rw [postRaw_eq]
@[simp] theorem postRaw_releases (s : State) (src code : Nat) (fi : Bool) (payload : BitVec 112) : (s.postRaw src code fi payload).releases = s.releases := by rw [postRaw_eq]
@[simp] theorem postRaw_host (s : State) (src code : Nat) (fi : Bool) (payload : BitVec 112) : (s.postRaw src code fi payload).host = s.host := by rw [postRaw_eq]
@[simp] theorem postRaw_power (s : State) (src code : Nat) (fi : Bool) (payload : BitVec 112) : (s.postRaw src code fi payload).power = s.power := by rw [postRaw_eq]
@[simp] theorem postRaw_resets (s : State) (src code : Nat) (fi : Bool) (payload : BitVec 112) : (s.postRaw src code fi payload).resets = s.resets := by rw [postRaw_eq]
@[simp] theorem postRaw_sec (s : State) (src code : Nat) (fi : Bool) (payload : BitVec 112) : (s.postRaw src code fi payload).sec = s.sec := by rw [postRaw_eq]
@[simp] theorem postRaw_chk (s : State) (src code : Nat) (fi : Bool) (payload : BitVec 112) : (s.postRaw src code fi payload).chk = s.chk := by rw [postRaw_eq]
@[simp] theorem postRaw_pgms (s : State) (src code : Nat) (fi : Bool) (payload : BitVec 112) : (s.postRaw src code fi payload).pgms = s.pgms := by rw [postRaw_eq]
@[simp] theorem postRaw_cmps (s : State) (src code : Nat) (fi : Bool) (payload : BitVec 112) : (s.postRaw src code fi payload).cmps = s.cmps := by rw [postRaw_eq]
@[simp] theorem postRaw_colours (s : State) (src code : Nat) (fi : Bool) (payload : BitVec 112) : (s.postRaw src code fi payload).colours = s.colours := by rw [postRaw_eq]
@[simp] theorem postRaw_heads (s : State) (src code : Nat) (fi : Bool) (payload : BitVec 112) : (s.postRaw src code fi payload).heads = s.heads := by rw [postRaw_eq]
@[simp] theorem postRaw_headOut (s : State) (src code : Nat) (fi : Bool) (payload : BitVec 112) : (s.postRaw src code fi payload).headOut = s.headOut := by rw [postRaw_eq]
@[simp] theorem postRaw_slus (s : State) (src code : Nat) (fi : Bool) (payload : BitVec 112) : (s.postRaw src code fi payload).slus = s.slus := by rw [postRaw_eq]
@[simp] theorem postRaw_net (s : State) (src code : Nat) (fi : Bool) (payload : BitVec 112) : (s.postRaw src code fi payload).net = s.net := by rw [postRaw_eq]
@[simp] theorem postRaw_audio (s : State) (src code : Nat) (fi : Bool) (payload : BitVec 112) : (s.postRaw src code fi payload).audio = s.audio := by rw [postRaw_eq]
@[simp] theorem postRaw_lanes (s : State) (src code : Nat) (fi : Bool) (payload : BitVec 112) : (s.postRaw src code fi payload).lanes = s.lanes := by rw [postRaw_eq]
@[simp] theorem postRaw_sdi (s : State) (src code : Nat) (fi : Bool) (payload : BitVec 112) : (s.postRaw src code fi payload).sdi = s.sdi := by rw [postRaw_eq]
@[simp] theorem postRaw_prbs (s : State) (src code : Nat) (fi : Bool) (payload : BitVec 112) : (s.postRaw src code fi payload).prbs = s.prbs := by rw [postRaw_eq]
@[simp] theorem postRaw_twin (s : State) (src code : Nat) (fi : Bool) (payload : BitVec 112) : (s.postRaw src code fi payload).twin = s.twin := by rw [postRaw_eq]
@[simp] theorem postRaw_tags (s : State) (src code : Nat) (fi : Bool) (payload : BitVec 112) : (s.postRaw src code fi payload).tags = s.tags := by rw [postRaw_eq]
@[simp] theorem postRaw_snaps (s : State) (src code : Nat) (fi : Bool) (payload : BitVec 112) : (s.postRaw src code fi payload).snaps = s.snaps := by rw [postRaw_eq]
@[simp] theorem postRaw_tagged (s : State) (src code : Nat) (fi : Bool) (payload : BitVec 112) : (s.postRaw src code fi payload).tagged = s.tagged := by rw [postRaw_eq]

/-- Posting changes the event sources, EVT_STAT, the counters and the fault-indicator counts, and nothing else. -/
theorem post_eq (s : State) (src code : Nat) (items : List PItem) :
    s.post src code items = { s with
      events := (s.post src code items).events
      regs := (s.post src code items).regs
      pmu := (s.post src code items).pmu
      twin := { s.twin with fi := (s.post src code items).twin.fi } } := by
  unfold State.post
  rw [fiCount_eq, postRaw_eq]

theorem post_twin (s : State) (src code : Nat) (items : List PItem) :
    (s.post src code items).twin = { s.twin with fi := (s.post src code items).twin.fi } := by
  rw [post_eq]

@[simp] theorem post_pending (s : State) (src code : Nat) (items : List PItem) : (s.post src code items).pending = s.pending := by rw [post_eq]
@[simp] theorem post_freeCtr (s : State) (src code : Nat) (items : List PItem) : (s.post src code items).freeCtr = s.freeCtr := by rw [post_eq]
@[simp] theorem post_answers (s : State) (src code : Nat) (items : List PItem) : (s.post src code items).answers = s.answers := by rw [post_eq]
@[simp] theorem post_latches (s : State) (src code : Nat) (items : List PItem) : (s.post src code items).latches = s.latches := by rw [post_eq]
@[simp] theorem post_helds (s : State) (src code : Nat) (items : List PItem) : (s.post src code items).helds = s.helds := by rw [post_eq]
@[simp] theorem post_mem (s : State) (src code : Nat) (items : List PItem) : (s.post src code items).mem = s.mem := by rw [post_eq]
@[simp] theorem post_ledger (s : State) (src code : Nat) (items : List PItem) : (s.post src code items).ledger = s.ledger := by rw [post_eq]
@[simp] theorem post_rakes (s : State) (src code : Nat) (items : List PItem) : (s.post src code items).rakes = s.rakes := by rw [post_eq]
@[simp] theorem post_mgr (s : State) (src code : Nat) (items : List PItem) : (s.post src code items).mgr = s.mgr := by rw [post_eq]
@[simp] theorem post_tally (s : State) (src code : Nat) (items : List PItem) : (s.post src code items).tally = s.tally := by rw [post_eq]
@[simp] theorem post_queues (s : State) (src code : Nat) (items : List PItem) : (s.post src code items).queues = s.queues := by rw [post_eq]
@[simp] theorem post_mcs (s : State) (src code : Nat) (items : List PItem) : (s.post src code items).mcs = s.mcs := by rw [post_eq]
@[simp] theorem post_banks (s : State) (src code : Nat) (items : List PItem) : (s.post src code items).banks = s.banks := by rw [post_eq]
@[simp] theorem post_harrow (s : State) (src code : Nat) (items : List PItem) : (s.post src code items).harrow = s.harrow := by rw [post_eq]
@[simp] theorem post_time (s : State) (src code : Nat) (items : List PItem) : (s.post src code items).time = s.time := by rw [post_eq]
@[simp] theorem post_dma (s : State) (src code : Nat) (items : List PItem) : (s.post src code items).dma = s.dma := by rw [post_eq]
@[simp] theorem post_releases (s : State) (src code : Nat) (items : List PItem) : (s.post src code items).releases = s.releases := by rw [post_eq]
@[simp] theorem post_host (s : State) (src code : Nat) (items : List PItem) : (s.post src code items).host = s.host := by rw [post_eq]
@[simp] theorem post_power (s : State) (src code : Nat) (items : List PItem) : (s.post src code items).power = s.power := by rw [post_eq]
@[simp] theorem post_resets (s : State) (src code : Nat) (items : List PItem) : (s.post src code items).resets = s.resets := by rw [post_eq]
@[simp] theorem post_sec (s : State) (src code : Nat) (items : List PItem) : (s.post src code items).sec = s.sec := by rw [post_eq]
@[simp] theorem post_chk (s : State) (src code : Nat) (items : List PItem) : (s.post src code items).chk = s.chk := by rw [post_eq]
@[simp] theorem post_pgms (s : State) (src code : Nat) (items : List PItem) : (s.post src code items).pgms = s.pgms := by rw [post_eq]
@[simp] theorem post_cmps (s : State) (src code : Nat) (items : List PItem) : (s.post src code items).cmps = s.cmps := by rw [post_eq]
@[simp] theorem post_colours (s : State) (src code : Nat) (items : List PItem) : (s.post src code items).colours = s.colours := by rw [post_eq]
@[simp] theorem post_heads (s : State) (src code : Nat) (items : List PItem) : (s.post src code items).heads = s.heads := by rw [post_eq]
@[simp] theorem post_headOut (s : State) (src code : Nat) (items : List PItem) : (s.post src code items).headOut = s.headOut := by rw [post_eq]
@[simp] theorem post_slus (s : State) (src code : Nat) (items : List PItem) : (s.post src code items).slus = s.slus := by rw [post_eq]
@[simp] theorem post_net (s : State) (src code : Nat) (items : List PItem) : (s.post src code items).net = s.net := by rw [post_eq]
@[simp] theorem post_audio (s : State) (src code : Nat) (items : List PItem) : (s.post src code items).audio = s.audio := by rw [post_eq]
@[simp] theorem post_lanes (s : State) (src code : Nat) (items : List PItem) : (s.post src code items).lanes = s.lanes := by rw [post_eq]
@[simp] theorem post_sdi (s : State) (src code : Nat) (items : List PItem) : (s.post src code items).sdi = s.sdi := by rw [post_eq]
@[simp] theorem post_prbs (s : State) (src code : Nat) (items : List PItem) : (s.post src code items).prbs = s.prbs := by rw [post_eq]
@[simp] theorem post_tags (s : State) (src code : Nat) (items : List PItem) : (s.post src code items).tags = s.tags := by rw [post_eq]
@[simp] theorem post_snaps (s : State) (src code : Nat) (items : List PItem) : (s.post src code items).snaps = s.snaps := by rw [post_eq]
@[simp] theorem post_tagged (s : State) (src code : Nat) (items : List PItem) : (s.post src code items).tagged = s.tagged := by rw [post_eq]

theorem accessError_eq (s : State) (req addr kind : Nat) :
    s.accessError req addr kind = { s with
      events := (s.accessError req addr kind).events
      regs := (s.accessError req addr kind).regs
      pmu := (s.accessError req addr kind).pmu
      twin := { s.twin with fi := (s.accessError req addr kind).twin.fi } } := post_eq _ _ _ _

@[simp] theorem accessError_pending (s : State) (req addr kind : Nat) : (s.accessError req addr kind).pending = s.pending := by rw [accessError_eq]
@[simp] theorem accessError_freeCtr (s : State) (req addr kind : Nat) : (s.accessError req addr kind).freeCtr = s.freeCtr := by rw [accessError_eq]
@[simp] theorem accessError_answers (s : State) (req addr kind : Nat) : (s.accessError req addr kind).answers = s.answers := by rw [accessError_eq]
@[simp] theorem accessError_latches (s : State) (req addr kind : Nat) : (s.accessError req addr kind).latches = s.latches := by rw [accessError_eq]
@[simp] theorem accessError_helds (s : State) (req addr kind : Nat) : (s.accessError req addr kind).helds = s.helds := by rw [accessError_eq]
@[simp] theorem accessError_mem (s : State) (req addr kind : Nat) : (s.accessError req addr kind).mem = s.mem := by rw [accessError_eq]
@[simp] theorem accessError_ledger (s : State) (req addr kind : Nat) : (s.accessError req addr kind).ledger = s.ledger := by rw [accessError_eq]
@[simp] theorem accessError_rakes (s : State) (req addr kind : Nat) : (s.accessError req addr kind).rakes = s.rakes := by rw [accessError_eq]
@[simp] theorem accessError_mgr (s : State) (req addr kind : Nat) : (s.accessError req addr kind).mgr = s.mgr := by rw [accessError_eq]
@[simp] theorem accessError_tally (s : State) (req addr kind : Nat) : (s.accessError req addr kind).tally = s.tally := by rw [accessError_eq]
@[simp] theorem accessError_queues (s : State) (req addr kind : Nat) : (s.accessError req addr kind).queues = s.queues := by rw [accessError_eq]
@[simp] theorem accessError_mcs (s : State) (req addr kind : Nat) : (s.accessError req addr kind).mcs = s.mcs := by rw [accessError_eq]
@[simp] theorem accessError_banks (s : State) (req addr kind : Nat) : (s.accessError req addr kind).banks = s.banks := by rw [accessError_eq]
@[simp] theorem accessError_harrow (s : State) (req addr kind : Nat) : (s.accessError req addr kind).harrow = s.harrow := by rw [accessError_eq]
@[simp] theorem accessError_time (s : State) (req addr kind : Nat) : (s.accessError req addr kind).time = s.time := by rw [accessError_eq]
@[simp] theorem accessError_dma (s : State) (req addr kind : Nat) : (s.accessError req addr kind).dma = s.dma := by rw [accessError_eq]
@[simp] theorem accessError_releases (s : State) (req addr kind : Nat) : (s.accessError req addr kind).releases = s.releases := by rw [accessError_eq]
@[simp] theorem accessError_host (s : State) (req addr kind : Nat) : (s.accessError req addr kind).host = s.host := by rw [accessError_eq]
@[simp] theorem accessError_power (s : State) (req addr kind : Nat) : (s.accessError req addr kind).power = s.power := by rw [accessError_eq]
@[simp] theorem accessError_resets (s : State) (req addr kind : Nat) : (s.accessError req addr kind).resets = s.resets := by rw [accessError_eq]
@[simp] theorem accessError_sec (s : State) (req addr kind : Nat) : (s.accessError req addr kind).sec = s.sec := by rw [accessError_eq]
@[simp] theorem accessError_chk (s : State) (req addr kind : Nat) : (s.accessError req addr kind).chk = s.chk := by rw [accessError_eq]
@[simp] theorem accessError_pgms (s : State) (req addr kind : Nat) : (s.accessError req addr kind).pgms = s.pgms := by rw [accessError_eq]
@[simp] theorem accessError_cmps (s : State) (req addr kind : Nat) : (s.accessError req addr kind).cmps = s.cmps := by rw [accessError_eq]
@[simp] theorem accessError_colours (s : State) (req addr kind : Nat) : (s.accessError req addr kind).colours = s.colours := by rw [accessError_eq]
@[simp] theorem accessError_heads (s : State) (req addr kind : Nat) : (s.accessError req addr kind).heads = s.heads := by rw [accessError_eq]
@[simp] theorem accessError_headOut (s : State) (req addr kind : Nat) : (s.accessError req addr kind).headOut = s.headOut := by rw [accessError_eq]
@[simp] theorem accessError_slus (s : State) (req addr kind : Nat) : (s.accessError req addr kind).slus = s.slus := by rw [accessError_eq]
@[simp] theorem accessError_net (s : State) (req addr kind : Nat) : (s.accessError req addr kind).net = s.net := by rw [accessError_eq]
@[simp] theorem accessError_audio (s : State) (req addr kind : Nat) : (s.accessError req addr kind).audio = s.audio := by rw [accessError_eq]
@[simp] theorem accessError_lanes (s : State) (req addr kind : Nat) : (s.accessError req addr kind).lanes = s.lanes := by rw [accessError_eq]
@[simp] theorem accessError_sdi (s : State) (req addr kind : Nat) : (s.accessError req addr kind).sdi = s.sdi := by rw [accessError_eq]
@[simp] theorem accessError_prbs (s : State) (req addr kind : Nat) : (s.accessError req addr kind).prbs = s.prbs := by rw [accessError_eq]
@[simp] theorem accessError_tags (s : State) (req addr kind : Nat) : (s.accessError req addr kind).tags = s.tags := by rw [accessError_eq]
@[simp] theorem accessError_snaps (s : State) (req addr kind : Nat) : (s.accessError req addr kind).snaps = s.snaps := by rw [accessError_eq]
@[simp] theorem accessError_tagged (s : State) (req addr kind : Nat) : (s.accessError req addr kind).tagged = s.tagged := by rw [accessError_eq]

/-- An event source after a post: its own source takes the record, or loses it (R391, R393). -/
theorem evSource_postRaw (s : State) (src code : Nat) (fi : Bool) (payload : BitVec 112) (x : Nat) :
    (s.postRaw src code fi payload).evSource x =
      if x = src then
        (if (s.evSource src).buf.length < 16 then
          { s.evSource src with
            seq := (s.evSource src).seq + 1, buf := (s.evSource src).buf ++ [s.record src code fi payload] }
        else { s.evSource src with seq := (s.evSource src).seq + 1, lost := min ((s.evSource src).lost + 1) 0xFFFF })
      else s.evSource x := by
  unfold State.postRaw State.evSource
  simp only
  split <;> by_cases h : x = src <;> simp [h, getD_set]

theorem evSource_fiCount (s : State) (ks : List Nat) (x : Nat) : (s.fiCount ks).evSource x = s.evSource x := by
  rw [fiCount_eq]; rfl

theorem reg_pmuAdd (s : State) (set ev : Nat) (insts : List Nat) (n pc : Nat) (r : Reg) (i k : Nat) :
    (s.pmuAdd set ev insts n pc).reg r i k = s.reg r i k := reg_congr (pmuAdd_regs _ _ _ _ _ _) _ _ _

theorem reg_fiCount (s : State) (ks : List Nat) (r : Reg) (i k : Nat) : (s.fiCount ks).reg r i k = s.reg r i k := by
  rw [fiCount_eq]; rfl

/-- Posting leaves every register but EVT_STAT as it was. -/
theorem reg_postRaw (s : State) (src code : Nat) (fi : Bool) (payload : BitVec 112) {r : Reg} (h : r ≠ .EVT_STAT)
    (i k : Nat) : (s.postRaw src code fi payload).reg r i k = s.reg r i k := by
  unfold State.postRaw
  simp only
  split
  · rw [reg_pmuAdd]; rfl
  · rw [reg_pmuAdd, reg_fset, reg_fset]
    have h1 : ¬ (r = F.EVT_STAT_SRC.reg ∧ i = 0 ∧ k = 0) := fun e => h e.1
    have h2 : ¬ (r = F.EVT_STAT_LOST.reg ∧ i = 0 ∧ k = 0) := fun e => h e.1
    rw [if_neg h1, if_neg h2]; rfl

theorem reg_post (s : State) (src code : Nat) (items : List PItem) {r : Reg} (h : r ≠ .EVT_STAT) (i k : Nat) :
    (s.post src code items).reg r i k = s.reg r i k := by
  unfold State.post
  rw [reg_fiCount, reg_postRaw _ _ _ _ _ h]

/-- Posting to a buffer with room leaves every register as it was. -/
theorem reg_post_room (s : State) (src code : Nat) (items : List PItem) (h : (s.evSource src).buf.length < 16)
    (r : Reg) (i k : Nat) : (s.post src code items).reg r i k = s.reg r i k := by
  unfold State.post
  rw [reg_fiCount]
  unfold State.postRaw
  simp only [h, if_true]
  rw [reg_pmuAdd]; rfl

/-- The registers of any state with the same register table, fields included. -/
theorem fget_post (s : State) (src code : Nat) (items : List PItem) (f : Fld) (h : f.reg ≠ .EVT_STAT) (i k : Nat) :
    (s.post src code items).fget f i k = s.fget f i k := by
  unfold State.fget; rw [reg_post _ _ _ _ h]

end Sys2Proof.Laws
end

