-- ==== Sys2Proof/Laws/Frames.lean ====
section
/-! SUPPORT. What each shared operation leaves alone: the parts of the state that it does not name are as they were. -/

namespace Sys2Proof.Laws

open Sys2Proof.Machine

theorem recordFault_eq (s : State) (rk cause pc slot replay addr : Nat) : s.recordFault rk cause pc slot replay addr =
    { s with regs := (s.recordFault rk cause pc slot replay addr).regs, events := (s.recordFault rk cause pc slot replay addr).events, pmu := (s.recordFault rk cause pc slot replay addr).pmu, twin := (s.recordFault rk cause pc slot replay addr).twin } := by
  apply state_ext <;> simp [State.recordFault]
@[simp] theorem recordFault_pending (s : State) (rk cause pc slot replay addr : Nat) : (s.recordFault rk cause pc slot replay addr).pending = s.pending := by rw [recordFault_eq]
@[simp] theorem recordFault_freeCtr (s : State) (rk cause pc slot replay addr : Nat) : (s.recordFault rk cause pc slot replay addr).freeCtr = s.freeCtr := by rw [recordFault_eq]
@[simp] theorem recordFault_answers (s : State) (rk cause pc slot replay addr : Nat) : (s.recordFault rk cause pc slot replay addr).answers = s.answers := by rw [recordFault_eq]
@[simp] theorem recordFault_latches (s : State) (rk cause pc slot replay addr : Nat) : (s.recordFault rk cause pc slot replay addr).latches = s.latches := by rw [recordFault_eq]
@[simp] theorem recordFault_helds (s : State) (rk cause pc slot replay addr : Nat) : (s.recordFault rk cause pc slot replay addr).helds = s.helds := by rw [recordFault_eq]
@[simp] theorem recordFault_mem (s : State) (rk cause pc slot replay addr : Nat) : (s.recordFault rk cause pc slot replay addr).mem = s.mem := by rw [recordFault_eq]
@[simp] theorem recordFault_ledger (s : State) (rk cause pc slot replay addr : Nat) : (s.recordFault rk cause pc slot replay addr).ledger = s.ledger := by rw [recordFault_eq]
@[simp] theorem recordFault_rakes (s : State) (rk cause pc slot replay addr : Nat) : (s.recordFault rk cause pc slot replay addr).rakes = s.rakes := by rw [recordFault_eq]
@[simp] theorem recordFault_mgr (s : State) (rk cause pc slot replay addr : Nat) : (s.recordFault rk cause pc slot replay addr).mgr = s.mgr := by rw [recordFault_eq]
@[simp] theorem recordFault_tally (s : State) (rk cause pc slot replay addr : Nat) : (s.recordFault rk cause pc slot replay addr).tally = s.tally := by rw [recordFault_eq]
@[simp] theorem recordFault_queues (s : State) (rk cause pc slot replay addr : Nat) : (s.recordFault rk cause pc slot replay addr).queues = s.queues := by rw [recordFault_eq]
@[simp] theorem recordFault_mcs (s : State) (rk cause pc slot replay addr : Nat) : (s.recordFault rk cause pc slot replay addr).mcs = s.mcs := by rw [recordFault_eq]
@[simp] theorem recordFault_banks (s : State) (rk cause pc slot replay addr : Nat) : (s.recordFault rk cause pc slot replay addr).banks = s.banks := by rw [recordFault_eq]
@[simp] theorem recordFault_harrow (s : State) (rk cause pc slot replay addr : Nat) : (s.recordFault rk cause pc slot replay addr).harrow = s.harrow := by rw [recordFault_eq]
@[simp] theorem recordFault_time (s : State) (rk cause pc slot replay addr : Nat) : (s.recordFault rk cause pc slot replay addr).time = s.time := by rw [recordFault_eq]
@[simp] theorem recordFault_dma (s : State) (rk cause pc slot replay addr : Nat) : (s.recordFault rk cause pc slot replay addr).dma = s.dma := by rw [recordFault_eq]
@[simp] theorem recordFault_releases (s : State) (rk cause pc slot replay addr : Nat) : (s.recordFault rk cause pc slot replay addr).releases = s.releases := by rw [recordFault_eq]
@[simp] theorem recordFault_host (s : State) (rk cause pc slot replay addr : Nat) : (s.recordFault rk cause pc slot replay addr).host = s.host := by rw [recordFault_eq]
@[simp] theorem recordFault_power (s : State) (rk cause pc slot replay addr : Nat) : (s.recordFault rk cause pc slot replay addr).power = s.power := by rw [recordFault_eq]
@[simp] theorem recordFault_resets (s : State) (rk cause pc slot replay addr : Nat) : (s.recordFault rk cause pc slot replay addr).resets = s.resets := by rw [recordFault_eq]
@[simp] theorem recordFault_sec (s : State) (rk cause pc slot replay addr : Nat) : (s.recordFault rk cause pc slot replay addr).sec = s.sec := by rw [recordFault_eq]
@[simp] theorem recordFault_chk (s : State) (rk cause pc slot replay addr : Nat) : (s.recordFault rk cause pc slot replay addr).chk = s.chk := by rw [recordFault_eq]
@[simp] theorem recordFault_pgms (s : State) (rk cause pc slot replay addr : Nat) : (s.recordFault rk cause pc slot replay addr).pgms = s.pgms := by rw [recordFault_eq]
@[simp] theorem recordFault_cmps (s : State) (rk cause pc slot replay addr : Nat) : (s.recordFault rk cause pc slot replay addr).cmps = s.cmps := by rw [recordFault_eq]
@[simp] theorem recordFault_colours (s : State) (rk cause pc slot replay addr : Nat) : (s.recordFault rk cause pc slot replay addr).colours = s.colours := by rw [recordFault_eq]
@[simp] theorem recordFault_heads (s : State) (rk cause pc slot replay addr : Nat) : (s.recordFault rk cause pc slot replay addr).heads = s.heads := by rw [recordFault_eq]
@[simp] theorem recordFault_headOut (s : State) (rk cause pc slot replay addr : Nat) : (s.recordFault rk cause pc slot replay addr).headOut = s.headOut := by rw [recordFault_eq]
@[simp] theorem recordFault_slus (s : State) (rk cause pc slot replay addr : Nat) : (s.recordFault rk cause pc slot replay addr).slus = s.slus := by rw [recordFault_eq]
@[simp] theorem recordFault_net (s : State) (rk cause pc slot replay addr : Nat) : (s.recordFault rk cause pc slot replay addr).net = s.net := by rw [recordFault_eq]
@[simp] theorem recordFault_audio (s : State) (rk cause pc slot replay addr : Nat) : (s.recordFault rk cause pc slot replay addr).audio = s.audio := by rw [recordFault_eq]
@[simp] theorem recordFault_lanes (s : State) (rk cause pc slot replay addr : Nat) : (s.recordFault rk cause pc slot replay addr).lanes = s.lanes := by rw [recordFault_eq]
@[simp] theorem recordFault_sdi (s : State) (rk cause pc slot replay addr : Nat) : (s.recordFault rk cause pc slot replay addr).sdi = s.sdi := by rw [recordFault_eq]
@[simp] theorem recordFault_prbs (s : State) (rk cause pc slot replay addr : Nat) : (s.recordFault rk cause pc slot replay addr).prbs = s.prbs := by rw [recordFault_eq]
@[simp] theorem recordFault_tags (s : State) (rk cause pc slot replay addr : Nat) : (s.recordFault rk cause pc slot replay addr).tags = s.tags := by rw [recordFault_eq]
@[simp] theorem recordFault_snaps (s : State) (rk cause pc slot replay addr : Nat) : (s.recordFault rk cause pc slot replay addr).snaps = s.snaps := by rw [recordFault_eq]
@[simp] theorem recordFault_tagged (s : State) (rk cause pc slot replay addr : Nat) : (s.recordFault rk cause pc slot replay addr).tagged = s.tagged := by rw [recordFault_eq]

theorem setFate_eq (s : State) (x : Slot) (fate : FlowFate) : s.setFate x fate =
    { s with tally := (s.setFate x fate).tally } := by
  unfold State.setFate; split <;> rfl
@[simp] theorem setFate_pending (s : State) (x : Slot) (fate : FlowFate) : (s.setFate x fate).pending = s.pending := by rw [setFate_eq]
@[simp] theorem setFate_freeCtr (s : State) (x : Slot) (fate : FlowFate) : (s.setFate x fate).freeCtr = s.freeCtr := by rw [setFate_eq]
@[simp] theorem setFate_answers (s : State) (x : Slot) (fate : FlowFate) : (s.setFate x fate).answers = s.answers := by rw [setFate_eq]
@[simp] theorem setFate_regs (s : State) (x : Slot) (fate : FlowFate) : (s.setFate x fate).regs = s.regs := by rw [setFate_eq]
@[simp] theorem setFate_latches (s : State) (x : Slot) (fate : FlowFate) : (s.setFate x fate).latches = s.latches := by rw [setFate_eq]
@[simp] theorem setFate_helds (s : State) (x : Slot) (fate : FlowFate) : (s.setFate x fate).helds = s.helds := by rw [setFate_eq]
@[simp] theorem setFate_mem (s : State) (x : Slot) (fate : FlowFate) : (s.setFate x fate).mem = s.mem := by rw [setFate_eq]
@[simp] theorem setFate_events (s : State) (x : Slot) (fate : FlowFate) : (s.setFate x fate).events = s.events := by rw [setFate_eq]
@[simp] theorem setFate_ledger (s : State) (x : Slot) (fate : FlowFate) : (s.setFate x fate).ledger = s.ledger := by rw [setFate_eq]
@[simp] theorem setFate_rakes (s : State) (x : Slot) (fate : FlowFate) : (s.setFate x fate).rakes = s.rakes := by rw [setFate_eq]
@[simp] theorem setFate_mgr (s : State) (x : Slot) (fate : FlowFate) : (s.setFate x fate).mgr = s.mgr := by rw [setFate_eq]
@[simp] theorem setFate_queues (s : State) (x : Slot) (fate : FlowFate) : (s.setFate x fate).queues = s.queues := by rw [setFate_eq]
@[simp] theorem setFate_mcs (s : State) (x : Slot) (fate : FlowFate) : (s.setFate x fate).mcs = s.mcs := by rw [setFate_eq]
@[simp] theorem setFate_banks (s : State) (x : Slot) (fate : FlowFate) : (s.setFate x fate).banks = s.banks := by rw [setFate_eq]
@[simp] theorem setFate_harrow (s : State) (x : Slot) (fate : FlowFate) : (s.setFate x fate).harrow = s.harrow := by rw [setFate_eq]
@[simp] theorem setFate_time (s : State) (x : Slot) (fate : FlowFate) : (s.setFate x fate).time = s.time := by rw [setFate_eq]
@[simp] theorem setFate_dma (s : State) (x : Slot) (fate : FlowFate) : (s.setFate x fate).dma = s.dma := by rw [setFate_eq]
@[simp] theorem setFate_releases (s : State) (x : Slot) (fate : FlowFate) : (s.setFate x fate).releases = s.releases := by rw [setFate_eq]
@[simp] theorem setFate_host (s : State) (x : Slot) (fate : FlowFate) : (s.setFate x fate).host = s.host := by rw [setFate_eq]
@[simp] theorem setFate_power (s : State) (x : Slot) (fate : FlowFate) : (s.setFate x fate).power = s.power := by rw [setFate_eq]
@[simp] theorem setFate_resets (s : State) (x : Slot) (fate : FlowFate) : (s.setFate x fate).resets = s.resets := by rw [setFate_eq]
@[simp] theorem setFate_sec (s : State) (x : Slot) (fate : FlowFate) : (s.setFate x fate).sec = s.sec := by rw [setFate_eq]
@[simp] theorem setFate_chk (s : State) (x : Slot) (fate : FlowFate) : (s.setFate x fate).chk = s.chk := by rw [setFate_eq]
@[simp] theorem setFate_pgms (s : State) (x : Slot) (fate : FlowFate) : (s.setFate x fate).pgms = s.pgms := by rw [setFate_eq]
@[simp] theorem setFate_cmps (s : State) (x : Slot) (fate : FlowFate) : (s.setFate x fate).cmps = s.cmps := by rw [setFate_eq]
@[simp] theorem setFate_colours (s : State) (x : Slot) (fate : FlowFate) : (s.setFate x fate).colours = s.colours := by rw [setFate_eq]
@[simp] theorem setFate_heads (s : State) (x : Slot) (fate : FlowFate) : (s.setFate x fate).heads = s.heads := by rw [setFate_eq]
@[simp] theorem setFate_headOut (s : State) (x : Slot) (fate : FlowFate) : (s.setFate x fate).headOut = s.headOut := by rw [setFate_eq]
@[simp] theorem setFate_slus (s : State) (x : Slot) (fate : FlowFate) : (s.setFate x fate).slus = s.slus := by rw [setFate_eq]
@[simp] theorem setFate_net (s : State) (x : Slot) (fate : FlowFate) : (s.setFate x fate).net = s.net := by rw [setFate_eq]
@[simp] theorem setFate_audio (s : State) (x : Slot) (fate : FlowFate) : (s.setFate x fate).audio = s.audio := by rw [setFate_eq]
@[simp] theorem setFate_lanes (s : State) (x : Slot) (fate : FlowFate) : (s.setFate x fate).lanes = s.lanes := by rw [setFate_eq]
@[simp] theorem setFate_sdi (s : State) (x : Slot) (fate : FlowFate) : (s.setFate x fate).sdi = s.sdi := by rw [setFate_eq]
@[simp] theorem setFate_prbs (s : State) (x : Slot) (fate : FlowFate) : (s.setFate x fate).prbs = s.prbs := by rw [setFate_eq]
@[simp] theorem setFate_twin (s : State) (x : Slot) (fate : FlowFate) : (s.setFate x fate).twin = s.twin := by rw [setFate_eq]
@[simp] theorem setFate_pmu (s : State) (x : Slot) (fate : FlowFate) : (s.setFate x fate).pmu = s.pmu := by rw [setFate_eq]
@[simp] theorem setFate_tags (s : State) (x : Slot) (fate : FlowFate) : (s.setFate x fate).tags = s.tags := by rw [setFate_eq]
@[simp] theorem setFate_snaps (s : State) (x : Slot) (fate : FlowFate) : (s.setFate x fate).snaps = s.snaps := by rw [setFate_eq]
@[simp] theorem setFate_tagged (s : State) (x : Slot) (fate : FlowFate) : (s.setFate x fate).tagged = s.tagged := by rw [setFate_eq]

theorem freeSlot_eq (s : State) (n : Nat) : s.freeSlot n =
    { s with tally := (s.freeSlot n).tally } := by
  rfl
@[simp] theorem freeSlot_pending (s : State) (n : Nat) : (s.freeSlot n).pending = s.pending := by rw [freeSlot_eq]
@[simp] theorem freeSlot_freeCtr (s : State) (n : Nat) : (s.freeSlot n).freeCtr = s.freeCtr := by rw [freeSlot_eq]
@[simp] theorem freeSlot_answers (s : State) (n : Nat) : (s.freeSlot n).answers = s.answers := by rw [freeSlot_eq]
@[simp] theorem freeSlot_regs (s : State) (n : Nat) : (s.freeSlot n).regs = s.regs := by rw [freeSlot_eq]
@[simp] theorem freeSlot_latches (s : State) (n : Nat) : (s.freeSlot n).latches = s.latches := by rw [freeSlot_eq]
@[simp] theorem freeSlot_helds (s : State) (n : Nat) : (s.freeSlot n).helds = s.helds := by rw [freeSlot_eq]
@[simp] theorem freeSlot_mem (s : State) (n : Nat) : (s.freeSlot n).mem = s.mem := by rw [freeSlot_eq]
@[simp] theorem freeSlot_events (s : State) (n : Nat) : (s.freeSlot n).events = s.events := by rw [freeSlot_eq]
@[simp] theorem freeSlot_ledger (s : State) (n : Nat) : (s.freeSlot n).ledger = s.ledger := by rw [freeSlot_eq]
@[simp] theorem freeSlot_rakes (s : State) (n : Nat) : (s.freeSlot n).rakes = s.rakes := by rw [freeSlot_eq]
@[simp] theorem freeSlot_mgr (s : State) (n : Nat) : (s.freeSlot n).mgr = s.mgr := by rw [freeSlot_eq]
@[simp] theorem freeSlot_queues (s : State) (n : Nat) : (s.freeSlot n).queues = s.queues := by rw [freeSlot_eq]
@[simp] theorem freeSlot_mcs (s : State) (n : Nat) : (s.freeSlot n).mcs = s.mcs := by rw [freeSlot_eq]
@[simp] theorem freeSlot_banks (s : State) (n : Nat) : (s.freeSlot n).banks = s.banks := by rw [freeSlot_eq]
@[simp] theorem freeSlot_harrow (s : State) (n : Nat) : (s.freeSlot n).harrow = s.harrow := by rw [freeSlot_eq]
@[simp] theorem freeSlot_time (s : State) (n : Nat) : (s.freeSlot n).time = s.time := by rw [freeSlot_eq]
@[simp] theorem freeSlot_dma (s : State) (n : Nat) : (s.freeSlot n).dma = s.dma := by rw [freeSlot_eq]
@[simp] theorem freeSlot_releases (s : State) (n : Nat) : (s.freeSlot n).releases = s.releases := by rw [freeSlot_eq]
@[simp] theorem freeSlot_host (s : State) (n : Nat) : (s.freeSlot n).host = s.host := by rw [freeSlot_eq]
@[simp] theorem freeSlot_power (s : State) (n : Nat) : (s.freeSlot n).power = s.power := by rw [freeSlot_eq]
@[simp] theorem freeSlot_resets (s : State) (n : Nat) : (s.freeSlot n).resets = s.resets := by rw [freeSlot_eq]
@[simp] theorem freeSlot_sec (s : State) (n : Nat) : (s.freeSlot n).sec = s.sec := by rw [freeSlot_eq]
@[simp] theorem freeSlot_chk (s : State) (n : Nat) : (s.freeSlot n).chk = s.chk := by rw [freeSlot_eq]
@[simp] theorem freeSlot_pgms (s : State) (n : Nat) : (s.freeSlot n).pgms = s.pgms := by rw [freeSlot_eq]
@[simp] theorem freeSlot_cmps (s : State) (n : Nat) : (s.freeSlot n).cmps = s.cmps := by rw [freeSlot_eq]
@[simp] theorem freeSlot_colours (s : State) (n : Nat) : (s.freeSlot n).colours = s.colours := by rw [freeSlot_eq]
@[simp] theorem freeSlot_heads (s : State) (n : Nat) : (s.freeSlot n).heads = s.heads := by rw [freeSlot_eq]
@[simp] theorem freeSlot_headOut (s : State) (n : Nat) : (s.freeSlot n).headOut = s.headOut := by rw [freeSlot_eq]
@[simp] theorem freeSlot_slus (s : State) (n : Nat) : (s.freeSlot n).slus = s.slus := by rw [freeSlot_eq]
@[simp] theorem freeSlot_net (s : State) (n : Nat) : (s.freeSlot n).net = s.net := by rw [freeSlot_eq]
@[simp] theorem freeSlot_audio (s : State) (n : Nat) : (s.freeSlot n).audio = s.audio := by rw [freeSlot_eq]
@[simp] theorem freeSlot_lanes (s : State) (n : Nat) : (s.freeSlot n).lanes = s.lanes := by rw [freeSlot_eq]
@[simp] theorem freeSlot_sdi (s : State) (n : Nat) : (s.freeSlot n).sdi = s.sdi := by rw [freeSlot_eq]
@[simp] theorem freeSlot_prbs (s : State) (n : Nat) : (s.freeSlot n).prbs = s.prbs := by rw [freeSlot_eq]
@[simp] theorem freeSlot_twin (s : State) (n : Nat) : (s.freeSlot n).twin = s.twin := by rw [freeSlot_eq]
@[simp] theorem freeSlot_pmu (s : State) (n : Nat) : (s.freeSlot n).pmu = s.pmu := by rw [freeSlot_eq]
@[simp] theorem freeSlot_tags (s : State) (n : Nat) : (s.freeSlot n).tags = s.tags := by rw [freeSlot_eq]
@[simp] theorem freeSlot_snaps (s : State) (n : Nat) : (s.freeSlot n).snaps = s.snaps := by rw [freeSlot_eq]
@[simp] theorem freeSlot_tagged (s : State) (n : Nat) : (s.freeSlot n).tagged = s.tagged := by rw [freeSlot_eq]

theorem taskFailed_eq (s : State) (n cause : Nat) : s.taskFailed n cause =
    { s with tally := (s.taskFailed n cause).tally, regs := (s.taskFailed n cause).regs, events := (s.taskFailed n cause).events, pmu := (s.taskFailed n cause).pmu, twin := (s.taskFailed n cause).twin } := by
  apply state_ext <;> simp [State.taskFailed]
@[simp] theorem taskFailed_pending (s : State) (n cause : Nat) : (s.taskFailed n cause).pending = s.pending := by rw [taskFailed_eq]
@[simp] theorem taskFailed_freeCtr (s : State) (n cause : Nat) : (s.taskFailed n cause).freeCtr = s.freeCtr := by rw [taskFailed_eq]
@[simp] theorem taskFailed_answers (s : State) (n cause : Nat) : (s.taskFailed n cause).answers = s.answers := by rw [taskFailed_eq]
@[simp] theorem taskFailed_latches (s : State) (n cause : Nat) : (s.taskFailed n cause).latches = s.latches := by rw [taskFailed_eq]
@[simp] theorem taskFailed_helds (s : State) (n cause : Nat) : (s.taskFailed n cause).helds = s.helds := by rw [taskFailed_eq]
@[simp] theorem taskFailed_mem (s : State) (n cause : Nat) : (s.taskFailed n cause).mem = s.mem := by rw [taskFailed_eq]
@[simp] theorem taskFailed_ledger (s : State) (n cause : Nat) : (s.taskFailed n cause).ledger = s.ledger := by rw [taskFailed_eq]
@[simp] theorem taskFailed_rakes (s : State) (n cause : Nat) : (s.taskFailed n cause).rakes = s.rakes := by rw [taskFailed_eq]
@[simp] theorem taskFailed_mgr (s : State) (n cause : Nat) : (s.taskFailed n cause).mgr = s.mgr := by rw [taskFailed_eq]
@[simp] theorem taskFailed_queues (s : State) (n cause : Nat) : (s.taskFailed n cause).queues = s.queues := by rw [taskFailed_eq]
@[simp] theorem taskFailed_mcs (s : State) (n cause : Nat) : (s.taskFailed n cause).mcs = s.mcs := by rw [taskFailed_eq]
@[simp] theorem taskFailed_banks (s : State) (n cause : Nat) : (s.taskFailed n cause).banks = s.banks := by rw [taskFailed_eq]
@[simp] theorem taskFailed_harrow (s : State) (n cause : Nat) : (s.taskFailed n cause).harrow = s.harrow := by rw [taskFailed_eq]
@[simp] theorem taskFailed_time (s : State) (n cause : Nat) : (s.taskFailed n cause).time = s.time := by rw [taskFailed_eq]
@[simp] theorem taskFailed_dma (s : State) (n cause : Nat) : (s.taskFailed n cause).dma = s.dma := by rw [taskFailed_eq]
@[simp] theorem taskFailed_releases (s : State) (n cause : Nat) : (s.taskFailed n cause).releases = s.releases := by rw [taskFailed_eq]
@[simp] theorem taskFailed_host (s : State) (n cause : Nat) : (s.taskFailed n cause).host = s.host := by rw [taskFailed_eq]
@[simp] theorem taskFailed_power (s : State) (n cause : Nat) : (s.taskFailed n cause).power = s.power := by rw [taskFailed_eq]
@[simp] theorem taskFailed_resets (s : State) (n cause : Nat) : (s.taskFailed n cause).resets = s.resets := by rw [taskFailed_eq]
@[simp] theorem taskFailed_sec (s : State) (n cause : Nat) : (s.taskFailed n cause).sec = s.sec := by rw [taskFailed_eq]
@[simp] theorem taskFailed_chk (s : State) (n cause : Nat) : (s.taskFailed n cause).chk = s.chk := by rw [taskFailed_eq]
@[simp] theorem taskFailed_pgms (s : State) (n cause : Nat) : (s.taskFailed n cause).pgms = s.pgms := by rw [taskFailed_eq]
@[simp] theorem taskFailed_cmps (s : State) (n cause : Nat) : (s.taskFailed n cause).cmps = s.cmps := by rw [taskFailed_eq]
@[simp] theorem taskFailed_colours (s : State) (n cause : Nat) : (s.taskFailed n cause).colours = s.colours := by rw [taskFailed_eq]
@[simp] theorem taskFailed_heads (s : State) (n cause : Nat) : (s.taskFailed n cause).heads = s.heads := by rw [taskFailed_eq]
@[simp] theorem taskFailed_headOut (s : State) (n cause : Nat) : (s.taskFailed n cause).headOut = s.headOut := by rw [taskFailed_eq]
@[simp] theorem taskFailed_slus (s : State) (n cause : Nat) : (s.taskFailed n cause).slus = s.slus := by rw [taskFailed_eq]
@[simp] theorem taskFailed_net (s : State) (n cause : Nat) : (s.taskFailed n cause).net = s.net := by rw [taskFailed_eq]
@[simp] theorem taskFailed_audio (s : State) (n cause : Nat) : (s.taskFailed n cause).audio = s.audio := by rw [taskFailed_eq]
@[simp] theorem taskFailed_lanes (s : State) (n cause : Nat) : (s.taskFailed n cause).lanes = s.lanes := by rw [taskFailed_eq]
@[simp] theorem taskFailed_sdi (s : State) (n cause : Nat) : (s.taskFailed n cause).sdi = s.sdi := by rw [taskFailed_eq]
@[simp] theorem taskFailed_prbs (s : State) (n cause : Nat) : (s.taskFailed n cause).prbs = s.prbs := by rw [taskFailed_eq]
@[simp] theorem taskFailed_tags (s : State) (n cause : Nat) : (s.taskFailed n cause).tags = s.tags := by rw [taskFailed_eq]
@[simp] theorem taskFailed_snaps (s : State) (n cause : Nat) : (s.taskFailed n cause).snaps = s.snaps := by rw [taskFailed_eq]
@[simp] theorem taskFailed_tagged (s : State) (n cause : Nat) : (s.taskFailed n cause).tagged = s.tagged := by rw [taskFailed_eq]

end Sys2Proof.Laws
end

