-- ==== Sys2Proof/Laws/Lines.lean ====
section
/-! SUPPORT. What the lanes' line coding and the cadence generator do: the scrambler is its own inverse, unstuffing recovers the
stuffed bits without an error, and the cadence generator's closed form. -/

namespace Sys2Proof.Laws

open Sys2Proof.Machine

/-- Scrambling twice from one state gives the bits back (R373). -/
theorem scrambleFrom_scrambleFrom (l : List Bool) : ∀ x, scrambleFrom x (scrambleFrom x l) = l := by
  induction l with
  | nil => intro x; rfl
  | cons b t ih => intro x; simp only [scrambleFrom, ih]; cases b <;> cases scrambleKey x <;> rfl

theorem scramble_scramble (l : List Bool) : scramble (scramble l) = l := scrambleFrom_scrambleFrom l _

/-- A run of identical kept bits that is still below 40. -/
def RunShort (run : Option (Bool × Nat)) : Prop := ∀ c n, run = some (c, n) → n < 40

theorem unstuff_short {run : Option (Bool × Nat)} (h : RunShort run) (b : Bool) (t : List Bool) :
    unstuff run (b :: t) = (b :: (unstuff (some (b, runAfter run b)) t).1, (unstuff (some (b, runAfter run b)) t).2.1,
      (unstuff (some (b, runAfter run b)) t).2.2) := by
  match run, h with
  | none, _ => rfl
  | some (c, n), h =>
    have : n ≠ 40 := by have := h c n rfl; omega
    conv => lhs; unfold unstuff
    split
    · rename_i c' heq; cases heq; exact absurd rfl this
    · rfl

/-- Unstuffing what stuffing gave yields the bits, the same run, and no error (R374). -/
theorem unstuff_stuff (l : List Bool) : ∀ run, RunShort run → unstuff run (stuff run l).1 = (l, (stuff run l).2, 0) := by
  induction l with
  | nil => intro run _; unfold stuff unstuff; rfl
  | cons b t ih =>
    intro run h
    have hr : runAfter run b ≤ 40 := by
      unfold runAfter
      match run, h with
      | none, _ => simp only; omega
      | some (c, n), h => have := h c n rfl; simp only; split <;> omega
    unfold stuff
    simp only
    split
    · rename_i h40
      rw [unstuff_short h, h40]
      have hn := ih none (by intro c n h; cases h)
      simp only [unstuff, hn, Bool.not_eq_eq_eq_not]
      cases b <;> rfl
    · rename_i h40
      rw [unstuff_short h]
      have hn := ih (some (b, runAfter run b)) (by intro c n hc; cases hc; omega)
      simp only [hn]

/-- One PCLK of the cadence generator (R280): acc after it, the pixel periods in it. -/
def cadenceClock (n m acc : Nat) : Nat × Nat :=
  let k := if 2 * m ≤ acc + n then 2 else if m ≤ acc + n then 1 else 0
  (acc + n - k * m, k)

/-- j PCLKs of the cadence generator: acc after them, the pixel periods in them. -/
def cadenceClocks (n m acc : Nat) : Nat → Nat × Nat
  | 0 => (acc, 0)
  | j + 1 =>
    let x := cadenceClocks n m acc j
    let y := cadenceClock n m x.1
    (y.1, x.2 + y.2)

/-- The generator as `cadenceAfter` uses it: while acc < M and N ≤ 2M, j PCLKs leave acc + j·N mod M and advance (acc + j·N) / M
periods. -/
theorem cadence_clocks (n m acc : Nat) (hn : n ≤ 2 * m) (ha : acc < m) (j : Nat) :
    cadenceClocks n m acc j = ((acc + j * n) % m, (acc + j * n) / m) := by
  have hm : 0 < m := by omega
  induction j with
  | zero => simp only [cadenceClocks, Nat.zero_mul, Nat.add_zero, Nat.mod_eq_of_lt ha, Nat.div_eq_of_lt ha]
  | succ j ih =>
    have hlt := Nat.mod_lt (acc + j * n) hm
    have key : acc + (j + 1) * n = (acc + j * n) % m + n + m * ((acc + j * n) / m) := by
      have := Nat.mod_add_div (acc + j * n) m
      rw [Nat.succ_mul]; omega
    have hk : cadenceClock n m ((acc + j * n) % m) = (((acc + j * n) % m + n) % m, ((acc + j * n) % m + n) / m) := by
      generalize (acc + j * n) % m = a at hlt ⊢
      unfold cadenceClock
      simp only
      split
      · have : (a + n) / m = 2 := Nat.div_eq_of_lt_le (by omega) (by omega)
        have := Nat.mod_add_div (a + n) m
        simp_all; omega
      · split
        · have : (a + n) / m = 1 := Nat.div_eq_of_lt_le (by omega) (by omega)
          have := Nat.mod_add_div (a + n) m
          simp_all; omega
        · rw [Nat.mod_eq_of_lt (by omega), Nat.div_eq_of_lt (by omega)]; simp
    simp only [cadenceClocks, ih, hk, key, Nat.add_mul_mod_self_left, Nat.add_mul_div_left _ _ hm]
    congr 1; omega

end Sys2Proof.Laws
end

