-- ==== Sys2Proof/Laws/Mem.lean ====
section
/-! SUPPORT. What the operations on memory do, said once: every one keeps the canonical form, a read after a write gives what was
written, a write leaves every other cell as it was (chapter 4). -/

namespace Sys2Proof.Laws

open Sys2Proof.Machine

/-! ### Cells -/

/-- A cell below every listed one is unlisted. -/
theorem memGet_below {k : Nat} {m : List Host.Cell} (h : ∀ x ∈ m, k < x.1) : memGet k m = memDefault k := by
  induction m with
  | nil => rfl
  | cons c t ih =>
    obtain ⟨a, b⟩ := c
    have h1 : k < a := h (a, b) (by simp)
    simp only [memGet, show ¬ a = k by omega, if_false]
    exact ih fun x hx => h x (by simp [hx])

/-- What memSet lists: the cell it writes, and what was listed. -/
theorem mem_memSet {k : Nat} {v : Byte} {m : List Host.Cell} {x : Host.Cell} (h : x ∈ memSet k v m) :
    (x = (k, v) ∧ v ≠ memDefault k) ∨ x ∈ m := by
  induction m with
  | nil =>
    unfold memSet at h
    split at h
    · simp at h
    · next hv => exact .inl ⟨by simpa using h, hv⟩
  | cons c t ih =>
    obtain ⟨a, b⟩ := c
    unfold memSet at h
    split at h
    · split at h
      · exact .inr h
      · next hv =>
        rcases List.mem_cons.mp h with rfl | h
        · exact .inl ⟨rfl, hv⟩
        · exact .inr h
    · split at h
      · split at h
        · exact .inr (List.mem_cons_of_mem _ h)
        · next hv =>
          rcases List.mem_cons.mp h with rfl | h
          · exact .inl ⟨rfl, hv⟩
          · exact .inr (List.mem_cons_of_mem _ h)
      · rcases List.mem_cons.mp h with rfl | h
        · exact .inr (by simp)
        · rcases ih h with h | h
          · exact .inl h
          · exact .inr (List.mem_cons_of_mem _ h)

theorem wf_tail {c : Host.Cell} {t : List Host.Cell} (h : Memory.wf (c :: t)) : Memory.wf t :=
  ⟨(List.pairwise_cons.mp h.1).2, fun x hx => h.2 x (List.mem_cons_of_mem _ hx)⟩

/-- Writing a cell keeps the canonical form. -/
theorem memSet_wf (k : Nat) (v : Byte) {m : List Host.Cell} (h : Memory.wf m) : Memory.wf (memSet k v m) := by
  induction m with
  | nil =>
    unfold memSet
    split
    · exact h
    · next hv => exact ⟨by simp, fun x hx => by simp at hx; subst hx; exact hv⟩
  | cons c t ih =>
    obtain ⟨a, b⟩ := c
    have hc : ∀ x ∈ t, a < x.1 := (List.pairwise_cons.mp h.1).1
    have ht := wf_tail h
    unfold memSet
    split
    · next hk =>
      split
      · exact h
      · next hv =>
        refine ⟨List.pairwise_cons.mpr ⟨fun x hx => ?_, h.1⟩, fun x hx => ?_⟩
        · rcases List.mem_cons.mp hx with rfl | hx
          · exact hk
          · exact Nat.lt_trans hk (hc x hx)
        · rcases List.mem_cons.mp hx with rfl | hx
          · exact hv
          · exact h.2 x hx
    · split
      · next hk =>
        subst hk
        split
        · exact ht
        · next hv =>
          refine ⟨List.pairwise_cons.mpr ⟨hc, ht.1⟩, fun x hx => ?_⟩
          rcases List.mem_cons.mp hx with rfl | hx
          · exact hv
          · exact ht.2 x hx
      · next h1 h2 =>
        refine ⟨List.pairwise_cons.mpr ⟨fun x hx => ?_, (ih ht).1⟩, fun x hx => ?_⟩
        · rcases mem_memSet hx with ⟨rfl, -⟩ | hx
          · show a < k; omega
          · exact hc x hx
        · rcases List.mem_cons.mp hx with rfl | hx
          · exact h.2 _ (by simp)
          · exact (ih ht).2 x hx

/-- A cell read after a cell was written. -/
theorem memGet_memSet (k : Nat) (v : Byte) {m : List Host.Cell} (h : Memory.wf m) (j : Nat) :
    memGet j (memSet k v m) = if j = k then v else memGet j m := by
  induction m with
  | nil =>
    unfold memSet
    split
    · next hv => split <;> simp_all [memGet]
    · by_cases hj : j = k
      · subst hj; simp [memGet]
      · simp [memGet, hj, show ¬ k = j from fun e => hj e.symm]
  | cons c t ih =>
    obtain ⟨a, b⟩ := c
    have hc : ∀ x ∈ t, a < x.1 := (List.pairwise_cons.mp h.1).1
    have ht := wf_tail h
    unfold memSet
    split
    · next hk =>
      have hd : memGet k ((a, b) :: t) = memDefault k := memGet_below fun x hx => by
        rcases List.mem_cons.mp hx with rfl | hx
        · exact hk
        · exact Nat.lt_trans hk (hc x hx)
      split
      · next hv =>
        by_cases hj : j = k
        · subst hj; simp [hd, hv]
        · simp [hj]
      · by_cases hj : j = k
        · subst hj; simp [memGet]
        · simp [memGet, hj, show ¬ k = j from fun e => hj e.symm]
    · split
      · next hk =>
        subst hk
        split
        · next hv =>
          by_cases hj : j = k
          · subst hj; simp [memGet_below hc, hv]
          · simp [memGet, hj, show ¬ k = j from fun e => hj e.symm]
        · by_cases hj : j = k
          · subst hj; simp [memGet]
          · simp [memGet, hj, show ¬ k = j from fun e => hj e.symm]
      · next h1 h2 =>
        by_cases ha : a = j
        · subst ha; simp [memGet, show ¬ a = k from fun e => h2 e.symm]
        · simp only [memGet, ha, if_false]; exact ih ht

/-! ### Code words -/

theorem memSetAll_wf (l : List (Nat × Byte)) {m : List Host.Cell} (h : Memory.wf m) : Memory.wf (memSetAll l m) := by
  induction l generalizing m with
  | nil => exact h
  | cons c t ih => obtain ⟨k, v⟩ := c; exact ih (memSet_wf k v h)

/-- A cell that a list of writes does not name. -/
theorem memGet_memSetAll_ne (l : List (Nat × Byte)) {m : List Host.Cell} (h : Memory.wf m) (j : Nat)
    (hj : ∀ x ∈ l, x.1 ≠ j) : memGet j (memSetAll l m) = memGet j m := by
  induction l generalizing m with
  | nil => rfl
  | cons c t ih =>
    obtain ⟨k, v⟩ := c
    have h1 : ¬ j = k := fun e => hj (k, v) (by simp) e.symm
    show memGet j (memSetAll t (memSet k v m)) = _
    rw [ih (memSet_wf k v h) fun x hx => hj x (by simp [hx]), memGet_memSet k v h, if_neg h1]

/-- Cells read after a list of writes to them, one each. -/
theorem map_memGet_memSetAll (ks : List Nat) (bs : List Byte) (hn : ks.Nodup) (hl : bs.length = ks.length)
    {m : List Host.Cell} (h : Memory.wf m) : ks.map (fun k => memGet k (memSetAll (ks.zip bs) m)) = bs := by
  induction ks generalizing bs m with
  | nil => cases bs <;> simp_all
  | cons k t ih =>
    cases bs with
    | nil => simp at hl
    | cons b u =>
      obtain ⟨hk, ht⟩ := List.nodup_cons.mp hn
      simp only [List.zip_cons_cons, memSetAll, List.map_cons]
      rw [ih u ht (by simpa using hl) (memSet_wf k b h), memGet_memSetAll_ne _ (memSet_wf k b h), memGet_memSet k b h]
      · simp
      · intro x hx e
        exact hk (e ▸ (List.of_mem_zip (a := x.1) (b := x.2) hx).1)

theorem mem_wordKeys {a k : Nat} : k ∈ wordKeys a ↔ (a ≤ k ∧ k < a + 32) ∨ (checkKey a 0 ≤ k ∧ k < checkKey a 0 + 4) := by
  simp only [wordKeys, List.mem_append, List.mem_map, List.mem_range, checkKey]
  constructor
  · rintro (⟨j, hj, rfl⟩ | ⟨j, hj, rfl⟩)
    · exact .inl (by omega)
    · exact .inr (by omega)
  · rintro (h | h)
    · exact .inl ⟨k - a, by omega, by omega⟩
    · exact .inr ⟨k - (2 ^ 48 + 4 * (a / 32)), by omega, by omega⟩

/-- The 36 keys of a word are apart. -/
theorem wordKeys_nodup {a : Nat} (h : a + 32 ≤ 2 ^ 48) : (wordKeys a).Nodup := by
  unfold wordKeys
  refine List.nodup_append.mpr ⟨?_, ?_, ?_⟩
  · exact (List.pairwise_map.mpr (List.nodup_range.imp fun {x y} (e : x ≠ y) => by omega))
  · exact (List.pairwise_map.mpr (List.nodup_range.imp fun {x y} (e : x ≠ y) => by simp only [checkKey]; omega))
  · intro x hx y hy
    simp only [List.mem_map, List.mem_range, checkKey] at hx hy
    obtain ⟨i, hi, rfl⟩ := hx
    obtain ⟨j, hj, rfl⟩ := hy
    omega

theorem leBytes_length (n v : Nat) : (leBytes n v).length = n := by
  induction n generalizing v with
  | zero => rfl
  | succ n ih => simp [leBytes, ih]

theorem leNat_leBytes (n v : Nat) : leNat (leBytes n v) = v % 256 ^ n := by
  induction n generalizing v with
  | zero => simp [leBytes, leNat, Nat.mod_one]
  | succ n ih =>
    have e : v % 256 ^ (n + 1) = v % 256 + 256 * (v / 256 % 256 ^ n) := by
      rw [show 256 ^ (n + 1) = 256 * 256 ^ n from Nat.pow_succ', Nat.mod_mul]
    rw [e]
    simp only [leBytes, leNat, ih, BitVec.toNat_ofNat]

/-- The bytes of a number, the low ones first. -/
theorem leBytes_add (m n v : Nat) : leBytes (m + n) v = leBytes m v ++ leBytes n (v / 256 ^ m) := by
  induction m generalizing v with
  | zero => simp [leBytes]
  | succ m ih =>
    rw [show m + 1 + n = m + n + 1 by omega]
    simp only [leBytes, ih, List.cons_append]
    rw [Nat.div_div_eq_div_mul, show 256 * 256 ^ m = 256 ^ (m + 1) from (Nat.pow_succ' ..).symm]

theorem leBytes_mod (n v : Nat) : leBytes n (v % 256 ^ n) = leBytes n v := by
  induction n generalizing v with
  | zero => rfl
  | succ n ih =>
    have e : v % 256 ^ (n + 1) = v % 256 + 256 * (v / 256 % 256 ^ n) := by
      rw [show 256 ^ (n + 1) = 256 * 256 ^ n from Nat.pow_succ' .., Nat.mod_mul]
    have e2 : (v % 256 + 256 * (v / 256 % 256 ^ n)) / 256 = v / 256 % 256 ^ n := by omega
    simp only [leBytes, e, e2, ih]
    congr 1
    apply BitVec.eq_of_toNat_eq
    simp only [BitVec.toNat_ofNat]
    omega

theorem take_leBytes (m n v : Nat) (h : m ≤ n) : (leBytes n v).take m = leBytes m v := by
  obtain ⟨k, rfl⟩ := Nat.exists_eq_add_of_le h
  rw [leBytes_add, List.take_left' (leBytes_length m v)]

/-- The bytes of a number word by word. -/
theorem leBytes_flatMap (n v : Nat) :
    ((List.range n).flatMap fun i => leBytes 32 (v / 256 ^ (32 * i))) = leBytes (32 * n) v := by
  induction n with
  | zero => rfl
  | succ n ih => rw [List.range_succ, List.flatMap_append, ih, show 32 * (n + 1) = 32 * n + 32 by omega, leBytes_add]; simp

theorem writeCode_wf (a : Nat) (cw : BitVec 288) {m : List Host.Cell} (h : Memory.wf m) : Memory.wf (writeCode m a cw) :=
  memSetAll_wf _ h

/-- A code word read back. -/
theorem readCode_writeCode (a : Nat) (cw : BitVec 288) {m : List Host.Cell} (h : Memory.wf m) (ha : a + 32 ≤ 2 ^ 48) :
    readCode (writeCode m a cw) a = cw := by
  unfold readCode writeCode
  rw [map_memGet_memSetAll _ _ (wordKeys_nodup ha) (by rw [leBytes_length]; simp [wordKeys]) h, leNat_leBytes]
  apply BitVec.eq_of_toNat_eq
  have h36 : 256 ^ 36 = 2 ^ 288 := by decide
  rw [BitVec.toNat_ofNat, h36, Nat.mod_eq_of_lt cw.isLt, Nat.mod_eq_of_lt cw.isLt]

/-- A cell of no byte of a word keeps its value when the word is written. -/
theorem memGet_writeCode_ne (a : Nat) (cw : BitVec 288) {m : List Host.Cell} (h : Memory.wf m) (j : Nat)
    (hj : j ∉ wordKeys a) : memGet j (writeCode m a cw) = memGet j m :=
  memGet_memSetAll_ne _ h j fun x hx e => hj (e ▸ (List.of_mem_zip (a := x.1) (b := x.2) hx).1)

/-- Another word keeps its code word. -/
theorem readCode_writeCode_ne (a b : Nat) (cw : BitVec 288) {m : List Host.Cell} (h : Memory.wf m) (hne : a ≠ b)
    (ha : a % 32 = 0) (hb : b % 32 = 0) (ha48 : a < 2 ^ 48) (hb48 : b < 2 ^ 48) :
    readCode (writeCode m a cw) b = readCode m b := by
  unfold readCode
  have : (wordKeys b).map (fun k => memGet k (writeCode m a cw)) = (wordKeys b).map (fun k => memGet k m) := by
    refine List.map_congr_left fun k hk => memGet_writeCode_ne a cw h k fun hk' => ?_
    rw [mem_wordKeys] at hk hk'
    simp only [checkKey] at hk hk'
    omega
  rw [this]

theorem fillWords_wf (p : Nat → Bool) {m : List Host.Cell} (h : Memory.wf m) : Memory.wf (fillWords p m) :=
  ⟨h.1.sublist List.filter_sublist, fun x hx => h.2 x (List.mem_filter.mp hx).1⟩

/-- A cell after words were filled with the poison pattern. -/
theorem memGet_fillWords (p : Nat → Bool) (m : List Host.Cell) (k : Nat) :
    memGet k (fillWords p m) = if p (keyAddr k) then memDefault k else memGet k m := by
  unfold fillWords
  induction m with
  | nil => split <;> rfl
  | cons c t ih =>
    obtain ⟨a, b⟩ := c
    by_cases hp : p (keyAddr a)
    · simp only [List.filter_cons, hp, Bool.not_true, Bool.false_eq_true, if_false]
      rw [ih]
      by_cases hk : a = k
      · subst hk; simp [hp]
      · simp [memGet, hk]
    · simp only [List.filter_cons, hp, Bool.not_false, if_true, memGet, ih]
      by_cases hk : a = k
      · subst hk; simp [hp]
      · simp [hk]

theorem reset_mem_wf : Memory.wf State.reset.mem := by decide

/-! ### Reads -/

@[simp] theorem unitReady_countMc (s : State) (u v : MemUnit) (ev : Nat) : (s.countMc u ev).unitReady v = s.unitReady v := by
  rw [countMc_eq]; cases v <;> rfl

/-- An access error at a unit or outside memory changes no memory. -/
@[simp] theorem memError_mem (s : State) (req a : Nat) : (s.memError req a).mem = s.mem := by simp [State.memError]

/-- A read changes no memory. -/
theorem memRead_mem (s : State) (req a acc : Nat) : (s.memRead req a acc).2.mem = s.mem := by
  unfold State.memRead
  split
  · split <;> simp
  · split
    · simp only
      split
      · simp
      · simp only [State.countCorr]
        split
        · simp [State.countCorrected]; split <;> split <;> simp
        · split <;> simp [State.countCorrected] <;> split <;> split <;> simp
      · split <;> simp
      · simp
    · simp

/-- The read of a clean word at a unit that is ready (R117, R119). -/
theorem memRead_clean {s : State} {a : Nat} {u : MemUnit} {d : W256} (req acc : Nat) (hu : memUnit a = some u)
    (hr : s.unitReady u = true) (hd : decodeWord (readCode s.mem a) = .clean d) :
    s.memRead req a acc = (.ok d, s.countMc u 0x010) := by
  unfold State.memRead
  simp only [hu, hr, if_true, countMc_mem, hd]

/-- The reads of words that are clean, at units that are ready, give their bytes in order. -/
theorem readWords_clean (req start : Nat) (f : Nat → W256) (l : List Nat) (acc : List Byte) {s : State}
    (h : ∀ a ∈ l, decodeWord (readCode s.mem a) = .clean (f a) ∧ ∃ u, memUnit a = some u ∧ s.unitReady u = true) :
    (s.readWords req start l acc).1 = .ok (acc ++ l.flatMap fun a => leBytes 32 (f a).toNat) := by
  induction l generalizing acc s with
  | nil => simp [State.readWords]
  | cons a t ih =>
    obtain ⟨hd, u, hu, hr⟩ := h a (by simp)
    unfold State.readWords
    rw [memRead_clean req _ hu hr hd]
    simp only
    rw [ih]
    · simp
    · intro b hb
      obtain ⟨hd, v, hv, hr⟩ := h b (by simp [hb])
      exact ⟨by simpa using hd, v, hv, by simpa using hr⟩

/-- The words of an aligned range. -/
theorem wordsOf_aligned {a m n : Nat} (ha : a % 32 = 0) (h1 : m ≤ 32 * n) (h2 : 32 * n < m + 32) :
    wordsOf a m = (List.range n).map fun i => a + 32 * i := by
  unfold wordsOf
  by_cases hm : m = 0
  · rw [if_pos hm, show n = 0 by omega]; rfl
  · rw [if_neg hm, show (a + m - 1) / 32 - a / 32 + 1 = n by omega]
    apply List.map_congr_left
    intro i _
    omega

/-- The read of a range of words that are clean, at units that are ready. -/
theorem readRange_clean (req a n : Nat) (f : Nat → W256) {s : State}
    (h : ∀ w ∈ wordsOf a n, decodeWord (readCode s.mem w) = .clean (f w) ∧ ∃ u, memUnit w = some u ∧ s.unitReady u = true) :
    (s.readRange req a n).1 = .ok ((((wordsOf a n).flatMap fun w => leBytes 32 (f w).toNat).drop (a % 32)).take n) := by
  have hw := readWords_clean req a f (wordsOf a n) [] h
  unfold State.readRange
  generalize s.readWords req a (wordsOf a n) [] = x at hw ⊢
  obtain ⟨r, t⟩ := x
  cases hw
  simp

theorem readWords_mem (req start : Nat) (l : List Nat) (acc : List Byte) (s : State) :
    (s.readWords req start l acc).2.mem = s.mem := by
  induction l generalizing acc s with
  | nil => rfl
  | cons a t ih =>
    unfold State.readWords
    have hm := memRead_mem s req a (max a start)
    generalize s.memRead req a (max a start) = x at hm
    obtain ⟨r, u⟩ := x
    simp only at hm ⊢
    cases r with
    | ok d => exact (ih _ _).trans hm
    | poison b => exact hm
    | addrErr => exact hm

/-- Reading a range changes no memory. -/
theorem readRange_mem (s : State) (req a n : Nat) : (s.readRange req a n).2.mem = s.mem := by
  unfold State.readRange
  have hm := readWords_mem req a (wordsOf a n) [] s
  generalize s.readWords req a (wordsOf a n) [] = x at hm ⊢
  obtain ⟨r, t⟩ := x
  cases r <;> exact hm

/-! ### Writes -/

theorem storeWord_wf (s : State) (u : MemUnit) (a : Nat) (cw : BitVec 288) (h : Memory.wf s.mem) :
    Memory.wf (s.storeWord u a cw).mem := by
  unfold State.storeWord
  simp only
  split
  · simp only [fset_mem]; exact writeCode_wf a _ h
  · dsimp only
    exact writeCode_wf a cw h

/-- A whole-word write keeps the canonical form. -/
theorem memWrite_wf (s : State) (req a : Nat) (d : W256) (acc : Nat) (h : Memory.wf s.mem) :
    Memory.wf (s.memWrite req a d acc).2.mem := by
  unfold State.memWrite
  split
  · split <;> simpa using h
  · split
    · simpa using h
    · simp only [countMc_mem]; exact storeWord_wf _ _ _ _ h

/-- A partial write keeps the canonical form. -/
theorem memWritePart_wf (s : State) (req a : Nat) (m : BitVec 32) (d : W256) (acc : Nat) (h : Memory.wf s.mem) :
    Memory.wf (s.memWritePart req a m d acc).2.mem := by
  unfold State.memWritePart
  split
  · split <;> simpa using h
  · split
    · simpa using h
    · next u _ _ _ =>
      have hm := memRead_mem (s.countMc u 0x011) req a acc
      generalize (s.countMc u 0x011).memRead req a acc = x at hm
      obtain ⟨r, t⟩ := x
      have ht : Memory.wf t.mem := by simp only [countMc_mem] at hm; rw [hm]; exact h
      cases r with
      | ok old =>
        dsimp only
        exact writeCode_wf _ _ ht
      | poison b =>
        dsimp only
        exact writeCode_wf _ _ ht
      | addrErr => exact ht

theorem memWriteMask_wf (s : State) (req a : Nat) (m : BitVec 32) (d : W256) (acc : Nat) (h : Memory.wf s.mem) :
    Memory.wf (s.memWriteMask req a m d acc).2.mem := by
  unfold State.memWriteMask
  split
  · exact memWrite_wf _ _ _ _ _ h
  · exact memWritePart_wf _ _ _ _ _ _ h

theorem writeWords_wf (req a : Nat) (b : List Byte) (l : List Nat) (acc : WrBytes) (s : State) (h : Memory.wf s.mem) :
    Memory.wf (s.writeWords req a b l acc).2.mem := by
  induction l generalizing acc s with
  | nil => exact h
  | cons w t ih =>
    unfold State.writeWords
    have hm := memWriteMask_wf s req w (rangeMask w a b.length) (rangeData w a b) (max w a) h
    generalize s.memWriteMask req w (rangeMask w a b.length) (rangeData w a b) (max w a) = x at hm
    obtain ⟨r, u⟩ := x
    exact ih _ _ hm

/-- Writing a range keeps the canonical form. -/
theorem writeRange_wf (s : State) (req a : Nat) (b : List Byte) (h : Memory.wf s.mem) :
    Memory.wf (s.writeRange req a b).2.mem := writeWords_wf _ _ _ _ _ _ h

end Sys2Proof.Laws
end

