-- ==== Sys2Proof/Laws/Safety.lean ====
section
/-! SUPPORT. How `Sets` and `Posts` follow an operation: one field set, one event posted, anything that leaves
registers and events alone. -/

namespace Sys2Proof.Laws

open Sys2Proof.Machine Sys2Proof.Safety

theorem evSource_post (s : State) (src code : Nat) (items : List PItem) (x : Nat) :
    (s.post src code items).evSource x =
      if src = x then takeRecord (s.evSource x) s.time x code items else s.evSource x := by
  unfold State.post
  rw [evSource_fiCount, evSource_postRaw]
  by_cases h : src = x
  · subst h; simp [takeRecord, State.record, State.now]
  · have : ¬ x = src := fun e => h e.symm
    simp [h, this]

theorem takeRecord_length (e : EvSource) (tb : TimeBase) (src code : Nat) (items : List PItem) :
    (takeRecord e tb src code items).buf.length ≤ e.buf.length + 1 := by
  unfold takeRecord; split <;> simp

theorem foldl_take_length (x : Nat) (tb : TimeBase) (l : List Ev) (e : EvSource) :
    (l.foldl (fun e y => if y.src = x then takeRecord e tb x y.code y.items else e) e).buf.length ≤
      e.buf.length + l.length := by
  induction l generalizing e with
  | nil => simp
  | cons y l ih =>
    refine Nat.le_trans (ih _) ?_
    simp only [List.length_cons]
    split
    · have := takeRecord_length e tb x y.code y.items; omega
    · omega

/-- Nothing is posted where events and EVT_STAT stay as they were. -/
theorem posts_nil {s t : State} (he : t.events = s.events) (hr : t.reg .EVT_STAT 0 0 = s.reg .EVT_STAT 0 0) :
    Posts s t [] := by
  refine ⟨fun x => ?_, fun _ => hr⟩
  simp [State.evSource, he]

theorem posts_self (s : State) : Posts s s [] := posts_nil rfl rfl

/-- One more event. -/
theorem posts_post {s t : State} {l : List Ev} (h : Posts s t l) (src code : Nat) (items : List PItem) :
    Posts s (t.post src code items) (l ++ [⟨src, code, items⟩]) := by
  obtain ⟨h1, h2⟩ := h
  refine ⟨fun x => ?_, fun hb => ?_⟩
  · rw [evSource_post, List.foldl_append, ← post_time t src code items] 
    simp only [List.foldl_cons, List.foldl_nil]
    rw [post_time, ← h1 x]
  · have hs : (t.evSource src).buf.length < 16 := by
      rw [h1 src]
      have hm := hb ⟨src, code, items⟩ (by simp)
      have hl := foldl_take_length src t.time l (s.evSource src)
      simp at hm
      omega
    rw [reg_post_room _ _ _ _ hs, h2]
    intro x hx
    have := hb x (by simp [hx])
    simp at this
    omega

/-- A change that leaves events, EVT_STAT and the time alone. -/
theorem posts_after {s t u : State} {l : List Ev} (h : Posts s t l) (he : u.events = t.events) (ht : u.time = t.time)
    (hr : u.reg .EVT_STAT 0 0 = t.reg .EVT_STAT 0 0) : Posts s u l := by
  obtain ⟨h1, h2⟩ := h
  refine ⟨fun x => ?_, fun hb => by rw [hr, h2 hb]⟩
  have := h1 x
  simp only [State.evSource, he, ht] at *
  exact this

/-- A change before the first event that leaves events and EVT_STAT alone. -/
theorem posts_before {s t u : State} {l : List Ev} (h : Posts t u l) (he : t.events = s.events)
    (hr : t.reg .EVT_STAT 0 0 = s.reg .EVT_STAT 0 0) : Posts s u l := by
  obtain ⟨h1, h2⟩ := h
  have e : ∀ x, t.evSource x = s.evSource x := fun x => by simp [State.evSource, he]
  refine ⟨fun x => by rw [h1 x, e x], fun hb => ?_⟩
  rw [h2 (fun x hx => by rw [e]; exact hb x hx), hr]

/-- Registers that stay as they were. -/
theorem sets_nil {s t : State} (h : t.regs = s.regs) : Sets s t [] := fun r i k _ => reg_congr h r i k

/-- One more field set. -/
theorem sets_fset {s t : State} {l : List FieldSet} (h : Sets s t l) (f : Fld) (i k v : Nat) :
    Sets s (t.fset f i k v) (l ++ [⟨f, i, k, v⟩]) := by
  intro r i' k' hr
  simp only [List.foldl_append, List.foldl_cons, List.foldl_nil, reg_fset]
  rw [← h r i' k' hr]

/-- A post sets no other register. -/
theorem sets_post {s t : State} {l : List FieldSet} (h : Sets s t l) (src code : Nat) (items : List PItem) :
    Sets s (t.post src code items) l := by
  intro r i k hr
  rw [reg_post _ _ _ _ hr]; exact h r i k hr

/-- A change that leaves the registers alone. -/
theorem sets_after {s t u : State} {l : List FieldSet} (h : Sets s t l) (hr : u.regs = t.regs) : Sets s u l :=
  fun r i k hne => (reg_congr hr r i k).trans (h r i k hne)

end Sys2Proof.Laws
end

