-- ==== Sys2Proof/Laws/Rake.lean ====
section
/-! SUPPORT. What the operations on a rake do, said once: its registers read after a write, an instruction that changes registers of
its rake alone and advances (chapter 3). -/

namespace Sys2Proof.Laws

open Sys2Proof.Machine Sys2Proof.Safety

/-- A rake read after a rake was changed. -/
theorem rake_setRake_same (s : State) (n : Nat) (r : Rake) : (s.setRake n r).rake n = r := by
  simp [State.rake, State.setRake]

theorem rake_setRake_ne (s : State) {m n : Nat} (h : m ≠ n) (r : Rake) : (s.setRake n r).rake m = s.rake m := by
  simp [State.rake, State.setRake, getD_set_ne h]

/-- Counting changes no rake. -/
theorem pmuAdd_rake (s : State) (set ev : Nat) (l : List Nat) (n pc k : Nat) :
    (s.pmuAdd set ev l n pc).rake k = s.rake k := by
  unfold State.pmuAdd; split <;> rfl

/-- An issued instruction counts, and may be tagged; it changes nothing else. -/
theorem issued_eq (s0 s : State) (rk : Nat) (ran : Bool) (addr : Nat) :
    s0.issued s rk ran addr = { s with pmu := (s0.issued s rk ran addr).pmu, tags := (s0.issued s rk ran addr).tags } := by
  unfold State.issued
  simp only
  split
  · split
    · rw [pmuAdd_eq]
    · rw [pmuAdd_eq, pmuAdd_eq]
  · split
    · rw [pmuAdd_eq]
    · rw [pmuAdd_eq, pmuAdd_eq]

theorem issued_rake (s0 s : State) (rk : Nat) (ran : Bool) (addr k : Nat) :
    (s0.issued s rk ran addr).rake k = s.rake k := by
  rw [issued_eq]; rfl

/-- The program counter advances by 4. -/
theorem advance_eq (s : State) (rk : Nat) (h : (s.rake rk).pc < 0xFFFC) :
    s.advance rk = s.setRake rk { s.rake rk with pc := (s.rake rk).pc + 4 } := by
  unfold State.advance
  have : (s.rake rk).pc ≠ 0xFFFC := by omega
  simp [this]

/-- What an instruction that changes registers of its rake alone does. -/
theorem compute_spec (s : State) (rk : Nat) (pg : BitVec 3) (pn legal : Bool) (f : Rake → Rake)
    (h : Issues s rk pg pn) (hl : legal = true) (hf : (f (s.rake rk)).pc = (s.rake rk).pc) :
    ∃ t, s.issue rk pg pn legal (fun s => s.compute rk f) = .next t ∧ RakeOnly rk s t ∧
      t.rake rk = { f (s.rake rk) with pc := (s.rake rk).pc + 4 } := by
  obtain ⟨h1, h2, h3, h4, h5⟩ := h
  subst hl
  refine ⟨s.issued (s.compute rk f) rk true 0, ?_, ?_, ?_⟩
  · simp [State.issue, State.need, h1, h2, h3, Rake.guard, h4]
  · have hc : s.compute rk f = (s.setRake rk (f (s.rake rk))).setRake rk { f (s.rake rk) with pc := (s.rake rk).pc + 4 } := by
      unfold State.compute
      rw [advance_eq _ _ (by rw [rake_setRake_same, hf]; exact h5), rake_setRake_same, hf]
    constructor
    · rw [issued_eq, hc]; rfl
    · intro n hn
      rw [issued_rake, hc, rake_setRake_ne _ hn, rake_setRake_ne _ hn]
  · rw [issued_rake]
    unfold State.compute
    rw [advance_eq _ _ (by rw [rake_setRake_same, hf]; exact h5), rake_setRake_same, rake_setRake_same, hf]

/-- A scalar register read after a write: register 0 reads 0 and takes no write. -/
theorem getG_setG (r : Rake) (rd j : BitVec 5) (v : W64) :
    (r.setG rd v).getG j = if j = rd ∧ j ≠ 0 then v else r.getG j := by
  unfold Rake.setG Rake.getG
  by_cases hj : j = 0
  · simp [hj]
  · by_cases hr : rd = 0
    · have : ¬ j = rd := fun e => hj (e.trans hr)
      simp [hj, hr]
    · simp only [hj, hr, if_false]
      by_cases e : j = rd
      · subst e; have hj' : ¬ j = 0#5 := hj; simp [hj']
      · have : rd.toNat ≠ j.toNat := fun h => e (BitVec.eq_of_toNat_eq h.symm)
        simp [e, Vector.getElem_set_ne, this]

/-- A predicate read after a write: predicate 0 does not change. -/
theorem getP_setP (r : Rake) (rd j : BitVec 3) (v : Bool) :
    (r.setP rd v).getP j = if j = rd ∧ j ≠ 0 then v else r.getP j := by
  unfold Rake.setP Rake.getP
  by_cases hj : j = 0
  · simp [hj]
  · by_cases hr : rd = 0
    · have : ¬ j = rd := fun e => hj (e.trans hr)
      simp [hj, hr]
    · simp only [hj, hr, if_false]
      by_cases e : j = rd
      · subst e; have hj' : ¬ j = 0#3 := hj; simp [hj']
      · have : rd.toNat ≠ j.toNat := fun h => e (BitVec.eq_of_toNat_eq h.symm)
        simp [e, Vector.getElem_set_ne, this]

/-- A vector register read after a write. -/
theorem getW_setW (r : Rake) (rd j : BitVec 4) (v : W256) :
    (r.setW rd v).getW j = if j = rd then v else r.getW j := by
  unfold Rake.setW Rake.getW
  by_cases e : j = rd
  · subst e; simp
  · have : rd.toNat ≠ j.toNat := fun h => e (BitVec.eq_of_toNat_eq h.symm)
    simp [e, Vector.getElem_set_ne, this]

/-- What an instruction that writes one scalar register does. -/
theorem issueG_spec {i : Instr} {s : State} {rk : Nat} {pg : BitVec 3} {pn legal : Bool} {rd : BitVec 5} {f : Rake → W64} {v : W64}
    (h : Issues s rk pg pn) (hl : legal = true) (he : exec i s = s.issueG rk pg pn legal rd f) (hv : f (s.rake rk) = v) :
    WritesG i s rk rd v := by
  subst hv
  obtain ⟨t, a, b, c⟩ := compute_spec s rk pg pn legal (fun r => r.setG rd (f r)) h hl (by unfold Rake.setG; split <;> rfl)
  refine ⟨t, by rw [he]; exact a, b, ?_, ?_⟩
  · rw [c]; unfold Rake.setG; split <;> rfl
  · intro j
    have : (t.rake rk).getG j = ((s.rake rk).setG rd (f (s.rake rk))).getG j := by rw [c]; rfl
    rw [this, getG_setG]

/-- What an instruction that writes one predicate does. -/
theorem issueP_spec {i : Instr} {s : State} {rk : Nat} {pg : BitVec 3} {pn : Bool} {rd : BitVec 3} {f : Rake → Bool} {v : Bool}
    (h : Issues s rk pg pn) (he : exec i s = s.issueP rk pg pn rd f) (hv : f (s.rake rk) = v) :
    WritesP i s rk rd v := by
  subst hv
  obtain ⟨t, a, b, c⟩ := compute_spec s rk pg pn true (fun r => r.setP rd (f r)) h rfl (by unfold Rake.setP; split <;> rfl)
  refine ⟨t, by rw [he]; exact a, b, ?_, ?_⟩
  · rw [c]; unfold Rake.setP; split <;> rfl
  · intro j
    have : (t.rake rk).getP j = ((s.rake rk).setP rd (f (s.rake rk))).getP j := by rw [c]; rfl
    rw [this, getP_setP]

/-- What an instruction that writes one vector register does. -/
theorem issueW_spec {i : Instr} {s : State} {rk : Nat} {pg : BitVec 3} {pn legal : Bool} {rd : BitVec 4} {f : Rake → W256} {v : W256}
    (h : Issues s rk pg pn) (hl : legal = true) (he : exec i s = s.issueW rk pg pn legal rd f) (hv : f (s.rake rk) = v) :
    WritesW i s rk rd v := by
  subst hv
  obtain ⟨t, a, b, c⟩ := compute_spec s rk pg pn legal (fun r => r.setW rd (f r)) h hl rfl
  refine ⟨t, by rw [he]; exact a, b, ?_, ?_⟩
  · rw [c]; rfl
  · intro j
    have : (t.rake rk).getW j = ((s.rake rk).setW rd (f (s.rake rk))).getW j := by rw [c]; rfl
    rw [this, getW_setW]

end Sys2Proof.Laws
end

