-- ==== Sys2Proof/Tests/Slice0.lean ====
section
/-! SUPPORT. Tests: ill-formed terms that the checks refuse; words written out bit by bit from the spec's encodings; published
check values; and for every statement with hypotheses a witness, concrete states and operands that meet the hypotheses of each
of its clauses. -/

set_option maxRecDepth 10000
set_option exponentiation.threshold 4096

namespace Sys2Proof.Tests

open Sys2Proof.Machine Sys2Proof.Safety Sys2Proof.Laws

-- One theorem after another: elaborated side by side they take a thread each, and memory with it.
set_option Elab.async false

/-! ### Well-formedness (WellFormed.lean) -/

theorem test_wf_guard : ([.nop 0 0 true, .add 0 0 true 1 2 3, .srd 0 0 true 1 0] : List Instr).all (fun i => !i.wf) = true ∧
    (Instr.nop 0 1 true).wf = true := by decide
theorem test_wf_rake : ([.nop 104 0 false, .add 104 0 false 1 2 3, .tend 104 0 false] : List Instr).all (fun i => !i.wf) = true ∧
    (Instr.nop 103 0 false).wf = true := by decide
theorem test_wf_zero_word : (Instr.add 0 0 false 0 0 0).wf = false ∧ (Instr.add 0 1 false 0 0 0).wf = true ∧
    (Instr.add 0 0 false 0 0 1).wf = true := by decide
theorem test_wf_signed_dword : (Instr.ld 0 0 false 1 2 false 3 true 0).wf = false ∧
    (Instr.ld 0 0 false 1 2 false 3 false 0).wf = true ∧ (Instr.ld 0 0 false 1 2 false 2 true 0).wf = true := by decide
theorem test_wf_lane : ([.vins 0 0 false 1 2 16 1, .vext 0 0 false 1 2 8 2, .vexts 0 0 false 1 2 4 3] : List Instr).all
      (fun i => !i.wf) = true ∧
    ([.vins 0 0 false 1 2 31 0, .vext 0 0 false 1 2 15 1, .vexts 0 0 false 1 2 3 3] : List Instr).all Instr.wf = true := by
  decide
theorem test_wf_system_register : ([.srd 0 0 false 1 0x005, .srd 0 0 false 1 0x021, .swr 0 0 false 1 0] : List Instr).all
      (fun i => !i.wf) = true ∧ (Instr.srd 0 0 false 1 0x020).wf = true := by decide
theorem test_wf_register_window : ([.registerWrite 0 0x002FFFFFFFFC 0, .registerWrite 0 0x003017000000 0,
      .unalignedAccess 0 0 false, .unimplementedAccess 0 0 false, .readClear 0 0, .pairLoRead 0 0, .pairHiRead 0 0,
      .pairLoWrite 0 0 0, .pairHiWrite 0 0 0] : List Instr).all (fun i => !i.wf) = true ∧
    (Instr.registerWrite 0 0x003000000000 0).wf = true ∧ (Instr.registerWrite 0 0x003016FFFFFC 0).wf = true := by decide
theorem test_wf_word_address : ([.memoryRead 0 16, .memoryRead 0 (2 ^ 48), .partialWrite 0 8 0 0, .wholeWordWrite 0 31 0,
      .accessTimeout 0 1 false, .dbgAp (2 ^ 48) false 0] : List Instr).all (fun i => !i.wf) = true ∧
    (Instr.memoryRead 0 (2 ^ 48 - 32)).wf = true := by decide
theorem test_wf_memory_unit : ([.injArm 0 true 146 0, .injArm 0 false 16 0, .bucketLeak true 146, .bucketLeak false 16,
      .eccCfgWrite 0 true 146 0, .eccCfgWrite 0 false 16 0] : List Instr).all (fun i => !i.wf) = true ∧
    ([.injArm 0 true 145 0, .bucketLeak false 15] : List Instr).all Instr.wf = true := by decide
theorem test_wf_bar : ([.barRead 65 0 0 4, .barRead 0 1 0 4, .barRead 0 0 (2 ^ 29 - 2) 4, .barRead 0 2 (2 ^ 35) 4,
      .barRead 0 4 (2 ^ 28) 4, .barRead 1 4 0 4, .barRead 1 0 (2 ^ 16) 4, .barRead 1 2 (2 ^ 30) 4, .barRead 0 0 0 0,
      .barRead 0 0 0 33, .barWrite 65 0 0 4 0 false] : List Instr).all (fun i => !i.wf) = true ∧
    ([.barRead 64 0 (2 ^ 16 - 4) 4, .barRead 0 2 (2 ^ 35 - 32) 32] : List Instr).all Instr.wf = true := by decide
theorem test_wf_token : ([.token 5 0x10000 0, .token 5 0x20000 0, .token 5 0x100000000 0, .armRequest 5 0x4000 0,
      .armRequest 5 0 0x50000000, .armRequest 5 0 0x80000000000000, .armRequest 5 0 0xC1000000000, .cancelRequest 5 0x4000,
      .cancelRequest 5 0x100000000] : List Instr).all (fun i => !i.wf) = true ∧
    ([.token 5 0xFF00FFFF 7, .armRequest 5 0x3FFF 0xBF040000000, .cancelRequest 5 0xFF003FFF] : List Instr).all Instr.wf = true := by
  decide
theorem test_wf_function : ([.vfFlr 0, .vfFlr 65, .doorbell 65 0, .doorbellDeliver 65, .msixHoldExpiry 65 0 false,
      .msixHoldExpiry 0 32 false, .msixHoldExpiry 1 1 false, .hostLinkChange 6 16 0, .hostLinkChange 5 17 0,
      .hostLinkChange 5 16 65, .ringEnable 65 0 0] : List Instr).all (fun i => !i.wf) = true ∧
    ([.vfFlr 64, .msixHoldExpiry 64 0 false, .msixHoldExpiry 0 31 false, .hostLinkChange 5 16 64] : List Instr).all Instr.wf = true := by
  decide
theorem test_wf_power_domain : (Instr.powerTransitionDone 148).wf = false ∧ (Instr.powerTransitionDone 147).wf = true ∧
    (Instr.feedLost 6 false).wf = false ∧ (Instr.feedGood 7).wf = false ∧ (Instr.feedGood 6).wf = true := by decide

theorem test_no_such_unit_1 : ([
    .illegalInstruction 104 0, .deviceLoadReturn 104, .storeFault 104, .taskCommit 104, .outboxDelivery 96,
    .watchdogFault 104, .selfCheckFailure 104 false, .imageLoadComplete 104, .positionLoadFailed 104 0,
    .resume 0 104 0, .flowRelease 1024, .flowSkip 1024, .bankFillComplete 146, .bankWakeComplete 146,
    .mcEnable 0 16 0, .mcInitComplete 16, .mcIntervalStart 16 0, .caParityError 16, .mcHalfWrite 0 16 0,
    .mcCalWrite 0 16 false 0, .rowPlan 64, .rowStart 16, .ctuEncode 64, .referenceFetchReturn 64,
    .inputRowRead 64, .rowCommit 64, .abandonPoint 64, .activate 16 0, .modify 16 0, .panStop 16 0, .picture 64 0,
    .rate 64 0, .pictureLate 64, .sluOpen 4 0 0, .sluOpen 0 8 0, .sluDecode 4 0 0, .sluDecode 0 8 0,
    .sluFlush 4 0 0, .sluFlush 0 8 0, .sluClose 4 0 0, .sluClose 0 8 0, .pictureOutput 4 0, .pictureOutput 0 8,
    .stageOut 8 0 0, .stageOut 0 8 0] : List Instr).all (fun i => !i.wf) = true := by decide

theorem test_no_such_unit_2 : ([
    .stageLayer 8 0 0, .stageLayer 0 8 0, .stageSig 8 0 0, .stageSig 0 8 0, .cmpCommit 8 0 0, .cmpCommit 0 8 0,
    .loadColour 8 0 0, .loadColour 0 8 0, .cmpPresent 8 0 0, .cmpPresent 0 8 0, .cmpBand 8 0 0, .cmpBand 0 8 0,
    .setTiming 4 0, .setPlane 4 0, .headStop 4 0, .headPresent 4 0, .frameBoundary 4, .activeLine 4,
    .scanFetchReturn 4 0, .scanFetchReturn 0 4, .scanLate 4 0, .scanLate 0 4, .teEdge 4 false, .teTimeout 4,
    .frameReceived 8 0 [] 0, .frameReceived 0 4 [] 0, .bandTimeout 1024 false, .ethLinkChange 8 0 false,
    .ethLinkChange 0 4 false, .ethModeWrite 0 8 0, .txRelease 8 0, .txRelease 0 512, .packetStart 8 0,
    .packetStart 0 4, .txPoisonAbort 8 0, .txPoisonAbort 0 4, .openQ 0 8 0, .closeQ 0 8 0, .gate 0 8 0,
    .srtpLoad 0 8 0, .gateListStart 8, .gateEntryChange 8, .queueSample 8, .txtsRead 0 8, .toutEnable 0 8 0] : List Instr).all (fun i => !i.wf) = true := by decide

theorem test_no_such_unit_3 : ([
    .toutEdge 8, .toutPulseEnd 8, .audioFrame 16 ⟨true, 0, []⟩, .audioLockLoss 16, .captureEnable 0 16 0,
    .captureDisable 0 16 0, .maskWrite 0 16 0, .playoutEnable 0 16 0, .playoutFrame 16, .dmaPcmd 32 0,
    .dmaSubmit 0 32 0, .dmaSubmitRead 32, .dmaStart 32, .dmaBeatDone 32, .dmaComplete 32, .dmaPaused 32,
    .dmaResumed 32, .dmaEnable 0 32 0, .dmaDisable 0 32 0, .laneModeWrite 0 16 0, .laneReady 16,
    .laneLock 16 0 false 0, .laneLock 0 4 false 0, .laneFirWrite 0 16 0 0, .laneFirWrite 0 0 4 0,
    .laneSleepWrite 0 16 0 0, .laneSleepWrite 0 0 4 0, .sdiCaptureEnable 0 13 0, .sdiCaptureEnable 0 16 0,
    .sdiCaptureDisable 0 13 0, .sdiCaptureDisable 0 16 0, .sdiLockAcquired 14 4 0, .sdiLockAcquired 13 0 0,
    .sdiLockAcquired 16 0 0, .sdiLockLoss 14 4 0, .sdiLockLoss 13 0 0, .sdiLockLoss 16 0 0,
    .sdiFrameStart 14 4 0 0, .sdiFrameStart 13 0 0 0, .sdiFrameStart 16 0 0 0, .sdiBandClose 14 4 [],
    .sdiBandClose 13 0 [], .sdiBandClose 16 0 [], .sdiRepeat 14 4, .sdiRepeat 13 0] : List Instr).all (fun i => !i.wf) = true := by decide

theorem test_no_such_unit_4 : ([
    .sdiRepeat 16 0, .msixHoldExpiry 65 0 false, .msixHoldExpiry 0 32 false, .chkEnable 0 32 0,
    .chkDisable 0 32 0, .chkBlockStart 32, .chkBlockEnd 32, .dbgAp 281474976710656 false 0, .tagEnable 0 104 0,
    .tagRecord 104 false, .doorbell 65 0, .doorbellDeliver 65, .vfFlr 65, .hostLinkChange 6 0 0,
    .hostLinkChange 0 17 0, .hostLinkChange 0 0 65, .ringEnable 65 0 0, .feedLost 6 false, .feedGood 7,
    .powerTransitionDone 148, .laneWakeComplete 16 0 false, .laneWakeComplete 0 4 false,
    .prbs31CheckerLock 16 0 [], .prbs31CheckerLock 0 4 []] : List Instr).all (fun i => !i.wf) = true := by decide

theorem test_last_unit_1 : ([
    .illegalInstruction 103 0, .deviceLoadReturn 103, .storeFault 103, .taskCommit 103, .outboxDelivery 95,
    .watchdogFault 103, .selfCheckFailure 103 false, .imageLoadComplete 103, .positionLoadFailed 103 0,
    .resume 0 103 0, .flowRelease 1023, .flowSkip 1023, .bankFillComplete 145, .bankWakeComplete 145,
    .mcEnable 0 15 0, .mcInitComplete 15, .mcIntervalStart 15 0, .caParityError 15, .mcHalfWrite 0 15 0,
    .mcCalWrite 0 15 false 0, .rowPlan 63, .rowStart 15, .ctuEncode 63, .referenceFetchReturn 63,
    .inputRowRead 63, .rowCommit 63, .abandonPoint 63, .activate 15 0, .modify 15 0, .panStop 15 0, .picture 63 0,
    .rate 63 0, .pictureLate 63, .sluOpen 3 7 0, .sluDecode 3 7 0, .sluFlush 3 7 0, .sluClose 3 7 0,
    .pictureOutput 3 7, .stageOut 7 7 0, .stageLayer 7 7 0, .stageSig 7 7 0, .cmpCommit 7 7 0, .loadColour 7 7 0,
    .cmpPresent 7 7 0, .cmpBand 7 7 0] : List Instr).all Instr.wf = true := by decide

theorem test_last_unit_2 : ([
    .setTiming 3 0, .setPlane 3 0, .headStop 3 0, .headPresent 3 0, .frameBoundary 3, .activeLine 3,
    .scanFetchReturn 3 3, .scanLate 3 3, .teEdge 3 false, .teTimeout 3, .frameReceived 7 3 [] 0,
    .bandTimeout 1023 false, .ethLinkChange 7 3 false, .ethModeWrite 0 7 0, .txRelease 7 511, .packetStart 7 3,
    .txPoisonAbort 7 3, .openQ 0 7 0, .closeQ 0 7 0, .gate 0 7 0, .srtpLoad 0 7 0, .gateListStart 7,
    .gateEntryChange 7, .queueSample 7, .txtsRead 0 7, .toutEnable 0 7 0, .toutEdge 7, .toutPulseEnd 7,
    .audioFrame 15 ⟨true, 0, []⟩, .audioLockLoss 15, .captureEnable 0 15 0, .captureDisable 0 15 0,
    .maskWrite 0 15 0, .playoutEnable 0 15 0, .playoutFrame 15, .dmaPcmd 31 0, .dmaSubmit 0 31 0,
    .dmaSubmitRead 31, .dmaStart 31, .dmaBeatDone 31, .dmaComplete 31, .dmaPaused 31, .dmaResumed 31,
    .dmaEnable 0 31 0, .dmaDisable 0 31 0] : List Instr).all Instr.wf = true := by decide

theorem test_last_unit_3 : ([
    .laneModeWrite 0 15 0, .laneReady 15, .laneLock 15 3 false 0, .laneFirWrite 0 15 3 0,
    .laneSleepWrite 0 15 3 0, .sdiCaptureEnable 0 15 0, .sdiCaptureDisable 0 15 0, .sdiLockAcquired 15 3 0,
    .sdiLockLoss 15 3 0, .sdiFrameStart 15 3 0 0, .sdiBandClose 15 3 [], .sdiRepeat 15 3, .chkEnable 0 31 0,
    .chkDisable 0 31 0, .chkBlockStart 31, .chkBlockEnd 31, .dbgAp 281474976710655 false 0, .tagEnable 0 103 0,
    .tagRecord 103 false, .doorbell 64 0, .doorbellDeliver 64, .hostLinkChange 5 16 64, .ringEnable 64 0 0,
    .feedLost 5 false, .feedGood 6, .powerTransitionDone 147, .laneWakeComplete 15 3 false,
    .prbs31CheckerLock 15 3 []] : List Instr).all Instr.wf = true := by decide

/-! ### States for the witnesses -/

/-- Every controller in RUN, every bank ON; nothing written. -/
def up : State :=
  { State.reset with banks := (List.range 146).map (·, .on), mcs := (List.range 16).map (·, ({ st := .run } : Mc)) }

/-- A rake that runs a task of slot 5 at position 0. -/
def running : Rake := { ({} : Rake) with st := .run, pos := some 0, task := some ⟨5, 0, 0, 0, 0, 0⟩ }

def onRake (r : Rake) : State :=
  { up with rakes := [(0, r)], tally := { slots := [(5, ({ st := .run } : Slot))] } }

/-- The state with a data word written. -/
def withWord (s : State) (a : Nat) (d : W256) : State := { s with mem := writeCode s.mem a (encodeWord d) }

/-! ### Glidel words, each written out from its format (table ISA-4) -/

-- OP PG PN rd ra rb fn
theorem test_word_scalar : decodeGlidel 7 0b000000_000_0_00011_00001_00010_0000001 = some (.sub 7 0 false 3 1 2) ∧
    decodeGlidel 7 0b000000_011_1_00011_00001_00000_0001111 = some (.bswap 7 3 true 3 1) ∧
    decodeGlidel 7 0b000000_000_0_00011_00001_00001_0001111 = none := by decide
theorem test_word_jump : decodeGlidel 7 0b010110_000_0_00000_11111_00000_0000000 = some (.jr 7 0 false 31) ∧
    decodeGlidel 7 0b010110_000_0_00101_11111_00000_0000001 = some (.jalr 7 0 false 5 31) ∧
    decodeGlidel 7 0b010110_000_0_00001_11111_00000_0000000 = none := by decide
theorem test_word_predicate : decodeGlidel 7 0b000001_000_0_00111_00001_00010_0000100 = some (.cmpltu 7 0 false 7 1 2) ∧
    decodeGlidel 7 0b000001_000_0_00111_00001_00010_0001011 = some (.pandn 7 0 false 7 1 2) ∧
    decodeGlidel 7 0b000001_000_0_01111_00001_00010_0000100 = none ∧
    decodeGlidel 7 0b000001_000_0_00111_00001_00010_0000110 = none := by decide
theorem test_word_multiply : decodeGlidel 7 0b000010_000_0_00011_00001_00010_0000111 = some (.rems 7 0 false 3 1 2) ∧
    decodeGlidel 7 0b000010_000_0_00011_00001_00010_0000011 = none := by decide
-- OP PG PN rd ra imm12
theorem test_word_immediate : decodeGlidel 7 0b000100_000_0_00011_00001_111111111111 = some (.addi 7 0 false 3 1 0xFFF) ∧
    decodeGlidel 7 0b001010_000_0_00011_00001_000000111111 = some (.srai 7 0 false 3 1 63) ∧
    decodeGlidel 7 0b001010_000_0_00011_00001_000001000000 = none ∧
    decodeGlidel 7 0b001101_000_0_00011_00001_100000000000 = some (.cmpltui 7 0 false 3 1 0x800) := by decide
-- OP PG PN rd K imm16
theorem test_word_wide_immediate : decodeGlidel 7 0b010011_000_0_00011_0_1000000000000001 = some (.imh 7 0 false 3 3 0x8001) ∧
    decodeGlidel 7 0b010001_000_0_00011_1_1000000000000001 = some (.orh 7 0 false 3 1 0x8001) := by decide
-- OP PG PN off22
theorem test_word_branch : decodeGlidel 7 0b010100_010_1_1111111111111111111111 = some (.br 7 2 true 0x3FFFFF) ∧
    decodeGlidel 7 0b010101_000_0_0000000000000000000001 = some (.call 7 0 false 1) := by decide
-- OP PG PN rd ra SP SZ SX off8
theorem test_word_memory : decodeGlidel 7 0b011000_000_0_00011_00001_1_10_1_11111111 = some (.ld 7 0 false 3 1 true 2 true 0xFF) ∧
    decodeGlidel 7 0b011001_000_0_00011_00001_0_11_0_00000001 = some (.st 7 0 false 3 1 false 3 1) ∧
    decodeGlidel 7 0b011010_000_0_01111_00001_0_00_0_00000001 = some (.ldv 7 0 false 15 1 false 1) ∧
    decodeGlidel 7 0b011011_000_0_01111_00001_1_00_0_00000001 = some (.stv 7 0 false 15 1 true 1) ∧
    decodeGlidel 7 0b011000_000_0_00011_00001_1_11_1_11111111 = none ∧
    decodeGlidel 7 0b011001_000_0_00011_00001_0_00_1_00000001 = none ∧
    decodeGlidel 7 0b011011_000_0_10000_00001_1_00_0_00000001 = none := by decide
theorem test_word_atomic : decodeGlidel 7 0b011100_000_0_00011_00001_00010_1000010 = some (.acas 7 0 false 3 1 2 true) ∧
    decodeGlidel 7 0b011100_000_0_00011_00001_00010_0000110 = some (.aminu 7 0 false 3 1 2 false) ∧
    decodeGlidel 7 0b011100_000_0_00011_00001_00010_0000111 = none ∧
    decodeGlidel 7 0b011100_000_0_00011_00001_00010_0001000 = none := by decide
-- OP PG PN wd wa wb LT fn
theorem test_word_vector : decodeGlidel 7 0b100000_000_0_0011_0001_0010_11_00101010 = some (.vsra 7 0 false 3 1 2 3) ∧
    decodeGlidel 7 0b100000_000_0_0011_0001_0010_00_00110000 = some (.vperm 7 0 false 3 1 2) ∧
    decodeGlidel 7 0b100000_000_0_0011_0001_0010_01_00110000 = none ∧
    decodeGlidel 7 0b100000_000_0_0011_0001_0010_00_00000111 = none := by decide
theorem test_word_vector_move : decodeGlidel 7 0b100001_000_0_00011_00001_01111_0000101 = some (.vins 7 0 false 3 1 15 1) ∧
    decodeGlidel 7 0b100001_000_0_00011_00001_00011_0001111 = some (.vexts 7 0 false 3 1 3 3) ∧
    decodeGlidel 7 0b100001_000_0_00011_00001_00100_0001111 = none := by decide
theorem test_word_token : decodeGlidel 7 0b101000_000_0_00011_00001_00010_0000001 = some (.tdelay 7 0 false 3 1 2) ∧
    decodeGlidel 7 0b101000_000_0_00000_00001_00010_0000101 = some (.evpost 7 0 false 1 2) ∧
    decodeGlidel 7 0b101000_000_0_00000_00000_00000_0010000 = some (.tend 7 0 false) ∧
    decodeGlidel 7 0b101100_000_0_00000_00001_00010_0000000 = some (.pcmd 7 0 false 1 2) ∧
    decodeGlidel 7 0b101000_000_0_00001_00001_00010_0000000 = none := by decide
theorem test_word_system : decodeGlidel 7 0b110000_000_0_00000_00000_00000_0000010 = some (.brk 7 0 false) ∧
    decodeGlidel 7 0b110001_000_0_00011_00000_000000010001 = some (.srd 7 0 false 3 0x011) ∧
    decodeGlidel 7 0b110010_000_0_00000_00011_000000010001 = none ∧ decodeGlidel 7 0 = none ∧
    decodeGlidel 7 0b110000_000_1_00000_00000_00000_0000000 = none := by decide

/-! ### Check values of the polynomials (table INT-6) over the ASCII string 123456789 -/

def digits : List Byte := [0x31, 0x32, 0x33, 0x34, 0x35, 0x36, 0x37, 0x38, 0x39]

theorem test_check_values : crc crc32c digits = 0xE3069283 ∧ crc crc32 digits = 0xCBF43926 ∧ crc crc16 digits = 0x29B1 ∧
    crc crc64 digits = 0x6C40DF5F0B497347 := by decide

/-! ### Rakes -/

theorem test_meets_ScalarResults : Issues (onRake running) 0 0 false ∧
    ((0 : BitVec 3), (1 : BitVec 5), (2 : BitVec 5), (3 : BitVec 5)) ≠ (0, 0, 0, 0) ∧
    (64 ≤ 64 ∧ ∀ i, i < 64 → 64 - 64 ≤ i → ((onRake running).rake 0 |>.getG 1).getLsbD i = false) ∧
    (let a := ((onRake (running.setG 1 1)).rake 0).getG 1
     (∀ i, i < 64 → 64 - 63 ≤ i → a.getLsbD i = false) ∧ a.getLsbD (63 - 63) = true) ∧
    (let a := ((onRake (running.setG 1 0x0102030405060708)).rake 0).getG 1
     ∀ i, i < 8 → (0x0807060504030201 : W64).extractLsb' (8 * i) 8 = a.extractLsb' (56 - 8 * i) 8) := by
  simp only [Issues]; decide

theorem test_meets_PredicateMultiplyDivideResults : Issues (onRake running) 0 0 false ∧
    (∀ i, i < 64 → (1 : W64).getLsbD i = (decide (i < 8) && ((onRake running).rake 0).getP (BitVec.ofNat 3 i))) ∧
    ((onRake running).rake 0).getG 2 = 0 ∧
    (let r := (onRake ((running.setG 1 (-7)).setG 2 2)).rake 0
     r.getG 2 ≠ 0 ∧ (r.getG 1).toInt = (-3) * (r.getG 2).toInt + (-1) ∧ (-1 : Int).natAbs < (r.getG 2).toInt.natAbs ∧
        ((-1 : Int) ≠ 0 → (-1 : Int).sign = (r.getG 1).toInt.sign)) ∧
    (let r := (onRake ((running.setG 1 (BitVec.ofNat 64 (2 ^ 63))).setG 2 (-1))).rake 0
     (r.getG 1).toInt = -2 ^ 63 ∧ (r.getG 2).toInt = -1) := by
  simp only [Issues]; decide

theorem test_meets_VectorLaneResults : Issues (onRake running) 0 0 false ∧
    (let r := (onRake ((running.setW 1 (BitVec.allOnes 256)).setW 2 (BitVec.ofNat 256 2))).rake 0
     LanesAre ((BitVec.allOnes 248) ++ (1 : BitVec 8)) 0 (fun b j =>
        BitVec.ofNat b (((r.getW 1).extractLsb' (b * j) b).toNat + ((r.getW 2).extractLsb' (b * j) b).toNat)) ∧
      LanesAre (BitVec.ofNat 256 0) 3 (fun b j =>
        if (r.getW 1).extractLsb' (b * j) b = (r.getW 2).extractLsb' (b * j) b then BitVec.allOnes b else 0)) := by
  simp only [Issues, LanesAre]; decide

theorem test_meets_VectorWholeAndMoveResults : Issues (onRake running) 0 0 false ∧
    (31 : BitVec 5).toNat < 256 / (8 * 2 ^ (0 : BitVec 2).toNat) ∧ (3 : BitVec 5).toNat < 256 / (8 * 2 ^ (3 : BitVec 2).toNat) ∧
    (let r := (onRake ((running.setW 1 (BitVec.ofNat 256 0x55)).setW 2 (BitVec.ofNat 256 0x8000))).rake 0
     LanesAre (0x5555555555555555555555555555555555555555555555555555555555550055 : W256) 0
        (fun b j => let y := ((r.getW 2).extractLsb' (8 * j) 8).toNat
          if 128 ≤ y then 0 else BitVec.ofNat b ((r.getW 1).extractLsb' (8 * (y % 32)) 8).toNat)) ∧
    LanesAre ((7 : BitVec 64) ++ (7 : BitVec 64) ++ (7 : BitVec 64) ++ (7 : BitVec 64)) 3 (fun b _ =>
      BitVec.ofNat b (((onRake (running.setG 1 7)).rake 0).getG 1).toNat) := by
  simp only [Issues, LanesAre]; decide

theorem test_meets_ControlFlow :
    (let s := onRake { running with pc := 0xFFF8 }
     Issues s 0 0 false ∧ (0 ≤ ((s.rake 0).pc : Int) + 4 * (1 : BitVec 22).toInt ∧ ((s.rake 0).pc : Int) + 4 * (1 : BitVec 22).toInt ≤ 0xFFFC) ∧
        ¬ (((s.rake 0).pc : Int) + 4 * (2 : BitVec 22).toInt ≤ 0xFFFC) ∧ ¬ (0 ≤ ((s.rake 0).pc : Int) + 4 * (0x200000 : BitVec 22).toInt)) ∧
    (let s := onRake (running.setG 1 0x10002)
     Issues s 0 0 false ∧ ¬ (((s.rake 0).getG 1).toNat ≤ 0xFFFC ∧ ((s.rake 0).getG 1).toNat % 4 = 0)) ∧
    (glidelRake (.nop 0 1 false) = some 0 ∧ (Instr.nop 0 1 false).wf = true ∧ encodeGlidel (.nop 0 1 false) = some 0xC0800000 ∧
      ((onRake running).rake 0).issues = true ∧ ((onRake running).rake 0).pc < 0xFFFC ∧
      xor (((onRake running).rake 0).getP ((0xC0800000 : W32).extractLsb' 23 3)) ((0xC0800000 : W32).getLsbD 22) = false) ∧
    (let s := onRake { running with pc := 0xFFFC }
     (s.rake 0).issues = true ∧ guardOk 0 false = true ∧ xor ((s.rake 0).getP 0) false = true ∧ (s.rake 0).pc = 0xFFFC) := by
  simp only [Issues]; decide

theorem test_meets_LoadsComplete :
    (let s := withWord (onRake running) 0x001008010000 (BitVec.ofNat 256 0x80)
     Issues s 0 0 false ∧ ¬ (true = true ∧ (0 : BitVec 2) = 3) ∧ ea64 s 0 0 31 1 % 1 = 0 ∧ ea64 s 0 0 31 1 + 1 ≤ 0x70000 ∧
        scratchWord 0 (ea64 s 0 0 31 1) = 0x001008010000 ∧
        (s.memRead (Src.rake 0) 0x001008010000).1 = .ok (BitVec.ofNat 256 0x80) ∧
        ea64 s 0 0 0 32 % 32 = 0 ∧ scratchWord 0 (ea64 s 0 0 0 32) = 0x001008010000) ∧
    (let s := onRake (running.setG 1 0x0007FFFFFFF8)
     Issues s 0 0 false ∧ ea64 s 0 1 0 8 % 8 = 0 ∧ inMem (ea64 s 0 1 0 8) = true ∧
        ea64 (onRake running) 0 0 1 32 % 32 = 0 ∧ inMem (ea64 (onRake running) 0 0 1 32) = true) ∧
    (let s := withWord (onRake { running with devLoad := some (.scalar 1 3 false 8) }) 0 (BitVec.ofNat 256 5)
     (s.rake 0).pc < 0xFFFC ∧ (s.rake 0).devLoad = some (.scalar 1 3 false 8) ∧ inRegs 8 = false ∧
        (s.memRead (Src.rake 0) 0).1 = .ok (BitVec.ofNat 256 5)) ∧
    (let s := withWord (onRake { running with devLoad := some (.vector 1 0) }) 0 (BitVec.ofNat 256 5)
     (s.rake 0).devLoad = some (.vector 1 0) ∧ (s.memRead (Src.rake 0) 0).1 = .ok (BitVec.ofNat 256 5)) := by
  simp only [Issues]; decide

theorem test_meets_StoresComplete :
    let s := withWord (withWord (onRake running) 0x001008010000 (BitVec.ofNat 256 5)) 0 (BitVec.ofNat 256 9)
    Memory.wf s.mem ∧ Issues s 0 0 false ∧
    (let a := scratchWord 0 (ea64 s 0 0 3 8)
     ea64 s 0 0 3 8 % 8 = 0 ∧ ea64 s 0 0 3 8 + 8 ≤ 0x70000 ∧ memUnit a = some (.bank 16) ∧ s.writeRefused (Src.rake 0) a (.bank 16) = none ∧
        s.flag (MemUnit.regs (.bank 16)).arm (MemUnit.regs (.bank 16)).inst 0 = false ∧
        decodeWord (readCode s.mem a) = .clean (BitVec.ofNat 256 5)) ∧
    (let a := ea64 s 0 0 0 32
     a % 32 = 0 ∧ inMem a = true ∧ a / 32 * 32 = 0 ∧ memUnit 0 = some (.hbm 0) ∧ s.writeRefused (Src.rake 0) 0 (.hbm 0) = none ∧
        s.flag (MemUnit.regs (.hbm 0)).arm (MemUnit.regs (.hbm 0)).inst 0 = false ∧
        decodeWord (readCode s.mem 0) = .clean (BitVec.ofNat 256 9)) := by
  simp only [Issues]; decide

theorem test_meets_AtomicsComplete :
    let s := withWord (withWord (onRake running) 0x001008010000 (BitVec.ofNat 256 5)) 0 (BitVec.ofNat 256 9)
    Memory.wf s.mem ∧ Issues s 0 0 false ∧ ((s.rake 0).getG 0).toNat = 0 ∧
    (memUnit (scratchWord 0 0) = some (.bank 16) ∧ s.writeRefused (Src.rake 0) (scratchWord 0 0) (.bank 16) = none ∧
      decodeWord (readCode s.mem (scratchWord 0 0)) = .clean (BitVec.ofNat 256 5)) ∧
    (inMem 0 = true ∧ (s.rake 0).task = some ⟨5, 0, 0, 0, 0, 0⟩ ∧ bitOf (0 : W64) 0 = false ∧ memUnit 0 = some (.hbm 0) ∧
      s.writeRefused (Src.rake 0) 0 (.hbm 0) = none ∧ decodeWord (readCode s.mem 0) = .clean (BitVec.ofNat 256 9)) := by
  simp only [Issues]; decide

theorem test_meets_AccessChecksFault :
    let at_ (v : W64) (attr : W64) : State := onRake ({ running with task := some ⟨5, attr, 0, 0, 0, 0⟩ }.setG 1 v)
    Issues (at_ 0 0) 0 0 false ∧ ea64 (at_ 1 0) 0 1 0 2 % 2 ≠ 0 ∧
    (ea64 (at_ 0x70000 0) 0 1 0 1 % 1 = 0 ∧ 0x70000 < ea64 (at_ 0x70000 0) 0 1 0 1 + 1) ∧
    (ea64 (at_ (BitVec.ofNat 64 (2 ^ 48)) 0) 0 1 0 8 % 8 = 0 ∧ 2 ^ 48 ≤ ea64 (at_ (BitVec.ofNat 64 (2 ^ 48)) 0) 0 1 0 8) ∧
    (ea64 (at_ 0x000800000000 0) 0 1 0 8 % 8 = 0 ∧ ea64 (at_ 0x000800000000 0) 0 1 0 8 < 2 ^ 48 ∧
      mapped (ea64 (at_ 0x000800000000 0) 0 1 0 8) = false) ∧
    (ea64 (at_ 0x003000000000 1) 0 1 0 4 % 4 = 0 ∧ inRegs (ea64 (at_ 0x003000000000 1) 0 1 0 4) = true ∧
      ((at_ 0x003000000000 1).rake 0).task = some ⟨5, 1, 0, 0, 0, 0⟩ ∧ bitOf (1 : W64) 0 = true) ∧
    (inMem 0 = true ∧ ((at_ 0 1).rake 0).task = some ⟨5, 1, 0, 0, 0, 0⟩) ∧
    (((at_ 0x003000000000 0).rake 0).getG 1).toNat % 8 = 0 ∧ inRegs (((at_ 0x003000000000 0).rake 0).getG 1).toNat = true := by
  simp only [Issues]; decide

theorem test_meets_OutboxInstructions :
    Issues (onRake running) 0 0 false ∧ ((onRake running).rake 0).outbox.length < 48 ∧
    (let s := onRake { running with outbox := List.replicate 48 (.cancel 0) }
     Issues s 0 0 false ∧ 48 ≤ (s.rake 0).outbox.length) ∧
    (bitsOf (0xC000 : W64) 16 14 ≤ 3 ∧ ¬ bitsOf (0x10000 : W64) 16 14 ≤ 3 ∧ bitsOf (0x10000 : W64) 16 14 ≤ 4) ∧
    (bitsOf (0xFFFFF : W64) 19 0 ≠ 0 ∧ bitsOf (0xFFFFF : W64) 63 22 = 0 ∧ ¬ bitsOf (0x100000 : W64) 19 0 ≠ 0) ∧
    (bitsOf (0xFF003FFF : W64) 23 14 = 0 ∧ bitsOf (0xFF003FFF : W64) 63 32 = 0 ∧ ¬ bitsOf (0x4000 : W64) 23 14 = 0) ∧
    (bitsOf (0x40000000 : W64) 30 28 ≤ 4 ∧ ¬ bitsOf (0x50000000 : W64) 30 28 ≤ 4) ∧
    (let s := onRake ({ running with task := some ⟨5, 4, 0x3FF, 0, 0, 0⟩ }.setG 1 0x3FF)
     Issues s 0 0 false ∧ (s.rake 0).task = some ⟨5, 4, 0x3FF, 0, 0, 0⟩ ∧ (4 : W64).getLsbD 2 = true ∧
        ((s.rake 0).getG 1).toNat = bitsOf (0x3FF : W64) 9 0) ∧
    (0xC000 ≤ bitsOf (0xC000 : W64) 15 0 ∧ ¬ 0xC000 ≤ bitsOf (0xBFFF : W64) 15 0) ∧
    (bitsOf (0x0A0F : W64) 63 16 = 0 ∧ queueOk (bitsOf (0x0A0F : W64) 12 8) (bitsOf (0x0A0F : W64) 7 0) (bitsOf (0x0A0F : W64) 15 13) = true ∧
      queueOk (bitsOf (0x0010 : W64) 12 8) (bitsOf (0x0010 : W64) 7 0) (bitsOf (0x0010 : W64) 15 13) = false) := by
  simp only [Issues]; decide

theorem test_meets_SystemInstructions :
    Issues (onRake running) 0 0 false ∧ ((onRake running).rake 0).storeErr = none ∧ ((onRake running).rake 0).pos = some 0 ∧
    (let s := onRake { running with storeErr := some ⟨0x05, 8, 0⟩ }
     Issues s 0 0 false ∧ (s.rake 0).storeErr = some ⟨0x05, 8, 0⟩) ∧
    (let s := ((onRake running).fset F.RK_CTRL_DBG_EN 0 0 1).fset F.SEC_STAT_DBG 0 0 1
     s.flag F.RK_CTRL_DBG_EN 0 0 = true ∧ s.flag F.SEC_STAT_DBG 0 0 = true ∧ (s.rake 0) = running) ∧
    (((onRake { running with st := .drain }).rake 0).st = .drain ∧ Issues (onRake { running with st := .drain }) 0 0 false) ∧
    ((onRake running).flag F.RK_CTRL_DBG_EN 0 0 = false) ∧
    ((onRake running).rake 0).task = some ⟨5, 0, 0, 0, 0, 0⟩ ∧ decodeGlidel 0 0 = none ∧ ((onRake running).rake 0).drainTo = none ∧
    ((onRake running).slot 5).st = .run := by
  simp only [Issues]; decide

/-- A rake that has ended a task with a token, an event and a flow release in its outbox. -/
def ended : Rake := { running with ending := true, outbox := [.token 5 6, .event 0xC000 0, .frel 0 9, .delayed 0x300005 7 8] }

theorem test_meets_CommitsAndRakeEvents :
    (let s := onRake ended
     (s.rake 0).task = some ⟨5, 0, 0, 0, 0, 0⟩ ∧ (s.rake 0).ending = true ∧ (s.rake 0).storeErr = none ∧ (s.rake 0).drainTo = none ∧
        (s.rake 0).pos = some 0 ∧ (s.slot 5).desc.getLsbD 44 = false ∧
      ((onRake { ended with st := .drain, drainTo := some .load }).rake 0).drainTo = some .load ∧
      (({ s with tally := { slots := [(5, { st := .run, desc := 0x100000000000 })] } } : State).slot 5).desc.getLsbD 44 = true ∧
      ((onRake running).rake 0).ending = false) ∧
    (onRake { running with storeErr := some ⟨0x05, 8, 0⟩ }).rake 0 = { running with storeErr := some ⟨0x05, 8, 0⟩ } ∧
    ((onRake running).rake 0).storeErr = none ∧ ((onRake running).fset F.RK_WDOG_BUDGET 0 0 0).fget F.RK_WDOG_BUDGET 0 0 = 0 ∧
    ((onRake running).rake 0).st = .run ∧ ((onRake running).fset F.RK_WDOG_BUDGET 0 0 1).fget F.RK_WDOG_BUDGET 0 0 ≠ 0 ∧
    (let s := onRake running
     s.bank 16 = .on ∧ (s.slot 5).st = .run ∧ (s.rake 96).st = .spare ∧ (s.rake 96).held = false ∧
      (∀ n, n < 96 → (s.rake n).st ≠ .spare) ∧
      (({ s with banks := [] } : State).bank 16) ≠ .on) ∧
    (let s : State := { up with rakes := [(103, {})] }
     (s.rake 103).st = .spare ∧ (s.rake 103).task = none ∧ (s.rake 103).pos = none ∧ s.bank (16 + 103) = .on) ∧
    (let s := onRake { running with st := .halt }
     (s.rake 0).st = .halt ∧ (2 : W32).getLsbD 1 = true ∧ (0 : W32).getLsbD 1 = false ∧ (s.rake 0).pc < 0x10000) := by
  and_intros <;> decide

theorem test_meets_RakeManagerCommands :
    let empty : Rake := { ({} : Rake) with st := .empty, pos := some 0 }
    let idle : Rake := { ({} : Rake) with st := .idle, pos := some 0 }
    let load : Rake := { ({} : Rake) with st := .loading, pos := some 0, loadFrom := some 0 }
    let base (s : State) : Nat := s.fget F.RK_IMG_BASE_BASE 0 0
    (let s := onRake empty
     s.mgr.cmd = none ∧ bitsOf (0x0001 : W32) 3 0 = 1 ∧ bitsOf (0x0001 : W32) 14 8 = 0 ∧ base s + 95 ≤ 65535 ∧ s.rakeOf 0 = some 0 ∧
        s.autoLoading 0 = false ∧ (s.rake 0).st = .empty) ∧
    ((onRake running).rakeOf 0 = some 0 ∧ (onRake running).autoLoading 0 = false ∧ ((onRake running).rake 0).st = .run) ∧
    (let s := onRake idle
     bitsOf (0x0002 : W32) 3 0 = 2 ∧ s.rakeOf 0 = some 0 ∧ (s.rake 0).st = .idle ∧ s.autoLoading 0 = false ∧ s.mgr.lost = [] ∧
        (s.rake 96).st = .spare ∧ (s.rake 96).held = false ∧ (∀ n, n < 96 → (s.rake n).st ≠ .spare)) ∧
    (bitsOf (0x6003 : W32) 3 0 = 3 ∧ bitsOf (0x6003 : W32) 14 8 = 96 ∧ (up.rake 96).st = .spare ∧ (up.rake 96).held = false) ∧
    (let s : State := { up with rakes := [(103, { st := .retired })] }
     bitsOf (0x6704 : W32) 3 0 = 4 ∧ bitsOf (0x6704 : W32) 14 8 = 103 ∧ (s.rake 103).st = .retired ∧ s.mgr.cmd = none) ∧
    (let s : State := { up with rakes := (List.range 96).map fun n => (n, ({ st := .idle, pos := some n } : Rake)) }
     bitsOf (0x7F01 : W32) 14 8 = 0x7F ∧ s.autoLoading 0x7F = false ∧ s.rakeOf 95 = some 95 ∧ (s.rake 95).st ≠ .empty) ∧
    (65535 < base (up.fset F.RK_IMG_BASE_BASE 0 0 0xFFFF) + 95) ∧
    (let s : State := { up with rakes := (List.range 104).map fun n => (n, if n < 96 then { idle with pos := some n } else { st := .retired }) }
     s.rakeOf 95 = some 95 ∧ (s.rake 95).st = .idle ∧ s.autoLoading 95 = false ∧ ∀ n, n < 104 → (s.rake n).st ≠ .spare) ∧
    (({ up with mgr := { cmd := some ⟨[3], []⟩ } } : State).mgr.cmd = some ⟨[3], []⟩) ∧
    (let s : State := onRake load
     (s.rake 0).st = .loading ∧ (s.rake 0).pos = some 0 ∧ (s.rake 0).loadFrom = some ((base s + 0) * 0x80000) ∧ s.mgr.cmd = none ∧
        s.sec.trial = none ∧ s.imageReadable 0 = true ∧ s.bank 16 = .on) ∧
    ((onRake load).autoLoading 0 = true ∧ (onRake empty).autoLoading 100 = false ∧ (onRake empty).rakeOf 100 = none ∧
      ¬ ((onRake load).rake 104).st = .retired ∧ (onRake load).mgr.cmd = none ∧ bitsOf (0x6401 : W32) 14 8 = 100) ∧
    (let s : State := { onRake load with mcs := [] }
     0 ≤ 0x7FFE0 ∧ 0x7FFE0 < 0 + 0x80000 ∧ (s.mc (0x7FFE0 / 512 % 16)).st ≠ .run) := by decide

/-! ### Tally, ledger, time base -/

/-- Slots in each state: 1 and 2 wait for one and for two operands, 3 is READY, 4 in RUN, 6 has its first operand. -/
def slots : State :=
  { up with tally := { slots := [(1, { st := .wait, desc := 0x10000000 }), (2, { st := .wait, desc := 0x20000000 }),
      (3, { st := .ready, desc := 0x100000000 }), (4, { st := .run }),
      (6, { st := .wait, desc := 0x20000000, ports := (Vector.replicate 4 none).set 0 (some 7) })], ready := [(1, [3])] } }

theorem test_meets_SlotArrivals :
    let legal (d : W64) : Prop := bitsOf d 16 14 ≤ 3 ∧ bitsOf d 23 17 = 0 ∧ bitsOf d 63 32 = 0 ∧
      ([⟨9, 1, 1⟩, ⟨7, d, 8⟩, ⟨7, 5, 5⟩] : List Msg).find? (fun m => m.src == 7) = some ⟨7, d, 8⟩
    let s := slots
    (s.tally.inbox.find? (fun m => m.src == 7) ≠ some ⟨7, 3, 8⟩) ∧
    (legal 0xC000 ∧ (s.slot 0).st = .free ∧ legal 0x01000001 ∧ bitsOf (s.slot 1).desc 63 56 ≠ bitsOf (0x01000001 : W64) 31 24) ∧
    (legal 3 ∧ (s.slot 3).st = .ready ∧ bitsOf (s.slot 3).desc 63 56 = bitsOf (3 : W64) 31 24) ∧
    (legal 0x4001 ∧ (s.slot 1).st = .wait ∧ (s.slot 1).timedOut = false ∧ bitsOf (s.slot 1).desc 30 28 ≤ bitsOf (0x4001 : W64) 16 14 ∧
      legal 6 ∧ ((s.slot 6).ports.toList.getD 0 none).isSome = true) ∧
    (legal 2 ∧ bitsOf (2 : W64) 16 14 < bitsOf (s.slot 2).desc 30 28 ∧ (s.slot 2).ports.toList.getD 0 none = none ∧
      1 < bitsOf (s.slot 2).desc 30 28 ∧ (s.slot 2).ports.toList.getD 1 none = none) ∧
    (legal 1 ∧ bitsOf (1 : W64) 16 14 < bitsOf (s.slot 1).desc 30 28 ∧ (s.slot 1).desc.getLsbD 44 = false ∧
      (∀ q, q < bitsOf (s.slot 1).desc 30 28 → q ≠ 0 → ((s.slot 1).ports.toList.getD q none).isSome = true)) ∧
    (bitsOf (4 : W64) 63 14 = 0 ∧ bitsOf (0x40000000 : W64) 30 28 ≤ 4 ∧ (0x40000000 : W64).getLsbD 55 = false ∧
      (0xBF040000000 : W64).getLsbD 36 = true ∧ bitsOf (0xBF040000000 : W64) 43 37 ≤ 95 ∧ Tab.find? 95 s.mgr.lost = none ∧
      (s.slot 4).st ≠ .free ∧ (s.slot 0).st = .free) ∧
    ((0x100010000000 : W64).getLsbD 44 = true ∧ s.flag F.TLY_FLOW_CFG_EN 0 (bitsOf (0x100010000000 : W64) 54 45) = false ∧
      (s.fset F.TLY_FLOW_CFG_EN 0 0 1).flag F.TLY_FLOW_CFG_EN 0 (bitsOf (0x100010000000 : W64) 54 45) = true ∧
      0 < bitsOf (0x100010000000 : W64) 30 28) ∧
    (bitsOf (4 : W64) 23 14 = 0 ∧ bitsOf (4 : W64) 63 32 = 0 ∧ (s.slot 4).st = .run ∧
      bitsOf (s.slot 4).desc 63 56 = bitsOf (4 : W64) 31 24) := by and_intros <;> decide

/-- Slot 1, of level 3, is READY; rake 2 is IDLE at position 2. -/
def dispatchable (desc : W64) : State :=
  ({ up with
      tally := { slots := [(1, { st := .ready, desc := desc })], ready := [(3, [1])] }
      rakes := [(2, { ({} : Rake) with st := .idle, pos := some 2 })] }).fset F.TLY_CTRL_DISPATCH 0 0 1

def withTally (x : Tally) : State := { up with tally := x }

theorem test_meets_TaskDispatches :
    (let s := dispatchable 0x300000000
     s.flag F.TLY_CTRL_DISPATCH 0 0 = true ∧ s.readyList 3 = [1] ∧ bitsOf (s.slot 1).desc 35 32 = 3 ∧
      (∀ l, l < 16 → 3 < l → s.readyList l = []) ∧ s.rakeOf 2 = some 2 ∧ (s.rake 2).st = .idle ∧
      (s.slot 1).desc.getLsbD 36 = false ∧ (∀ q, q < 2 → ∀ k, k < 104 → s.rakeOf q = some k → (s.rake k).st ≠ .idle)) ∧
    (let s := dispatchable 0x5300000000
     s.readyList 3 = [1] ∧ (s.slot 1).desc.getLsbD 36 = true ∧ bitsOf (s.slot 1).desc 43 37 = 2 ∧ bitsOf (s.slot 1).desc 35 32 = 3) ∧
    (let s := withTally { commits := [(95, [.pcmd 0x0A00 9])] }
     Tab.getD s.tally.commits 95 [] = [.pcmd 0x0A00 9] ∧ bitsOf (0x0A00 : W64) 12 8 ≠ 14 ∧ bitsOf (0x0A00 : W64) 12 8 = 10 ∧
      (s.queue 10 0 0).length < 16) ∧
    (let s := (withTally { commits := [(95, [.pcmd 0x0A10 9])] }).setQueue 10 16 0 (List.replicate 8 0)
     Tab.getD s.tally.commits 95 [] = [.pcmd 0x0A10 9] ∧ 8 ≤ (s.queue 10 16 0).length) ∧
    (let s := withTally { commits := [(0, [.due 3 5 7 8])], delays := [(3, [⟨5, 0, 0⟩])] }
     Tab.getD s.tally.commits 0 [] = [.due 3 5 7 8] ∧ bitsOf (7 : W64) 16 14 ≠ 4 ∧
      (∀ e ∈ s.delayList 3, e.due ≤ 5) ∧ (s.delayList 3).length < 4096 ∧ Tab.getD s.tally.commits 95 [] = []) ∧
    (let x : Slot := { st := .wait, desc := 0x20000000 }
     let s := withTally { delays := [(3, [⟨0, 0x4001, 8⟩]), (0, [⟨1, 7, 8⟩, ⟨0, 0x10002, 0⟩])], slots := [(1, x)] }
     (∀ k, k < 3 → ∀ e ∈ s.delayList k, s.tally.tick < e.due ∨ bitsOf e.dest 16 14 = 4) ∧ s.delayList 3 = [⟨0, 0x4001, 8⟩] ∧
      s.slot (bitsOf (0x4001 : W64) 13 0) = x ∧ bitsOf (0x4001 : W64) 16 14 = 1 ∧ bitsOf x.desc 63 56 = bitsOf (0x4001 : W64) 31 24 ∧
      1 < bitsOf x.desc 30 28 ∧ x.ports.toList.getD 1 none = none ∧ x.ports.toList.getD 0 none = none) ∧
    (let s := withTally { delays := [(3, [⟨0, 0x10001, 8⟩])], slots := [(1, { st := .wait, desc := 0x10000000, timedOut := true })] }
     (∀ l, l < 4 → ∀ e ∈ s.delayList l, s.tally.tick < e.due ∨ bitsOf e.dest 16 14 = 4) ∧
      (∀ k, k < 3 → ∀ e ∈ s.delayList k, s.tally.tick < e.due) ∧ s.delayList 3 = [⟨0, 0x10001, 8⟩] ∧
      (s.slot (bitsOf (0x10001 : W64) 13 0)).timedOut = true ∧ (s.slot (bitsOf (0x10000 : W64) 13 0)).st = .free) ∧
    (let s := withTally { delays := [(0, [⟨0, 7, 8⟩])] }
     s.delayList 0 = [⟨0, 7, 8⟩] ∧ 0 ≤ s.tally.tick ∧ bitsOf (7 : W64) 16 14 ≠ 4 ∧ (s.slot (bitsOf (7 : W64) 13 0)).st = .free) ∧
    (let s := withTally { delays := [(0, [⟨0, 0x10001, 8⟩])], slots := [(1, { st := .wait, desc := 0x10000000 })] }
     (∀ l, l < 4 → ∀ e ∈ s.delayList l, e.due ≤ s.tally.tick → bitsOf e.dest 16 14 = 4) ∧ s.delayList 0 = [⟨0, 0x10001, 8⟩] ∧
      bitsOf (0x10001 : W64) 13 0 = 1 ∧ (s.slot 1).st = .wait ∧ (s.slot 1).timedOut = false ∧
      bitsOf (s.slot 1).desc 63 56 = bitsOf (0x10001 : W64) 31 24 ∧ (s.slot 1).desc.getLsbD 44 = false) ∧
    (let s := withTally { newPeriod := some 80, delays := [(1, [⟨1, 7, 8⟩])] }
     (∀ l, l < 4 → ∀ e ∈ s.delayList l, s.tally.tick < e.due)) ∧
    (up.flag F.TLY_CTRL_DISPATCH 0 0 = false ∧ ∀ l, l < 16 → up.readyList l = []) ∧
    (80 ≤ bitsOf (80 : W32) 19 0 ∧ bitsOf (800000 : W32) 19 0 ≤ 800000 ∧ bitsOf (79 : W32) 19 0 < 80 ∧
      800000 < bitsOf (800001 : W32) 19 0) := by and_intros <;> decide

theorem test_meets_FlowCommands :
    let video : State := (up.fset F.TLY_FLOW_SEL_FLOW 0 4 1023).setPair .TLY_FLOW_TGT_LO .TLY_FLOW_TGT_HI 0 1023 0x0010000000000040
    (video.fget F.TLY_FLOW_SEL_FLOW 0 4 = 1023 ∧ (0x00004003 : W32).getLsbD 0 = true ∧ video.flag F.TLY_FLOW_CFG_EN 0 1023 = false ∧
      bitsOf (0x00004003 : W32) 14 8 = 64 ∧
      ((List.range 1024).filter fun f => video.flag F.TLY_FLOW_CFG_EN 0 f) = [] ∧ (0x00004003 : W32).getLsbD 1 = true ∧
      bitsOf (0x0010000000000040 : W64) 5 0 = 0 ∧ bitsOf (0x0010000000000040 : W64) 63 53 = 0 ∧ bitsOf (0x0010000000000040 : W64) 52 48 = 16 ∧
      video.pair .TLY_FLOW_TGT_LO .TLY_FLOW_TGT_HI 0 1023 = 0x0010000000000040) ∧
    ((0x00004101 : W32).getLsbD 1 = false ∧ ¬ bitsOf (0x00004101 : W32) 14 8 ≤ 64 ∧ ¬ 1 ≤ bitsOf (0x00000001 : W32) 14 8 ∧
      bitsOf (0x0000000000000107 : W64) 7 3 = 0) ∧
    (let s : State := { (up.fset F.TLY_FLOW_CFG_EN 0 0 1) with tally := { flows := [(1, { next := 1 })] } }
     (0 : W32).getLsbD 0 = false ∧ s.flag F.TLY_FLOW_CFG_EN 0 0 = true ∧ (s.flow 0).next = (s.flow 0).rel ∧
      (s.fset F.TLY_FLOW_CFG_EN 0 1 1).flag F.TLY_FLOW_CFG_EN 0 1 = true ∧ (s.flow 1).next ≠ (s.flow 1).rel) ∧
    (let s := withTally { flows := [(1023, { next := 1, fates := [(0, .done [5, 6])] }), (2, { next := 1, fates := [(0, .done [])] }),
     (3, { next := 1, fates := [(0, .skip 9)] })] }
     Tab.find? (s.flow 1023).rel (s.flow 1023).fates = some (.done [5, 6]) ∧ s.flag F.TLY_FLOW_CFG_TYPE 0 1023 = false ∧
      s.txWaiting 0 0 = [] ∧ Tab.find? (s.flow 2).rel (s.flow 2).fates = some (.done []) ∧
      (s.fset F.TLY_FLOW_CFG_TYPE 0 2 1).flag F.TLY_FLOW_CFG_TYPE 0 2 = true ∧
      Tab.find? (s.flow 3).rel (s.flow 3).fates = some (.skip 9) ∧ Tab.find? (s.flow 4).rel (s.flow 4).fates = none) ∧
    ((0x80000000 : W32).getLsbD 31 = true ∧ (0x80000000 : W32).getLsbD 0 = false ∧ up.flag F.TLY_FLOW_CFG_EN 0 0 = false) := by and_intros <;> decide

theorem test_meets_LedgerDecides :
    let l (charge : Charge) : Ledger := { waiting := [⟨0x040, .pgm 0, charge⟩, ⟨0x041, .pgm 1, []⟩] }
    let s (charge : Charge) : State := { up with ledger := l charge }
    (let fits := s [(52, up.limit52)]
     let after := fits.ledger.accept (.pgm 0) [(52, up.limit52)]
     fits.ledger.waiting = ⟨0x040, .pgm 0, [(52, up.limit52)]⟩ :: [⟨0x041, .pgm 1, []⟩] ∧
      (∀ e, e < 64 → ¬ (fits.ledger.used e < after.used e ∧ fits.ledgerLimit e < after.used e)) ∧ after.used 52 ≤ fits.limit52) ∧
    (let tight := s [(52, up.limit52 + 1)]
     let after := tight.ledger.accept (.pgm 0) [(52, up.limit52 + 1)]
     (tight.ledger.used 52 < after.used 52 ∧ tight.ledgerLimit 52 < after.used 52) ∧
      ∀ d, d < 52 → ¬ (tight.ledger.used d < after.used d ∧ tight.ledgerLimit d < after.used d)) ∧
    (let r : State := { up with ledger := { reduced := [63] } }
     r.ledger.reversing = false ∧ r.ledger.full52 ≤ r.limit52 ∧ r.ledger.exhausted = false ∧ (r.ledger.pgm 63).classA = false) ∧
    (let r : State := { up with ledger := { reduced := [0, 63], pgms := [(63, { classA := true })], exhausted := true } }
     r.ledger.reversing = false ∧ r.ledger.full52 ≤ r.limit52 ∧ (r.ledger.pgm 63).classA = true ∧
      ∀ j ∈ r.ledger.reduced, (r.ledger.pgm j).classA = true → 63 ≤ j) ∧
    (up.ledger.waiting = [] ∧ up.ledger.throttled = false ∧ up.ledger.reduced = [] ∧
      let r : State := { State.reset with ledger := { holdings := [(.twin, { cur := [(52, State.reset.limit52 + 1)] })], reduced := [1] } }
      r.limit52 < r.ledger.full52) ∧
    (let r : State := { up with ledger := { throttled := true } }
     r.ledger.reduced = [] ∧ r.ledger.throttled = true ∧ r.ledger.full52 ≤ r.limit52) := by and_intros <;> decide

/-- A time base with a command or a slew. -/
def timed (t : TimeBase) : State := { up with time := t }

theorem test_meets_TimeOperations :
    (let s := timed { ns := 999999999, frac := 4294967295 }
     s.time.hold = s.flag F.CLK_STAT_HOLD 0 0 ∧ (∀ n, n < 8 → s.flag F.TIM_TOUT_CTRL_EN (n + 1) 0 = false) ∧
      (∀ n, n < 16 → s.flag F.AUD_OUT_CFG_EN (16 + n) 0 = false) ∧
      (s.time.sec.toNat * 1000000000 + s.time.ns) * 2 ^ 32 + s.time.frac + bitsOf (s.pair .TIM_INC_LO .TIM_INC_HI 0 0) 35 0 + 2 ^ 64 <
        2 ^ 64 * 1000000000 * 2 ^ 32 ∧ s.time.cmd = none ∧ s.time.slew = none) ∧
    (let s := (timed { slew := some ⟨2147483, 1⟩ }).fset F.TIM_CFG_SLEW 0 0 200
     s.time.slew = some ⟨2147483, 1⟩ ∧ (0 : Int) ≤ 2147483 ∧
      ((10737418240 * s.fget F.TIM_CFG_SLEW 0 0 / 1000000 : Nat) : Int) ≤ 2147483) ∧
    (let s := (timed { slew := some ⟨2147482, 1⟩ }).fset F.TIM_CFG_SLEW 0 0 200
     s.time.slew = some ⟨2147482, 1⟩ ∧ (2147482 : Int) < ((10737418240 * s.fget F.TIM_CFG_SLEW 0 0 / 1000000 : Nat) : Int) ∧
      10737418240 * s.fget F.TIM_CFG_SLEW 0 0 / 1000000 < 2 ^ 64) ∧
    (let s := (timed { cmd := some 1 }).fset F.TIM_OP_NS_NS 0 0 999999999
     s.time.cmd = some 1 ∧ s.fget F.TIM_OP_NS_NS 0 0 < 1000000000 ∧ s.flag F.TIM_OP_NS_NEG 0 0 = false ∧ s.time.valid = false) ∧
    (let s := (timed { cmd := some 2, sec := 1 }).fset F.TIM_CFG_JUMP 0 0 1 |>.fset F.TIM_OP_NS_NS 0 0 1000 |>.fset F.TIM_OP_NS_NEG 0 0 1
     s.time.cmd = some 2 ∧ s.fget F.TIM_OP_NS_NS 0 0 = 1000 ∧ s.pair .TIM_OP_SEC_LO .TIM_OP_SEC_HI 0 0 = 0 ∧
      1000 ≤ s.fget F.TIM_CFG_JUMP 0 0 * 1000 ∧ (0 : Int) ≤ 1000000000 * 2 ^ 32 + (-1000) * 2 ^ 32) ∧
    (timed { cmd := some 3 }).time.cmd = some 3 ∧ (timed {}).time.cmd ≠ some 4 ∧
    ((timed {}).time.slew = none ∧ (timed { slew := some ⟨2147482, 1⟩ }).time.cmd = none) ∧
    ((timed { cmd := some 4 }).time.cmd = some 4 ∧ (timed { cmd := some 4 }).time.slew = none) ∧
    ((timed { cmd := some 1, valid := true }).time.cmd = some 1 ∧ (timed { cmd := some 1, valid := true }).time.valid = true) := by
  and_intros <;> decide

theorem test_meets_TimeRegistersAndOutputs :
    let held (v : W32) : State := { up with helds := [((4, .TIM_INC_LO, 0), v)] }
    let inc (s : State) (val : W32) : Nat :=
      bitsOf val 3 0 * 2 ^ 32 + (Tab.getD s.helds (4, .TIM_INC_LO, 0) (s.reg .TIM_INC_LO 0 0)).toNat
    (inc (held 0x7F5C28F6) 2 = 10726680822 ∧ inc (held 0x7F5C28F5) 2 < 10726680822 ∧ inc (held 0x80A3D70A) 2 = 10748155658 ∧
      10748155658 < inc (held 0x80A3D70B) 2) ∧
    (let s := timed { stamps := [(7, [⟨true, 3, 5, 6, 7⟩])] }
     s.stamps 7 = [⟨true, 3, 5, 6, 7⟩] ∧ s.stamps 0 = []) ∧
    (let s := up.fset F.TIM_TOUT_WIDTH_WIDTH 8 0 10
     let on (mode : Nat) := (timed { touts := [(7, { due := true }), (0, { pulse := some 0 })] }).fset F.TIM_TOUT_CTRL_EN 8 0 1
       |>.fset F.TIM_TOUT_CTRL_MODE 8 0 mode
     ((0xC0000001 : W32).getLsbD 31 = true ∧ (1 : W32).getLsbD 30 = false ∧ (1 : W32).getLsbD 0 = true ∧ (1 : W32).getLsbD 1 = false ∧
      (3 : W32).getLsbD 1 = true ∧ (2 : W32).getLsbD 0 = false) ∧
     (s.flag F.TIM_TOUT_CTRL_EN 8 0 = false ∧ 10 ≤ s.fget F.TIM_TOUT_WIDTH_WIDTH 8 0 ∧ s.fget F.TIM_TOUT_START_NS_NS 8 0 < 1000000000 ∧
      (s.fset F.TIM_TOUT_WIDTH_WIDTH 8 0 9).fget F.TIM_TOUT_WIDTH_WIDTH 8 0 < 10 ∧
      1000000000 ≤ (s.fset F.TIM_TOUT_START_NS_NS 8 0 1000000000).fget F.TIM_TOUT_START_NS_NS 8 0) ∧
     (let r := (s.fset F.TIM_TOUT_FR_NUM_FR_NUM 8 0 1000000000).fset F.TIM_TOUT_FR_DEN_FR_DEN 8 0 11
      r.fget F.TIM_TOUT_FR_NUM_FR_NUM 8 0 = 1000000000 ∧ 10 < r.fget F.TIM_TOUT_FR_DEN_FR_DEN 8 0 * 1000000000 / 1000000000) ∧
     ((on 0).flag F.TIM_TOUT_CTRL_EN 8 0 = true ∧ (on 0).flag F.TIM_TOUT_CTRL_MODE 8 0 = false ∧ ((on 0).tout 7).due = true ∧
      ((on 0).tout 7).late = false ∧ 0 * 2 ^ 32 ≤ (on 0).time.total ∧
      (on 0).pair .TIM_TOUT_START_SEC_LO .TIM_TOUT_START_SEC_HI 8 0 = 0 ∧ (on 1).flag F.TIM_TOUT_CTRL_MODE 8 0 = true ∧
      ((on 1).tout 7).k = 0 ∧ ((on 0).tout 0).pulse = some 0 ∧ ((on 0).tout 7).pulse ≠ some 0)) := by and_intros <;> decide

/-! ### Memory, DMA -/

/-- The state with a code word stored. -/
def withCode (s : State) (a : Nat) (cw : BitVec 288) : State := { s with mem := writeCode s.mem a cw }

theorem test_meets_OneSymbolIsCorrected :
    (0 < 32 ∧ (1 : BitVec 4) ≠ 0 ∧ 31 < 32 ∧ (0xF : BitVec 4) ≠ 0 ∧ 0 < 4 ∧ 3 < 4) ∧
    decodeHalf ((5 : BitVec 128) ^^^ ((0xF : BitVec 4).setWidth 128 <<< (4 * 31))) (checkBits 5) = (.corrected, 5) ∧
    decodeHalf (5 : BitVec 128) (checkBits 5 ^^^ ((1 : BitVec 4).setWidth 16 <<< (4 * 3))) = (.corrected, 5) := by
  and_intros <;> decide

theorem test_meets_MemoryCommands :
    (2 ^ 48 ≤ 2 ^ 48) ∧ (0x003016FFFFE0 % 32 = 0 ∧ inRegs 0x003016FFFFE0 = true) ∧
    (0x000800000000 % 32 = 0 ∧ 0x000800000000 < 2 ^ 48 ∧ inRegs 0x000800000000 = false ∧ memUnit 0x000800000000 = none) ∧
    (Memory.wf State.reset.mem ∧ memUnit 0x0007FFFFFFE0 = some (.hbm 15) ∧ State.reset.unitReady (.hbm 15) = false ∧
      memUnit 0x001000000000 = some (.bank 0) ∧ State.reset.unitReady (.bank 0) = false) ∧
    (let s := withWord up 0 (BitVec.ofNat 256 5)
     Memory.wf s.mem ∧ memUnit 0 = some (.hbm 0) ∧ s.unitReady (.hbm 0) = true ∧
      decodeWord (readCode s.mem 0) = .clean (BitVec.ofNat 256 5) ∧ s.writeRefused 4 0 (.hbm 0) = none ∧
      s.flag F.MC_INJ_ARM 0 0 = false ∧ (MemUnit.regs (.hbm 0)).arm = F.MC_INJ_ARM ∧ (0 : BitVec 32) ≠ 0xFFFFFFFF#32) ∧
    (let s := (withCode up 0 (encodeWord (BitVec.ofNat 256 5) ^^^ 1)).fset F.MC_ECC_CFG_THRESH 0 0 1
     Memory.wf s.mem ∧ decodeWord (readCode s.mem 0) = .corrected (BitVec.ofNat 256 5) true false ∧
      s.fget (MemUnit.regs (.hbm 0)).count 0 0 < s.fget (MemUnit.regs (.hbm 0)).thresh 0 0 ∧
      s.flag (MemUnit.regs (.hbm 0)).ovf 0 0 = false) ∧
    (decodeWord (readCode up.mem 0) = .poisoned ∧ Memory.wf up.mem ∧ up.unitReady (.hbm 0) = true ∧
      up.unitHolds (.hbm 0) 0 = false) ∧
    (let s : State := { up with pgms := [(63, { st := .active })] }
     decodeWord (readCode s.mem 0x001007800000) = .poisoned ∧ memUnit 0x001007800000 = some (.bank 15) ∧
      s.unitHolds (.bank 15) 0x001007800000 = true ∧ s.unitReady (.bank 15) = true) ∧
    (let s := withCode up 0 (encodeWord (BitVec.ofNat 256 5) ^^^ 0x11)
     Memory.wf s.mem ∧ decodeWord (readCode s.mem 0) = .uncorrectable 0x1010 0) ∧
    (let s := ((up.fset F.MC_INJ_ARM 0 0 1).fset F.MC_INJ_SYM_A 0 0 71).fset F.MC_INJ_MASK_A 0 0 15
     s.flag (MemUnit.regs (.hbm 0)).arm 0 0 = true ∧ s.fget (MemUnit.regs (.hbm 0)).injWord 0 0 = wordIndex 0) := by
  and_intros <;> decide

theorem test_meets_ControllerCommands :
    let s := State.reset
    let on := up.fset F.MC_CTRL_EN 15 0 1
    ((1 : W32).getLsbD 0 = true ∧ (1 : W32).getLsbD 1 = false ∧ s.flag F.MC_CTRL_EN 15 0 = false ∧ s.flag F.MC_STAT_HALFACT 15 0 = false ∧
      Memory.wf s.mem) ∧
    (({ s with mcs := [(15, { st := .init })] } : State).mc 15).st = .init ∧
    (on.flag F.MC_CTRL_EN 15 0 = true ∧ (82 < (83 : BitVec 8).toInt ∧ (85 : BitVec 8).toInt ≤ 85) ∧
      (85 < (86 : BitVec 8).toInt ∧ (on.fset F.MC_STAT_HOTREF 15 0 1).flag F.MC_STAT_HOTREF 15 0 = true) ∧
      ((82 : BitVec 8).toInt ≤ 82 ∧ on.flag F.MC_STAT_HOTREF 15 0 = false) ∧ on.ledger.holdings = []) ∧
    ((1 : W32).getLsbD 1 = s.flag F.MC_STAT_HALFACT 15 0 ∧ (3 : W32).getLsbD 1 = !s.flag F.MC_STAT_HALFACT 15 0 ∧
      ((State.reset).mc 15).st ≠ .init ∧ ((82 : BitVec 8).toInt ≤ 82 ∧ (on.fset F.MC_STAT_HOTREF 15 0 1).flag F.MC_STAT_HOTREF 15 0 = true) ∧
      (on.fset F.MC_STAT_HALFACT 15 0 1).flag F.MC_STAT_HALFACT 15 0 = true) ∧
    ((on.mc 15).parity ≠ 16 ∧ (({ on with mcs := [(15, { st := .run, parity := 16 })] } : State).mc 15).parity = 16 ∧
      on.flag F.MC_STAT_HALFACT 15 0 = false) ∧
    ((2 : W32).getLsbD 0 = false ∧ on.flag F.MC_STAT_HALFACT 15 0 = !(2 : W32).getLsbD 1 ∧
      (on.fset F.MC_STAT_HALFACT 15 0 1).flag F.MC_STAT_HALFACT 15 0 = !(0 : W32).getLsbD 1) ∧
    (0x1E00 % 32 = 0 ∧ 0x1E00 < 0x000800000000 ∧ 0x1E00 / 512 % 16 = 15 ∧ (up.mc 15).st = .run ∧ 4 ≠ Src.harrow ∧
      (∀ k, k < 104 → 4 ≠ Src.rake k) ∧ ∀ k, k < 32 → 4 ≠ Src.dma k) ∧
    (let r := onRake { running with devLoad := some (.scalar 1 3 false 0x1E08) }
     (r.rake 0).devLoad = some (.scalar 1 3 false 0x1E08) ∧ 0x1E08 / 32 * 32 = 0x1E00 ∧ (r.rake 0).task = some ⟨5, 0, 0, 0, 0, 0⟩ ∧
      (r.rake 0).drainTo = none ∧ (r.slot 5).st = .run) ∧
    (let r := onRake { running with posted := [(4, 0x1E18), (0, 0x1E00)] }
     (r.rake 0).posted = [(4, 0x1E18), (0, 0x1E00)] ∧ 0x1E18 / 32 * 32 = 0x1E00 ∧ (r.rake 0).storeErr = none) ∧
    (let x : DmaRun := { desc := BitVec.ofNat 256 (2 + 64 * 2 ^ 32 + 0x1E08 * 2 ^ 128), len := 64, down := false }
     let r : State := { up with dma := [(31, { run := some x })] }
     (r.dc 31).run = some x ∧ x.status = none ∧ (r.dc 31).paused = false ∧ (bitsOf x.desc 175 128 + x.done) / 32 * 32 = 0x1E00) := by
  and_intros <;> decide

theorem test_meets_BucketsHarrowAndBanks :
    let on := up.fset F.HRW_CTRL_EN 0 0 1
    (Memory.wf up.mem ∧ 145 < 146 ∧ 15 < 16 ∧ (0x80000000 : W32).getLsbD 31 = true ∧ (0 : W32).getLsbD 31 = false ∧ bitsOf (0x00010000 : W32) 31 16 = 1 ∧
      bitsOf (0x00010000 : W32) 15 0 = 0) ∧
    (let s := withCode on 0 (encodeWord (BitVec.ofNat 256 5) ^^^ 1)
     Memory.wf s.mem ∧ s.flag F.HRW_CTRL_EN 0 0 = true ∧ s.harrow.next = 0 ∧ (s.mc 0).st = .run ∧ s.flag F.MC_INJ_ARM 0 0 = false ∧ memUnit (32 * 0) = some (.hbm 0) ∧
      s.unitReady (.hbm 0) = true ∧ (s.harrowNext 1).isSome = true ∧ decodeWord (readCode on.mem 0) = .poisoned ∧
      decodeWord (readCode s.mem 0) = .corrected (BitVec.ofNat 256 5) true false) ∧
    (let s := withCode on 0 (encodeWord (BitVec.ofNat 256 5) ^^^ 0x11)
     Memory.wf s.mem ∧ s.flag F.HRW_CTRL_EN 0 0 = true ∧ s.harrow.next = 0 ∧ (s.mc 0).st = .run ∧
      decodeWord (readCode s.mem 0) = .uncorrectable 0x1010 0) ∧
    (let last := 2 ^ 30 + 0x800000 / 32 - 1
     let one : State := { State.reset with banks := [(0, .on)], harrow := { next := last } }
     let s := withWord (one.fset F.HRW_CTRL_EN 0 0 1) (0x001000800000 - 32) (BitVec.ofNat 256 5)
     s.flag F.HRW_CTRL_EN 0 0 = true ∧ s.harrow.next = last ∧ 0x001000000000 + 32 * (last - 2 ^ 30) = 0x001000800000 - 32 ∧
      memUnit (0x001000800000 - 32) = some (.bank 0) ∧ s.unitReady (.bank 0) = true ∧ (s.harrowNext (last + 1)).isSome = false ∧
      decodeWord (readCode s.mem (0x001000800000 - 32)) = .clean (BitVec.ofNat 256 5) ∧ (s.harrowNext last).isSome = true ∧
      (({ s with harrow := { next := last + 1 } } : State).harrowNext (last + 1)).isSome = false) ∧
    ((up.fset F.HRW_CTRL_EN 0 0 0).flag F.HRW_CTRL_EN 0 0 = false ∧ (1 : W32).getLsbD 0 = true ∧ (0 : W32).getLsbD 0 = false) ∧
    (60 ≤ bitsOf (60 : W32) 16 0 ∧ bitsOf (86400 : W32) 16 0 ≤ 86400 ∧ bitsOf (59 : W32) 16 0 < 60 ∧ 86400 < bitsOf (86401 : W32) 16 0) ∧
    (State.reset.bank 145 = .fill ∧ 144 ≤ 145 ∧ State.reset.bank 0 = .fill ∧ State.reset.dom 2 = .on ∧ up.bank 145 ≠ .fill ∧ up.bank 0 ≠ .wake) ∧
    (({ up with banks := [(0, .wake)] } : State).bank 0 = .wake ∧ ({ up with banks := [(0, .wake)] } : State).dom 2 = .on) := by
  and_intros <;> decide

theorem test_meets_DmaSubmission :
    let on := up.fset F.DMA_CFG_EN 31 0 1
    let own := on.fset F.DMA_CFG_OWNER 31 0 1
    (on.popCmd 14 31 0 7 = some on ∧ on.flag F.DMA_CFG_OWNER 31 0 = false ∧ on.flag F.DMA_CFG_EN 31 0 = true ∧
      (on.dc 31).queue.length + (if (on.dc 31).run.isSome then 1 else 0) < 16 ∧
      let full : State := { on with dma := [(31, { queue := List.replicate 15 0, run := some { desc := 0, len := 1, down := false } })] }
      16 ≤ (full.dc 31).queue.length + (if (full.dc 31).run.isSome then 1 else 0)) ∧
    (((on.setQueue 14 31 0 [7, 8]).popCmd 14 31 0 7 = some ((on.setQueue 14 31 0 [7, 8]).setQueue 14 31 0 [8]))) ∧
    (up.popCmd 14 31 0 7 = some up ∧ up.flag F.DMA_CFG_EN 31 0 = false) ∧
    (own.dmaHeld 31 < 16 ∧ (own.dc 31).submit = none ∧ own.flag F.DMA_CFG_OWNER 31 0 = true ∧ own.flag F.DMA_CFG_EN 31 0 = true ∧
      (Tab.getD own.helds (4, .DMA_SUBMIT_LO, 31) (own.reg .DMA_SUBMIT_LO 31 0)).toNat % 32 = 0) ∧
    (({ own with dma := [(31, { queue := List.replicate 16 0 })] } : State).dmaHeld 31 = 16 ∧ on.flag F.DMA_CFG_OWNER 31 0 = false) ∧
    (let s := withWord { own with dma := [(31, { submit := some 0 })] } 0 (BitVec.ofNat 256 5)
     (s.dc 31).submit = some 0 ∧ (s.memRead (Src.dma 31) 0).1 = .ok (BitVec.ofNat 256 5)) ∧
    (let s : State := { own with dma := [(31, { submit := some 0x000800000000 })] }
     (s.dc 31).submit = some 0x000800000000 ∧ memUnit 0x000800000000 = none ∧ inRegs 0x000800000000 = false) ∧
    (let s : State := { own with dma := [(31, { submit := some 0 })] }
     (s.dc 31).submit = some 0 ∧ (s.memRead (Src.dma 31) 0).1 = .poison false ∧
      (({ s with mcs := [] } : State).memRead (Src.dma 31) 0).1 = .addrErr ∧ (own.dc 31).submit = none) ∧
    (let r : DmaRun := { desc := 2, len := 64, down := false }
     let s : State := { on with dma := [(31, { run := some r, paused := true })] }
     (s.dc 31).run = some r ∧ Memory.wf s.mem ∧ (s.dc 31).paused = true) ∧
    ((1 : W32).getLsbD 0 = true ∧ (0 : W32).getLsbD 0 = false ∧ (on.dc 31).run = none) := by
  and_intros <;> decide

/-- A fill of 64 bytes from address 16, region 0. -/
def fillDesc : W256 := BitVec.ofNat 256 (2 + 64 * 2 ^ 32 + 0x0102030405060708 * 2 ^ 64 + 16 * 2 ^ 128)

/-- Region 0 writable, from 0 to 64 KB; channel 31 enabled. -/
def dmaOn : State :=
  ((up.fset F.DMA_CFG_EN 31 0 1).fset F.DMA_RGN_CFG_WR 0 0 1).fset F.DMA_RGN_END_END 0 0 1

theorem test_meets_DmaTransfers :
    (let s : State := { dmaOn with dma := [(31, { queue := [fillDesc, 0] })] }
     (s.dc 31).run = none ∧ (s.dc 31).queue = [fillDesc, 0] ∧ s.flag F.DMA_CFG_EN 31 0 = true ∧ s.dmaFormatOk 0 = false ∧
      s.dmaFormatOk fillDesc = true ∧ dmaOutside fillDesc 64 = none ∧ bitsOf fillDesc 63 32 = 64 ∧
      s.fget F.DMA_RGN_END_END 0 0 * 65536 = 65536 ∧ s.fget F.DMA_RGN_BASE_BASE 0 0 = 0 ∧ bitsOf fillDesc 175 128 = 16) ∧
    (let d : W256 := BitVec.ofNat 256 (2 + 64 * 2 ^ 32 + 65536 * 2 ^ 128)
     dmaOn.dmaFormatOk d = true ∧ ¬ bitsOf d 175 128 < dmaOn.fget F.DMA_RGN_END_END 0 0 * 65536) ∧
    (let d : W256 := BitVec.ofNat 256 (2 + 64 * 2 ^ 32 + 0x000800000000 * 2 ^ 128)
     let s := (dmaOn.fset F.DMA_RGN_BASE_BASE 0 0 0x80000).fset F.DMA_RGN_END_END 0 0 0x80001
     s.dmaFormatOk d = true ∧ dmaOutside d 64 = some 0x000800000000 ∧
      s.fget F.DMA_RGN_BASE_BASE 0 0 * 65536 ≤ 0x000800000000 ∧ 0x000800000000 < s.fget F.DMA_RGN_END_END 0 0 * 65536) ∧
    (let r : DmaRun := { desc := fillDesc, len := 64, down := false }
     let s := withWord { dmaOn with dma := [(31, { run := some r })] } 0 (BitVec.ofNat 256 5)
     (s.dc 31).run = some r ∧ r.status = none ∧ (s.dc 31).paused = false ∧ r.down = false ∧ r.done < r.len ∧
      bitsOf r.desc 3 0 = 2 ∧ Memory.wf s.mem ∧ (bitsOf r.desc 175 128 + r.done) / 32 * 32 = 0 ∧ memUnit 0 = some (.hbm 0) ∧
      s.writeRefused (Src.dma 31) 0 (.hbm 0) = none ∧ s.flag F.MC_INJ_ARM 0 0 = false ∧
      decodeWord (readCode s.mem 0) = .clean (BitVec.ofNat 256 5) ∧ r.desc.getLsbD 6 = false ∧ (∀ d ∈ r.domains, s.dom d ≠ .hold)) ∧
    (let r : DmaRun := { desc := BitVec.ofNat 256 (1 + 40 * 2 ^ 32 + 8 * 2 ^ 64 + 40 * 2 ^ 128), len := 40, down := false, done := 24 }
     let s := withWord (withWord { dmaOn with dma := [(31, { run := some r })] } 32 (BitVec.ofNat 256 5)) 64 (BitVec.ofNat 256 7)
     bitsOf r.desc 3 0 = 1 ∧ r.saved = [] ∧ min (r.len - r.done) (32 - (40 + 24) % 32) = 16 ∧ s.unitReady (.hbm 0) = true ∧
      (∀ j, j < 16 → (8 + (24 + j)) / 32 * 32 = 32) ∧ memUnit 32 = some (.hbm 0) ∧
      decodeWord (readCode s.mem 32) = .clean (BitVec.ofNat 256 5) ∧ decodeWord (readCode s.mem 64) = .clean (BitVec.ofNat 256 7)) ∧
    ((dmaOn.dc 31).run = none ∧ (dmaOn.dc 31).queue = []) ∧
    (let r : DmaRun := { desc := fillDesc, len := 64, down := false, done := 64, status := some 0 }
     let s : State := { dmaOn with dma := [(31, { run := some r })] }
     (s.dc 31).run = some r ∧ r.status = some 0 ∧ ∀ m, m < 32 → s.chkSnoops m 5 31 = false) ∧
    (let r : DmaRun := { desc := fillDesc, len := 64, down := false }
     let s : State := { dmaOn with dma := [(31, { run := some { r with desc := fillDesc + BitVec.ofNat 256 (0x001000000000 * 2 ^ 128) } })],
                                   power := { doms := [(2, .hold)] } }
     let rs : State := { dmaOn with dma := [(31, { run := some { r with desc := fillDesc + BitVec.ofNat 256 (0x001000000000 * 2 ^ 128) }, paused := true })] }
     (∃ x, (s.dc 31).run = some x ∧ x.status = none ∧ (s.dc 31).paused = false ∧ ∃ d ∈ x.domains, s.dom d = .hold) ∧
     (∃ x, (rs.dc 31).run = some x ∧ x.status = none ∧ (rs.dc 31).paused = true ∧ ∀ d ∈ x.domains, rs.dom d = .on)) := by
  and_intros <;> first | decide | exact ⟨_, rfl, by decide⟩

/-! ### Register accesses, the host port -/

/-- The address of a register's first copy in an instance. -/
def atReg (r : Reg) (inst : Nat) : Nat := 0x003000000000 + r.desc.win * 2 ^ 24 + inst * 2 ^ 16 + r.desc.off

theorem test_meets_RegisterAccesses :
    (inRegs 0x003000000002 = true ∧ inRegs 0x003000000008 = true ∧ regAt 0x003000000008 = none) ∧
    (inRegs (atReg .TLY_CTRL 0) = true ∧ atReg .TLY_CTRL 0 % 4 = 0 ∧ regAt (atReg .TLY_CTRL 0) = some { reg := .TLY_CTRL, inst := 0 }) ∧
    (regAt (atReg .DMA_RGN_CFG 0) = some { reg := .DMA_RGN_CFG, inst := 0 } ∧ regAt (atReg .EVT_STAT 0) = some { reg := .EVT_STAT, inst := 0 }) ∧
    ((regAt (atReg .HST_DB_DEST_LO 0)).map (fun x => (x.reg, x.reg.isPage)) = some (.HST_DB_DEST_LO, true) ∧ Src.isRake (Src.rake 103) = true) ∧
    (regAt (atReg .TIM_TXTS_STAT 0) = some { reg := .TIM_TXTS_STAT, inst := 0 } ∧
      regAt (atReg .LN_LANE_STAT 0) = some { reg := .LN_LANE_STAT, inst := 0 } ∧ regAt (atReg .TWN_ERR 0) = some { reg := .TWN_ERR, inst := 0 } ∧
      regAt (atReg .PMU_TAG_CNT 255) = some { reg := .PMU_TAG_CNT, inst := 255 }) ∧
    regAt (atReg .EVT_LOST 0) = some { reg := .EVT_LOST, inst := 0 } ∧ hasRc (Reg.desc .TLY_CTRL).fields = false := by
  and_intros <;> decide

theorem test_meets_PairAccesses :
    (inRegs (atReg .TIM_OP_SEC_LO 0) = true ∧ atReg .TIM_OP_SEC_LO 0 % 4 = 0 ∧
      regAt (atReg .TIM_OP_SEC_LO 0) = some { reg := .TIM_OP_SEC_LO, inst := 0 } ∧ Reg.isPage .TIM_OP_SEC_LO = false ∧
      Reg.upper .TIM_OP_SEC_LO = some .TIM_OP_SEC_HI ∧ up.flag F.TIM_TOUT_CTRL_EN 0 0 = false) ∧
    (regAt (atReg .TIM_OP_SEC_HI 0) = some { reg := .TIM_OP_SEC_HI, inst := 0 } ∧ Reg.lower .TIM_OP_SEC_HI = some .TIM_OP_SEC_LO ∧
      Tab.find? (4, .TIM_OP_SEC_HI, RegAt.latchKey { reg := .TIM_OP_SEC_HI, inst := 0 })
        ({ up with latches := [((4, .TIM_OP_SEC_HI, 0), 9)] } : State).latches = some 9) ∧
    (regAt (atReg .HST_DB_DEST_LO 0) = some { reg := .HST_DB_DEST_LO, inst := 0 } ∧ Src.isRake (Src.fn 0) = false ∧
      Reg.upper .HST_DB_DEST_LO = some .HST_DB_DEST_HI) := by
  and_intros <;> decide

/-- One VF, with a window of 1 MB at 1 MB. -/
def oneVf : State :=
  ((up.fset F.HST_STAT_NUMVF 0 0 1).fset F.HST_VF_WIN_BASE 0 1 1).fset F.HST_VF_WIN_LOG2 0 1 0

theorem test_meets_BarAccesses :
    (Memory.wf up.mem ∧ barOk 64 2 0 32 = true ∧ up.numVf < 64) ∧
    (let s := withWord up 0x20 (BitVec.ofNat 256 5)
     Memory.wf s.mem ∧ barOk 0 2 0x20 32 = true ∧ 0 ≤ s.numVf ∧ s.barTo 0 2 0x20 32 false = .mem 0x20 ∧
      (s.readRange (Src.fn 0) 0x20 32).1 = .ok (leBytes 32 5) ∧ s.barTo 0 2 0x20 32 true = .mem 0x20 ∧ wordsOf 0x20 32 = [0x20] ∧
      memUnit 0x20 = some (.hbm 0) ∧ s.writeRefused (Src.fn 0) 0x20 (.hbm 0) = none ∧ s.flag F.MC_INJ_ARM 0 0 = false ∧
      decodeWord (readCode s.mem 0x20) = .clean (BitVec.ofNat 256 5)) ∧
    ((up.readRange (Src.fn 0) 0x20 1).1 = .poison 0x20) ∧
    (barOk 1 2 (2 ^ 20) 4 = true ∧ 1 ≤ oneVf.numVf ∧ oneVf.barTo 1 2 (2 ^ 20) 4 false = .nowhere (some 0x200000) ∧
      oneVf.barTo 1 2 (2 ^ 20 - 4) 4 false = .mem 0x1FFFFC ∧ oneVf.barTo 1 2 (2 ^ 20) 4 true = .nowhere (some 0x200000)) ∧
    (let off := atReg .TLY_CTRL 0 - 0x003000000000
     barOk 0 0 off 4 = true ∧ up.barTo 0 0 off 4 false = .regs (atReg .TLY_CTRL 0) ∧ up.barTo 0 0 off 4 true = .regs (atReg .TLY_CTRL 0) ∧
      atReg .TLY_CTRL 0 % 4 = 0 ∧ regAt (atReg .TLY_CTRL 0) = some { reg := .TLY_CTRL, inst := 0 }) := by
  and_intros <;> decide

def anEvent : EventRec := ⟨0, 0x0001, Src.ledger, false, true, false, 0, 0, 0⟩

/-- An event of the ledger waits; its route goes to ring 31 of the PF, of 16 entries. -/
def ringed (used : Nat) (x : Ring) : State :=
  { (up.fset F.HST_ROUTE_EN 0 Src.ledger 1 |>.fset F.HST_ROUTE_RING 0 Src.ledger 31 |>.fset F.HST_RING_CFG_EN 0 31 1
      |>.fset F.HST_RING_CFG_LOG2 0 31 4 |>.fset F.HST_RING_IDX_PROD 0 31 used) with
    events := [(Src.ledger, { buf := [anEvent] })], host := { rings := [(31, x)] } }

theorem test_meets_DoorbellsAndRings :
    (64 < 65 ∧ (up.hostFn 64).held.length < 16) ∧
    16 ≤ (({ up with host := { fns := [(64, { held := List.replicate 16 (0, 0) })] } } : State).hostFn 64).held.length ∧
    (let s : State := { ((up.fset F.HST_VF_SLOTS_BASE 0 64 0x3FFF).fset F.HST_VF_SLOTS_LOG2 0 64 0) with host := { fns := [(64, { held := [(0xFF00FFFF, 7), (0x3FFE, 8)] })] } }
     (s.hostFn 64).held = (0xFF00FFFF, 7) :: [(0x3FFE, 8)] ∧ bitsOf (0xFF00FFFF : W64) 16 14 = 3 ∧ bitsOf (0xFF00FFFF : W64) 23 17 = 0 ∧
      bitsOf (0xFF00FFFF : W64) 63 32 = 0 ∧ s.fget F.HST_VF_SLOTS_LOG2 0 64 = 0 ∧ s.fget F.HST_VF_SLOTS_BASE 0 64 = bitsOf (0xFF00FFFF : W64) 13 0 ∧
      ¬ s.fget F.HST_VF_SLOTS_BASE 0 64 ≤ bitsOf (0x3FFE : W64) 13 0) ∧
    (up.evSource Src.ledger).buf = [] ∧
    (let s : State := { (up.fset F.HST_ROUTE_EN 0 Src.ledger 0) with events := [(Src.ledger, { buf := [anEvent] })] }
     (s.evSource Src.ledger).buf = [anEvent] ∧ s.vfCopy anEvent = none ∧ s.flag F.HST_ROUTE_EN 0 Src.ledger = false) ∧
    (let s := ringed 16 {}
     (s.evSource Src.ledger).buf = [anEvent] ∧ s.vfCopy anEvent = none ∧ s.flag F.HST_ROUTE_EN 0 Src.ledger = true ∧
      s.fget F.HST_ROUTE_RING 0 Src.ledger = 31 ∧ s.flag F.HST_RING_CFG_EN 0 31 = true ∧ s.fget F.HST_RING_CFG_LOG2 0 31 = 4 ∧
      min (2 ^ 4) 65535 ≤ (s.fget F.HST_RING_IDX_PROD 0 31 + 65536 - s.fget F.HST_RING_IDX_CONS 0 31) % 65536) ∧
    (let s := ringed 15 { inHold := true, deferred := true }
     (s.fget F.HST_RING_IDX_PROD 0 31 + 65536 - s.fget F.HST_RING_IDX_CONS 0 31) % 65536 < min (2 ^ 4) 65535 ∧ (s.ring 31).inHold = true ∧
      (s.ring 31).deferred = true ∧ (s.evSource Src.ledger).buf = [anEvent]) ∧
    ((ringed 15 {}).ring 31).inHold = false ∧ ((ringed 15 {}).ring 31).deferred = false ∧ (31 < 32 ∧ (0 = 0 ∨ 31 = 0)) := by
  and_intros <;> decide

theorem test_meets_FunctionsAndRoutes :
    (1 ≤ 64 ∧ 64 < 65 ∧ ∀ c, c < 32 → (up.reg .HST_VF_DMA 0 64).getLsbD c = true → up.flag F.DMA_CFG_EN c 0 = false) ∧
    up.numVf = 0 ∧ (5 ≤ 5 ∧ 16 ≤ 16 ∧ 64 ≤ 64) ∧ oneVf.numVf ≤ 64 ∧
    (∀ c, c < 32 → (oneVf.reg .HST_VF_DMA 0 1).getLsbD c = true → oneVf.flag F.DMA_CFG_EN c 0 = false) ∧
    ((up.fset F.HST_RING_CFG_EN 0 2048 1).flag F.HST_RING_CFG_EN 0 2048 = true ∧ up.flag F.HST_RING_CFG_EN 0 2048 = false) ∧
    ((0x400F0001 : W32).getLsbD 0 = true ∧ bitsOf (0x400F0001 : W32) 30 26 = 16 ∧ bitsOf (0x400F0001 : W32) 25 16 < 16 ∧
      ¬ bitsOf (0x40100001 : W32) 25 16 < 16 ∧ ¬ bitsOf (0x44000001 : W32) 30 26 ≤ 16 ∧ ¬ 4 ≤ bitsOf (0x0C000001 : W32) 30 26) := by
  and_intros <;> decide

/-! ### Pans -/

/-- A rate and quality block: QPs 10, 30 and 51, a cap of 3,000 kbit/s and 100,000 bytes. -/
def rateBlk : Nat :=
  30 + 10 * 2 ^ 8 + 51 * 2 ^ 16 + 2 * 2 ^ 32 + 128 * 2 ^ 56 + 3000 * 2 ^ 64 + 100000 * 2 ^ 96 + 100 * 2 ^ 128 + 10 * 2 ^ 144 +
    100 * 2 ^ 160 + 50 * 2 ^ 192

/-- The descriptor of an AV1 programme of level 2.1: 640 × 360 at a rate, one reference, memory input, D = 8. -/
def progDesc (rate : Nat) : BitVec 1536 :=
  BitVec.ofNat 1536 (1 + 1 * 2 ^ 8 + 1 * 2 ^ 19 + 1 * 2 ^ 23 + 640 * 2 ^ 32 + 360 * 2 ^ 48 + rate * 2 ^ 64 + 1 * 2 ^ 96 + 8 * 2 ^ 128 +
    466560 * 2 ^ 160 + 20 * 2 ^ 320 + 6 * 2 ^ 328 + 0x100000 * 2 ^ 512 + 864 * 2 ^ 576 + 1 * 2 ^ 608 + rateBlk * 2 ^ 768)

def progCfg (rate : Nat) : PgmCfg := { desc := progDesc rate, blk := BitVec.ofNat 512 rateBlk }

/-- The descriptor stands in memory at 0. -/
def withDesc (s : State) (rate : Nat) : State :=
  (List.range 6).foldl (fun s i => withWord s (32 * i) ((progDesc rate).extractLsb' (256 * i) 256)) s

def onPgm (p : Pgm) : State := { up with pgms := [(63, p)] }
def cmd63 (op arg0 arg1 : Nat) : W256 := BitVec.ofNat 256 (op + 63 * 2 ^ 8 + arg0 * 2 ^ 64 + arg1 * 2 ^ 128)

/-- Entry 52 is used up. -/
def fullLedger : State :=
  { up with mcs := [(0, { st := .run })], ledger := { holdings := [(.twin, { cur := [(52, 43520)] })] } }

theorem test_meets_PanCommands_activate :
    (up.popCmd 10 15 0 (cmd63 1 0 0) = some up ∧ up.dom 17 = .on ∧ bitsOf (cmd63 1 0 0) 15 8 = 63 ∧
      cmdFormOk (cmd63 1 0 0) mask48 0 = true ∧ cmdFormOk (cmd63 1 (2 ^ 48) 0) mask48 0 = false) ∧
    ((onPgm { st := .active }).pgm 63).st ≠ .idle ∧
    (up.panLoad 15 0).1 = .inl 9 ∧
    (let s := onPgm { st := .active, cfg := progCfg 30 }
     (s.pgm 60).st = .idle ∧ bitsOf (BitVec.ofNat 256 (1 + 60 * 2 ^ 8) : W256) 15 8 = 60 ∧ (progCfg 30).limitStatus = 0 ∧
      s.panConflict 60 (progCfg 30).slots = false ∧ (s.submit ⟨Src.pan 15, .pgm 60, (progCfg 30).charge 60⟩).1 = true) ∧
    ((withDesc up 60).panLoad 15 0).1 = .inr (progCfg 60) ∧ (progCfg 60).limitStatus = 7 ∧
    ({ up with pgms := [(62, { st := .active, cfg := { desc := BitVec.ofNat 1536 (2 ^ 17) } })] } : State).panConflict 63 1 = true ∧
    (fullLedger.submit ⟨Src.pan 15, .pgm 63, (progCfg 30).charge 63⟩).1 = false ∧
    (({ up with power := { doms := [(17, .hold)] } } : State).dom 17 ≠ .on ∧
      (up.setQueue 10 15 0 [5]).popCmd 10 15 0 (cmd63 1 0 0) = none ∧ bitsOf (cmd63 3 0 0) 7 0 ≠ 1 ∧ bitsOf (cmd63 3 0 0) 7 0 ∈ [1, 2, 3] ∧
      bitsOf (cmd63 9 0 0) 7 0 ∉ [1, 2, 3] ∧ bitsOf (cmd63 9 0 0) 7 0 ∉ [0x10, 0x11] ∧ (bitsOf (cmd63 1 0 0) 15 8 / 4 = 15)) := by
  and_intros <;> decide +kernel

theorem test_meets_PanCommands_others :
    (cmdFormOk (cmd63 2 0 5) mask48 (lowMask 32) = true ∧ (up.pgm 63).st ≠ .active) ∧
    -- the descriptor that 15 loads for an ACTIVATE of programme 60 and for a MODIFY of 63
    (let s := withDesc (onPgm { st := .active, cfg := progCfg 30 }) 30
     (s.panLoad 15 0).1 = .inr (progCfg 30) ∧ (s.pgm 60).st = .idle ∧ (s.pgm 63).st = .active ∧ (progCfg 30).keeps (s.pgm 63).cfg = true ∧
      (progCfg 30).limitStatus = 0 ∧ (s.pgm 63).mods = [] ∧ (s.submit ⟨Src.pan 15, .pgm 63, (progCfg 30).charge 63⟩).1 = true ∧
      (progCfg 30).keeps { desc := progDesc 30 + 2 ^ 17 } = false ∧ (up.panLoad 15 0).1 = .inl 9 ∧
      ((withDesc up 60).panLoad 15 0).1 = .inr (progCfg 60) ∧ (progCfg 60).keeps (progCfg 60) = true ∧ (progCfg 60).limitStatus ≠ 0 ∧
      (fullLedger.submit ⟨Src.pan 15, .pgm 63, (progCfg 30).charge 63⟩).1 = false) ∧
    (cmdFormOk (cmd63 3 0 7) 0 (lowMask 32) = true ∧ bitsOf (cmd63 3 0 7) 191 128 = 7) ∧
    (let s := onPgm { st := .active, done := 7 }
     (s.pgm 63).stopAt = none ∧ (s.pgm 63).done ≤ 7) ∧
    (let x : PicRec := { c := 8, t := {}, cmd := some 5 }
     let s := onPgm { st := .active, done := 8, pics := [x, { x with c := 9 }] }
     (s.pgm 63).stopAt = none ∧ 7 < (s.pgm 63).done ∧ (s.pgm 63).pics.head? = some x ∧ x.cmd ≠ none ∧ (s.pgm 63).done ≤ x.c) ∧
    (let s := onPgm { st := .active, done := 8 }
     7 < (s.pgm 63).done ∧ (s.pgm 63).pics = [] ∧ (s.pgm 63).mods = [] ∧ (s.pgm 63).rates = []) ∧
    4 ≤ ((onPgm { pics := (List.range 4).map fun c => { c := c, t := {}, cmd := some 0 } }).pgm 63).outstanding ∧
    (let s := onPgm { st := .active, cfg := progCfg 30 }
     s.popCmd 10 127 0 (cmd63 0x10 5 999999999) = some s ∧ (s.pgm 63).outstanding < 4 ∧
      cmdFormOk (cmd63 0x10 5 999999999) mask48 (lowMask 30 + 0xFF * 2 ^ 32 + 2 ^ 48) = true ∧ (s.pgm 63).beyond = false ∧
      999999999 % 2 ^ 30 < 1000000000 ∧ ((s.pgm 63).cfgAt 0).memIn = true ∧ ¬ ((s.pgm 63).cfgAt 0).inPics ≤ 999999999 / 2 ^ 32 % 256 ∧
      (s.pgm 63).expected = none ∧ 1000000000 ≤ 1000000000 % 2 ^ 30 ∧ ((s.pgm 63).cfgAt 0).inPics ≤ 2 ^ 32 / 2 ^ 32 % 256) ∧
    (let f : Frac := (progCfg 30).frame
     let e : Frac := ⟨5000000000, 1⟩
     f.lt ((e.dist ⟨5000000000 + 8333334, 1⟩).times 4) = true ∧ f.lt ((e.dist ⟨5000000000 + 8333333, 1⟩).times 4) = false) ∧
    (let p := (onPgm { st := .active, cfg := progCfg 30, lastT := some ⟨5000000000, 1⟩ }).pgm 63
     p.expected = some (Frac.add ⟨5000000000, 1⟩ (progCfg 30).frame) ∧ p.lastCfg = progCfg 30) ∧
    ((onPgm { st := .active, stopAt := some 0, nextPic := 1 }).pgm 63).beyond = true ∧
    (cmdFormOk (cmd63 0x11 0 0) mask48 0 = true ∧ (up.cmdRead (Src.pan 15) 0 64).1 = .inl 9) ∧
    (let s := withWord (withWord (onPgm { st := .active, cfg := progCfg 30 }) 0 (BitVec.ofNat 256 rateBlk)) 32 0
     (s.cmdRead (Src.pan 15) 0 64).1 = .inr (leBytes 64 rateBlk) ∧ bytesBv 512 (leBytes 64 rateBlk) = BitVec.ofNat 512 rateBlk ∧
      blkRoiEn (BitVec.ofNat 512 rateBlk) = 0 ∧ ((s.pgm 63).cfgAt 0).blkOk (BitVec.ofNat 512 rateBlk) 0 = true ∧
      ((s.pgm 63).cfgAt 0).overRate (BitVec.ofNat 512 rateBlk) = false ∧
      ((s.pgm 63).cfgAt 0).overRate (BitVec.ofNat 512 (rateBlk + 2 ^ 64)) = true ∧
      ((s.pgm 63).cfgAt 0).blkOk (BitVec.ofNat 512 (rateBlk + 22)) 0 = false ∧
      (let roi := BitVec.ofNat 512 (rateBlk + 2 ^ 320)
       blkRoiEn roi ≠ 0 ∧ (up.cmdRead (Src.pan 15) (blkRoiAddr roi) 128).1 = .inl 9)) := by
  and_intros <;> decide +kernel

/-- A picture at time 0 with its configuration fixed. -/
def openPic (rap : Bool) (m : Nat) : PicOpen :=
  { j0 := 0, cfg := progCfg 30, rap := rap, m := m, resized := false, newBlk := true, classFloor := some false }
def picRec (o : PicOpen) : PicRec := { c := 0, t := {}, cmd := some 0, open_ := some o }
def aPlan : RowPlan := { q := 30, p := 1000, qb := 30, lgRef := 96, d := 2083, pic := 0 }

/-- Programme 63 at picture 0, with an input row of 128 × 128 samples in the ring and rows in work. -/
def smallCfg : PgmCfg :=
  { progCfg 30 with desc := BitVec.ofNat 1536 ((progDesc 30).toNat - 640 * 2 ^ 32 - 360 * 2 ^ 48 + 128 * 2 ^ 32 + 128 * 2 ^ 48) }
def smallPic (rap : Bool) (m : Nat) : PicOpen := { openPic rap m with cfg := smallCfg }
def inWork (o : PicOpen) (rows : List RowRec) : State :=
  onPgm { st := .active, cfg := o.cfg, pics := [picRec o], nextPic := 1, rows := rows, inRows := rows.length }
def aRow (i : Nat) (st : RowStage) : RowRec := { i := i, plan := aPlan, stage := st }

theorem test_meets_PanRows_idle :
    (let s := onPgm { st := .active, cfg := progCfg 30, pics := [picRec (openPic true 0)] }
     (s.pgm 63).picOf 0 = some (picRec (openPic true 0), openPic true 0) ∧ (s.pgm 63).eligible 0 (picRec (openPic true 0)) (openPic true 0) = false ∧
      s.panPick 15 = none ∧ (s.pgm 63).toFetch = none ∧ (s.pgm 63).inEc = none ∧ (s.pgm 63).rows = [] ∧ (s.pgm 63).expected = none) ∧
    (let o := smallPic false 1
     let s := inWork o [aRow 0 .running]
     (s.pgm 63).inEc = some (0, aRow 0 .running) ∧ (s.pgm 63).picOf 0 = some (picRec o, o) ∧ o.refs false ≠ 0 ∧
      (aRow 0 .running).fetched < min o.cfg.ctus (0 + 5) ∧ (aRow 0 .running).stage ≠ .encoded) := by
  and_intros <;> decide +kernel

theorem test_meets_PanRows_input :
    (let o := openPic true 0
     let s := onPgm { st := .active, cfg := progCfg 30, pics := [picRec o], inPics := [(picRec o, o)] }
     (s.pgm 63).inPics = (picRec o, o) :: [] ∧ (s.pgm 63).ring.length < o.cfg.ringRows ∧ o.cfg.memIn = true ∧
      (s.pgm 63).committed ≤ max (s.pgm 63).inRows o.j0) ∧
    (let o := openPic true 0
     let s := onPgm { st := .active, cfg := progCfg 30, pics := [picRec o], inRows := 1 }
     (s.pgm 63).picOf 0 = some (picRec o, o) ∧ (s.pgm 63).eligible 0 (picRec o) o = true ∧ o.classFloor ≠ none) ∧
    (let o := smallPic true 0
     let s := inWork o [aRow 0 .planned]
     s.panPick 15 = some 63 ∧ (s.pgm 63).toStart = some (0, aRow 0 .planned, picRec o, o) ∧ o.refs false = 0) ∧
    (let o := smallPic false 1
     let s := inWork o [aRow 0 .running]
     (s.pgm 63).toFetch = some 0 ∧ (s.pgm 63).rows[0]? = some (aRow 0 .running) ∧ (s.pgm 63).picOf 0 = some (picRec o, o) ∧
      o.j0 ≤ (s.pgm 63).committed) := by
  and_intros <;> decide +kernel

theorem test_meets_PanRows_code :
    (let o := smallPic true 0
     let s := inWork o [aRow 0 .running]
     (s.pgm 63).inEc = some (0, aRow 0 .running) ∧ (s.pgm 63).picOf 0 = some (picRec o, o) ∧ o.refs aPlan.floor = 0 ∧
      (aRow 0 .running).minCtu [] 0 = false ∧ (aRow 0 .running).minCtu [0] 0 = true ∧ o.forcedIntra 0 0 = false ∧ 0 + 1 ≠ o.cfg.ctus ∧
      1 + 1 = o.cfg.ctus ∧ (s.pgm 63).bucketBefore 0 o 0 = 0 ∧ (s.pgm 63).stopAt = none ∧
      -- a head and a CTU of 100 bytes fit; of 200,000 they do not
      0 + (100 + 4 + 16 * (o.cfg.ctus - 1) + 64) ≤ blkCapBuf o.cfg.blk + aPlan.d ∧
      ¬ 0 + (200000 + 4 + 16 * (o.cfg.ctus - 1) + 64) ≤ blkCapBuf o.cfg.blk + aPlan.d) ∧
    (let o := smallPic true 0
     let r : RowRec := { aRow 0 .encoded with head := [1, 2], ctus := List.replicate 2 [3] }
     let s := inWork o [r]
     (s.pgm 63).rows = r :: [] ∧ (s.pgm 63).picOf 0 = some (picRec o, o) ∧ s.panRoom 63 o.cfg r.size = true ∧ r.i + 1 < o.cfg.nrows ∧
      o.cfg.spec = 0 ∧ s.twin.st = .solo ∧ (s.pgm 63).sync = none ∧ (∀ m, m < 32 → s.chkSnoops m 2 63 = false) ∧
      o.cfg.paired 0 = false ∧ (s.pgm 63).stopAt = none ∧ r.deadline = false ∧ r.cf = none ∧ r.plan.floor = false ∧ r.forced = false ∧
      r.poisonMin = false) := by
  and_intros <;> decide +kernel

theorem test_meets_PanRows_late :
    (let o := smallPic true 0
     let s : State := { inWork o [aRow 0 .running] with time := { sec := 1 } }
     (s.pgm 63).picOf 0 = some (picRec o, o) ∧ o.cfg.classB = false ∧ o.cfg.abandon {} 0 ≤ s.nowNs ∧ (s.pgm 63).stopAt = none ∧
      (s.pgm 63).rows[0]? ≠ none ∧ o.classFloor ≠ none) ∧
    (let s : State := { onPgm { st := .active, cfg := progCfg 30, lastT := some {} } with time := { sec := 1 } }
     (s.pgm 63).expected = some (Frac.add {} (progCfg 30).frame) ∧ (s.pgm 63).st ≠ .idle ∧ (s.pgm 63).beyond = false ∧
      ((s.pgm 63).cfgAt 0).abandon (Frac.add {} (progCfg 30).frame) 0 ≤ s.nowNs ∧
      ({ s with time := {} } : State).nowNs < ((s.pgm 63).cfgAt 0).abandon (Frac.add {} (progCfg 30).frame) 0) := by
  and_intros <;> decide +kernel

theorem test_meets_RowsKeepTheCap : (progCfg 30).n0 ≤ 0 ∧ guardFails 0 1 0 68 0 0 = false ∧ 0 < 1 ∧ 0 ≤ 16 * (1 - (0 + 1)) ∧ 64 ≤ 64 ∧
    (let pl := planRow { v := 0, histRap := [100] } (openPic true 0) 0 0 0 0 0 false false
     pl.floor = false ∧ 30 ≤ pl.q) ∧
    (planRow { v := 100000, histRap := [1000000] } (openPic true 0) 0 0 0 100000 0 false false).floor = true := by
  and_intros <;> decide +kernel

/-! ### Sluices, compositors, heads -/

/-- The state with the n words of a number written from a on. -/
def withBits (s : State) (a n v : Nat) : State :=
  (List.range n).foldl (fun s i => withWord s (a + 32 * i) (BitVec.ofNat 256 (v / 2 ^ (256 * i)))) s

theorem withBits_succ (s : State) (a n v : Nat) :
    withBits s a (n + 1) v = withWord (withBits s a n v) (a + 32 * n) (BitVec.ofNat 256 (v / 2 ^ (256 * n))) := by
  unfold withBits
  rw [List.range_succ, List.foldl_append]
  simp only [List.foldl_cons, List.foldl_nil]

theorem withBits_eq (s : State) (a n v : Nat) : withBits s a n v = { s with mem := (withBits s a n v).mem } := by
  induction n with
  | zero => simp only [withBits, List.range_zero, List.foldl_nil]
  | succ n ih => rw [withBits_succ, ih]; simp only [withWord]

theorem withBits_code {s : State} {a n : Nat} (v : Nat) (h : Memory.wf s.mem) (ha : a % 32 = 0) (hn : a + 32 * n ≤ 2 ^ 48) :
    Memory.wf (withBits s a n v).mem ∧
    ∀ i, i < n → readCode (withBits s a n v).mem (a + 32 * i) = encodeWord (BitVec.ofNat 256 (v / 2 ^ (256 * i))) := by
  induction n with
  | zero => exact ⟨by simpa only [withBits, List.range_zero, List.foldl_nil] using h, fun i hi => by omega⟩
  | succ n ih =>
    obtain ⟨hw, hi⟩ := ih (by omega)
    have e : (withBits s a (n + 1) v).mem =
        writeCode (withBits s a n v).mem (a + 32 * n) (encodeWord (BitVec.ofNat 256 (v / 2 ^ (256 * n)))) := by
      rw [withBits_succ]; simp only [withWord]
    rw [e]
    refine ⟨writeCode_wf _ _ hw, fun i hin => ?_⟩
    by_cases hE : i = n
    · subst hE; exact readCode_writeCode _ _ hw (by omega)
    · rw [readCode_writeCode_ne _ _ _ hw (by omega) (by omega) (by omega) (by omega) (by omega)]
      exact hi i (by omega)

/-- Whether the n words from a on can be read. -/
def readable (s : State) (a n : Nat) : Bool :=
  (List.range n).all fun i => match memUnit (a + 32 * i) with | some u => s.unitReady u | none => false

/-- The read of the words written gives the bytes of the number. -/
theorem withBits_reads {s : State} {a n m : Nat} (v req : Nat) (h : Memory.wf s.mem) (ha : a % 32 = 0) (hn : a + 32 * n ≤ 2 ^ 48)
    (h1 : m ≤ 32 * n) (h2 : 32 * n < m + 32) (hu : readable s a n = true) :
    ((withBits s a n v).readRange req a m).1 = .ok (leBytes m v) := by
  have hc := (withBits_code v h ha hn).2
  have hw := wordsOf_aligned ha h1 h2
  rw [readRange_clean req a m (fun w => BitVec.ofNat 256 (v / 2 ^ (256 * ((w - a) / 32))))]
  · rw [hw, ha, List.flatMap_map, List.drop_zero]
    have e : ∀ i : Nat, leBytes 32 (BitVec.ofNat 256 (v / 2 ^ (256 * ((a + 32 * i - a) / 32)))).toNat = leBytes 32 (v / 256 ^ (32 * i)) := by
      intro i
      rw [show (a + 32 * i - a) / 32 = i by omega, BitVec.toNat_ofNat, show (2 : Nat) ^ 256 = 256 ^ 32 by decide, leBytes_mod,
        show (2 : Nat) ^ (256 * i) = 256 ^ (32 * i) by rw [show 256 * i = 8 * (32 * i) by omega, Nat.pow_mul]]
    simp only [e]
    rw [leBytes_flatMap, take_leBytes m (32 * n) v h1]
  · intro w hx
    rw [hw] at hx
    obtain ⟨i, hi, rfl⟩ := List.mem_map.mp hx
    have hr := List.all_eq_true.mp hu i hi
    rw [List.mem_range] at hi
    rw [hc i hi, show (a + 32 * i - a) / 32 = i by omega]
    split at hr
    · next u e => exact ⟨decodeWord_encodeWord _, u, e, by rw [withBits_eq]; exact hr⟩
    · simp at hr

/-- A command of opcode op and select sel. -/
def cmdOf (op sel arg0 arg1 : Nat) : W256 := BitVec.ofNat 256 (op + sel * 2 ^ 8 + arg0 * 2 ^ 64 + arg1 * 2 ^ 128)

/-- A context descriptor: 16 × 16 pictures at 25 a second, two buffers of each kind. -/
def sluDesc : Nat :=
  16 * 2 ^ 32 + 16 * 2 ^ 48 + 25 * 2 ^ 64 + 1 * 2 ^ 96 + 1 * 2 ^ 128 + 2 * 2 ^ 144 + 2 * 2 ^ 152 + 32 * 2 ^ 160 +
    0x10000 * 2 ^ 192 + 0x20000 * 2 ^ 256 + 4096 * 2 ^ 320 + 6 * 2 ^ 352 + 0x30000 * 2 ^ 384

def withSlu (s : State) (x : SluCtx) : State := { s with slus := [((3, 7), x)] }

def opened : SluCtx := { st := .opened, desc := BitVec.ofNat 512 sluDesc }

def aPic : AuPic :=
  { profile := 1, codedW := 16, codedH := 16, cropX := 0, cropY := 0, w := 16, h := 16, fmt := 0, bits10 := false, cp := 1, tc := 1,
    mc := 1, full := false, rap := true, names := [0], interlaced := false, topFirst := false, grain := false }

def anAu : AuInfo := { items := [.frame aPic], errors := [] }

def heldPic (waiting : Bool) : SluPic :=
  { buf := 1, pic := aPic, names := [], waiting := waiting, concealed := false, decCnt := 0, pts := 0 }

theorem test_meets_SluiceCommands :
    (up.popCmd 11 3 7 (cmdOf 1 0 0 0) = some up ∧ up.dom 125 = .on ∧ bitsOf (cmdOf 1 0 0 0) 15 8 = 0) ∧
    (cmdFormOk (cmdOf 1 0 0 0) mask48 0 = true ∧ (up.slu 3 7).st = .closed ∧ (up.cmdRead (Src.slu 3) 0 64).1 = .inl 9) ∧
    (let s := withBits up 0 2 sluDesc
     (s.cmdRead (Src.slu 3) 0 64).1 = .inr (leBytes 64 sluDesc) ∧ bytesBv 512 (leBytes 64 sluDesc) = BitVec.ofNat 512 sluDesc) ∧
    (({ desc := BitVec.ofNat 512 sluDesc } : SluCtx).descOk = true ∧ ({ desc := BitVec.ofNat 512 (sluDesc + 3) } : SluCtx).descOk = false ∧
      (up.submit ⟨Src.slu 3, .sluCtx 3 7, opened.charge 3⟩).1 = true ∧
      (fullLedger.submit ⟨Src.slu 3, .sluCtx 3 7, opened.charge 3⟩).1 = false) ∧
    ((up.setQueue 11 3 7 [5]).popCmd 11 3 7 (cmdOf 1 0 0 0) = none ∧ bitsOf (cmdOf 2 0 0 0) 7 0 ≠ 1 ∧ bitsOf (cmdOf 2 0 0 0) 7 0 ∈ [1, 2, 3, 4] ∧
      bitsOf (cmdOf 5 0 0 0) 7 0 ∉ [1, 2, 3, 4] ∧ cmdFormOk (cmdOf 1 0 (2 ^ 50) 0) mask48 0 = false ∧
      ({ up with power := { doms := [(125, .hold)] } } : State).dom 125 ≠ .on) ∧
    (cmdFormOk (cmdOf 4 0 0 0) 0 0 = true ∧ ((withSlu up opened).slu 3 7).st ≠ .closed) ∧
    (let c := cmdOf 2 0 (2 ^ 36 * 32) 7
     cmdFormOk c (lowMask 64 - 2 ^ 35) (lowMask 64) = true ∧ bitsOf c 127 64 / 2 ^ 36 ≠ 0 ∧ bitsOf c 127 64 / 2 ^ 36 = 32 ∧
      bitsOf c 127 64 % 2 ^ 35 = 0) ∧
    ((withSlu up { opened with st := .flushing }).slu 3 7).st = .flushing ∧
    (let s := withSlu (withWord up 0 5) opened
     (s.slu 3 7).st = .opened ∧ wordsOf 0 32 = [0] ∧ (s.readOpen (Src.slu 3) 0 32 [0] [] []).1 = (leBytes 32 5, []) ∧
      (up.readOpen (Src.slu 3) 0 32 [0] [] []).1.2.head? = some 0) := by
  and_intros <;> decide +kernel

/-- A unit that codes a picture that nothing holds up, one whose only buffers are held, one that is rejected, one of no picture; and
what a FLUSH finds. -/
theorem test_meets_SluiceCommands_units :
    let full : SluCtx := { opened with pics := [{ heldPic false with names := [3] }, { heldPic false with buf := 0, names := [4] }] }
    opened.half = none ∧
    (opened.rejectsUnit anAu = none ∧ anAu.items = [.frame aPic] ∧ anAu.errors = [] ∧ opened.rejects aPic = none ∧ aPic.field = none ∧
      aPic.retain = none ∧ (opened.outBefore aPic).missing aPic = [] ∧ (opened.outBefore aPic).freeBuf = some 0 ∧ aPic.names ≠ []) ∧
    (full.rejects aPic = none ∧ (full.outBefore aPic).missing aPic = [] ∧ (full.outBefore aPic).freeBuf = none ∧
      ((full.unname fun k => !([] : List Int).contains k).outBefore { aPic with retain := some [] }).freeBuf = some 0) ∧
    opened.rejectsUnit { anAu with items := [.frame { aPic with codedW := 17 }] } = some 2 ∧
    opened.rejectsUnit { anAu with items := [.frame { aPic with profile := 9 }] } = some 0 ∧
    (let y := ((opened.unpair.unname fun _ => true).bumpAll).settle
     y.due = []) ∧
    (let x : SluCtx := { opened with pics := [heldPic true] }
     ((x.unpair.unname fun _ => true).bumpAll).settle.due ≠ []) ∧
    cmdFormOk (cmdOf 3 0 0 0) 0 0 = true ∧
    (let x : SluCtx := { opened with pics := [heldPic false], due := [1] }
     let s := withSlu up x
     (s.slu 3 7).due = 1 :: [] ∧ (s.slu 3 7).pics.find? (fun p => p.buf == 1) = some (heldPic false) ∧ x.flush = none ∧
      (x.outCnt + 65536 - s.fget F.SLU_STR_RRING_CONS 3 7) % 65536 < x.outCount ∧ (∀ m, m < 32 → s.chkSnoops m 6 (3 + 4 * 7) = false) ∧
      x.outCount ≤ (({ x with outCnt := 2 } : SluCtx).outCnt + 65536 - s.fget F.SLU_STR_RRING_CONS 3 7) % 65536) := by
  and_intros <;> decide +kernel

/-- An output to memory of 64 × 64 at 60 a second, 1000 MB/s. -/
def outDesc (type : Nat) : Nat :=
  type + 64 * 2 ^ 32 + 64 * 2 ^ 48 + 60 * 2 ^ 64 + 1 * 2 ^ 96 + 1000 * 2 ^ 192 + 0x10000 * 2 ^ 512 + 96 * 2 ^ 576 + 12288 * 2 ^ 608 + 1 * 2 ^ 640

/-- The same of two bands. -/
def tallDesc : Nat := outDesc 2 + 64 * 2 ^ 48 + 12288 * 2 ^ 608

/-- An enabled layer of RGBA8, 8 × 8 at the origin, from slot 3. -/
def layerDesc : Nat := 1 + 2 * 2 ^ 1 + 3 * 2 ^ 8 + 65535 * 2 ^ 32 + 8 * 2 ^ 96 + 8 * 2 ^ 112 + 8 * 2 ^ 160 + 8 * 2 ^ 176 + 32 * 2 ^ 192

def withOut (s : State) (x : CmpOut) : State := { s with cmps := [((7, 7), x)] }
def outCfg (d : Nat) : CmpCfg := { out := BitVec.ofNat 1024 d, layers := [(15, BitVec.ofNat 512 layerDesc)] }

theorem test_meets_CompositorConfiguration :
    (up.popCmd 12 7 7 (cmdOf 1 7 0 0) = some up ∧ up.dom 133 = .on ∧ bitsOf (cmdOf 1 7 0 0) 15 8 = 7 ∧
      cmdFormOk (cmdOf 1 7 0 0) mask48 0 = true ∧ (up.cmdRead (Src.cmp 7) 0 128).1 = .inl 9) ∧
    (let s := withBits up 0 4 (outDesc 2)
     (s.cmdRead (Src.cmp 7) 0 128).1 = .inr (leBytes 128 (outDesc 2)) ∧ bytesBv 1024 (leBytes 128 (outDesc 2)) = BitVec.ofNat 1024 (outDesc 2)) ∧
    (outOk (BitVec.ofNat 1024 (outDesc 2)) = true ∧ outOk (BitVec.ofNat 1024 0) = false ∧ outOk (BitVec.ofNat 1024 tallDesc) = true) ∧
    (cmdFormOk (cmdOf 2 7 0 15) mask48 15 = true ∧ layerOk (BitVec.ofNat 512 layerDesc) = true ∧ layerOk (BitVec.ofNat 512 0) = false) ∧
    (cmdFormOk (cmdOf 3 7 32 0) mask48 0 = true ∧ bitsOf (cmdOf 3 7 32 0) 127 64 ≠ 0 ∧ bitsOf (cmdOf 3 7 0 0) 127 64 = 0 ∧
      sigOk 0 64 64 = true ∧ sigOk 0 0 0 = false) ∧
    (let c := outCfg (outDesc 2)
     cmdFormOk (cmdOf 4 7 0 0) 0 0 = true ∧ c.refusal (fun _ => false) = none ∧ (outCfg 0).refusal (fun _ => false) = some 2 ∧ oType c.out ≠ 0 ∧
      ((withOut up { cur := c }).cmpOut 7 7).pend = none ∧ (({ cur := c } : CmpOut).cur.apply {}).out = c.out ∧
      c.out ≠ ({} : CmpOut).cur.out ∧ oType ({} : CmpOut).cur.out = 0 ∧ (({} : CmpCfg).apply { out := some c.out }).out = c.out ∧
      up.ledger.waiting = [] ∧ (up.submit ⟨Src.cmp 7, .cmpOut 7 7, outCharge 7 c.out⟩).1 = true) ∧
    (cmdFormOk (cmdOf 5 7 0 3) mask48 3 = true ∧ (outCfg (outDesc 2)).names 3 = true ∧ (outCfg (outDesc 2)).names 2 = false ∧
      ((none : Option CmpCfg).getD {}).names 3 = false) ∧
    (cmdFormOk (cmdOf 0x10 7 32 15) mask48 15 = true ∧ 33 % 32 ≠ 0) := by
  and_intros <;> decide +kernel

theorem leBytes_zero (n : Nat) : leBytes n 0 = List.replicate n 0 := by
  induction n with
  | zero => rfl
  | succ n ih => simp [leBytes, ih, List.replicate_succ]

/-- A block of zeros keeps table CMP-10; one with a byte of 1 at 0x12 does not; both can stand in memory. -/
theorem test_meets_CompositorConfiguration_colour :
    (∀ v, ((withBits up 0 1357 v).cmdRead (Src.cmp 7) 0 colourBytes).1 = .inr (leBytes colourBytes v)) ∧
    colourOk (leBytes colourBytes 0) = true ∧ colourOk (leBytes colourBytes (2 ^ 144)) = false := by
  refine ⟨fun v => ?_, ?_, ?_⟩
  · have h := withBits_reads (s := up) (a := 0) (n := 1357) (m := colourBytes) v (Src.cmp 7) (by decide) (by decide) (by decide)
      (by decide) (by decide) (by decide +kernel)
    unfold State.cmdRead
    rw [if_neg (by decide)]
    generalize (withBits up 0 1357 v).readRange (Src.cmp 7) 0 colourBytes = x at h ⊢
    obtain ⟨r, t⟩ := x
    cases h
    rfl
  · rw [leBytes_zero]
    unfold colourOk
    rw [List.all_eq_true]
    intro i hi
    simp at hi
    simp [hi]
  · unfold colourOk
    rw [List.all_eq_false]
    refine ⟨0x12, by rw [List.mem_range, leBytes_length]; decide, ?_⟩
    rw [show colourBytes = 19 + 43381 from rfl, leBytes_add, List.getElem?_append_left (by rw [leBytes_length]; decide)]
    decide

theorem test_meets_BandsAreComposed :
    (up.popCmd 12 7 7 (cmdOf 0x11 7 0 1) = some up ∧ up.dom 133 = .on ∧ bitsOf (cmdOf 0x11 7 0 1) 15 8 = 7 ∧
      cmdFormOk (cmdOf 0x11 7 0 1) 0 0xFFFF = true ∧ oType (up.cmpOut 7 7).cur.out = 0) ∧
    (let s := withOut up { cur := outCfg tallDesc, next := 1 }
     oType (s.cmpOut 7 7).cur.out = 2 ∧ bitsOf (cmdOf 0x11 7 0 1) 191 128 = (s.cmpOut 7 7).next ∧ (s.cmpOut 7 7).pend = none ∧
      (∀ m, m < 32 → s.chkSnoops m 1 (7 + 8 * 7) = false)) ∧
    (let s := withOut up { cur := outCfg tallDesc, present := [(15, 0)] }
     (s.cmpOut 7 7).next = 0 ∧ bitsOf (cmdOf 0x11 7 0 0) 191 128 = 0 ∧ lEn ((s.cmpOut 7 7).cur.layer 15) = true ∧
      lFill ((s.cmpOut 7 7).cur.layer 15) = false ∧ Tab.find? 15 (s.cmpOut 7 7).present = some 0) ∧
    (let s := withOut up { cur := outCfg (outDesc 3), next := 1 }
     oType (s.cmpOut 7 7).cur.out = 3 ∧ s.cmpTakers 7 7 (s.cmpOut 7 7).cur.out = []) ∧
    ((up.setQueue 12 7 7 [5]).popCmd 12 7 7 (cmdOf 1 7 0 0) = none ∧ bitsOf (cmdOf 9 7 0 0) 7 0 ∉ [1, 2, 3, 4, 5, 0x10, 0x11] ∧
      ({ up with power := { doms := [(133, .hold)] } } : State).dom 133 ≠ .on ∧ cmdFormOk (cmdOf 4 7 1 0) 0 0 = false) := by
  and_intros <;> decide +kernel

/-- A timing of 640 × 360 at 60 a second on one lane of 10,312,500 kbit/s, 1000 MB/s. -/
def timingDesc : Nat :=
  640 + 360 * 2 ^ 16 + 800 * 2 ^ 32 + 400 * 2 ^ 48 + 60 * 2 ^ 64 + 1 * 2 ^ 96 + 10312500 * 2 ^ 160 + 1 * 2 ^ 224 + 1000 * 2 ^ 256

/-- A plane of 8 × 8 pixels of 8 bits at the origin. -/
def planeDesc : Nat := 1 + 1 * 2 ^ 2 + 65535 * 2 ^ 32 + 8 * 2 ^ 96 + 8 * 2 ^ 112 + 32 * 2 ^ 128

/-- Head 3 with its quad ready. -/
def headOn (h : Head) : State := { (up.fset F.LN_CFG_MODE 13 0 3).fset F.LN_CFG_READY 13 0 1 with heads := [(3, h)] }

def tim : BitVec 512 := BitVec.ofNat 512 timingDesc

/-- A programme of 64 × 64 pictures that takes its input from compositor 7. -/
def fedDesc : Nat := (progDesc 30).toNat - 2 ^ 23 + 7 * 2 ^ 24 - 640 * 2 ^ 32 - 360 * 2 ^ 48 + 64 * 2 ^ 32 + 64 * 2 ^ 48
def fedCfg : PgmCfg := { progCfg 30 with desc := BitVec.ofNat 1536 fedDesc }
def fedPic : PicOpen := { openPic true 0 with cfg := fedCfg }
/-- Output 7 of compositor 7, of its type and its programme; programme 63 with an open picture or none. -/
def feeds (x : CmpOut) (pics : List (PicRec × PicOpen)) : State :=
  { withOut up x with pgms := [(63, { st := .active, cfg := fedCfg, pics := pics.map (·.1), inPics := pics })] }
def toPgm (tall band : Nat) : CmpOut := { cur := outCfg (outDesc 1 + 63 * 16 + tall * 64 * 2 ^ 48), next := band }

/-- A band of an output that feeds planes of a head, and of one that feeds a programme: which takes it, has no row free, or is not
its like. -/
theorem test_meets_BandsAreComposed_fed :
    (let s : State := { withOut up { cur := outCfg (outDesc 3 + 3 * 2 ^ 10) } with
     heads := [(3, { st := .run, timing := tim, planes := [(3, { cur := BitVec.ofNat 512 (planeDesc + 2 ^ 1 + 7 * 16 + 7 * 128) })] })] }
     oType (s.cmpOut 7 7).cur.out = 3 ∧ s.cmpTakers 7 7 (s.cmpOut 7 7).cur.out ≠ []) ∧
    (let o := (toPgm 0 0).cur.out
     let s := feeds (toPgm 0 0) [(picRec fedPic, fedPic)]
     oType o = 1 ∧ oPgm o = 63 ∧ (s.pgm 63).st = .active ∧ ((s.panNextIn 63).1.map (·.1)) = some 0 ∧ panMatches fedCfg 7 o = true ∧
      (up.pgm 63).st ≠ .active ∧ ((feeds (toPgm 0 0) []).panNextIn 63).1 = none ∧ panMatches (progCfg 30) 7 o = false) ∧
    (let s := feeds { toPgm 1 1 with mismatch := true } [(picRec fedPic, fedPic)]
     (s.cmpOut 7 7).mismatch = true ∧ (s.cmpOut 7 7).next = 1 ∧ fedCfg.memIn = false ∧ fedCfg.cmp = 7 ∧ (progCfg 30).memIn = true) := by
  and_intros <;> decide +kernel

theorem test_meets_HeadCommands :
    ((headOn { next := some (tim, 0) }).head 3).next ≠ none ∧
    (let s := headOn { st := .slave }
     (s.head 3).next = none ∧ (s.head 3).st = .slave ∧ s.popCmd 13 3 0 (cmdOf 1 0 0 0) = some s) ∧
    (let s := headOn {}
     s.popCmd 13 3 0 (cmdOf 1 0 0 0) = some s ∧ s.dom 137 = .on ∧ bitsOf (cmdOf 1 0 0 0) 15 8 = 0 ∧
      cmdFormOk (cmdOf 1 0 0 0) mask48 0 = true ∧ (s.head 3).st ≠ .stopping ∧ (s.cmdRead (Src.head 3) 0 64).1 = .inl 9) ∧
    (let s := withBits (headOn {}) 0 2 timingDesc
     (s.cmdRead (Src.head 3) 0 64).1 = .inr (leBytes 64 timingDesc) ∧ bytesBv 512 (leBytes 64 timingDesc) = tim) ∧
    (let s := headOn {}
     s.timingRefusal 3 tim = none ∧ s.timingRefusal 3 0 = some 2 ∧ up.timingRefusal 3 tim = some 16 ∧
      (s.submit ⟨Src.head 3, .head 3, timingCharge 3 tim⟩).1 = true ∧ (s.head 3).st = .off ∧ tPair tim = 0 ∧ (s.head 4).st ≠ .slave ∧
      tFtok tim = false ∧ ((headOn { st := .run }).head 3).st ≠ .off ∧
      (({ s with ledger := fullLedger.ledger, mcs := fullLedger.mcs } : State).submit ⟨Src.head 3, .head 3, timingCharge 3 tim⟩).1 = false) ∧
    (let h : Head := { st := .run, timing := tim }
     let d : BitVec 512 := BitVec.ofNat 512 planeDesc
     let h' := h.setPlane 3 { h.plane 3 with next := some d }
     cmdFormOk (cmdOf 2 0 0 3) mask48 3 = true ∧ h.st ≠ .off ∧ h.st ≠ .stopping ∧ planeOk d = true ∧ planeInside d h.timing = true ∧
      planeOk 0 = false ∧ needs h'.enabled h.timing ≤ tBudget h.timing ∧
      (let poor : BitVec 512 := BitVec.ofNat 512 (timingDesc - 1000 * 2 ^ 256)
       planeInside d poor = true ∧ tBudget poor < needs h'.enabled poor)) ∧
    (cmdFormOk (cmdOf 3 0 0 0) 0 0 = true ∧ cmdFormOk (cmdOf 0x10 0 32 3) mask48 3 = true) ∧
    ((up.setQueue 13 3 0 [5]).popCmd 13 3 0 (cmdOf 1 0 0 0) = none ∧ bitsOf (cmdOf 9 0 0 0) 7 0 ∉ [1, 2, 3, 0x10] ∧
      ({ up with power := { doms := [(137, .hold)] } } : State).dom 137 ≠ .on ∧ cmdFormOk (cmdOf 3 0 1 0) 0 0 = false) ∧
    (let pair : BitVec 512 := BitVec.ofNat 512 (timingDesc + 2 ^ 135)
     let s : State := (((up.fset F.LN_CFG_MODE 12 0 3).fset F.LN_CFG_READY 12 0 1).fset F.LN_CFG_MODE 13 0 3).fset F.LN_CFG_READY 13 0 1
     tPair pair ≠ 0 ∧ (s.head 2).st = .off ∧ s.timingRefusal 2 pair = none ∧ (s.submit ⟨Src.head 2, .head 2, timingCharge 2 pair⟩).1 = true) ∧
    (let x : HeadPlane := { cur := BitVec.ofNat 512 planeDesc }
     bitsOf (cmdOf 0x10 0 32 3) 127 64 % 32 = 0 ∧ plEn (x.next.getD x.cur) = true ∧ plRing (x.next.getD x.cur) = false ∧ x.wait = none ∧
      ({ x with wait := some (cmdOf 0x10 0 0 3, 0) } : HeadPlane).wait = some (cmdOf 0x10 0 0 3, 0) ∧
      plEn (({} : HeadPlane).next.getD ({} : HeadPlane).cur) = false) := by
  and_intros <;> decide +kernel

theorem test_meets_HeadFrames :
    let paced : BitVec 512 := BitVec.ofNat 512 (timingDesc + 2 ^ 137)
    let x : HeadPlane := { cur := BitVec.ofNat 512 planeDesc, wait := some (0, 64), surf := some 0 }
    let h : Head := { st := .run, timing := tim, line := 360, planes := [(3, x)] }
    (h.line = tVact h.timing ∧ h.st ≠ .stopping ∧ tPace h.timing = false ∧ h.next = none ∧ tPair h.timing = 0 ∧
      ({ h with st := .stopping } : Head).st = .stopping ∧ ((headOn h).head 4).st ≠ .slave) ∧
    (tPace paced = true ∧ h.teEdge = false ∧ h.line = tVact paced) ∧
    (x.next = none ∧ plEn x.cur = true ∧ plRing x.cur = false ∧ x.wait = some (0, 64)) ∧
    ((headOn h).flag F.DH_TE_LEVEL 3 0 = false ∧ (headOn h).flag F.DH_TE_LEVEL 3 0 ≠ true ∧ h.st ≠ .slave ∧ true ≠ tTepol h.timing) ∧
    (x.base = some 0 ∧ ({ h with line := 0 } : Head).fetches 3 = true ∧ x.fetched < plH x.cur ∧ x.fetched < 0 - plY x.cur + 16) ∧
    (({ h with line := 0 } : Head).missing 3 = true ∧ x.late = false) ∧
    (let g : Head := { h with line := 359, planes := [] }
     g.line < tVact g.timing ∧ ∀ k, k < 4 → g.missing k = false) ∧
    (tOut h.timing = 0 ∧ 0 < tLanes h.timing ∧ 0 + 639 * tLanes h.timing < tHact h.timing ∧ ({ black := true } : Head).black = true) ∧
    (let sdi (k : Nat) : BitVec 512 := BitVec.ofNat 512 (timingDesc + k * 2 ^ 128)
     tOut (sdi 1) = 1 ∧ tOut (sdi 2) = 2) ∧
    (let g : Head := { h with line := 359, planes := [] }
     g.acc = 0 ∧ g.ahead = 0 ∧ 10 ≤ 13 ∧ up.fget F.LN_CFG_MODE 14 0 ≠ 5) := by
  and_intros <;> decide +kernel

/-! ### Ethernet -/

/-- A UDP datagram over IPv4 from 0.0.0.0 port 0 to 0.0.0.0 port 0, its length fields for 0 to 255 bytes of payload. -/
def udpFrame (csum : Nat) (payload : List Byte) : List Byte :=
  List.replicate 12 0 ++ [0x08, 0x00, 0x45, 0x00] ++ beBytes 2 (28 + payload.length) ++ [0, 0, 0, 0, 0x40, 0x11] ++ beBytes 2 csum ++
    List.replicate 8 0 ++ [0, 0, 0, 0] ++ beBytes 2 (8 + payload.length) ++ [0, 0] ++ payload

/-- An RTP packet of timestamp 7 with one empty row header. -/
def rtpVideo : List Byte := [0x80, 96, 0, 1, 0, 0, 0, 7] ++ List.replicate 4 0 ++ List.replicate 8 0

/-- Port 7 has link 3 up, in mode 2, with no default flow. -/
def linked : State := ((up.fset F.ETH_STAT_LINK 7 0 8).fset F.ETH_CFG_MODE 7 0 2).fset F.ETH_CFG_DEFLOW 7 0 0x3FF

/-- A raw-ring flow on port 7, link 3; a video flow of 64 × 128 there. -/
def rawDesc : Nat := 2 + 7 * 2 ^ 4 + 3 * 2 ^ 7 + 11 * 2 ^ 320 + 4 * 2 ^ 328
def vidDesc : Nat :=
  1 + 7 * 2 ^ 4 + 3 * 2 ^ 7 + 1 * 2 ^ 200 + 1 * 2 ^ 208 + 64 * 2 ^ 224 + 192 * 2 ^ 240 + 96 * 2 ^ 320 + 36864 * 2 ^ 352

def withFlow (s : State) (x : RxFlow) : State := { s with net := { s.net with flows := [(1023, x)] } }
def rawFlow : RxFlow := { on := true, desc := BitVec.ofNat 512 rawDesc }
def vidFlow : RxFlow := { on := true, desc := BitVec.ofNat 512 vidDesc }

theorem test_meets_NetworkReception_frames :
    let ctl : List Byte := List.replicate 12 0 ++ [0x88, 0x08]
    let f := udpFrame 0x7AD2 []
    (linked.linkUp 7 3 = true ∧ up.linkUp 7 3 = false ∧ crc crc32 ctl ≠ crc crc32 ctl + 1) ∧
    (ctl.length + 4 ≤ 9600 ∧ classify ctl = .control ∧ classify (List.replicate 14 0) = .other ∧
      linked.fget F.ETH_CFG_DEFLOW 7 0 = 0x3FF) ∧
    (f.length + 4 ≤ 9600 ∧ classify f = .udp ⟨none, 14, 20, 0, 0, 0, []⟩ ∧
      (withFlow linked rawFlow).rxMatch 7 3 ⟨none, 14, 20, 0, 0, 0, []⟩ = some (1023, false) ∧ rxDescOk rawFlow.desc = true ∧
      rxKind rawFlow.desc = 2 ∧ rxDup rawFlow.desc = false ∧ f.length + 32 ≤ 2 ^ rxSlotLog2 rawFlow.desc ∧
      ((withFlow linked rawFlow).fget F.ETH_RXF_RING_PROD 0 1023 + 65536 - (withFlow linked rawFlow).fget F.ETH_RXF_RING_CONS 0 1023) %
        65536 < min (2 ^ rxRingLog2 rawFlow.desc) 65535 ∧
      min (2 ^ rxRingLog2 rawFlow.desc) 65535 ≤ (((withFlow linked rawFlow).fset F.ETH_RXF_RING_PROD 0 1023 16).fget F.ETH_RXF_RING_PROD 0 1023 +
        65536 - 0) % 65536) ∧
    ((withFlow linked vidFlow).rxMatch 7 3 ⟨none, 14, 20, 0, 0, 0, []⟩ = some (1023, false) ∧ rxKind vidFlow.desc = 1 ∧
      rxDup vidFlow.desc = false ∧ videoPacket [] = none ∧ classify (udpFrame 0x7ABE rtpVideo) = .udp ⟨none, 14, 20, 0, 0, 0, rtpVideo⟩ ∧
      (videoPacket rtpVideo).map VideoPacket.ts = some 7 ∧ ({ vidFlow with past := [7] } : RxFlow).past.contains 7 = true) ∧
    (let d := vidFlow.desc
     rxDescOk d = true ∧ vidFlow.past.contains 7 = false ∧ vidFlow.frames = [] ∧
      (videoPacket rtpVideo).map (fun v => v.headers.map fun h => h.inside d) = some [true]) ∧
    (let d : BitVec 512 := BitVec.ofNat 512 (rawDesc + 4)
     let u : UdpFrame := ⟨none, 14, 20, 0, 0, 0, rtpVideo⟩
     rxDup d = true ∧ rxKind d = 2 ∧ rtpSeq (.udp u) = some 1 ∧ ({ rawFlow with seen := [1] } : RxFlow).seen.contains 1 = true ∧
      rawFlow.seen.contains 1 = false) := by
  and_intros <;> decide +kernel

/-- A frame of 9,597 bytes is too long. -/
theorem test_meets_NetworkReception_long : 9600 < (List.replicate 9597 (0 : Byte)).length + 4 := by rw [List.length_replicate]; decide

theorem test_meets_NetworkReception_registers :
    (linked.linkUp 7 0 = false ∧ linked.fget F.ETH_CFG_MODE 7 0 = 2) ∧
    (let s := (up.fset F.LN_CFG_MODE 15 0 1).fset F.LN_CFG_READY 15 0 1
     let val : W32 := 0x102
     bitsOf val 1 0 = 2 ∧ val.getLsbD 8 = true ∧ s.fget F.ETH_CFG_MODE 7 0 = 0 ∧ 6 ≤ 7 ∧ s.fget F.LN_CFG_MODE 15 0 = 1 ∧
      s.flag F.LN_CFG_READY 15 0 = true ∧ up.fget F.LN_CFG_MODE 15 0 ≠ 1 ∧ up.fget F.ETH_CFG_MODE 7 0 ≠ 2 ∧
      up.fget F.ETH_CFG_MODE 7 0 ≠ 1) ∧
    (bitsOf (0 : W32) 1 0 = 0 ∧ bitsOf (0x3FF01 : W32) 1 0 = 1 ∧ bitsOf (0x3FF01 : W32) 17 8 = 1023 ∧
      ((withFlow up rawFlow).rxFlow 1023).on = true ∧ (up.rxFlow 1023).on = false ∧ bitsOf (0x3FF02 : W32) 1 0 = 2) ∧
    (let s := withBits up 0 2 rawDesc
     bitsOf (s.pair .ETH_RXF_ADDR_LO .ETH_RXF_ADDR_HI 0 0) 47 0 = 0 ∧ (s.readRange (Src.eth 0) 0 64).1 = .ok (leBytes 64 rawDesc) ∧
      rxDescOk (bytesBv 512 (leBytes 64 rawDesc)) = true ∧ rxDescOk 0 = false ∧ (up.readRange (Src.eth 0) 0 64).1 = .poison 0) ∧
    (let fr : RxFrame := { ts := 7, f := 0, reach := 2 }
     let s := withFlow up { vidFlow with frames := [fr] }
     let d := vidFlow.desc
     (s.rxFlow 1023).frames = [fr] ∧ (s.rxFlow 1023).on = true ∧ fr.next + 1 < fr.reach ∧ ¬ fr.reach ≤ fr.next + 1 ∧
      { fr with reach := 1 }.reach ≤ fr.next + 1 ∧ fr.next + 1 ≠ rxBands d ∧ fr.next < rxBands d ∧
      rxBandGroups d (fr.next + 1) ≠ rxGot fr (fr.next + 1) ∧ s.twinHolds = false ∧ (∀ m, m < 32 → s.chkSnoops m 4 1023 = false) ∧
      (up.rxFlow 1023).frames = []) := by
  and_intros <;> decide +kernel

/-- A queue descriptor: link 3, no pacing, depth 16; a transmit descriptor of 32 bytes at 0. -/
def qDesc : W256 := BitVec.ofNat 256 (3 * 2 ^ 5 + 16 * 2 ^ 64)
def txDesc : W256 := BitVec.ofNat 256 (32 * 2 ^ 48)
def openQ (pkts : List TxPkt) : TxQueue := { st := .opened, desc := qDesc, pkts := pkts }
def withTx (s : State) (x : Tsh) : State := { s with net := { s.net with tsh := [(7, x)] } }
/-- The scheduler of port 7 is enabled and its queue 511 holds packets. -/
def sending (s : State) (pkts : List TxPkt) : State := withTx (s.fset F.TSH_CTRL_EN 7 0 1) { queues := [(511, openQ pkts)] }

theorem test_meets_NetworkTransmission :
    let rel (s : State) (v : W64) : State := { s with releases := [((7, 511), [(1, v)])] }
    ((rel up 1).txWaiting 7 511 = [(1, 1)] ∧ Tab.find? (up.flow 1).rel (up.flow 1).fates ≠ some (.done []) ∧
      bitsOf (1 : W64) 47 0 % 32 ≠ 0 ∧ (up.txq 7 511).st ≠ .opened) ∧
    (let v : W64 := 0x000F000000000000
     bitsOf v 63 56 = 0 ∧ bitsOf v 47 0 % 32 = 0 ∧ ((sending up [⟨txDesc, 0⟩]).txq 7 511).st = .opened ∧
      qDepth (openQ [⟨txDesc, 0⟩]).desc < [(⟨txDesc, 0⟩ : TxPkt)].length + (bitsOf v 55 48 + 1)) ∧
    (let s := rel (sending (withWord up 0 txDesc) []) 0
     s.txWaiting 7 511 = [(1, 0)] ∧ (s.txq 7 511).st = .opened ∧ bitsOf (0 : W64) 55 48 + 1 = 1 ∧ 0 + 1 ≤ qDepth qDesc ∧
      (s.memRead (Src.tsh 7) 0).1 = .ok txDesc ∧ txDescOk qDesc txDesc = true ∧ txDescOk qDesc 0 = false ∧
      (up.memRead (Src.tsh 7) 0).1 = .poison false) ∧
    up.txPick 7 3 = none ∧
    (let s := sending (withWord linked 0 5) [⟨txDesc, 0⟩]
     s.txPick 7 3 = some 511 ∧ (s.txq 7 511).pkts = [⟨txDesc, 0⟩] ∧ (s.txq 7 511).st = .opened ∧
      (s.ledger.holding (.txq 7 511)).next = none ∧ s.linkUp 7 3 = true ∧
      (s.readRange (Src.tsh 7) (txBuf txDesc) (txLen txDesc)).1 = .ok (leBytes 32 5) ∧ txCtx txDesc = 0 ∧ txKind txDesc ≠ 2 ∧
      txTsReq txDesc = false ∧ s.twinMutes 7 511 = false ∧ (∀ m, m < 32 → s.chkSnoops m 3 (7 + 511 * 8) = false)) ∧
    (let s := sending up [⟨txDesc, 0⟩]
     s.txPick 7 3 = some 511 ∧ s.linkUp 7 3 = false) ∧
    (let d := txDesc + BitVec.ofNat 256 (5 * 2 ^ 81)
     let s := sending (withWord linked 0 5) [⟨d, 0⟩]
     s.txPick 7 3 = some 511 ∧ txCtx d = 5 ∧ (s.readRange (Src.tsh 7) (txBuf d) (txLen d)).1 = .ok (leBytes 32 5) ∧
      txTsReq d = false ∧ srtpApply (Tab.find? 5 (s.tsh 7).ctxs) (leBytes 32 5) = .inl 3 ∧ (sending up [⟨d, 0⟩]).txPick 7 3 = some 511) ∧
    (srtpApply (some { suite := 1, key := 0, salt := 0, saltLen := 14, roc := 0 }) (udpFrame 0 rtpVideo)).isRight = true ∧
    (let s := sending { linked.setReg .TWN_MUTE 0 127 0xFFFFFFFF with twin := { st := .standby } } [⟨txDesc, 0⟩]
     s.txPick 7 3 = some 511 ∧ s.twinMutes 7 511 = true ∧ s.linkUp 7 3 = true) ∧
    (let s := sending linked [⟨txDesc, 0⟩]
     s.txPick 7 3 = some 511 ∧ (s.readRange (Src.tsh 7) (txBuf txDesc) (txLen txDesc)).1 = .poison 0 ∧ (s.stamps 7).length < 64) ∧
    (let a : TxAbort := ⟨511, ⟨txDesc, 0⟩, [], 0, false⟩
     let b : TxAbort := { a with muted := true }
     Tab.find? 3 ((withTx up { abort := [(3, a)] }).tsh 7).abort = some a ∧ a.muted = false ∧
      Tab.find? 3 ((withTx up { abort := [(3, b)] }).tsh 7).abort = some b ∧ b.muted = true) ∧
    Tab.find? 3 (up.tsh 7).abort = none := by
  and_intros <;> decide +kernel

/-- A gate list at 0: one entry, a cycle of 1000 ns, `BASE` at a time in seconds; its entry opens every gate for 1000 ns. -/
def gateDesc (sec : Nat) : Nat := 1 + 1000 * 2 ^ 32 + sec * 2 ^ 94 + 255 * 2 ^ 128 + 1000 * 2 ^ 160

/-- The full ledger of a port. -/
def fullPort : State := { up with ledger := { holdings := [(.txq 7 0, { cur := [(61, 95000)] })] } }

theorem test_meets_SchedulerCommands :
    let v (op q : Nat) : W32 := BitVec.ofNat 32 (op + q * 2 ^ 8)
    let opened := sending up []
    (({ up with power := { doms := [(145, .hold)] } } : State).dom (138 + 7) ≠ .on ∧ up.dom (138 + 7) = .on ∧ bitsOf (v 1 511) 3 0 = 1 ∧
      bitsOf (v 1 511) 16 8 = 511 ∧ bitsOf ((up.setReg .TSH_ADDR_LO 7 0 1).pair .TSH_ADDR_LO .TSH_ADDR_HI 7 0) 47 0 % 32 ≠ 0) ∧
    (let s := withWord up 0 qDesc
     bitsOf (s.pair .TSH_ADDR_LO .TSH_ADDR_HI 7 0) 47 0 = 0 ∧ (s.readRange (Src.tsh 7) 0 32).1 = .ok (leBytes 32 qDesc.toNat) ∧
      bytesBv 256 (leBytes 32 qDesc.toNat) = qDesc) ∧
    (queueDescOk 0 qDesc = true ∧ queueDescOk 0 0 = false ∧ (opened.txq 7 511).st = .opened ∧ qLink qDesc ≠ qLink (qDesc - 32) ∧
      ((withTx up { queues := [(511, { st := .closing })] }).txq 7 511).st = .closing) ∧
    (let s : State := { withTx linked { queues := [(0, { st := .opened, desc := qDesc })] } with
     ledger := { holdings := [(.txq 7 0, { cur := [(61, 23750)] })] } }
     queueDescOk 2 (qDesc + BitVec.ofNat 256 (1000 * 2 ^ 32)) = true ∧ s.fget F.ETH_CFG_MODE 7 0 = 2 ∧
      23750 < s.otherLoad 7 511 3 + max (s.queueHeld 7 511) 1 ∧ ¬ 23750 < linked.otherLoad 7 511 3 + max (linked.queueHeld 7 511) 1) ∧
    (let deep : W256 := BitVec.ofNat 256 (3 * 2 ^ 5 + 4096 * 2 ^ 64)
     let s := withTx up { queues := (List.range 12).map fun k => (k, { st := .opened, desc := deep }) }
     49152 < s.otherDepth 7 511 + qDepth qDesc ∧ up.otherDepth 7 511 + qDepth qDesc ≤ 49152) ∧
    ((up.submit ⟨Src.tsh 7, .txq 7 511, [(54 + 7, qMbps qDesc)]⟩).1 = true ∧ (fullPort.submit ⟨Src.tsh 7, .txq 7 511, [(61, 1)]⟩).1 = false ∧
      (up.txq 7 511).st = .closed ∧ (up.txq 7 511).st ≠ .opened ∧ [(⟨txDesc, 0⟩ : TxPkt)] ≠ [] ∧ (opened.txq 7 511).pkts = []) ∧
    (bitsOf (v 3 0) 3 0 = 3 ∧ (up.tsh 7).op = none) ∧
    (let s := (withBits up 32 1 (gateDesc 5)).setReg .TSH_ADDR_LO 7 0 32
     bitsOf (s.pair .TSH_ADDR_LO .TSH_ADDR_HI 7 0) 47 0 = 32 ∧
      (let r := s.readRange (Src.tsh 7) 32 16
       r.1 = .ok (leBytes 16 (gateDesc 5)) ∧ (r.2.readRange (Src.tsh 7) (32 + 16) 8).1 = .ok (leBytes 8 (255 + 1000 * 2 ^ 32))) ∧
      (let d : BitVec 128 := bytesBv 128 (leBytes 16 (gateDesc 5))
       bitsOf d 8 0 = 1 ∧ bitsOf d 15 9 = 0 ∧ bitsOf d 31 17 = 0 ∧ bitsOf d 63 32 = 1000 ∧ bitsOf d 93 64 < 1000000000 ∧
        s.nowNs + s.fget F.TSH_CTRL_MARGIN 7 0 * 1000 ≤ s.unpackTime (d.extractLsb' 64 64)) ∧
      (let e : W64 := BitVec.ofNat 64 (255 + 1000 * 2 ^ 32)
       gateEntries 1 (leBytes 8 (255 + 1000 * 2 ^ 32)) = [e] ∧ bitsOf e 31 8 = 0 ∧ bitsOf e 63 32 ≠ 0)) ∧
    (let s : State := { up with time := { sec := 4 } }
     s.unpackTime (BitVec.ofNat 64 (3 * 2 ^ 30)) < s.nowNs + s.fget F.TSH_CTRL_MARGIN 7 0 * 1000) ∧
    (bitsOf (v 4 255) 3 0 = 4 ∧ bitsOf (v 4 255) 16 8 = 255 ∧ bitsOf (v 4 256) 16 8 = 256 ∧ (∀ y ∈ (up.tsh 7).queues, ∀ p ∈ y.2.pkts, txCtx p.desc ≠ 255) ∧
      (let d : W256 := BitVec.ofNat 256 (3 + 63 * 2 ^ 8)
       ((withWord up 0 d).readRange (Src.tsh 7) 0 32).1 = .ok (leBytes 32 d.toNat) ∧ bitsOf d 1 0 = 3 ∧ bitsOf d 7 2 = 0 ∧ bitsOf d 31 14 = 0 ∧
        bitsOf d 255 64 = 0 ∧ bitsOf d 13 8 = 63)) ∧
    (let l : GateList := { entries := [(255, 1000)], cycle := 1000 }
     ((withTx up { pend := some (l, 5) }).tsh 7).pend = some (l, 5) ∧ up.nowNs < 5 ∧ 0 ≤ up.nowNs ∧
      ((withTx up { op := some l }).tsh 7).op = some l) ∧
    (up.fget F.TSH_SMP_CFG_PERIOD 7 0 < 10 ∧ (up.fset F.TSH_SMP_CFG_PERIOD 7 0 10).fget F.TSH_SMP_CFG_PERIOD 7 0 = 10) := by
  and_intros <;> decide +kernel

theorem test_meets_SchedulerCommands_refused :
    let desc := txDesc + BitVec.ofNat 256 (255 * 2 ^ 81)
    let s := (withBits up 32 1 5).setReg .TSH_ADDR_LO 7 0 32
    bitsOf (0x1FF02 : W32) 3 0 = 2 ∧ (up.readRange (Src.tsh 7) 0 32).1 = .poison 0 ∧
    ((withTx up { queues := [(511, openQ [⟨desc, 0⟩])] }).tsh 7).queues = [(511, openQ [⟨desc, 0⟩])] ∧ txCtx desc = 255 ∧
    (s.readRange (Src.tsh 7) 32 16).1 = .ok (leBytes 16 5) ∧ bitsOf (bytesBv 128 (leBytes 16 5)) 63 32 = 0 ∧
    gateEntries 1 (leBytes 8 255) = [255] ∧ bitsOf (255 : W64) 63 32 = 0 := by
  and_intros <;> decide +kernel

/-! ### Audio -/

/-- A valid stereo frame of 2,083 SCLK cycles. -/
def audF (z : Bool) : AudFrame := { valid := true, sclk := 2083, subs := [⟨1, 1, false, z, 0⟩, ⟨1, 2, false, false, 1⟩] }
def audR : AudRec := { frame := audF false, write := false, blk := 0, time := 0, mask := 3, maskMark := false }
def withIn (s : State) (x : AudIn) : State := { s with audio := { s.audio with ins := [(15, x)] } }
def capturing : State := ((up.fset F.AUD_IN_STAT_LOCK 15 0 1).fset F.AUD_IN_CFG_EN 15 0 1).fset F.AUD_IN_CFG_LOG2 15 0 4

theorem test_meets_AudioCapture :
    (up.flag F.AUD_IN_STAT_LOCK 15 0 = false ∧ ({ audF false with valid := false } : AudFrame).valid = false ∧ (audF false).valid = true ∧
      (up.audIn 15).valid ≠ 7 ∧ ((withIn up { valid := 7 }).audIn 15).valid = 7 ∧ up.flag F.AUD_IN_CFG_SRC 15 0 = false ∧
      (∀ y ∈ (audF false).subs, y.viol = false)) ∧
    (let s := (up.fset F.AUD_IN_CFG_SRC 15 0 1).fset F.AUD_IN_CFG_LANE 15 0 7
     let t := (s.fset F.LN_CFG_MODE 15 0 4).fset F.LN_LANE_STAT_LOCK 15 3 1
     s.flag F.AUD_IN_CFG_SRC 15 0 = true ∧ s.fget F.AUD_IN_CFG_LANE 15 0 = 7 ∧ s.fget F.LN_CFG_MODE (14 + 7 / 4) 0 ≠ 4 ∧
      t.fget F.LN_CFG_MODE (14 + 7 / 4) 0 = 4 ∧ t.flag F.LN_LANE_STAT_LOCK (14 + 7 / 4) (7 % 4) = true) ∧
    (let f : AudFrame := { audF false with subs := [⟨1, 1, true, false, 0⟩] }
     f.subs.foldl (fun k y => if k = 3 then 3 else if y.viol && !false then k + 1 else 0) 2 = 3 ∧
      (audF false).subs.foldl (fun k y => if k = 3 then 3 else if y.viol && !false then k + 1 else 0) 2 ≠ 3) ∧
    (capturing.flag F.AUD_IN_STAT_LOCK 15 0 = true ∧ capturing.flag F.AUD_IN_CFG_EN 15 0 = true ∧ (capturing.audIn 15).win.length < 63 ∧
      (audF true).z = true ∧ (audF false).z = false ∧ (capturing.audIn 15).writing = false) ∧
    (let x : AudIn := { win := List.replicate 63 audR }
     x.win.length = 63 ∧ x.writing = false ∧ (∀ r ∈ x.win, r.write = false)) ∧
    ((capturing.audIn 15).word = [] ∧ ((withIn capturing { word := List.replicate 7 0 }).audIn 15).word.length < 8 ∧
      (List.replicate 7 (0 : W32)) ≠ []) ∧
    ((0x1001 : W32).getLsbD 0 = true ∧ 4 ≤ bitsOf (0x1001 : W32) 12 8 ∧ bitsOf (0x1001 : W32) 12 8 ≤ 16 ∧ ¬ 4 ≤ bitsOf (0x0301 : W32) 12 8 ∧
      up.flag F.AUD_IN_CFG_EN 15 0 = false ∧ (0x1000 : W32).getLsbD 0 = false) ∧
    (let r : AudRec := { audR with write := true }
     r.write = true ∧ audWords (capturing.flag F.AUD_IN_CFG_SRC 15 0) false (capturing.audIn 15).fresh r ≠ [] ∧
      (capturing.fget F.AUD_IN_RING_PROD 15 0 + 65536 - capturing.fget F.AUD_IN_RING_CONS 15 0) % 65536 + (0 + 2 + 7) / 8 ≤
        min (2 ^ capturing.fget F.AUD_IN_CFG_LOG2 15 0) 65535 ∧
      min (2 ^ capturing.fget F.AUD_IN_CFG_LOG2 15 0) 65535 <
        ((capturing.fset F.AUD_IN_RING_PROD 15 0 16).fget F.AUD_IN_RING_PROD 15 0 + 65536 - 0) % 65536 + (0 + 2 + 7) / 8) := by
  and_intros <;> decide +kernel

theorem test_meets_AudioWords :
    let r : AudRec := { audR with write := true }
    let own := audWords false false true r
    r.write = true ∧ own ≠ [] ∧ (capturing.audIn 15).lost = false ∧ (capturing.audIn 15).drops = 0 ∧
    (capturing.fget F.AUD_IN_RING_PROD 15 0 + 65536 - capturing.fget F.AUD_IN_RING_CONS 15 0) % 65536 + (0 + own.length + 7) / 8 ≤
      min (2 ^ capturing.fget F.AUD_IN_CFG_LOG2 15 0) 65535 ∧
    min (2 ^ capturing.fget F.AUD_IN_CFG_LOG2 15 0) 65535 <
      ((capturing.fset F.AUD_IN_RING_PROD 15 0 16).fget F.AUD_IN_RING_PROD 15 0 + 65536 - 0) % 65536 + (0 + own.length + 7) / 8 := by
  and_intros <;> decide +kernel

theorem test_meets_AudioPlayout :
    let on := (up.fset F.AUD_OUT_CFG_EN 31 0 1).fset F.AUD_OUT_CFG_RATE 31 0 2
    let out (x : AudOut) : State := { on with audio := { on.audio with outs := [(15, x)] } }
    (on.flag F.AUD_OUT_CFG_EN (16 + 15) 0 = true ∧ up.flag F.AUD_OUT_CFG_EN (16 + 15) 0 = false ∧ (0x20001 : W32).getLsbD 0 = true ∧
      bitsOf (0x20001 : W32) 18 16 ≠ 0 ∧ bitsOf (1 : W32) 18 16 = 0 ∧ (0x20000 : W32).getLsbD 0 = false) ∧
    (on.outStart 15 + 0 * 1000000000 / on.outRate 15 ≤ on.nowNs ∧ on.nowNs < on.outStart 15 + 1 * 1000000000 / on.outRate 15) ∧
    ((out { word := some (0, some 5) }).audOut 15).word = some (((out { word := some (0, some 5) }).audOut 15).k / 4, some 5) ∧
    ((out { word := some (0, none) }).audOut 15).word = some (((out { word := some (0, none) }).audOut 15).k / 4, none) ∧
    (let s := withWord (on.fset F.AUD_OUT_RING_PROD 31 0 1) 0 5
     (s.audOut 15).word = none ∧ (s.audOut 15).late = false ∧ (s.fget F.AUD_OUT_RING_PROD 31 0 + 65536 - 0 / 4 % 65536) % 65536 = 1 ∧
      (s.memRead (Src.audOut 15) 0).1 = .ok 5) ∧
    (on.fget F.AUD_OUT_RING_PROD 31 0 + 65536 - 0 / 4 % 65536) % 65536 = 0 := by
  and_intros <;> decide +kernel

/-! ### Lanes and SDI capture -/

theorem test_meets_LaneCommands :
    let prbs := (up.fset F.LN_CFG_MODE 15 0 6).fset F.LN_LANE_CTRL_PAT 15 3 1
    (bitsOf (3 : W32) 2 0 ∉ laneModes 15 ∧ bitsOf (4 : W32) 2 0 ∈ laneModes 15 ∧ up.quadBusy 15 = false ∧ up.fget F.LN_CFG_MODE 15 0 ≠ 4 ∧
      prbs.fget F.LN_CFG_MODE 15 0 = 6 ∧ prbs.quadBusy 15 = true) ∧
    (up.fget F.LN_CFG_MODE 9 0 ≠ 2 ∧ (up.fset F.LN_CFG_MODE 9 0 2).fget F.LN_CFG_MODE 9 0 = 2) ∧
    (let mir := (up.fset F.LN_CFG_MODE 15 0 5).fset F.LN_CFG_SRC 15 0 13
     bitsOf (0xC05 : W32) 2 0 = 5 ∧ bitsOf (0xC05 : W32) 11 8 = 12 ∧ mir.fget F.LN_CFG_MODE 15 0 = 5 ∧ mir.fget F.LN_CFG_SRC 15 0 = 13 ∧
      (5 : Nat) ∈ laneModes 15 ∧ mir.quadBusy 15 = false ∧ mir.laneLive 15 3 = false ∧
      (mir.fset F.LN_LANE_STAT_TXUP 13 3 1).laneLive 15 3 = true) ∧
    (bitsOf (0x0F00 : W32) 13 8 < 16 ∧ ¬ bitsOf (0x1000 : W32) 13 8 < 16 ∧ up.quadPorts 15 = [] ∧
      bitsOf (0x1000 : W32) 3 0 + bitsOf (0x1000 : W32) 13 8 + bitsOf (0x1000 : W32) 21 16 ≤ 63 ∧
      63 < bitsOf (0x3F1000 : W32) 3 0 + bitsOf (0x3F1000 : W32) 13 8 + bitsOf (0x3F1000 : W32) 21 16 ∧
      (linked.fset F.ETH_CFG_ALTQ 7 0 1).quadPorts 15 ≠ []) ∧
    (let s : State := { up with heads := [(3, { st := .run, timing := tim })] }
     (0x10000 : W32).getLsbD 16 = true ∧ s.flag F.LN_LANE_CTRL_TX_SLEEP 13 0 = false ∧ 10 ≤ 13 ∧ 13 < 14 ∧ (s.head (13 - 10)).st ≠ .off ∧
      0 < headLanes (s.head (13 - 10)).timing) ∧
    (let pat := bitsOf (0 : W32) 1 0
     prbs.fget F.LN_CFG_MODE 15 0 = 6 ∧ pat ≠ 1 ∧ (0 : W32).getLsbD 16 = false ∧ (0 : W32).getLsbD 17 = false ∧ (0 : W32).getLsbD 18 = false) ∧
    (let s := (up.fset F.LN_LANE_CTRL_TX_SLEEP 15 3 1).fset F.LN_LANE_CTRL_RX_SLEEP 15 3 1
     s.flag F.LN_LANE_CTRL_TX_SLEEP 15 3 = true ∧ s.flag F.LN_LANE_CTRL_RX_SLEEP 15 3 = true ∧ up.flag F.LN_LANE_CTRL_TX_SLEEP 15 3 = false ∧
      up.flag F.LN_LANE_CTRL_RX_SLEEP 15 3 = false ∧ (up.fset F.LN_LANE_STAT_RXUP 15 3 0).flag F.LN_LANE_STAT_RXUP 15 3 = false) ∧
    (prbs.fget F.LN_LANE_CTRL_PAT 15 3 = 1 ∧ prbs.flag F.LN_LANE_CTRL_RX_SLEEP 15 3 = false ∧ Tab.find? (15, 3) prbs.prbs = none ∧
      (List.replicate 31 true).length = 31 ∧ Tab.find? (15, 3) ({ prbs with prbs := [((15, 3), 5)] } : State).prbs = some 5) := by
  and_intros <;> decide +kernel

/-- A capture of 1920 × 1080 into two buffers. -/
def sdiDesc : W256 := BitVec.ofNat 256 (1920 + 1080 * 2 ^ 16 + 2 * 2 ^ 40 + 2560 * 2 ^ 128 + 5529600 * 2 ^ 160)
def withCap (s : State) (x : SdiCap) : State := { s with sdi := [((15, 3), x)] }
def sdiOn : State := (up.fset F.LN_CFG_MODE 15 0 4).fset F.LN_LANE_STAT_LOCK 15 3 1

theorem test_meets_SdiCapture :
    (bitsOf (0x31 : W32) 5 4 = 3 ∧ bitsOf (0x31 : W32) 1 0 = 1 ∧ bitsOf (0x32 : W32) 1 0 = 2 ∧ bitsOf (0x32 : W32) 5 4 = 3 ∧
      (up.sdiCap 15 3).on = false ∧ ((withCap up { on := true }).sdiCap 15 3).on = true) ∧
    (let s := withWord up 0 sdiDesc
     (s.readRange (Src.quad 15) (bitsOf (s.pair .LN_SDI_ADDR_LO .LN_SDI_ADDR_HI 15 0) 47 5 * 32) 32).1 = .ok (leBytes 32 sdiDesc.toNat) ∧
      bytesBv 256 (leBytes 32 sdiDesc.toNat) = sdiDesc ∧ sdiDescOk 3 sdiDesc = true ∧ sdiDescOk 3 0 = false) ∧
    (sdiOn.fget F.LN_CFG_MODE 15 0 = 4 ∧ sdiOn.flag F.LN_LANE_CTRL_RX_SLEEP 15 3 = false ∧ sdiOn.flag F.LN_LANE_STAT_LOCK 15 3 = true) ∧
    ((1920, 1080) = (sdW sdiDesc, sdH sdiDesc) ∧ (1920, 1088) ≠ (sdW sdiDesc, sdH sdiDesc)) ∧
    (let x : SdiCap := { on := true, desc := sdiDesc, inFrame := true, buf := some 1 }
     x.inFrame = true ∧ x.buf = some 1 ∧ x.sigs.length < sdBands x.desc ∧ (withCap sdiOn x).twinHolds = false ∧
      2 * sdW x.desc * sdBandLines x.desc x.sigs.length = 245760 ∧ ([] : List (BitVec 10)).length ≠ 245760 ∧
      { withCap sdiOn x with twin := { st := .active, link := true, current := true } }.twinHolds = true ∧
      sdiOn.flag F.LN_LANE_STAT_LOCK 15 3 = true ∧ (up.readRange (Src.quad 15) 0 32).1 = .poison 0 ∧
      (sdiOn.fset F.LN_LANE_CTRL_RX_SLEEP 15 3 1).flag F.LN_LANE_CTRL_RX_SLEEP 15 3 = true) ∧
    (let x : SdiCap := { on := true, desc := sdiDesc, complete := some (1, [5]), t := some 0, period := some 10, lost := true }
     let s : State := { withCap sdiOn x with time := { sec := 1 } }
     x.complete = some (1, [5]) ∧ x.t = some 0 ∧ x.period = some 10 ∧ (withCap sdiOn x).nowNs < 0 + 10 ∧ 0 + 10 ≤ s.nowNs ∧ x.lost = true ∧
      s.twinHolds = false) := by
  and_intros <;> decide +kernel

theorem test_meets_SdiCapture_samples : (List.replicate 245760 (0 : BitVec 10)).length = 245760 := List.length_replicate

/-! ### Check-value units, counters, the twin unit -/

def withChk (s : State) (x : ChkUnit) : State := { s with chk := [(31, x)] }
def chkOn : State := up.fset F.CHK_CFG_EN 31 0 1
def aBlock (incomplete : Bool) : ChkBlock := ⟨7, [1, 2, 3], incomplete⟩

theorem test_meets_CheckValueUnits :
    ((1 : W32).getLsbD 0 = true ∧ (0 : W32).getLsbD 0 = false ∧ chkOn.flag F.CHK_CFG_EN 31 0 = true ∧ up.flag F.CHK_CFG_EN 31 0 = false) ∧
    (let val : W32 := 0x60000001
     up.chkInstOk (bitsOf val 31 28) (up.fget F.CHK_INST_INST 31 0) = true ∧ bitsOf val 23 22 ≠ 3 ∧ bitsOf val 23 22 ≠ 2 ∧
      up.chkInstOk (bitsOf (0x70000001 : W32) 31 28) 0 = false ∧ bitsOf (0x60C00001 : W32) 23 22 = 3) ∧
    ((up.chkUnit 31).feed = [] ∧ (up.chkUnit 31).cur = none) ∧
    (let s := withChk up { feed := [aBlock false] }
     (s.chkUnit 31).feed = aBlock false :: [] ∧ (s.chkUnit 31).cur = none ∧ s.fget F.CHK_CFG_CMP 31 0 = 0 ∧
      (s.fset F.CHK_CFG_CMP 31 0 1).fget F.CHK_CFG_CMP 31 0 = 1 ∧ (s.fset F.CHK_CFG_CMP 31 0 2).fget F.CHK_CFG_CMP 31 0 = 2 ∧
      ((withWord s 0 5).readRange (Src.chk 31) 0 8).1 = .ok (leBytes 8 5) ∧ (s.readRange (Src.chk 31) 0 8).1 = .poison 0) ∧
    (let e : ChkExpect := .poisoned 8
     let s := withChk up { cur := some (aBlock false, [], e) }
     (s.chkUnit 31).cur = some (aBlock false, [], e) ∧ (aBlock false).incomplete = false ∧ (aBlock true).incomplete = true) ∧
    (let c := crcSel 0 ([] ++ (aBlock false).bytes)
     c.toNat = (BitVec.ofNat 64 c.toNat).toNat % 2 ^ 32 ∧ c.toNat ≠ (BitVec.ofNat 64 (c.toNat + 1)).toNat % 2 ^ 32) := by
  and_intros <;> decide +kernel

theorem test_meets_PerformanceCounters :
    (let c : PmuCounter := { en := true, int := true, event := 0x001, count := 2 ^ 48 - 1 }
     let s : State := { up with pmu := [((103, 7), c)] }
     Tab.find? (103, 7) s.pmu = some (s.counter 103 7) ∧ s.flag F.PMU_CTRL_FREEZE 255 0 = false ∧ (s.counter 103 7).en = true ∧
      (s.counter 103 7).event = 0x001 ∧ pmuTakes 103 0x001 (s.counter 103 7).inst [] = true ∧ 2 ^ 48 ≤ (s.counter 103 7).count + 1 ∧
      pmuTakes 103 0x001 1 [] = false ∧ (s.fset F.PMU_CTRL_FREEZE 255 0 1).flag F.PMU_CTRL_FREEZE 255 0 = true ∧
      (Tab.find? 103 s.tags).bind TagUnit.cur = none ∧ (s.counter 103 7).wraps = []) ∧
    (({ up with pmu := [((103, 7), { wraps := [4] })] } : State).counter 103 7).wraps = 4 :: [] ∧
    (up.fget F.PMU_DUMP_CFG_PERIOD 255 0 = 0 ∧ (up.fset F.PMU_DUMP_CFG_PERIOD 255 0 100).fget F.PMU_DUMP_CFG_PERIOD 255 0 ≠ 0) ∧
    Tab.find? 103 up.tags = none ∧
    (let u : TagUnit := { lfsr := 1, left := 0, cur := some (4, 0, 0, 0, 0) }
     let s : State := { up with tags := [(103, u)] }
     let r : Rake := { ({} : Rake) with pc := 4, devLoad := some (.scalar 4 3 false 0) }
     Tab.find? 103 s.tags = some u ∧ u.cur = some (4, 0, 0, 0, 0) ∧ (s.rake 103).devLoad = none ∧
      (({ s with rakes := [(103, r)] } : State).rake 103).devLoad ≠ none ∧ (({ s with rakes := [(103, r)] } : State).rake 103).pc = 4) := by
  and_intros <;> decide +kernel

/-- The twin unit enabled, quads Q8 and Q9 ready and locked. -/
def sluice : State :=
  [8, 9].foldl (fun s q => (((s.fset F.LN_CFG_MODE q 0 2).fset F.LN_CFG_READY q 0 1).fset F.LN_LANE_STAT_LOCK q 0 1).fset
    F.LN_LANE_STAT_LOCK q 1 1) up

def twinOn (x : Twin) : State := { sluice with twin := x }

/-- A HEARTBEAT of a peer that is the primary. -/
def beat (st : Nat) : List W64 := twinMessage 0x01 5 [BitVec.ofNat 64 (9 + st * 2 ^ 32 + 2 ^ 35), 77, 0]
def beatPayload (st : Nat) : List W64 := [BitVec.ofNat 64 (9 + st * 2 ^ 32 + 2 ^ 35), 77, 0]

def primaryPeer (st : Nat) : Peer := { count := 9, st := st, primary := true, warm := false, uid := 77, sync := 0 }

theorem test_meets_TwinRoles_enable :
    ((1 : W32).getLsbD 0 = true ∧ (0 : W32).getLsbD 0 = false ∧ up.twin.bands = [] ∧ up.twin.trans = none ∧
      up.flag F.TWN_CTRL_EN 0 0 = false ∧ (up.fset F.TWN_CTRL_EN 0 0 1).flag F.TWN_CTRL_EN 0 0 = true ∧ up.sluiceReady = false ∧
      sluice.sluiceReady = true ∧ sluice.twin.st = .solo ∧ (sluice.submit ⟨Src.twin, .twin, [(52, 2000), (53, 2000)]⟩).1 = true ∧
      (({ sluice with mcs := [] } : State).submit ⟨Src.twin, .twin, [(52, 2000), (53, 2000)]⟩).1 = false) ∧
    ((twinOn { st := .active }).twin.st ≠ .solo ∧ (twinOn { st := .active, silent := true }).twin.silent = true ∧
      (twinOn { st := .active }).twin.silent = false) ∧
    twinParse [] = none ∧ sluice.lanesLocked = true ∧
    ((twinOn { st := .active }).fset F.TWN_WDOG_PERIOD 0 0 5).fget F.TWN_WDOG_PERIOD 0 0 ≠ 0 := by
  and_intros <;> decide +kernel

theorem test_meets_TwinRoles_heartbeats :
    let s (st : TwinState) (link : Bool) : State := twinOn { st := st, link := link, seen := some 4 }
    Hears (s .pairing true) 0x01 (beat 2) 5 (beatPayload 2) ∧ Hears (s .active true) 0x01 (beat 3) 5 (beatPayload 3) ∧
    (bitsOf ((beatPayload 2).getD 0 0) 34 32 = 2 ∧ bitsOf ((beatPayload 3).getD 0 0) 34 32 = 3 ∧ bitsOf ((beatPayload 1).getD 0 0) 34 32 = 1 ∧
      (s .pairing true).wins (primaryPeer 3) = false ∧
      ((s .pairing true).fset F.TWN_STAT_PREF 0 0 1).wins { primaryPeer 3 with primary := false } = true) := by
  unfold Hears
  refine ⟨⟨by decide, by decide +kernel, .inr fun x h => ?_⟩, ⟨by decide, by decide +kernel, .inr fun x h => ?_⟩, by and_intros <;> decide +kernel⟩ <;>
    · obtain rfl : (4 : BitVec 32) = x := by simpa [twinOn] using h
      decide

/-- Control messages that a twin unit drops: damaged, another row's, a copy; a heartbeat whose sender has changed its state; a peer
whose pulse is missing. -/
theorem test_meets_TwinRoles_dropped :
    (sluice.twin.st = .solo ∧ twinParse ((beat 2).map fun w => w + 1) = none ∧ (twinParse (beat 2)).map Prod.fst = some 0x01 ∧
      (twinParse (beat 2)).map (fun m => m.2.1) = some 5 ∧ (0x01 : Nat) ≠ 0x0C ∧ twinIsBulk 0x01 = false ∧
      ((5 : BitVec 32) - 5).toNat = 0 ∧ 2 ^ 31 ≤ ((4 : BitVec 32) - 5).toNat) ∧
    (let s := twinOn { st := .isolated, link := true, peer := some (primaryPeer 3) }
     s.twin.peer = some (primaryPeer 3) ∧ (primaryPeer 3).st ≠ (primaryPeer 2).st ∧ s.twin.st = .isolated) ∧
    (let s := twinOn { st := .active, link := true, current := true, peerActive := true }
     s.twin.st = .active ∧ s.twin.current = true ∧ s.twin.link = true ∧ (s.twin.st ≠ .standby) ∧ s.lanesLocked = true) := by
  and_intros <;> decide +kernel

theorem test_meets_TwinRoles_changes :
    (let s := twinOn { st := .isolated, current := true, peerActive := true }
     s.twin.current = true ∧ s.twin.st = .isolated ∧ s.twin.peerActive = true) ∧
    (let s := twinOn { st := .pairing }
     s.twin.st = .pairing ∧ s.twin.current = false ∧ s.twin.link = false) ∧
    (let s := twinOn { st := .standby, current := true, link := true, peer := some { primaryPeer 3 with primary := false } }
     s.twin.peer = some { primaryPeer 3 with primary := false } ∧ s.twin.st = .standby ∧ s.twin.current = true ∧ s.twin.link = true ∧
      (s.fset F.TWN_STAT_PREF 0 0 1).wins { primaryPeer 3 with primary := false } = true ∧ s.wins (primaryPeer 3) = false) ∧
    (let s := (twinOn { st := .standby, switchAt := some 5 }).fset F.TWN_STAT_PREF 0 0 1
     s.twin.switchAt = some 5 ∧ s.nowNs < s.unpackTime 5 ∧ ({ s with time := { sec := 1 } } : State).unpackTime 5 ≤ ({ s with time := { sec := 1 } } : State).nowNs ∧
      s.primary = true ∧ s.warmReady = true ∧ (s.fset F.TWN_CFG_HOLDOFF 0 0 1).fget F.TWN_CFG_HOLDOFF 0 0 ≠ 0 ∧ s.twin.asked = false) ∧
    (twinOn { st := .standby, asked := true }).twin.switchAt = none := by
  and_intros <;> decide +kernel

theorem test_meets_TwinRoles_roles :
    Hears (twinOn { st := .standby, link := true }) 0x0C (twinMessage 0x0C 5 [2, 9]) 5 [2, 9] ∧
    (∀ k, k < 5 → bitsOf ((twinMessage 0x0C 5 [BitVec.ofNat 64 k, 9]).getD 1 0) 3 0 = k) := by
  unfold Hears
  exact ⟨⟨by decide, by decide +kernel, .inr fun x h => by cases h⟩, by decide +kernel⟩

/-- A held band of 32 bytes at 0, and its signature from the peer. -/
def held : HeldBand :=
  { sdi := false, id := 1023, band := 3, ident := 7, period := 0, crc := 11, complete := false, repeated := false, lines := [(0, 32)],
    src := Src.eth 7, dest := 0, value := 0 }

def holding (st : TwinState) (b : HeldBand) : State := twinOn { st := st, link := true, current := true, bands := [b] }

theorem test_meets_TwinBandsAndCopies_bands :
    let mine := holding .active held
    let theirs := holding .standby held
    let mended := holding .standby { held with repair := some (12, true) }
    let sig := bidWords { held with crc := 12 } true
    Hears mine 0x02 (twinMessage 0x02 5 sig) 5 sig ∧ Hears theirs 0x02 (twinMessage 0x02 5 (bidWords held true)) 5 (bidWords held true) ∧
    Hears mine 0x06 (twinMessage 0x06 5 sig) 5 sig ∧ Hears mine 0x04 (twinMessage 0x04 5 sig) 5 sig ∧
    Hears mended 0x05 (twinMessage 0x05 5 (sig ++ [BitVec.ofNat 64 (32 * 2 ^ 32), 1, 2, 3, 4])) 5 (sig ++ [BitVec.ofNat 64 (32 * 2 ^ 32), 1, 2, 3, 4]) ∧
    (mine.twin.bands = [held] ∧ held.released = none ∧ held.sent = false ∧ mine.twinHolds = true ∧ theirs.twinHolds = true ∧
      mine.sameBand held (bidOf (sig.getD 0 0) (sig.getD 1 0)) = true ∧
      (bidOf (sig.getD 0 0) (sig.getD 1 0)).crc ≠ held.crc ∧ (bidOf (sig.getD 0 0) (sig.getD 1 0)).complete = held.complete ∧
      ({ held with repair := some (12, true) } : HeldBand).repair = some (12, true) ∧ held.got = [] ∧ held.size ≤ 32 ∧ 31 < held.size ∧
      (twinOn { st := .active }).twin.bands = [] ∧ (twinOn { st := .active }).twinHolds = false) ∧
    (let p := bidOf (sig.getD 0 0) (sig.getD 1 0)
     let was := holding .active { held with released := some 0 }
     mine.heldFor p = some (0, held) ∧ was.heldFor p = none ∧ was.sameBand { held with released := some 0 } p = true ∧
      mine.sameBand { held with band := 4 } p = false ∧ was.twin.peerBands = [] ∧ held.repair = none ∧
      ([held].findIdx? fun b => b.released.isNone) = some 0 ∧ held.size ≤ ((Tab.set held.got 0 32).map fun g => g.2).sum) := by
  unfold Hears
  exact ⟨⟨by decide, by decide +kernel, .inr fun x h => by cases h⟩, ⟨by decide, by decide +kernel, .inr fun x h => by cases h⟩,
    ⟨by decide, by decide +kernel, .inr fun x h => by cases h⟩, ⟨by decide, by decide +kernel, .inr fun x h => by cases h⟩,
    ⟨by decide, by decide +kernel, .inl (by decide)⟩, by and_intros <;> decide +kernel, by and_intros <;> decide +kernel⟩

/-- A standby that compares programme 63, with a row of it. -/
def comparing (rows : List RowSig) (last : Tab Nat (Nat × Nat)) : State :=
  (twinOn { st := .standby, rows := rows, lastFi := last }).setTwinSync (BitVec.ofNat 64 (2 ^ 63))

theorem test_meets_TwinBandsAndCopies_rows :
    let own : RowSig := ⟨63, 9, 11, 4⟩
    let pl (crc fi : Nat) : List W64 := [BitVec.ofNat 64 (63 + fi * 2 ^ 8 + crc * 2 ^ 32), 9]
    Hears (comparing [own] []) 0x03 (twinMessage 0x03 5 (pl 12 6)) 5 (pl 12 6) ∧
    ((comparing [own] []).compares 63 = true ∧ (twinOn { st := .active }).compares 63 = false ∧
      ((pl 12 6).getD 0 0).extractLsb' 32 32 = 12 ∧ bitsOf ((pl 12 6).getD 0 0) 5 0 = 63 ∧ bitsOf ((pl 12 6).getD 0 0) 15 8 = 6 ∧
      ((pl 12 6).getD 1 0).extractLsb' 0 32 = 9) ∧
    ((comparing [own] []).twin.rows.find? (fun r => r.same ⟨63, 9, 12, 6⟩) = some own ∧ (comparing [] []).twin.rows = [] ∧
      own.crc ≠ 12 ∧ own.crc = (⟨63, 9, 11, 6⟩ : RowSig).crc) ∧
    -- the codes of table TWN-6: the active's count moved, the standby's, both, neither
    ((Tab.getD (comparing [own] [(63, (5, 4))]).twin.lastFi 63 (6, 4)) = (5, 4) ∧ (Tab.getD (comparing [own] [(63, (6, 3))]).twin.lastFi 63 (6, 4)) = (6, 3) ∧
      (Tab.getD (comparing [own] []).twin.lastFi 63 (6, 4)) = (6, 4)) := by
  unfold Hears
  exact ⟨⟨by decide, by decide +kernel, .inr fun x h => by cases h⟩, by and_intros <;> decide +kernel⟩

/-- A sync list at 0: the mask of programme 63, LEAD 2, no segment. -/
def listWord : W256 := BitVec.ofNat 256 (2 ^ 63 + 2 * 2 ^ 72)

/-- An active part that may start a copy, with programme 63 ACTIVE. -/
def copying : State :=
  { withWord sluice 0 listWord with
    twin := { st := .active, link := true, peer := some (primaryPeer 3) }
    pgms := [(63, { st := .active, cfg := progCfg 30, lastT := some {} })] }

def atStandby (y : SyncTrans) : State := twinOn { st := .standby, link := true, trans := some y }
def aTrans (active : Bool) : SyncTrans := { num := 5, active := active, mask := BitVec.ofNat 64 (2 ^ 63), segs := [(0, 64)] }

theorem test_meets_TwinBandsAndCopies_copies :
    (bitsOf (1 : W32) 3 0 = 1 ∧ bitsOf (2 : W32) 3 0 = 2 ∧ up.maySync = false ∧ copying.maySync = true ∧
      copying.readSyncList.1.map SyncList.mask = some (BitVec.ofNat 64 (2 ^ 63)) ∧ copying.readSyncList.1.map SyncList.lead = some 2 ∧
      copying.readSyncList.1.map SyncList.segs = some [] ∧ sluice.readSyncList.1.isNone = true ∧
      ({ copying with mem := [] } : State).maySync = true ∧ ({ copying with mem := [] } : State).readSyncList.1.isNone = true ∧
      (copying.pgm 63).st = .active ∧ (copying.pgm 63).lastT.isSome = true ∧
      (copying.fset F.TWN_CTRL_AUTO 0 0 1).flag F.TWN_CTRL_AUTO 0 0 = true ∧ copying.twin.peer = some (primaryPeer 3)) ∧
    ((aTrans true).active = true ∧ (aTrans true).todo = [] ∧ ({ aTrans true with segsSent := true } : SyncTrans).segsSent = true ∧
      ({ aTrans true with todo := [63] } : SyncTrans).todo ≠ [] ∧ (aTrans false).active = false ∧ (aTrans false).commit = none ∧
      ({ aTrans false with commit := some (1, 2) } : SyncTrans).commit ≠ none ∧ (aTrans false).mask.getLsbD 63 = true ∧
      (aTrans false).mask.getLsbD 62 = false ∧ up.twin.trans = none ∧
      (maskPgms (BitVec.ofNat 64 (2 ^ 63))).filter (fun k => (copying.pgm k).st == .active && (copying.pgm k).lastT.isSome) = [63] ∧
      (maskPgms (BitVec.ofNat 64 (2 ^ 62))).filter (fun k => (copying.pgm k).st == .active && (copying.pgm k).lastT.isSome) = [] ∧
      (copying.activePgms = [63])) := by
  and_intros <;> decide +kernel

theorem test_meets_TwinBandsAndCopies_messages :
    let s := atStandby (aTrans false)
    let rec_ : List W64 := BitVec.ofNat 64 (5 + 63 * 2 ^ 16) :: List.replicate 128 0
    let seg : List W64 := [5, BitVec.ofNat 64 (32 + 32 * 2 ^ 32), 1, 2, 3, 4]
    Hears s 0x0B (twinMessage 0x0B 5 [5]) 5 [5] ∧ Hears s 0x08 (twinMessage 0x08 5 rec_) 5 rec_ ∧ Hears s 0x09 (twinMessage 0x09 5 seg) 5 seg ∧
    Hears s 0x0A (twinMessage 0x0A 5 [BitVec.ofNat 64 (5 + 2 ^ 16), 64]) 5 [BitVec.ofNat 64 (5 + 2 ^ 16), 64] ∧
    Hears (twinOn { st := .standby }) 0x07 (twinMessage 0x07 5 [5, 1, 9]) 5 [5, 1, 9] ∧
    (bitsOf ((5 : W64)) 15 0 = 5 ∧ bitsOf (rec_.getD 0 0) 21 16 = 63 ∧ bitsOf (rec_.getD 0 0) 15 0 = 5 ∧ bitsOf (seg.getD 1 0) 31 0 = 32 ∧
      bitsOf (seg.getD 1 0) 47 32 = 32 ∧ 0 < (aTrans false).segs.length ∧ 32 + 32 ≤ ((aTrans false).segs.getD 0 (0, 0)).2 ∧
      (aTrans false).num = 5 ∧ ({ aTrans false with records := [(63, [])], segs := [] } : SyncTrans).records.length = 1) := by
  unfold Hears
  exact ⟨⟨by decide, by decide +kernel, .inr fun x h => by cases h⟩, ⟨by decide, by decide +kernel, .inl (by decide)⟩,
    ⟨by decide, by decide +kernel, .inl (by decide)⟩, ⟨by decide, by decide +kernel, .inr fun x h => by cases h⟩,
    ⟨by decide, by decide +kernel, .inr fun x h => by cases h⟩, by and_intros <;> decide +kernel⟩

/-! ### Security -/

/-- The bytes of the digest of no byte, and of the coordinates of the base point of P-384, as numbers, the first byte lowest. -/
def emptyHash : Nat :=
  0x5BB99848F1D21AD5FB656FE7BFDE4E27DAE1F663BFC70C4C4307BE1411B7FD216AE3B1B17E32D94C3896AC51A760B038
def baseX : Nat := 0xB70A7672385E543A6C2955BF5DF20255382A5482E041F759989BA78B623B1D6E74AD20F31EC7B18E37058BBE22CA87AA
def baseY : Nat := 0x5F0EEA907C1D437A9D817E1DCEB1600AC0B8F0B51331DAE97C149A28BD1DF4F829DC9292BF989E5D6F2C26964ADE1736

/-- A header of an image as a number: sequence number 7, entry 0, payload of plen bytes with the digest of no byte, the base point
as key, a signature made outside the model with the private key 1 and the nonce 1. -/
def imageNum (plen sg : Nat) : Nat :=
  0x4C4D6496 + 2 ^ 32 + 7 * 2 ^ 64 + plen * 2 ^ 128 + emptyHash * 2 ^ 512 + baseX * 2 ^ 896 + baseY * 2 ^ 1280 +
    baseX * 2 ^ 6144 + sg * 2 ^ 6528

def image (plen sg : Nat) : List Byte := leBytes 1024 (imageNum plen sg)

def signature : Nat :=
  0x838F627534E1E8DFC98F37FD209F3AD7B226ADD7A7F38B4DC87E4694AFE3D6DFC884AB438F786F08F8CD523844F3E2E9

def signed : List Byte := image 524288 signature

/-- Root key slot 0 holds the key hash of the base point. -/
def keyed : State :=
  let k : FuseSlot :=
    { hash := 0xA19D4DB171B582EB8052B0CFE555E17894AA22D1C8A9770950697DD8F796D2FA4BF0A56AD80006B7EA08E1191F814B65, valid := true }
  { up with sec := { fuses := { slots := [(0, k)] } } }

def onTrial (img : Nat) (h : List Byte) (st : TrialStage) (order : List Nat) (hs : Tab Nat (List Byte)) : State :=
  { keyed with sec := { keyed.sec with trial := some ⟨img, h, st⟩, order := order, headers := hs, bankLock := true } }

theorem test_meets_ImageTrials_headers :
    ((up.fset F.SEC_BOOT_STAT_STATE 0 0 1).fget F.SEC_BOOT_STAT_STATE 0 0 ≠ 0 ∧ (up.fset F.SEC_BOOT_STAT_MODE 0 0 1).fget F.SEC_BOOT_STAT_MODE 0 0 = 1 ∧
      (up.fset F.SEC_BOOT_STAT_RES_A 0 0 7).fget F.SEC_BOOT_STAT_RES_A 0 0 ≠ 0 ∧ (onTrial 0 [] .signature [] []).sec.trial ≠ none) ∧
    (keyed.fget F.SEC_BOOT_STAT_STATE 0 0 = 0 ∧ keyed.fget F.SEC_BOOT_STAT_MODE 0 0 = 0 ∧ keyed.sec.trial = none ∧
      keyed.fget F.SEC_BOOT_STAT_RES_A 0 0 = 0) ∧
    (headerOk signed = true ∧ headerOk [] = false ∧ headerOk (image 0 0) = false ∧ hdrSeq signed = 7 ∧ hdrSeq [] = 0) ∧
    (keyed.headerResult signed = 0 ∧ keyed.headerResult [] = 2 ∧ up.headerResult signed = 3) := by
  and_intros <;> decide +kernel

/-- The fields of an image that its signature takes in; the digest is that of its first 768 bytes. -/
theorem image_fields : hdrInt signed 0x070 = BitVec.ofNat 384 p384G.1 ∧ hdrInt signed 0x0A0 = BitVec.ofNat 384 p384G.2 ∧
    hdrInt signed 0x300 = BitVec.ofNat 384 p384G.1 ∧
    hdrInt signed 0x330 = 0xE9E2F3443852CDF8086F788F43AB84C8DFD6E3AF94467EC84D8BF3A7D7AD26B2D73A9F20FD378FC9DFE8E13475628F83 ∧
    sha384 (signed.take 0x300) = 0x3F5B292179C7C8C079BDB170508AD75471B9A84D089EE32FF394B1C75558FC7A8237ACC33DE2665DA59482FC02EC84CC := by
  and_intros <;> decide +kernel

theorem test_meets_ImageTrials_signature :
    signatureOk signed = true ∧ signatureOk [] = false ∧
    (onTrial 1 signed .signature [0] [(0, signed)]).sec.trial.map Trial.img = some 1 ∧
    (onTrial 1 [] .signature [0] [(0, signed)]).headerResult signed = 0 ∧
    (onTrial 1 [] .signature [] []).sec.order = [] ∧ (onTrial 0 [] .signature [1] []).sec.order = [1] := by
  refine ⟨?_, by decide +kernel, by decide +kernel, by decide +kernel, rfl, rfl⟩
  obtain ⟨a, b, c, d, e⟩ := image_fields
  rw [signatureOk, a, b, c, d, e]
  decide +kernel

theorem test_meets_ImageTrials_payload :
    (sha384 [] = hdrInt (image 0 0) 0x040 ∧ sha384 [] ≠ hdrInt [] 0x040 ∧ hdrPlen (image 0 0) = 0 ∧ hdrPlen [] = 0 ∧
      (onTrial 2 (image 0 0) .payload [] []).rakeOf 0 = some 0 ∧
      (onTrial 2 (image 0 0) .payload [] []).readRange Src.security 0x001000000400 0 = (.ok [], onTrial 2 (image 0 0) .payload [] [])) ∧
    (let h := (image 0 0).take 0x70
     let w := ((onTrial 1 h .payload [] []).writeRange Src.security 0x001000000000 (h ++ [])).2
     hdrPlen h = 0 ∧ sha384 [] = hdrInt h 0x040 ∧ (w.readRange Src.security 0x001000000400 0).1 = .ok []) := by
  and_intros <;> decide +kernel

/-- A failed image gives way to the next one, if there is one. -/
theorem test_meets_ImageTrials_later :
    (onTrial 1 [] .signature [0] [(0, signed)]).sec.order = [0] ∧ Tab.getD (onTrial 1 [] .signature [0] [(0, signed)]).sec.headers 0 [] = signed ∧
    (onTrial 1 [] .signature [0] [(0, [])]).headerResult [] = 2 ∧ ([] : List Byte).length ≠ hdrPlen signed ∧ (TrialStage.payload ≠ .signature) ∧
    ((up.fset F.SEC_BOOT_STAT_STATE 0 0 1).readRange Src.security 0x001000000000 1024).1 = .poison 0x001000000000 ∧
    ((onTrial 2 signed .payload [] []).readRange Src.security 0x001000000400 (hdrPlen signed)).1 = .poison 0x001000000400 := by
  and_intros <;> decide +kernel

theorem test_meets_ImageTrials_boot :
    (let r : Rake := { ({} : Rake) with st := .loading, pos := some 0, loadFrom := some 0x001000000400 }
     let s : State := { onTrial 0 signed .loading [] [] with rakes := [(103, r)] }
     (s.rake 103).st = .loading ∧ (s.rake 103).pos = some 0 ∧ (s.rake 103).loadFrom = some 0x001000000400 ∧
      s.bank (16 + 103) = .on ∧ s.imageReadable 0x001000000400 = true ∧ s.mgr.cmd = none ∧ (s.slot 0).st = .free) ∧
    (let s := (up.fset F.SEC_BOOT_STAT_STATE 0 0 1).fset F.SEC_BOOT_STAT_MODE 0 0 3
     s.fget F.SEC_BOOT_STAT_STATE 0 0 = 1 ∧ s.fget F.SEC_BOOT_STAT_MODE 0 0 = 3 ∧ s.flag F.SEC_STAT_PRES 0 0 = false ∧
      (s.fset F.SEC_STAT_PRES 0 0 1).flag F.SEC_STAT_PRES 0 0 = true) ∧ (1 : W32).getLsbD 0 = true := by
  and_intros <;> decide +kernel

/-- A header stands in the staging bank. -/
theorem test_meets_ImageTrials_staged :
    ((withBits (keyed.fset F.SEC_BOOT_STAT_STATE 0 0 1) 0x001000000000 32 (imageNum 524288 signature)).readRange
      Src.security 0x001000000000 1024).1 = .ok signed :=
  withBits_reads (imageNum 524288 signature) Src.security (by decide) (by decide) (by decide) (by decide) (by decide) (by decide +kernel)

/-- A service record as a number. -/
def recNum (op arg value hash : Nat) : Nat := op + arg * 2 ^ 8 + value * 2 ^ 32 + hash * 2 ^ 128

/-- A service record stands at 0, where its doorbell's address points to; SVC_REQ_N has been low for 1 s. -/
def service (s : State) (n : Nat) : State := withBits (s.fset F.SEC_STAT_PRES 0 0 1) 0 2 n

/-- What a record of a service command meets. -/
def Serves (s : State) (op arg : Nat) (ok wrong : Bool) : Prop :=
  ∃ b v, s.svcRead = (.ok b, v) ∧ (svcRec b).op = op ∧ (svcRec b).arg = arg ∧ (svcRec b).ok = ok ∧ s.svcWrongState (svcRec b) = wrong

theorem pair_mem (s : State) (m : List Host.Cell) (a b : Reg) (i k : Nat) :
    ({ s with mem := m } : State).pair a b i k = s.pair a b i k := rfl

theorem svcWrongState_mem (s : State) (m : List Host.Cell) (r : SvcRec) :
    ({ s with mem := m } : State).svcWrongState r = s.svcWrongState r := rfl

theorem serves (s : State) (n op arg : Nat) (ok wrong : Bool)
    (h1 : Memory.wf (s.fset F.SEC_STAT_PRES 0 0 1).mem ∧ readable (s.fset F.SEC_STAT_PRES 0 0 1) 0 2 = true ∧
      bitsOf ((s.fset F.SEC_STAT_PRES 0 0 1).pair .SEC_SVC_ADDR_LO .SEC_SVC_ADDR_HI 0 0) 47 5 = 0)
    (h2 : (svcRec (leBytes 64 n)).op = op ∧ (svcRec (leBytes 64 n)).arg = arg ∧ (svcRec (leBytes 64 n)).ok = ok ∧
      (s.fset F.SEC_STAT_PRES 0 0 1).svcWrongState (svcRec (leBytes 64 n)) = wrong) : Serves (service s n) op arg ok wrong := by
  have h := withBits_reads (m := 64) n Src.security h1.1 (by decide) (by decide) (by decide) (by decide) h1.2.1
  have hp : bitsOf ((service s n).pair .SEC_SVC_ADDR_LO .SEC_SVC_ADDR_HI 0 0) 47 5 = 0 := by
    unfold service; rw [withBits_eq, pair_mem, h1.2.2]
  have hw : (service s n).svcWrongState (svcRec (leBytes 64 n)) = wrong := by
    unfold service; rw [withBits_eq, svcWrongState_mem, h2.2.2.2]
  refine ⟨leBytes 64 n, ((service s n).readRange Src.security 0 64).2, ?_, h2.1, h2.2.1, h2.2.2.1, hw⟩
  unfold State.svcRead
  rw [hp]
  exact Prod.ext h rfl

/-- A part that may ask for a switchover. -/
def switching : State :=
  { keyed with twin := { st := .active, link := true, current := true, peer := some { primaryPeer 2 with warm := true } } }

/-- A part with usable root keys 2 and 3. -/
def twoKeys : State :=
  let k : FuseSlot := { hash := 1, valid := true }
  { up with sec := { fuses := { slots := [(2, k), (3, k)] } } }

theorem test_meets_FusesKeysAndTamper_records :
    Serves (service keyed (recNum 1 4 0 5)) 1 4 false false ∧ Serves (service keyed (recNum 1 0 0 5)) 1 0 true true ∧
    Serves (service keyed (recNum 1 3 0 5)) 1 3 true false ∧ Serves (service twoKeys (recNum 2 3 0 0)) 2 3 true false ∧
    Serves (service keyed (recNum 3 0 64 0)) 3 0 true false ∧ Serves (service keyed (recNum 3 1 1 0)) 3 1 true false ∧
    Serves (service keyed (recNum 4 1 0 0)) 4 1 true false ∧ Serves (service keyed (recNum 4 2 0 0)) 4 2 true false ∧
    Serves (service keyed (recNum 4 3 0 0)) 4 3 true true ∧ Serves (service switching (recNum 4 3 0 0)) 4 3 true false := by
  have k : Memory.wf (keyed.fset F.SEC_STAT_PRES 0 0 1).mem ∧ readable (keyed.fset F.SEC_STAT_PRES 0 0 1) 0 2 = true ∧
      bitsOf ((keyed.fset F.SEC_STAT_PRES 0 0 1).pair .SEC_SVC_ADDR_LO .SEC_SVC_ADDR_HI 0 0) 47 5 = 0 := by decide +kernel
  exact ⟨serves _ _ _ _ _ _ k (by decide +kernel), serves _ _ _ _ _ _ k (by decide +kernel), serves _ _ _ _ _ _ k (by decide +kernel),
    serves _ _ _ _ _ _ (by decide +kernel) (by decide +kernel), serves _ _ _ _ _ _ k (by decide +kernel),
    serves _ _ _ _ _ _ k (by decide +kernel), serves _ _ _ _ _ _ k (by decide +kernel), serves _ _ _ _ _ _ k (by decide +kernel),
    serves _ _ _ _ _ _ k (by decide +kernel), serves _ _ _ _ _ _ (by decide +kernel) (by decide +kernel)⟩

theorem test_meets_FusesKeysAndTamper_presence : (up.fset F.SEC_STAT_PRES 0 0 1).flag F.SEC_STAT_PRES 0 0 = true ∧
    up.flag F.SEC_STAT_PRES 0 0 = false ∧ (1 : W32).getLsbD 0 = true := by decide +kernel

theorem test_meets_FusesKeysAndTamper_keys :
    (bitsOf (0x3FE5 : W32) 1 0 = 1 ∧ bitsOf (0x3FE5 : W32) 3 2 = 1 ∧ bitsOf (0x3FE5 : W32) 7 4 = 14 ∧ bitsOf (0x3FE5 : W32) 13 8 = 63) ∧
    (bitsOf (0x3FED : W32) 3 2 = 3 ∧ bitsOf (0x3FF5 : W32) 7 4 = 15 ∧ bitsOf (0x3FE9 : W32) 3 2 = 2 ∧ bitsOf (2 : W32) 1 0 = 2) ∧
    (up.flag F.SEC_STAT_LOOP 0 0 = false ∧ (up.fset F.SEC_STAT_LOOP 0 0 1).flag F.SEC_STAT_LOOP 0 0 = true) ∧
    (up.resets.mainGood = true ∧ up.debugOpen = false ∧ (up.fset F.SEC_STAT_DBG 0 0 1).debugOpen = true) ∧
    ∀ n, n < 104 → (up.rake n).st ≠ .halt := by
  and_intros <;> decide +kernel

theorem test_meets_DebugAndBoundaryScan :
    (3 ≤ ({ up with sec := { failed := 3 } } : State).sec.failed ∧ ({ up with sec := { failed := 2 } } : State).sec.failed < 3) ∧
    (up.sec.nonce = none ∧ up.flag F.SEC_STAT_PRES 0 0 = false) ∧
    (∀ n, n < 104 → ((up.fset F.SEC_STAT_DBG 0 0 1).rake n).st ≠ .halt) ∧
    ((0x88000000 : W32).getLsbD 27 = true ∧ (0x80000000 : W32).getLsbD 27 = false) ∧
    (let s := withBits (up.fset F.SEC_STAT_DBG 0 0 1) 0 1 (7 * 2 ^ 224)
     s.debugOpen = true ∧ inRegs 0x1C = false ∧ inRegs 0x003000000000 = true ∧ ((up.fset F.SEC_STAT_DBG 0 0 1).readRange Src.security 0 4).1 =
        .poison 0 ∧ ((up.fset F.SEC_STAT_DBG 0 0 1).writeRange Src.security 0 (leBytes 4 9)).1 = .poison 0 ∧
      ((up.fset F.SEC_STAT_DBG 0 0 1).readRange Src.security (2 ^ 47) 4).1 = .addrErr (2 ^ 47) ∧ s.readRange Src.security 0x1C 4 = (.ok [7, 0, 0, 0], s) ∧
      (s.writeRange Src.security 0x1C (leBytes 4 9)).1 = .ok ∧ (s.writeRange Src.security 0x1C (leBytes 4 9)).2.debugOpen = true) := by
  and_intros <;> decide +kernel

/-- A response whose signature verifies, made outside the model for one value of the part's identifier, which stays open. -/
theorem test_meets_DebugAndBoundaryScan_response (h : Config.uid = 5) :
    let n : BitVec 256 := 9
    let qx := BitVec.ofNat 384 p384G.1
    let qy := BitVec.ofNat 384 p384G.2
    let s : State := { keyed.fset F.SEC_STAT_PRES 0 0 1 with sec := { keyed.sec with nonce := some n } }
    s.flag F.SEC_STAT_PRES 0 0 = true ∧ (s.sec.fuses.usable.any fun i => (s.sec.fuses.slot i).hash == keyHash qx qy) = true ∧
    s.sec.nonce = some n ∧ ecdsaOk qx qy (BitVec.ofNat 384 p384G.1) 
      0xE093AD708F74B92786739329E7FC4F8BFA21049B99ABDE49469B0D8E014E268560CAD7F8548E278110AC9C9D5C25A378 (sha384 (challenge n)) = true := by
  simp only [challenge, h]
  and_intros <;> decide +kernel

/-! ### Clocks, resets, power, the whole -/

theorem test_meets_ClocksAndResets :
    (up.flag F.CLK_STAT_HOLD 0 0 = false ∧ (up.fset F.CLK_STAT_HOLD 0 0 1).flag F.CLK_STAT_HOLD 0 0 = true ∧
      (up.fset F.CLK_STAT_VALIDREF 0 0 1).flag F.CLK_STAT_VALIDREF 0 0 = true ∧
      (up.fset F.CLK_STAT_VALIDREF 0 0 0).flag F.CLK_STAT_VALIDREF 0 0 = false ∧
      (up.fset F.CLK_STAT_REFOK 0 0 1).flag F.CLK_STAT_REFOK 0 0 = true ∧ (up.fset F.CLK_STAT_REFOK 0 0 0).flag F.CLK_STAT_REFOK 0 0 = false) ∧
    (((0x7F : W32).getLsbD 5 = true ∧ (0x5F : W32).getLsbD 5 = false ∧ (0x5F : W32).getLsbD 6 = true) ∧
      ((up.setReg .PWR_FEED 0 0 0x5F).reg .PWR_FEED 0 0 = 0x5F ∧ (up.setReg .PWR_FEED 0 0 0x3F).reg .PWR_FEED 0 0 = 0x3F) ∧
      up.resets.mainGood = true ∧ ({ up with resets := { up.resets with mainGood := false } } : State).resets.mainGood = false) ∧
    -- feeds 0 and 2 are good and 4 comes: every group has one; without 2 it has not
    ((∀ g, g < 3 → (5 : W32).getLsbD (2 * g) = true ∨ (5 : W32).getLsbD (2 * g + 1) = true ∨ 4 / 2 = g) ∧
      ¬ ∀ g, g < 3 → (1 : W32).getLsbD (2 * g) = true ∨ (1 : W32).getLsbD (2 * g + 1) = true ∨ 4 / 2 = g) ∧
    (up.resets.alwaysOn = false ∧ ({ up with resets := { up.resets with alwaysOn := true } } : State).resets.alwaysOn = true) ∧
    (up.flag F.CLK_RST_CFG_PERST_DEV 0 0 = true ∧ (up.fset F.CLK_RST_CFG_PERST_DEV 0 0 0).flag F.CLK_RST_CFG_PERST_DEV 0 0 = false ∧
      oneVf.numVf = 1 ∧ ∀ v, v < 2 → 1 ≤ v → ∀ c, c < 32 → (oneVf.reg .HST_VF_DMA 0 v).getLsbD c = false) ∧
    ((0x7E5D0001 : W32).getLsbD 0 = true ∧ bitsOf (0x7E5D0001 : W32) 31 16 = 0x7E5D ∧ (0x7E5D0000 : W32).getLsbD 0 = false) ∧
    ((100 : BitVec 8).toInt = 100 ∧ (94 : BitVec 8).toInt < 95 ∧ (0xD8 : BitVec 8).toInt = -40 ∧ up.flag F.PWR_TEMP_WARN 0 0 = false ∧
      (up.fset F.PWR_TEMP_WARN 0 0 1).flag F.PWR_TEMP_WARN 0 0 = true) ∧
    (State.reset.resets.tripped = false ∧
      let s : State := { up with resets := { device := true, alwaysOn := false, mainGood := true, tripped := true } }
      ((s.setReg .PWR_TEMP 0 0 94).reg .PWR_TEMP 0 0).extractLsb' 0 8 = 94 ∧ (s.setReg .PWR_TEMP 0 0 95).reg .PWR_TEMP 0 0 = 95) := by
  and_intros <;> decide +kernel

def pwr (doms targets : Tab Nat DomState) : State := { up with power := { doms := doms, targets := targets } }

theorem test_meets_PowerDomains_requests :
    -- OFF to the last domain that allows it, RET to a programme's and a stack's, ON
    (bitsOf (0x091 : W32) 7 0 = 145 ∧ bitsOf (0x091 : W32) 9 8 = 0 ∧ bitsOf (0x111 : W32) 7 0 = 17 ∧ bitsOf (0x111 : W32) 9 8 = 1 ∧
      bitsOf (0x193 : W32) 7 0 = 147 ∧ bitsOf (0x179 : W32) 7 0 = 121 ∧ bitsOf (0x292 : W32) 7 0 = 146 ∧ bitsOf (0x292 : W32) 9 8 = 2 ∧
      bitsOf (0x094 : W32) 7 0 = 148 ∧ bitsOf (0x393 : W32) 9 8 = 3) ∧
    (Tab.find? 145 (pwr [] [(145, .off)]).power.targets ≠ none ∧ Tab.find? 145 up.power.targets = none ∧ up.dom 145 = .on ∧
      (pwr [(145, .off)] []).dom 145 = .off ∧ (pwr [(147, .ret)] []).dom 147 = .ret ∧ (pwr [(17, .ret)] []).dom 17 = .ret) ∧
    (up.domIdle 145 = true ∧ (up.fset F.ETH_CFG_MODE 7 0 2).domIdle 145 = false ∧ up.domIdle 17 = true ∧
      ({ up with pgms := [(63, { st := .active })] } : State).domIdle 17 = false ∧
      ({ up with ledger := { holdings := [(.txq 7 0, { cur := [(52, 1)] })] } } : State).domIdle 147 = false ∧
      ({ up with mcs := [(15, { st := .init })] } : State).domIdle 147 = false ∧ up.domIdle 147 = true) := by
  and_intros <;> decide +kernel

theorem test_meets_PowerDomains_transitions :
    (Tab.find? 147 up.power.targets = none) ∧
    (let s := pwr [(145, .hold)] [(145, .off)]
     s.dom 145 = .hold ∧ Tab.find? 145 s.power.targets = some .off ∧ ∀ c, c < 32 → (s.dc c).run = none) ∧
    (let s := pwr [(2, .hold)] [(2, .ret)]
     s.dom 2 = .hold ∧ Tab.find? 2 s.power.targets = some .ret) ∧
    (let s := pwr [(2, .ret)] [(2, .off)]
     s.dom 2 = .ret ∧ Tab.find? 2 s.power.targets = some .off) ∧
    (let s := pwr [(146, .hold)] [(146, .ret)]
     s.dom 146 = .hold ∧ Tab.find? 146 s.power.targets = some .ret ∧ s.ledger.used 52 = 0 ∧ ∀ c, c < 32 → (s.dc c).run = none) ∧
    (let s := pwr [(147, .wake)] [(147, .on)]
     s.dom 147 = .wake ∧ Tab.find? 147 s.power.targets = some .on ∧ s.ledger.used 52 = 0) ∧
    (let s : State := { pwr [(2, .wake)] [(2, .on)] with banks := [(0, .wake)] }
     s.dom 2 = .wake ∧ Tab.find? 2 s.power.targets = some .on ∧ s.bank (2 - 2) = .wake) ∧
    (let s : State := { pwr [(145, .fill)] [(145, .on)] with banks := [(143, .fill)] }
     s.dom 145 = .fill ∧ Tab.find? 145 s.power.targets = some .on ∧ s.bank (145 - 2) = .fill ∧ Memory.wf s.mem ∧
      ∀ p, p < 96 → Tab.find? p s.mgr.lost = none) ∧
    (let s : State := { pwr [(121, .fill)] [(121, .on)] with banks := [(119, .fill)], mgr := { lost := [(95, 0)] } }
     s.dom 121 = .fill ∧ Tab.find? 121 s.power.targets = some .on ∧ s.bank (121 - 2) = .fill ∧ Tab.find? 95 s.mgr.lost ≠ none ∧
      ∀ q, q < 95 → Tab.find? q s.mgr.lost = none) := by
  and_intros <;> decide +kernel

theorem test_meets_StepRunsQueueFront :
    ({ up with pending := [.sysRst, .idcode] } : State).pending = .sysRst :: [.idcode] ∧ up.pending = [] := ⟨rfl, rfl⟩

theorem test_meets_PresentCommandsComplete : present (.nop 103 0 false) = true ∧ present (.nop 104 0 false) = false ∧
    present (.memoryRead 0 (2 ^ 48)) = false ∧ present .sysRst = true := by decide

theorem test_meets_GlidelDecodeOfEncode : Instr.wf (.add 103 7 true 31 31 31) = true ∧
    glidelRake (.add 103 7 true 31 31 31) = some 103 := by decide

/-- A step that writes a word. -/
theorem test_meets_MemoryStaysCanonical :
    let s : State := { up with pending := [.wholeWordWrite 0 32 1] }
    ∃ t, Memory.wf s.mem ∧ step s = .next t ∧ t.mem ≠ s.mem := by
  refine ⟨_, by decide, rfl, by decide +kernel⟩

end Sys2Proof.Tests
end

section
/-! SUPPORT. What the functions of the scalar instructions compute, as numbers and bits (tables ISA-5 to ISA-8). -/

namespace Sys2Proof.Proofs

open Sys2Proof.Machine Sys2Proof.Laws

/-! ### Arithmetic of words -/

theorem shiftLeft_eq_ofNat {w : Nat} (a : BitVec w) (n : Nat) : a <<< n = BitVec.ofNat w (a.toNat * 2 ^ n) := by
  apply BitVec.eq_of_toNat_eq
  simp only [BitVec.toNat_shiftLeft, Nat.shiftLeft_eq, BitVec.toNat_ofNat]

theorem ushiftRight_eq_ofNat {w : Nat} (a : BitVec w) (n : Nat) : a >>> n = BitVec.ofNat w (a.toNat / 2 ^ n) := by
  apply BitVec.eq_of_toNat_eq
  rw [BitVec.toNat_ushiftRight, Nat.shiftRight_eq_div_pow, BitVec.toNat_ofNat,
    Nat.mod_eq_of_lt (Nat.lt_of_le_of_lt (Nat.div_le_self _ _) a.isLt)]

theorem sshiftRight_eq_ofInt {w : Nat} (a : BitVec w) (n : Nat) : a.sshiftRight n = BitVec.ofInt w (a.toInt / 2 ^ n) := by
  rw [BitVec.sshiftRight, Int.shiftRight_eq_div_pow]
  norm_cast

theorem sub_eq_ofInt {w : Nat} (a b : BitVec w) : a - b = BitVec.ofInt w (a.toNat - b.toNat) := by
  rw [Int.sub_eq_add_neg, BitVec.ofInt_add, BitVec.ofInt_neg, BitVec.ofInt_natCast, BitVec.ofInt_natCast,
    BitVec.ofNat_toNat, BitVec.ofNat_toNat, BitVec.setWidth_eq, BitVec.setWidth_eq, BitVec.sub_eq_add_neg]

theorem mul_eq_ofNat {w : Nat} (a b : BitVec w) : a * b = BitVec.ofNat w (a.toNat * b.toNat) := by
  apply BitVec.eq_of_toNat_eq
  rw [BitVec.toNat_mul, BitVec.toNat_ofNat]

theorem add_signExtend_eq_ofInt {k w : Nat} (a : BitVec w) (b : BitVec k) :
    a + b.signExtend w = BitVec.ofInt w (a.toInt + b.toInt) := by
  rw [BitVec.ofInt_add, BitVec.ofInt_toInt, BitVec.signExtend]

theorem zeroExtend_eq_ofNat {k w : Nat} (b : BitVec k) : b.zeroExtend w = BitVec.ofNat w b.toNat := by
  rw [BitVec.ofNat_toNat, BitVec.zeroExtend]

theorem twoPow_eq_ofInt (w n : Nat) : BitVec.twoPow w n = BitVec.ofInt w (2 ^ n) := by
  have h : BitVec.twoPow w n = BitVec.ofNat w (2 ^ n) := BitVec.eq_of_toNat_eq (BitVec.toNat_twoPow w n)
  rw [h, ← BitVec.ofInt_natCast]
  norm_cast

theorem signExtend_shiftLeft_eq_ofInt {k w : Nat} (b : BitVec k) (n : Nat) :
    b.signExtend w <<< n = BitVec.ofInt w (b.toInt * 2 ^ n) := by
  rw [BitVec.ofInt_mul, BitVec.shiftLeft_eq_mul_twoPow, BitVec.signExtend, twoPow_eq_ofInt]

theorem zeroExtend_shiftLeft_eq_ofNat {k w : Nat} (b : BitVec k) (n : Nat) :
    b.zeroExtend w <<< n = BitVec.ofNat w (b.toNat * 2 ^ n) := by
  apply BitVec.eq_of_toNat_eq
  simp only [BitVec.truncate_eq_setWidth, BitVec.toNat_shiftLeft, BitVec.toNat_setWidth, Nat.shiftLeft_eq, Nat.mod_mul_mod,
    BitVec.toNat_ofNat]

/-! ### Minimum and maximum -/

theorem ofNat_toNat_self {w : Nat} (a : BitVec w) : BitVec.ofNat w a.toNat = a := by
  rw [BitVec.ofNat_toNat, BitVec.setWidth_eq]

/-- A choice between two words by a condition on their numbers, where g takes a number back to its word. -/
theorem ite_eq_of_number {α β : Type} {f : α → β} {g : β → α} (hg : ∀ x, g (f x) = x) {c : Prop} [Decidable c] {a b : α}
    {m : β} (hb : c → m = f b) (ha : ¬ c → m = f a) : (if c then b else a) = g m := by
  by_cases h : c
  · rw [if_pos h, hb h, hg]
  · rw [if_neg h, ha h, hg]

theorem sltW_iff (a b : W64) : sltW a b = true ↔ a.toInt < b.toInt := by rw [sltW, decide_eq_true_iff]

theorem ultW_iff (a b : W64) : ultW a b = true ↔ a.toNat < b.toNat := by rw [ultW, decide_eq_true_iff]

theorem ite_sltW_eq_min (a b : W64) : (if sltW b a then b else a) = BitVec.ofInt 64 (min a.toInt b.toInt) :=
  ite_eq_of_number (fun _ => BitVec.ofInt_toInt) (fun h => Int.min_eq_right (Int.le_of_lt ((sltW_iff b a).mp h)))
    fun h => Int.min_eq_left (Int.not_lt.mp fun hlt => h ((sltW_iff b a).mpr hlt))

theorem ite_sltW_eq_max (a b : W64) : (if sltW a b then b else a) = BitVec.ofInt 64 (max a.toInt b.toInt) :=
  ite_eq_of_number (fun _ => BitVec.ofInt_toInt) (fun h => Int.max_eq_right (Int.le_of_lt ((sltW_iff a b).mp h)))
    fun h => Int.max_eq_left (Int.not_lt.mp fun hlt => h ((sltW_iff a b).mpr hlt))

theorem ite_ultW_eq_min (a b : W64) : (if ultW b a then b else a) = BitVec.ofNat 64 (min a.toNat b.toNat) :=
  ite_eq_of_number ofNat_toNat_self (fun h => Nat.min_eq_right (Nat.le_of_lt ((ultW_iff b a).mp h)))
    fun h => Nat.min_eq_left (Nat.not_lt.mp fun hlt => h ((ultW_iff b a).mpr hlt))

theorem ite_ultW_eq_max (a b : W64) : (if ultW a b then b else a) = BitVec.ofNat 64 (max a.toNat b.toNat) :=
  ite_eq_of_number ofNat_toNat_self (fun h => Nat.max_eq_right (Nat.le_of_lt ((ultW_iff a b).mp h)))
    fun h => Nat.max_eq_left (Nat.not_lt.mp fun hlt => h ((ultW_iff a b).mpr hlt))

/-! ### Bit counts and byte order -/

/-- A word whose z highest bits are 0 and whose next bit, if there is one, is 1 has z leading zeros. -/
theorem clzW_eq (a : W64) (z : Nat) (hz : z ≤ 64) (h0 : ∀ i, i < 64 → 64 - z ≤ i → a.getLsbD i = false)
    (h1 : z < 64 → a.getLsbD (63 - z) = true) : clzW a = BitVec.ofNat 64 z := by
  have hlt : a.toNat < 2 ^ (64 - z) := by
    refine Nat.lt_pow_two_of_testBit _ fun i hi => ?_
    by_cases h : i < 64
    · exact h0 i h hi
    · exact BitVec.getLsbD_of_ge a i (Nat.not_lt.mp h)
  rw [clzW]
  by_cases ha : a = 0
  · have h64 : ¬ z < 64 := fun h => by
      have hone := h1 h
      rw [ha, show (0 : W64) = 0#64 from rfl, BitVec.getLsbD_zero] at hone
      exact Bool.false_ne_true hone
    rw [if_pos ha, show z = 64 by omega]
    rfl
  · have hn : a.toNat ≠ 0 := fun e => ha (BitVec.eq_of_toNat_eq e)
    have hz' : z < 64 := Nat.lt_of_not_le fun h => by
      rw [show 64 - z = 0 by omega, Nat.pow_zero] at hlt
      omega
    have hge : 2 ^ (63 - z) ≤ a.toNat := Nat.ge_two_pow_of_testBit (h1 hz')
    have hlog : a.toNat.log2 = 63 - z :=
      (Nat.log2_eq_iff hn).mpr ⟨hge, by rwa [show 63 - z + 1 = 64 - z by omega]⟩
    rw [if_neg ha, hlog, show 63 - (63 - z) = z by omega]

theorem sum_b2n_eq_countP {α : Type} (p : α → Bool) (l : List α) : (l.map fun x => b2n (p x)).sum = l.countP p := by
  induction l with
  | nil => rfl
  | cons x l ih => rw [List.map_cons, List.sum_cons, ih, List.countP_cons, b2n, Nat.add_comm]

/-- The 1 bits of a word, counted. -/
theorem popcW_eq (a : W64) : popcW a = BitVec.ofNat 64 ((List.range 64).countP fun i => a.getLsbD i) := by
  rw [popcW, sum_b2n_eq_countP]

/-- The bytes of a number, one by one. -/
theorem leBytes_eq_map (n v : Nat) : leBytes n v = (List.range n).map fun i => BitVec.ofNat 8 (v / 256 ^ i) := by
  induction n generalizing v with
  | zero => rfl
  | succ n ih =>
    rw [leBytes, ih, List.range_succ_eq_map, List.map_cons, List.map_map]
    simp only [Function.comp_def, Nat.div_div_eq_div_mul, Nat.pow_succ', Nat.pow_zero, Nat.div_one, Nat.succ_eq_add_one]

theorem leBytes_getElem {w : Nat} (a : BitVec w) (n i : Nat) (h : i < (leBytes n a.toNat).length) :
    (leBytes n a.toNat)[i] = a.extractLsb' (8 * i) 8 := by
  apply BitVec.eq_of_toNat_eq
  simp only [leBytes_eq_map, List.getElem_map, List.getElem_range, BitVec.toNat_ofNat, Nat.reducePow, BitVec.extractLsb'_toNat,
    Nat.shiftRight_eq_div_pow, Nat.pow_mul]

/-- A word whose bytes are those of another in the opposite order is that word byte-swapped. -/
theorem bswapW_eq (a v : W64) (h : ∀ i, i < 8 → v.extractLsb' (8 * i) 8 = a.extractLsb' (56 - 8 * i) 8) :
    bswapW a = v := by
  have hb : (leBytes 8 a.toNat).reverse = leBytes 8 v.toNat := by
    refine List.ext_getElem (by rw [List.length_reverse, leBytes_length, leBytes_length]) fun i hi hi' => ?_
    have h8 : i < 8 := by rwa [leBytes_length] at hi'
    rw [List.getElem_reverse, leBytes_getElem, leBytes_getElem, h i h8, leBytes_length]
    congr 1
    omega
  unfold bswapW
  rw [hb, leNat_leBytes, Nat.mod_eq_of_lt (show v.toNat < 256 ^ 8 from v.isLt), ofNat_toNat_self]

/-! ### Predicates -/

theorem sum_map_two_mul (f : Nat → Nat) (l : List Nat) : (l.map fun i => 2 * f i).sum = 2 * (l.map f).sum := by
  induction l with
  | nil => rfl
  | cons i l ih => rw [List.map_cons, List.map_cons, List.sum_cons, List.sum_cons, ih, Nat.mul_add]

/-- A number put together from powers of 2, its bit 0 apart. -/
theorem sum_two_pow_succ (f : Nat → Bool) (n : Nat) :
    ((List.range (n + 1)).map fun i => if f i then 2 ^ i else 0).sum =
      (f 0).toNat + 2 * ((List.range n).map fun i => if f (i + 1) then 2 ^ i else 0).sum := by
  have hdouble : ∀ i, (if f (i + 1) then 2 ^ (i + 1) else 0) = 2 * (if f (i + 1) then 2 ^ i else 0) := fun i => by
    split <;> omega
  have hbit : (if f 0 then 2 ^ 0 else 0) = (f 0).toNat := by cases f 0 <;> rfl
  rw [List.range_succ_eq_map, List.map_cons, List.sum_cons, List.map_map, hbit, ← sum_map_two_mul]
  simp only [Function.comp_def, Nat.succ_eq_add_one, hdouble]

/-- The bits of a number put together from powers of 2. -/
theorem testBit_sum_two_pow (f : Nat → Bool) (n j : Nat) :
    ((List.range n).map fun i => if f i then 2 ^ i else 0).sum.testBit j = (decide (j < n) && f j) := by
  induction n generalizing f j with
  | zero =>
    simp only [List.range_zero, List.map_nil, List.sum_nil, Nat.zero_testBit, Nat.not_lt_zero, decide_false, Bool.false_and]
  | succ n ih =>
    rw [sum_two_pow_succ]
    have hbit := Bool.toNat_lt (f 0)
    cases j with
    | zero =>
      rw [Nat.testBit_zero, Nat.add_mul_mod_self_left, Nat.mod_eq_of_lt hbit]
      cases f 0 <;> rfl
    | succ j =>
      rw [Nat.testBit_succ, Nat.add_mul_div_left _ _ (by decide : 0 < 2), Nat.div_eq_of_lt hbit, Nat.zero_add,
        ih fun i => f (i + 1)]
      simp only [Nat.add_lt_add_iff_right]

/-- A word whose low byte holds the predicates, p7 highest, is what PGET reads. -/
theorem predBits_eq (r : Rake) (v : W64)
    (h : ∀ i, i < 64 → v.getLsbD i = (decide (i < 8) && r.getP (BitVec.ofNat 3 i))) : BitVec.ofNat 64 r.predBits = v := by
  apply BitVec.eq_of_getLsbD_eq
  intro i hi
  rw [h i hi, BitVec.getLsbD_ofNat, Rake.predBits, testBit_sum_two_pow fun i => r.getP (BitVec.ofNat 3 i)]
  simp only [hi, decide_true, Bool.true_and]

theorem eq_ofNat_iff {w : Nat} (j : BitVec w) {n : Nat} (h : n < 2 ^ w) : j = BitVec.ofNat w n ↔ j.toNat = n := by
  rw [← BitVec.toNat_inj, BitVec.toNat_ofNat, Nat.mod_eq_of_lt h]

/-- A run of predicate writes, from p0 up: p0 takes none. -/
theorem getP_foldl_setP (r : Rake) (v : W64) (n : Nat) (hn : n ≤ 8) (j : BitVec 3) :
    ((List.range n).foldl (fun r i => r.setP (BitVec.ofNat 3 i) (v.getLsbD i)) r).getP j =
      if j.toNat < n ∧ j ≠ 0 then v.getLsbD j.toNat else r.getP j := by
  induction n with
  | zero => rw [List.range_zero, List.foldl_nil, if_neg fun c => Nat.not_lt_zero _ c.1]
  | succ n ih =>
    rw [List.range_succ, List.foldl_append, List.foldl_cons, List.foldl_nil, getP_setP, ih (by omega)]
    simp only [eq_ofNat_iff j (show n < 2 ^ 3 by omega)]
    by_cases hj : j.toNat = n
    · subst hj
      simp only [true_and, Nat.lt_irrefl, false_and, if_false, Nat.lt_add_one]
    · have : j.toNat < n + 1 ↔ j.toNat < n := by omega
      simp only [hj, false_and, if_false, this]

theorem getP_zero (r : Rake) : r.getP 0 = true := rfl

theorem getP_setPreds (r : Rake) (v : W64) (j : BitVec 3) :
    (r.setPreds v).getP j = if j = 0 then true else v.getLsbD j.toNat := by
  unfold Rake.setPreds
  rw [getP_foldl_setP r v 8 (Nat.le_refl 8) j]
  by_cases h : j = 0
  · rw [if_neg fun c => c.2 h, if_pos h, h, getP_zero]
  · rw [if_pos ⟨j.isLt, h⟩, if_neg h]

theorem setP_eq (r : Rake) (i : BitVec 3) (v : Bool) : r.setP i v = { r with p := (r.setP i v).p } := by
  unfold Rake.setP
  split <;> rfl

theorem setPreds_eq (r : Rake) (v : W64) : r.setPreds v = { r with p := (r.setPreds v).p } := by
  unfold Rake.setPreds
  generalize List.range 8 = l
  induction l generalizing r with
  | nil => rfl
  | cons i l ih => rw [List.foldl_cons, ih, setP_eq]

/-! ### Compares -/

theorem beq_eq_decide_eq (a b : W64) : (a == b) = decide (a = b) := by
  rw [Bool.eq_iff_iff, beq_iff_eq, decide_eq_true_iff]

theorem bne_eq_decide_ne (a b : W64) : (a != b) = decide (a ≠ b) := by
  rw [Bool.eq_iff_iff, bne_iff_ne, decide_eq_true_iff]

theorem not_sltW (a b : W64) : (!sltW a b) = decide (b.toInt ≤ a.toInt) := by
  rw [sltW, ← decide_not, decide_eq_decide, Int.not_lt]

theorem not_ultW (a b : W64) : (!ultW a b) = decide (b.toNat ≤ a.toNat) := by
  rw [ultW, ← decide_not, decide_eq_decide, Nat.not_lt]

theorem sltW_sext12 (a : W64) (imm : BitVec 12) : sltW a (sext12 imm) = decide (a.toInt < imm.toInt) := by
  rw [sltW, sext12, BitVec.toInt_signExtend_of_le (by decide)]

/-! ### Division (table ISA-8) -/

/-- The quotient truncated toward zero and its remainder are the only ones whose remainder is smaller than the divisor and has the
sign of the dividend. -/
theorem tdiv_tmod_eq {a b q r : Int} (hb : b ≠ 0) (h : a = q * b + r) (hr : r.natAbs < b.natAbs)
    (hs : r ≠ 0 → r.sign = a.sign) : a.tdiv b = q ∧ a.tmod b = r := by
  have hq : r + b * q = a := by rw [h, Int.mul_comm, Int.add_comm]
  rcases Int.le_total 0 a with ha | ha
  · have hr0 : 0 ≤ r := Int.not_lt.mp fun hneg => by
      have hsign := hs (Int.ne_of_lt hneg)
      rw [Int.sign_eq_neg_one_of_neg hneg] at hsign
      have := Int.sign_nonneg_iff.mpr ha
      omega
    exact (Int.tdiv_tmod_unique ha hb).mpr ⟨hq, hr0, by omega⟩
  · have hr0 : r ≤ 0 := Int.not_lt.mp fun hpos => by
      have hsign := hs (Int.ne_of_gt hpos)
      rw [Int.sign_eq_one_of_pos hpos] at hsign
      have := Int.sign_nonpos_iff.mpr ha
      omega
    exact (Int.tdiv_tmod_unique' ha hb).mpr ⟨hq, by omega, hr0⟩

theorem divsW_remsW_eq {a b : W64} {q r : Int} (hb : b ≠ 0) (h : a.toInt = q * b.toInt + r)
    (hr : r.natAbs < b.toInt.natAbs) (hs : r ≠ 0 → r.sign = a.toInt.sign) :
    divsW a b = BitVec.ofInt 64 q ∧ remsW a b = BitVec.ofInt 64 r := by
  have hb' : b.toInt ≠ 0 := fun e => hb (BitVec.eq_of_toInt_eq e)
  obtain ⟨hq, hm⟩ := tdiv_tmod_eq hb' h hr hs
  exact ⟨by rw [divsW, if_neg hb, hq], by rw [remsW, if_neg hb, hm]⟩

/-- Division of the most negative number by −1: the quotient wraps to itself, the remainder is 0. -/
theorem divsW_remsW_overflow {a b : W64} (ha : a.toInt = -2 ^ 63) (hb : b.toInt = -1) :
    divsW a b = BitVec.ofInt 64 (-2 ^ 63) ∧ remsW a b = 0 := by
  have hb' : b ≠ 0 := fun e => by rw [e] at hb; exact absurd hb (by decide)
  rw [divsW, remsW, if_neg hb', if_neg hb', ha, hb]
  decide

end Sys2Proof.Proofs
end

section
/-! SUPPORT. What an issued instruction that ends its task in a class P fault does (R81, R82, table TLY-3), said once. -/

namespace Sys2Proof.Proofs

open Sys2Proof.Machine Sys2Proof.Safety Sys2Proof.Laws

/-- An instruction with a legal encoding and a true guard runs its effect, and is counted. -/
theorem issue_of_issues {s : State} {rk : Nat} {pg : BitVec 3} {pn : Bool} (h : Issues s rk pg pn) (f : State → State) :
    s.issue rk pg pn true f = .next (s.issued (f s) rk true 0) := by
  obtain ⟨hrk, hissues, hok, hguard, -⟩ := h
  simp only [State.issue, State.need, hrk, decide_true, if_true, hissues, hok, Bool.and_self, Rake.guard, hguard]

/-! ### Slots -/

theorem slot_setSlot (s : State) (n m : Nat) (x : Slot) : (s.setSlot n x).slot m = if m = n then x else s.slot m := by
  unfold State.slot State.setSlot
  exact getD_set ..

theorem slot_freeSlot (s : State) (n m : Nat) : (s.freeSlot n).slot m = if m = n then {} else s.slot m := by
  unfold State.freeSlot
  rw [slot_setSlot]
  rfl

theorem slot_setFate (s : State) (x : Slot) (fate : FlowFate) (m : Nat) : (s.setFate x fate).slot m = s.slot m := by
  unfold State.setFate
  split <;> rfl

theorem slot_post (s : State) (src code : Nat) (items : List PItem) (m : Nat) :
    (s.post src code items).slot m = s.slot m := by
  rw [post_eq]
  rfl

theorem slot_taskFailed (s : State) (n cause m : Nat) :
    (s.taskFailed n cause).slot m = if m = n then {} else s.slot m := by
  unfold State.taskFailed
  simp only [slot_freeSlot, slot_setFate, slot_post]

/-! ### The end of a task -/

theorem sets_taskFailed {s t : State} {l : List FieldSet} (h : Sets s t l) (n cause : Nat) :
    Sets s (t.taskFailed n cause) l := by
  unfold State.taskFailed
  exact sets_after (sets_post h _ _ _) (by rw [freeSlot_regs, setFate_regs])

/-- A task in RUN that ends posts task-failed with the position it ran at. -/
theorem posts_taskFailed {s t : State} {l : List Ev} (h : Posts s t l) {n : Nat} (cause : Nat) (hrun : (t.slot n).st = .run) :
    Posts s (t.taskFailed n cause)
      (l ++ [⟨Src.tally, 0x0504, [.u 2 n, .u 1 cause, .u 1 (t.slot n).pos, .u 1 (t.slot n).replay]⟩]) := by
  unfold State.taskFailed
  simp only [hrun, if_true]
  refine posts_after (posts_post h _ _ _) ?_ ?_ (reg_congr ?_ _ _ _)
  · rw [freeSlot_events, setFate_events]
  · rw [freeSlot_time, setFate_time]
  · rw [freeSlot_regs, setFate_regs]

theorem twin_taskFailed (s : State) (n cause : Nat) :
    (s.taskFailed n cause).twin = { s.twin with fi := (s.taskFailed n cause).twin.fi } := by
  simp only [State.taskFailed, freeSlot_twin, setFate_twin]
  exact post_twin ..

/-! ### The record of a fault (R81) -/

/-- The fields that a rake's fault record takes. -/
def faultFields (s : State) (rk cause pc slot replay addr : Nat) : List FieldSet :=
  [⟨F.RK_FAULT_COUNT, rk, 0, min (s.fget F.RK_FAULT_COUNT rk 0 + 1) 0xFFFF⟩, ⟨F.RK_FAULT_NEW, rk, 0, 1⟩,
    ⟨F.RK_FAULT_CAUSE, rk, 0, cause⟩, ⟨F.RK_FAULT_PC_REPLAY, rk, 0, replay⟩, ⟨F.RK_FAULT_PC_SLOT, rk, 0, slot⟩,
    ⟨F.RK_FAULT_PC_PC, rk, 0, pc⟩, ⟨F.RK_FAULT_ADDR_LO_ADDR, rk, 0, addr % 2 ^ 32⟩,
    ⟨F.RK_FAULT_ADDR_HI_ADDR, rk, 0, addr / 2 ^ 32⟩]

theorem reg_fset_of_ne (s : State) {f : Fld} {r : Reg} (h : r ≠ f.reg) (i k v i' k' : Nat) :
    (s.fset f i k v).reg r i' k' = s.reg r i' k' := by
  rw [reg_fset, if_neg fun e => h e.1]

theorem recordFault_eq_post (s : State) (rk cause pc slot replay addr : Nat) :
    s.recordFault rk cause pc slot replay addr =
      ((faultFields s rk cause pc slot replay addr).foldl (fun u x => u.fset x.fld x.inst x.sub x.val) s).post
        (Src.rake rk) 0x0600 [.u 1 cause, .u 2 pc, .u 6 addr, .u 2 slot, .u 1 replay] := rfl

theorem sets_recordFault (s : State) (rk cause pc slot replay addr : Nat) :
    Sets s (s.recordFault rk cause pc slot replay addr) (faultFields s rk cause pc slot replay addr) := by
  rw [recordFault_eq_post]
  exact sets_post (fun _ _ _ _ => rfl) _ _ _

theorem posts_recordFault (s : State) (rk cause pc slot replay addr : Nat) :
    Posts s (s.recordFault rk cause pc slot replay addr)
      [⟨Src.rake rk, 0x0600, [.u 1 cause, .u 2 pc, .u 6 addr, .u 2 slot, .u 1 replay]⟩] := by
  rw [recordFault_eq_post]
  refine posts_post (l := []) (posts_nil ?_ ?_) _ _ _
  · simp only [faultFields, List.foldl_cons, List.foldl_nil, fset_events]
  · simp only [faultFields, List.foldl_cons, List.foldl_nil]
    repeat rw [reg_fset_of_ne _ (by decide)]

theorem twin_recordFault (s : State) (rk cause pc slot replay addr : Nat) :
    (s.recordFault rk cause pc slot replay addr).twin =
      { s.twin with fi := (s.recordFault rk cause pc slot replay addr).twin.fi } := post_twin ..

/-! ### The counted instruction -/

@[simp] theorem issued_regs (s0 s : State) (rk : Nat) (ran : Bool) (addr : Nat) :
    (s0.issued s rk ran addr).regs = s.regs := by rw [issued_eq]

@[simp] theorem issued_events (s0 s : State) (rk : Nat) (ran : Bool) (addr : Nat) :
    (s0.issued s rk ran addr).events = s.events := by rw [issued_eq]

@[simp] theorem issued_time (s0 s : State) (rk : Nat) (ran : Bool) (addr : Nat) :
    (s0.issued s rk ran addr).time = s.time := by rw [issued_eq]

theorem slot_issued (s0 s : State) (rk : Nat) (ran : Bool) (addr n : Nat) :
    (s0.issued s rk ran addr).slot n = s.slot n := by
  rw [issued_eq]
  rfl

theorem slot_setRake (s : State) (rk : Nat) (r : Rake) (n : Nat) : (s.setRake rk r).slot n = s.slot n := rfl

/-! ### What a fault leaves alone -/

/-- `t` is `s` but for the rakes, the tally and what a posted event changes. -/
def FaultFrame (s t : State) : Prop := t = { Around s t with rakes := t.rakes, tally := t.tally }

theorem FaultFrame.trans {s t u : State} (h : FaultFrame s t) (h' : FaultFrame t u) : FaultFrame s u := by
  unfold FaultFrame at *
  refine h'.trans ?_
  rw [h]
  rfl

theorem faultFrame_recordFault (s : State) (rk cause pc slot replay addr : Nat) :
    FaultFrame s (s.recordFault rk cause pc slot replay addr) := by
  unfold FaultFrame
  rw [recordFault_eq, twin_recordFault]
  rfl

theorem faultFrame_taskFailed (s : State) (n cause : Nat) : FaultFrame s (s.taskFailed n cause) := by
  unfold FaultFrame
  rw [taskFailed_eq, twin_taskFailed]
  rfl

theorem faultFrame_pmuAdd (s : State) (set ev : Nat) (insts : List Nat) (n pc : Nat) :
    FaultFrame s (s.pmuAdd set ev insts n pc) := by
  unfold FaultFrame
  rw [pmuAdd_eq]
  rfl

theorem faultFrame_setRake (s : State) (rk : Nat) (r : Rake) : FaultFrame s (s.setRake rk r) := rfl

theorem faultFrame_issued (s0 s : State) (rk : Nat) (ran : Bool) (addr : Nat) :
    FaultFrame s (s0.issued s rk ran addr) := by
  unfold FaultFrame
  rw [issued_eq]
  rfl

/-! ### A class P fault of a task -/

/-- The state once a class P fault of task c is recorded and counted and the task has ended; the rake is not free yet. -/
def afterTaskFault (s : State) (rk cause pc addr : Nat) (c : TaskCtx) : State :=
  ((s.recordFault rk cause pc c.slot c.replay addr).pmuAdd rk 0x00A [] 1 pc).taskFailed c.slot cause

/-- A rake that is free for its next task. -/
def freedRake (r : Rake) : Rake :=
  { r with st := .idle, task := none, outbox := [], devLoad := none, storeErr := none, posted := [], ending := false }

theorem rakeFree_of_noDrain {s : State} {rk : Nat} (h : (s.rake rk).drainTo = none) :
    s.rakeFree rk = s.setRake rk (freedRake (s.rake rk)) := by
  simp only [State.rakeFree, freedRake, h]

section
variable (s : State) (rk cause pc addr : Nat) (c : TaskCtx)

theorem rake_afterTaskFault (n : Nat) : (afterTaskFault s rk cause pc addr c).rake n = s.rake n := by
  simp only [afterTaskFault, State.rake, taskFailed_rakes, pmuAdd_rakes, recordFault_rakes]

theorem slot_recordFault_pmuAdd (n : Nat) :
    ((s.recordFault rk cause pc c.slot c.replay addr).pmuAdd rk 0x00A [] 1 pc).slot n = s.slot n := by
  simp only [State.slot, pmuAdd_tally, recordFault_tally]

theorem slot_afterTaskFault (n : Nat) :
    (afterTaskFault s rk cause pc addr c).slot n = if n = c.slot then {} else s.slot n := by
  rw [afterTaskFault, slot_taskFailed, slot_recordFault_pmuAdd]

theorem faultFrame_afterTaskFault : FaultFrame s (afterTaskFault s rk cause pc addr c) :=
  ((faultFrame_recordFault ..).trans (faultFrame_pmuAdd ..)).trans (faultFrame_taskFailed ..)

theorem sets_afterTaskFault :
    Sets s (afterTaskFault s rk cause pc addr c) (faultFields s rk cause pc c.slot c.replay addr) :=
  sets_taskFailed (sets_after (sets_recordFault s rk cause pc c.slot c.replay addr) (pmuAdd_regs _ _ _ _ _ _)) _ _

theorem posts_afterTaskFault (hrun : (s.slot c.slot).st = .run) :
    Posts s (afterTaskFault s rk cause pc addr c)
      [⟨Src.rake rk, 0x0600, [.u 1 cause, .u 2 pc, .u 6 addr, .u 2 c.slot, .u 1 c.replay]⟩,
        ⟨Src.tally, 0x0504, [.u 2 c.slot, .u 1 cause, .u 1 (s.slot c.slot).pos, .u 1 (s.slot c.slot).replay]⟩] := by
  have hrecord := posts_after (posts_recordFault s rk cause pc c.slot c.replay addr)
    (pmuAdd_events _ rk 0x00A [] 1 pc) (pmuAdd_time _ _ _ _ _ _) (reg_pmuAdd _ _ _ _ _ _ _ _ _)
  have hslot := slot_recordFault_pmuAdd s rk cause pc addr c c.slot
  have hfailed := posts_taskFailed hrecord cause (n := c.slot) (by rw [hslot]; exact hrun)
  rwa [hslot] at hfailed

end

theorem rakeFault_classP {s : State} {rk cause pc addr : Nat} {c : TaskCtx} (hcause : cause < 0x20)
    (htask : (s.rake rk).task = some c) (hdrain : (s.rake rk).drainTo = none) :
    s.rakeFault rk cause pc addr = (afterTaskFault s rk cause pc addr c).setRake rk (freedRake (s.rake rk)) := by
  have hrake := rake_afterTaskFault s rk cause pc addr c rk
  have hfree := rakeFree_of_noDrain (hrake.symm ▸ hdrain)
  rw [hrake] at hfree
  rw [← hfree]
  simp only [State.rakeFault, htask, State.taskFault, hcause, Nat.not_le.mpr hcause, if_true, if_false, Option.isSome_some]
  rfl

/-- An instruction whose whole effect is a class P fault raises it as R81 and table TLY-3 say. -/
theorem faultsP_of_rakeFault {i : Instr} {s : State} {rk cause pc addr : Nat} (hcause : cause < 0x20)
    (he : exec i s = .next (s.issued (s.rakeFault rk cause pc addr) rk true 0)) : FaultsP i s rk cause pc addr [] := by
  intro c htask hdrain hrun
  rw [rakeFault_classP hcause htask hdrain] at he
  refine ⟨_, he, ?frame, fun n hn => ?otherRakes, ?rake, ?slot, fun n hn => ?otherSlots, ?fields, ?events⟩
  case frame => exact ((faultFrame_afterTaskFault ..).trans (faultFrame_setRake ..)).trans (faultFrame_issued ..)
  case otherRakes => rw [issued_rake, rake_setRake_ne _ hn, rake_afterTaskFault]
  case rake =>
    rw [issued_rake, rake_setRake_same]
    rfl
  case slot => rw [slot_issued, slot_setRake, slot_afterTaskFault, if_pos rfl]
  case otherSlots => rw [slot_issued, slot_setRake, slot_afterTaskFault, if_neg hn]
  case fields => exact sets_after (sets_afterTaskFault s rk cause pc addr c) (by rw [issued_regs, setRake_regs])
  case events =>
    exact posts_after (posts_afterTaskFault s rk cause pc addr c hrun) (by rw [issued_events, setRake_events])
      (by rw [issued_time, setRake_time]) (reg_congr (by rw [issued_regs, setRake_regs]) _ _ _)

end Sys2Proof.Proofs
end

section
/-! The scalar instructions (R59 to R63). -/

namespace Sys2Proof.Proofs

open Sys2Proof.Machine Sys2Proof.Safety Sys2Proof.Laws

theorem notZeroWord_of_ne {pg : BitVec 3} {rd ra rb : BitVec 5} (h : (pg, rd, ra, rb) ≠ (0, 0, 0, 0)) :
    notZeroWord pg rd ra rb = true := by
  rw [notZeroWord, Bool.not_eq_true', Bool.eq_false_iff]
  exact fun e => h (by simpa only [Prod.mk.injEq, Bool.and_eq_true, beq_iff_eq, and_assoc] using e)

/-- Settles O1: each instruction is the write of one register, whose value a lemma on words gives. -/
theorem scalarResults : Obligations.ScalarResults := by
  refine ⟨fun s rk pg pn rd ra rb h => ?_, fun s rk pg pn rd ra h => ?_⟩
  · refine ⟨fun hne => ?add, ?sub, ?and, ?or, ?xor, ?andn, ?sll, ?srl, ?sra, ?min, ?max, ?minu, ?maxu,
      fun z hz hone => ?clz, ?popc, fun v hv => ?bswap⟩
    case add => exact issueG_spec h (notZeroWord_of_ne hne) rfl (BitVec.add_def _ _)
    case sub => exact issueG_spec h rfl rfl (sub_eq_ofInt _ _)
    case and => exact issueG_spec h rfl rfl rfl
    case or => exact issueG_spec h rfl rfl rfl
    case xor => exact issueG_spec h rfl rfl rfl
    case andn => exact issueG_spec h rfl rfl rfl
    case sll => exact issueG_spec h rfl rfl (shiftLeft_eq_ofNat _ _)
    case srl => exact issueG_spec h rfl rfl (ushiftRight_eq_ofNat _ _)
    case sra => exact issueG_spec h rfl rfl (sshiftRight_eq_ofInt _ _)
    case min => exact issueG_spec h rfl rfl (ite_sltW_eq_min _ _)
    case max => exact issueG_spec h rfl rfl (ite_sltW_eq_max _ _)
    case minu => exact issueG_spec h rfl rfl (ite_ultW_eq_min _ _)
    case maxu => exact issueG_spec h rfl rfl (ite_ultW_eq_max _ _)
    case clz => exact issueG_spec h rfl rfl (clzW_eq _ z hz.1 hz.2 hone)
    case popc => exact issueG_spec h rfl rfl (popcW_eq _)
    case bswap => exact issueG_spec h rfl rfl (bswapW_eq _ v hv)
  · refine ⟨fun imm => ⟨?addi, ?andi, ?ori, ?xori⟩, fun sh => ⟨?slli, ?srli, ?srai⟩, fun sh imm => ⟨?imh, ?orh⟩⟩
    case addi => exact issueG_spec h rfl rfl (add_signExtend_eq_ofInt _ _)
    case andi => exact issueG_spec h rfl rfl (congrArg _ (zeroExtend_eq_ofNat _))
    case ori => exact issueG_spec h rfl rfl (congrArg _ (zeroExtend_eq_ofNat _))
    case xori => exact issueG_spec h rfl rfl (congrArg _ (zeroExtend_eq_ofNat _))
    case slli => exact issueG_spec h rfl rfl (shiftLeft_eq_ofNat _ _)
    case srli => exact issueG_spec h rfl rfl (ushiftRight_eq_ofNat _ _)
    case srai => exact issueG_spec h rfl rfl (sshiftRight_eq_ofInt _ _)
    case imh => exact issueG_spec h rfl rfl (signExtend_shiftLeft_eq_ofInt _ _)
    case orh => exact issueG_spec h rfl rfl (congrArg _ (zeroExtend_shiftLeft_eq_ofNat _ _))

/-- PSET writes the seven predicates that can be written, and goes on. -/
theorem pset_spec {s : State} {rk : Nat} {pg : BitVec 3} {pn : Bool} (h : Issues s rk pg pn) (ra : BitVec 5) :
    Completes (exec (.pset rk pg pn ra) s) fun t => RakeOnly rk s t ∧
      t.rake rk = { s.rake rk with p := (t.rake rk).p, pc := (s.rake rk).pc + 4 } ∧
      ∀ j : BitVec 3, (t.rake rk).getP j = if j = 0 then true else ((s.rake rk).getG ra).getLsbD j.toNat := by
  obtain ⟨t, he, honly, hrake⟩ := compute_spec s rk pg pn true (fun r => r.setPreds (r.getG ra)) h rfl (by rw [setPreds_eq])
  refine ⟨t, he, honly, ?_, fun j => ?_⟩
  · rw [hrake, setPreds_eq]
  · rw [hrake, ← getP_setPreds]
    rfl

/-- Settles O2: each instruction is the write of one predicate or register, whose value a lemma on words gives; PSET is a run of
predicate writes. -/
theorem predicateMultiplyDivideResults : Obligations.PredicateMultiplyDivideResults := by
  refine ⟨fun s rk pg pn h => ⟨fun pd ra rb => ?compares, fun pd ra imm => ?immediates, fun pd pa pb => ?logic,
    fun rd v hv => ?pget, fun ra => pset_spec h ra⟩, fun s rk pg pn rd ra rb h =>
    ⟨?mul, ?mulhu, ?mulhs, fun hb => ?byZero, fun hb => ?nonZero, fun ha hb => ?overflow⟩⟩
  case compares =>
    exact ⟨issueP_spec h rfl (beq_eq_decide_eq _ _), issueP_spec h rfl (bne_eq_decide_ne _ _), issueP_spec h rfl rfl,
      issueP_spec h rfl (not_sltW _ _), issueP_spec h rfl rfl, issueP_spec h rfl (not_ultW _ _)⟩
  case immediates =>
    exact ⟨issueP_spec h rfl (beq_eq_decide_eq _ _), issueP_spec h rfl (sltW_sext12 _ _), issueP_spec h rfl rfl⟩
  case logic => exact ⟨issueP_spec h rfl rfl, issueP_spec h rfl rfl, issueP_spec h rfl rfl, issueP_spec h rfl rfl⟩
  case pget => exact issueG_spec h rfl rfl (predBits_eq _ v hv)
  case mul => exact issueG_spec h rfl rfl (mul_eq_ofNat _ _)
  case mulhu => exact issueG_spec h rfl rfl rfl
  case mulhs => exact issueG_spec h rfl rfl rfl
  case byZero =>
    exact ⟨issueG_spec h rfl rfl (if_pos hb), issueG_spec h rfl rfl (if_pos hb), issueG_spec h rfl rfl (if_pos hb),
      issueG_spec h rfl rfl (if_pos hb)⟩
  case nonZero =>
    refine ⟨issueG_spec h rfl rfl (if_neg hb), issueG_spec h rfl rfl (if_neg hb), fun q r hqr hlt hsign => ?_⟩
    obtain ⟨hq, hr⟩ := divsW_remsW_eq hb hqr hlt hsign
    exact ⟨issueG_spec h rfl rfl hq, issueG_spec h rfl rfl hr⟩
  case overflow =>
    obtain ⟨hq, hr⟩ := divsW_remsW_overflow ha hb
    exact ⟨issueG_spec h rfl rfl hq, issueG_spec h rfl rfl hr⟩

end Sys2Proof.Proofs
end

section
/-! The outbox instructions (R71 to R73). -/

namespace Sys2Proof.Proofs

open Sys2Proof.Machine Sys2Proof.Safety Sys2Proof.Laws

/-- An instruction that adds entry e to the outbox where its operands pass the check `ok` and the outbox has room, and otherwise
raises the fault of the first that fails. -/
def AddsEntry (i : Instr) (s : State) (rk : Nat) (ok : Prop) (e : OutEntry) : Prop :=
  (ok → (s.rake rk).outbox.length < 48 →
    Completes (exec i s) fun t => RakeOnly rk s t ∧
      t.rake rk = { s.rake rk with outbox := (s.rake rk).outbox ++ [e], pc := (s.rake rk).pc + 4 }) ∧
  (¬ ok → FaultsP i s rk 0x08 (s.rake rk).pc 0 []) ∧
  (ok → 48 ≤ (s.rake rk).outbox.length → FaultsP i s rk 0x09 (s.rake rk).pc 0 [])

theorem addEntry_checked (s : State) (rk : Nat) (e : OutEntry) (h : (s.rake rk).outbox.length < 48) :
    s.addEntry rk true e = s.compute rk fun r => { r with outbox := r.outbox ++ [e] } := by
  simp only [State.addEntry, Bool.not_true, Bool.false_eq_true, if_false, Nat.not_le.mpr h]
  rfl

theorem addEntry_full (s : State) (rk : Nat) (e : OutEntry) (h : 48 ≤ (s.rake rk).outbox.length) :
    s.addEntry rk true e = s.rakeFault rk 0x09 (s.rake rk).pc 0 := by
  simp only [State.addEntry, Bool.not_true, Bool.false_eq_true, if_false, h, if_true]

theorem addEntry_refused (s : State) (rk : Nat) (e : OutEntry) :
    s.addEntry rk false e = s.rakeFault rk 0x08 (s.rake rk).pc 0 := rfl

/-- What an outbox instruction does: `arm` is its meaning, `check` the model's check of its operands, `ok` the spec's. -/
theorem addsEntry_of_issues {i : Instr} {s : State} {rk : Nat} {pg : BitVec 3} {pn check : Bool} {e : OutEntry} {ok : Prop}
    {f : State → State} (arm : State → Res) (h : Issues s rk pg pn) (harm : exec i s = arm s)
    (hissue : arm s = s.issue rk pg pn true f) (hf : f s = s.addEntry rk check e) (hok : check = true ↔ ok) :
    AddsEntry i s rk ok e := by
  have he : exec i s = .next (s.issued (s.addEntry rk check e) rk true 0) := by rw [harm, hissue, issue_of_issues h, hf]
  refine ⟨fun hp hroom => ?_, fun hp => ?_, fun hp hfull => ?_⟩
  · obtain ⟨t, hcompute, hspec⟩ := compute_spec s rk pg pn true (fun r => { r with outbox := r.outbox ++ [e] }) h rfl rfl
    refine ⟨t, ?_, hspec⟩
    rw [he, hok.mpr hp, addEntry_checked s rk e hroom, ← hcompute, issue_of_issues h]
  · have hc : check = false := Bool.eq_false_iff.mpr fun c => hp (hok.mp c)
    exact faultsP_of_rakeFault (by decide) (by rw [he, hc, addEntry_refused])
  · exact faultsP_of_rakeFault (by decide) (by rw [he, hok.mpr hp, addEntry_full s rk e hfull])

/-! ### The checks of the operands -/

theorem tokenDestOk_iff (a : W64) :
    tokenDestOk a = true ↔ bitsOf a 16 14 ≤ 3 ∧ bitsOf a 23 17 = 0 ∧ bitsOf a 63 32 = 0 := by
  rw [tokenDestOk, decide_eq_true_iff]

theorem cancelOk_iff (a : W64) : cancelOk a = true ↔ bitsOf a 23 14 = 0 ∧ bitsOf a 63 32 = 0 := by
  rw [cancelOk, decide_eq_true_iff]

theorem delayOk_and_delayDestOk_iff (d a : W64) : (delayOk d && delayDestOk a) = true ↔
    bitsOf d 19 0 ≠ 0 ∧ bitsOf d 63 22 = 0 ∧ bitsOf a 16 14 ≤ 4 ∧ bitsOf a 23 17 = 0 ∧ bitsOf a 63 32 = 0 := by
  rw [Bool.and_eq_true, delayOk, delayDestOk, decide_eq_true_iff, decide_eq_true_iff, and_assoc]

theorem descOk_iff (b : W64) :
    descOk b = true ↔ bitsOf b 30 28 ≤ 4 ∧ b.getLsbD 55 = false ∧ (b.getLsbD 36 = true → bitsOf b 43 37 ≤ 95) := by
  simp only [descOk, Bool.and_eq_true, Bool.not_eq_true', Bool.and_eq_false_imp, decide_eq_true_iff, decide_eq_false_iff_not,
    Nat.not_lt, and_assoc]
  rfl

theorem armOk_iff (a b : W64) : (armTargetOk a && descOk b) = true ↔
    bitsOf a 63 14 = 0 ∧ bitsOf b 30 28 ≤ 4 ∧ b.getLsbD 55 = false ∧ (b.getLsbD 36 = true → bitsOf b 43 37 ≤ 95) := by
  rw [Bool.and_eq_true, armTargetOk, decide_eq_true_iff, descOk_iff]

theorem taskFlow_eq_iff (r : Rake) (f : Nat) :
    (r.taskFlow == some f) = true ↔ ∃ c, r.task = some c ∧ c.attr.getLsbD 2 = true ∧ f = bitsOf c.flow 9 0 := by
  rw [beq_iff_eq, Rake.taskFlow]
  cases r.task with
  | none => simp only [reduceCtorEq, false_and, exists_false]
  | some c =>
    change (if c.attr.getLsbD 2 = true then some (bitsOf c.flow 9 0) else none) = some f ↔ _
    simp only [Option.ite_none_right_eq_some, Option.some.injEq, exists_eq_left', eq_comm (a := f)]

theorem eventCodeOk_iff (a : W64) : decide (0xC000 ≤ (a.extractLsb' 0 16).toNat) = true ↔ 0xC000 ≤ bitsOf a 15 0 := by
  rw [decide_eq_true_iff, bitsOf_eq]

theorem pcmdTargetOk_iff (a : W64) : pcmdTargetOk a = true ↔
    bitsOf a 63 16 = 0 ∧ queueOk (bitsOf a 12 8) (bitsOf a 7 0) (bitsOf a 15 13) = true := by
  rw [pcmdTargetOk, Bool.and_eq_true, decide_eq_true_iff]

/-- Settles O10: each instruction adds its entry after the check that its lemma gives. -/
theorem outboxInstructions : Obligations.OutboxInstructions := by
  intro s rk pg pn rd ra rb wb h
  refine ⟨?tsend, ?tdelay, ?tcancel, ?tarm, ?frel, ?evpost, ?pcmd⟩
  case tsend => exact addsEntry_of_issues (execTsend rk pg pn ra rb) h rfl rfl rfl (tokenDestOk_iff _)
  case tdelay => exact addsEntry_of_issues (execTdelay rk pg pn rd ra rb) h rfl rfl rfl (delayOk_and_delayDestOk_iff _ _)
  case tcancel => exact addsEntry_of_issues (execTcancel rk pg pn ra) h rfl rfl rfl (cancelOk_iff _)
  case tarm => exact addsEntry_of_issues (execTarm rk pg pn ra rb) h rfl rfl rfl (armOk_iff _ _)
  case frel => exact addsEntry_of_issues (execFrel rk pg pn ra rb) h rfl rfl rfl (taskFlow_eq_iff _ _)
  case evpost => exact addsEntry_of_issues (execEvpost rk pg pn ra wb) h rfl rfl rfl (eventCodeOk_iff _)
  case pcmd => exact addsEntry_of_issues (execPcmd rk pg pn ra wb) h rfl rfl rfl (pcmdTargetOk_iff _)

end Sys2Proof.Proofs
end
